-- ==== Sys2Proof/Word.lean ====
section
/-!
DEFINITION. The word types of the Vexelo V1 (spec 00 R4, 03 R39): bytes, 32-bit words, 64-bit scalar words, ranks, tile rows.
-/
namespace Sys2Proof

/-- One byte. -/
abbrev Byte := BitVec 8
/-- One bank word, HBM copy word or rank lane (32 bits). -/
abbrev Word := BitVec 32
/-- One scalar register or bundle syllable (64 bits). -/
abbrev DWord := BitVec 64
/-- A rank: 16 lanes of 32 bits, lane 0 lowest (R39). -/
abbrev Rank := BitVec 512
/-- A tile row of 128 bytes, or one row of 32 accumulator cells. -/
abbrev TileRow := BitVec 1024

end Sys2Proof
end

