-- ==== Sys2Proof/Syntax.lean ====
section
/-!
DEFINITION. The instructions: one constructor per row of the opcode table. Syllables carry the fields of their format
(R98, R102, R104, R106); the other steps carry what the outside party or the running step says.
-/
namespace Sys2Proof

/-- SR format (R98). -/
structure SR where
  xd : BitVec 5
  xa : BitVec 5
  xb : BitVec 5
  xc : BitVec 5
  deriving DecidableEq, Repr

/-- SI format (R98). -/
structure SI where
  xd : BitVec 5
  xa : BitVec 5
  imm : BitVec 45
  deriving DecidableEq, Repr

/-- SB format (R98). -/
structure SB where
  xa : BitVec 5
  xb : BitVec 5
  off : BitVec 45
  deriving DecidableEq, Repr

/-- SL format (R98). -/
structure SL where
  level : BitVec 3
  xa : BitVec 5
  cnt : BitVec 16
  endOff : BitVec 31
  deriving DecidableEq, Repr

/-- SC format (R98). -/
structure SC where
  xd : BitVec 5
  xa : BitVec 5
  csr : BitVec 12
  imm : BitVec 33
  deriving DecidableEq, Repr

/-- V format (R102). -/
structure VF where
  dst : BitVec 7
  a : BitVec 7
  b : BitVec 7
  c : BitVec 7
  pk : BitVec 3
  ty : BitVec 4
  fs : BitVec 4
  mask : BitVec 3
  rm : BitVec 3
  keep : BitVec 2
  imm : BitVec 8
  deriving DecidableEq, Repr

/-- M format (R104). -/
structure MF where
  dst : BitVec 7
  a : BitVec 7
  b : BitVec 7
  acc : BitVec 7
  pka : BitVec 1
  ty : BitVec 4
  fs : BitVec 4
  rows : BitVec 5
  row0 : BitVec 5
  keep : BitVec 2
  imm : BitVec 6
  deriving DecidableEq, Repr

/-- CB format (R106). -/
structure CB where
  spec : BitVec 7
  it : BitVec 4
  skew : BitVec 3
  bmask : BitVec 16
  spec2 : BitVec 7
  rop : BitVec 3
  loff : BitVec 11
  keep : BitVec 2
  deriving DecidableEq, Repr

/-- CF format (R106). -/
structure CF where
  spec : BitVec 7
  it : BitVec 4
  skew : BitVec 3
  bmask : BitVec 16
  h : BitVec 4
  shape : BitVec 6
  chan : BitVec 5
  aop : BitVec 6
  keep : BitVec 2
  deriving DecidableEq, Repr

/-- CX format (R106). -/
structure CX where
  spec : BitVec 7
  it : BitVec 4
  plan : BitVec 6
  words : BitVec 8
  keep : BitVec 2
  deriving DecidableEq, Repr

/-- An RT or WT syllable (R107): it has no mnemonic of its own. -/
structure Trel where
  mode : BitVec 2
  zi : BitVec 2
  sw : BitVec 56
  deriving DecidableEq, Repr

/-- A sync word: in the sync area of a die, or a launch sync word of the package (R285). -/
inductive SyncRef
  | die (cid d n : Nat)
  | launch (n : Nat)
  deriving DecidableEq, Repr

/-- A packet of the optical ports (R319): header fields and payload. -/
structure Packet where
  src : Nat
  dst : Nat
  seq : Nat
  vint : Nat
  kind : Nat
  daddr : Nat
  cid : Nat
  sync : Nat
  tag : Nat
  payload : List Byte
  deriving DecidableEq, Repr

/-- An identity flit (R321). `present` is false when none came in the guard interval. -/
structure IdFlit where
  present : Bool
  src : Nat
  pid : Nat
  vint : Nat
  authentic : Bool
  deriving DecidableEq, Repr

/-- One SLOTi register (R320). -/
structure SlotReg where
  peer : Nat
  pport : Nat
  v : Bool
  pid : Nat
  deriving DecidableEq, Repr

/-- A port schedule (R320, R325): the fields of PCFG but EN, PHASE, the slots, and the vintage it belongs to with its packages. -/
structure PortSchedule where
  nslot : Nat
  slotLen : Nat
  guard : Nat
  start : Nat
  slots : List SlotReg
  vint : Nat
  members : List Nat
  deriving DecidableEq, Repr

/-- Where the steward puts one unit of a slice (R248): a spill-map entry. -/
structure ParkMove where
  slice : Nat
  unit : Nat
  entry : BitVec 64
  deriving DecidableEq, Repr

/-- What the steward chooses at the admission of a launch (R247, R268, R292): the context number, its address-space
number and page-table root, its save area, and where the storage of parked contexts that it claims is written out. -/
structure Admit where
  cid : Nat
  asn : Nat
  ptbase : Nat
  save : Nat
  moves : List ParkMove
  deriving DecidableEq, Repr

/-- Addresses the steward allocates when it creates a partition (R255, R300, R376, R379), and its energy policy (R383). -/
structure PartMake where
  queueArea : Nat
  faultQueue : Nat
  traceRing : Nat
  traceLen : Nat
  replayLog : Nat
  replayLen : Nat
  ptbase : Nat
  rate : Nat
  cap : Nat
  deriving DecidableEq, Repr

/-- Host policy at bring-up (R393, R439). -/
structure BootPolicy where
  firmware : List Byte
  signature : List Byte
  pkg : Nat
  ports : List (Nat × PortSchedule × Bool)
  vint : Nat
  parts : List (Nat × Nat × PartMake)
  measure : List (BitVec 256)
  measureImages : Bool
  deriving DecidableEq, Repr

/-- A place that the debugger may write (R375). -/
inductive DbgTarget
  | x (die n : Nat)
  | csr (die n : Nat)
  | smem (die addr : Nat)
  | bank (slice bank line : Nat)
  | q (slice n i : Nat)
  | k (slice n : Nat)
  | m (slice n : Nat)
  | t (slice n row : Nat)
  | a (slice n plane row : Nat)
  | d (slice n : Nat)
  | z (slice n : Nat)
  | tw (slice : Nat)
  | tp (slice : Nat)
  | int (slice n : Nat)
  | hbm (pa : Nat)
  | dbp (die n : Nat)
  deriving DecidableEq, Repr

/-- The instructions of the Vexelo V1: one constructor per row of the opcode table. -/
inductive Instr
  /-- Die `d` of the partition whose lowest die is `p` issues the bundle at its next address (R20, R94). -/
  | bundleIssue (p d : Nat)
  /-- Die `d` issues a header-only bundle (R88). -/
  | delayBundle (p d : Nat)
  /-- The partition crosses a cycle boundary (R18). The phase stands in the running context. -/
  | cycleBoundary (p : Nat)
  /-- The pending write with this number performs (R29). -/
  | owedWritePerforms (id : Nat)
  /-- The M syllable (opcode `op`) latched by a FILLM executes in its slice (R200). -/
  | fillmLatchExecute (m : MF) (op : Nat)
  /-- A word arrives at the delivery port of a slice (R313). -/
  | outerTrellisArrival (plan : Nat) (w : Word) (poisoned : Bool)
  /-- A HATOM performs at its home, or is parked there (R202, R240). -/
  | hatomHomeOperation (id : Nat)
  /-- The parking notice of a HATOM withdraws its pending fetch (R29, R240). -/
  | hatomParkNotice (cid tag : Nat)
  /-- The home replays a parked HATOM; `old` holds the values, by pair, that a remote home returns (R307), `bad` an uncorrectable home word (R369). -/
  | hatomReplay (home tag : Nat) (old : List Word) (bad : Bool)
  /-- The fetched value of a replayed HATOM lands (R240). -/
  | hatomFetchLanding (cid tag : Nat)
  | snop (f : SR)
  | add (f : SR)
  | sub (f : SR)
  | mul (f : SR)
  | mulhs (f : SR)
  | mulhu (f : SR)
  | divs (f : SR)
  | divu (f : SR)
  | rems (f : SR)
  | remu (f : SR)
  | and (f : SR)
  | or (f : SR)
  | xor (f : SR)
  | andn (f : SR)
  | shl (f : SR)
  | shrl (f : SR)
  | shra (f : SR)
  | rotr (f : SR)
  | min (f : SR)
  | max (f : SR)
  | minu (f : SR)
  | maxu (f : SR)
  | slt (f : SR)
  | sltu (f : SR)
  | seq (f : SR)
  | sel (f : SR)
  | clz (f : SR)
  | popc (f : SR)
  | addi (f : SI)
  | andi (f : SI)
  | ori (f : SI)
  | xori (f : SI)
  | shli (f : SI)
  | shrli (f : SI)
  | shrai (f : SI)
  | slti (f : SI)
  | muli (f : SI)
  | lit (f : SI)
  | lith (f : SI)
  | ldb (f : SI)
  | ldh (f : SI)
  | ldw (f : SI)
  | ldd (f : SI)
  | stb (f : SI)
  | sth (f : SI)
  | stw (f : SI)
  | std (f : SI)
  | br (f : SB)
  | beq (f : SB)
  | bne (f : SB)
  | blt (f : SB)
  | bge (f : SB)
  | bltu (f : SB)
  | bgeu (f : SB)
  | call (f : SB)
  | ret (f : SB)
  | jr (f : SB)
  | loop (f : SL)
  | loopl (f : SL)
  | loopb (f : SL)
  | itset (f : SC)
  | itrev (f : SC)
  | skset (f : SC)
  | itrd (f : SC)
  | fmtset (f : SC)
  | tshape (f : SC)
  | sink (f : SC)
  | cshape (f : SC)
  | trans (f : SC)
  | hinv (f : SC)
  | hget (f : SC)
  | waitg (f : SR)
  | arm (f : SR)
  | genrd (f : SR)
  | acqb (f : SC)
  | relb (f : SC)
  | endDie (f : SR)
  | align (f : SR)
  | coll (f : SR)
  | amode (f : SC)
  | reverse (f : SR)
  /-- REVERSE issues the adjoint bundle of its next record (R350). -/
  | adjointBundleIssue (p d : Nat)
  | dregset (f : SC)
  | logmark (f : SR)
  | trap (f : SC)
  | tret (f : SR)
  | cfgr (f : SC)
  | cfgw (f : SC)
  | cfgwXflags (f : SC)
  | cfgwNf (f : SC)
  | cfgwFmt (f : SC)
  | cfgwTapebase (f : SC)
  | cfgwLogbase (f : SC)
  | brk (f : SC)
  | enrd (f : SR)
  | vnop (f : VF)
  | vadd (f : VF)
  | vsub (f : VF)
  | vmul (f : VF)
  | vfma (f : VF)
  | vmin (f : VF)
  | vmax (f : VF)
  | vabs (f : VF)
  | vneg (f : VF)
  | vadds (f : VF)
  | vsubs (f : VF)
  | vmulh (f : VF)
  | vshl (f : VF)
  | vshr (f : VF)
  | vand (f : VF)
  | vor (f : VF)
  | vxor (f : VF)
  | vnot (f : VF)
  | vcmp (f : VF)
  | vsel (f : VF)
  | vround (f : VF)
  | vclass (f : VF)
  | vexp (f : VF)
  | vlog (f : VF)
  | vrcp (f : VF)
  | vrsq (f : VF)
  | vsqrt (f : VF)
  | vtanh (f : VF)
  | vsig (f : VF)
  | vrelu (f : VF)
  | vcvt (f : VF)
  | vpack (f : VF)
  | vunpk (f : VF)
  | vmov (f : VF)
  | vsplat (f : VF)
  | vrot (f : VF)
  | kop (f : VF)
  | vscan (f : VF)
  | vred (f : VF)
  | vcompact (f : VF)
  | vcount (f : VF)
  | vroute (f : VF)
  | gadd (f : VF)
  | gsub (f : VF)
  | gmul (f : VF)
  | gscl (f : VF)
  | gofs (f : VF)
  | grelu (f : VF)
  | gexp (f : VF)
  | gsig (f : VF)
  | gsqr (f : VF)
  | gcol (f : VF)
  | gmake (f : VF)
  | mnop (f : MF)
  | mfill (f : MF)
  | mdrn (f : MF)
  | mldb (f : MF)
  | mldmd (f : MF)
  | mma (f : MF)
  | mmaz (f : MF)
  | mmas (f : MF)
  | mmap (f : MF)
  | mmg (f : MF)
  | mmg2 (f : MF)
  | mout (f : MF)
  | mbyp (f : MF)
  | mzero (f : MF)
  | cnop (f : CB)
  | ldr (f : CB)
  | str (f : CB)
  | rmw (f : CB)
  | fill (f : CF)
  | fillm (f : CF)
  | spill (f : CF)
  | fillx (f : CF)
  | hatom (f : CF)
  | xsend (f : CX)
  | xrecv (f : CX)
  | recvadd (f : CX)
  /-- The detected trap is taken: rewind and handler entry (R358). -/
  | trapTaken (cid : Nat)
  /-- The page walk of a walk hold completes (R26). -/
  | walkComplete (cid die : Nat)
  /-- The lines of an i-miss hold are present (R26). -/
  | icacheFillComplete (cid die : Nat)
  /-- The memory controller can meet the late cycle (R26). -/
  | fillLateClear (cid : Nat)
  /-- WAC reaches the target of an align hold (R333). -/
  | alignRelease (cid die : Nat)
  /-- An arrival of `b` bytes at a sync word (R286, R287); `vref` deliveries were refused (R325). -/
  | syncArrival (r : SyncRef) (b : Nat) (err : Bool) (vref : Nat)
  /-- A host write through the mailbox window (R238, R441). -/
  | mailboxWrite (part va : Nat) (bytes : List Byte)
  /-- A host read through the mailbox window (R238, R441). -/
  | mailboxRead (part va n : Nat)
  /-- A host write of word 0 of a sync word (R290). -/
  | syncTargetWrite (r : SyncRef) (v : Nat)
  /-- A host write of word 1 of a sync word (R290). -/
  | syncCountWrite (r : SyncRef) (v : Nat)
  /-- A host write of word 3 of a sync word (R290). -/
  | syncStatusWrite (r : SyncRef) (v : Nat)
  /-- A host write of a launch queue TAIL (R257). -/
  | tailWrite (p q v : Nat)
  /-- CMD = suspend (R261). -/
  | queueSuspend (p q : Nat)
  /-- CMD = resume (R261). -/
  | queueResume (p q : Nat)
  /-- CMD = clear (R261). -/
  | queueClear (p q : Nat)
  /-- The driver answers a page-fault entry with retry (R300). -/
  | faultRespRetry (p seq : Nat)
  /-- The driver answers a page-fault entry with terminate (R300). -/
  | faultRespTerminate (p seq : Nat)
  /-- Steward command 0x01 (R392). -/
  | queryPartition (part tag : Nat)
  /-- Steward command 0x02: `sync` is ARG2 (R392). -/
  | shootdown (va len sync tag : Nat)
  /-- A pending shootdown applies to a partition (R302). -/
  | shootdownApply (cid id : Nat)
  /-- Steward command 0x03 (R392). -/
  | clearPoisonMark (part va tag : Nat)
  /-- Steward command 0x04 (R322). -/
  | loadLinkKey (peer key tag : Nat)
  /-- Steward command 0x05 (R322). -/
  | eraseLinkKey (peer tag : Nat)
  /-- Steward command 0x06 (R376). -/
  | setTrace (part kinds lo hi tag : Nat)
  /-- Steward command 0x07 (R378). -/
  | setProfileWindow (part base g tag : Nat)
  /-- Steward command 0x08 (R379). -/
  | recordReplay (part on tag : Nat)
  /-- The dispatcher selects queue `q`; `adm` holds the steward choices of an admission (R262, R268). -/
  | dispatch (p q : Nat) (adm : Admit)
  /-- A ready queue has waited one aging limit (R262). -/
  | agingStep (p q : Nat)
  /-- The quantum of the running launch expires (R263). -/
  | quantumExpiry (p : Nat)
  /-- Prologue entry `n` issues on fill channel `ch` (R269). -/
  | prologueEntryIssue (cid n ch : Nat)
  /-- The dies are aligned and the kernel starts at ACC = 0 (R271). -/
  | kernelStart (cid : Nat)
  /-- A pre-emption request freezes the partition and parks its context (R245, R247); `force` is a steward request. -/
  | preemptRequest (p : Nat) (force : Bool) (plan : List ParkMove)
  /-- The steward claims the storage a context asks for (R249). -/
  | storageClaim (cid : Nat) (moves : List ParkMove)
  /-- The restore of a context is complete (R251). -/
  | restoreComplete (cid : Nat)
  /-- The S handler, the host driver or the steward ends the context (R244). -/
  | contextTerminate (cid : Nat)
  /-- The steward frees the storage of a context (R244). -/
  | contextFree (cid : Nat)
  /-- The die counter of the canopy reaches zero (R274). -/
  | dieCounterZero (cid die : Nat)
  /-- The canopy decrements the partition counter (R274, R360). -/
  | canopyDecrement (cid die : Nat)
  /-- The kernel retires (R275). -/
  | kernelRetire (cid : Nat)
  /-- The steward refills the energy allowance (R385). -/
  | energyRefill (p : Nat)
  /-- A 64-byte physical line is marked poisoned (R306). -/
  | poisonMark (line : Nat)
  /-- The steward starts to move a page to `frame` (R305). -/
  | migrationStart (p va frame : Nat)
  /-- The move ends, or aborts with these source lines uncorrectable (R305). -/
  | migrationComplete (p va : Nat) (abort : Bool) (badLines : List Nat)
  /-- Debugger STOP (R372). -/
  | debugStop (p : Nat)
  /-- Debugger RESUME (R372). -/
  | debugResume (p : Nat)
  /-- Debugger STEP n (R372). -/
  | debugStep (p n : Nat)
  /-- The stepped cycles have run (R372). -/
  | debugStepExpiry (cid : Nat)
  /-- The debugger asks for a nonce (R382). -/
  | debugNonceRequest
  /-- The debug port closes (R382). -/
  | debugPortClose
  /-- The steward applies the next entry of a replay log (R380). -/
  | replayInputApply (cid : Nat)
  /-- The next rotor slot of a port starts (R320). -/
  | rotorSlotStart (port : Nat)
  /-- The next packet in SEQ order of a source is delivered (R324). -/
  | packetDelivery (src : Nat)
  /-- A packet has no acknowledgement after one rotation (R324). -/
  | retransmitTimeout (dst seq : Nat)
  /-- The link engine receives a COLL (R360). -/
  | collHandoff (cid die : Nat)
  /-- The link engine writes the next piece of a destination without crossing a port (R331). -/
  | collLocalWrite (id : Nat)
  /-- A collective fails (R331). -/
  | collFail (id : Nat)
  /-- A port sends the next packet for a destination (R323). -/
  | packetSend (port dst : Nat)
  /-- A prologue entry lands (R269). -/
  | prologueEntryLanding (cid n : Nat)
  /-- The steward maps a physical slice out or back in (R13, R387). -/
  | spareMap (die row phys : Nat) (out : Bool)
  /-- The steward re-plans the margins of a die (R386). -/
  | marginReplan (die age mhz : Nat)
  /-- Input power is lost (R388). -/
  | powerFail
  /-- Power returns; `valid` says the commit digest matches (R389). -/
  | powerReturn (valid : Bool)
  /-- Device reset and bring-up (R393). -/
  | deviceReset (policy : BootPolicy)
  /-- The steward adopts a vintage (R325). -/
  | vintageAdopt (v : Nat)
  /-- The link engine slews WAC towards its peers (R33). -/
  | wacSyncExchange (ppm : Int)
  /-- A port receives an identity flit, or finds none (R321). -/
  | identityFlitReceive (port : Nat) (f : IdFlit)
  /-- The debugger writes state (R375). -/
  | debugStateWrite (p : Nat) (t : DbgTarget) (v : Nat)
  /-- The scrubber reads a bank word; `bad` is an uncorrectable error (R367). -/
  | bankScrub (cid slice bank line : Nat) (bad : Bool)
  /-- The host asks for an attestation report (R390). -/
  | attestationReport (nonce : BitVec 256)
  /-- The debugger presents an unlock token (R381, R382). -/
  | debugUnlock (token : List Byte) (brkStops : Bool)
  /-- The steward sets PCFG.EN (R327). -/
  | portEnable (port : Nat)
  /-- Lane training ends (R327). -/
  | portTrained (port : Nat) (ok : Bool)
  /-- The steward clears PCFG.EN (R327). -/
  | portDisable (port : Nat)
  /-- The steward clears a quarantine (R327). -/
  | portQuarantineClear (port : Nat)
  /-- The steward loads the schedule of a port (R320). -/
  | portScheduleLoad (port : Nat) (sch : PortSchedule)
  /-- The steward forms the partition of `n` dies from die `p` (R14, R15, R255). -/
  | partitionChange (p n : Nat) (mk : PartMake)
  /-- A port takes in a packet (R324). -/
  | packetReceive (port : Nat) (k : Packet)
  /-- A port receives an acknowledgement (R324). -/
  | ackReceive (port : Nat) (k : Packet)
  /-- A port receives a refusal naming a vintage (R325). -/
  | refusalReceive (port : Nat) (k : Packet)
  deriving DecidableEq, Repr

end Sys2Proof
end

