-- ==== Sys2Proof/WellFormed.lean ====
section
/-!
DEFINITION. Well-formed instructions: every field that the opcode does not use is zero (R96, R99; the tables of R123 to
R155, R161, R206, R195 to R202, R222, R314), and the CFGW rows name their own registers.
-/
namespace Sys2Proof

/-- SR fields that are not used are zero (R123 and the chapters of the other forms). -/
def SR.unusedZero (f : SR) (xd xa xb xc : Bool) : Bool :=
  (xd || f.xd == 0) && (xa || f.xa == 0) && (xb || f.xb == 0) && (xc || f.xc == 0)

/-- SC fields that are not used are zero; `csr` and `imm` say from which bit on the field is unused. -/
def SC.unusedZero (f : SC) (xd xa : Bool) (csr imm : Nat) : Bool :=
  (xd || f.xd == 0) && (xa || f.xa == 0) && (f.csr >>> csr == 0) && (f.imm >>> imm == 0)

/-- V fields that are not used are zero: A, B, C (each with its peek bit), RM, IMM8, and, when `ty` is false, TYPE and
FSLOT (R99, R156, R160). -/
def VF.unusedZero (f : VF) (a b c rm imm ty : Bool) : Bool :=
  (a || (f.a == 0 && !f.pk.getLsbD 2)) && (b || (f.b == 0 && !f.pk.getLsbD 1)) && (c || (f.c == 0 && !f.pk.getLsbD 0))
    && (rm || f.rm == 0) && (imm || f.imm == 0) && (ty || (f.ty == 0 && f.fs == 0))

/-- M fields that are not used are zero: DST, A (with its peek bit), B, ACC, TYPE with FSLOT, rows, and IMM6 outside the
mask (R206). -/
def MF.unusedZero (f : MF) (dst a b acc ty rows : Bool) (imm : BitVec 6) : Bool :=
  (dst || f.dst == 0) && (a || (f.a == 0 && f.pka == 0)) && (b || f.b == 0) && (acc || f.acc == 0)
    && (ty || (f.ty == 0 && f.fs == 0)) && (rows || (f.rows == 0 && f.row0 == 0)) && (f.imm &&& ~~~imm == 0)

/-- Register numbers of the CFGW rows that stand beside CFGW in the opcode table (R81). -/
def csrXflags : BitVec 12 := 0x015
/-- NF (R46). -/
def csrNf : BitVec 12 := 0x013
/-- TAPEBASE (R339). -/
def csrTapebase : BitVec 12 := 0x034
/-- LOGBASE (R343). -/
def csrLogbase : BitVec 12 := 0x031
/-- FMT0 to FMT63 (R82). -/
def isFmtCsr (c : BitVec 12) : Bool := c >>> 6 == 4

/-- A CFGW uses xa and csr12; imm33 is used when xa = x0 (R150). -/
def SC.cfgwOk (f : SC) : Bool := f.xd == 0 && (f.xa == 0 || f.imm == 0)

/-- The register of a CFGW has no row of its own. -/
def plainCsr (c : BitVec 12) : Bool :=
  !(c == csrXflags || c == csrNf || c == csrTapebase || c == csrLogbase || isFmtCsr c)

/-- A VCVT with both types in the encoding narrows: the source has fewer elements in a rank than the result (R38, R171). -/
def VF.cvtNarrows (f : VF) : Bool :=
  let w (t : Nat) : Nat := if t = 0 ∨ t = 3 ∨ t = 6 then 16 else if t = 5 ∨ t = 8 then 64 else 32
  decide (w (f.imm.toNat % 16) < w f.ty.toNat)

/-- Dies, sync-word numbers and launch sync-word numbers exist (R285). -/
def SyncRef.inRange : SyncRef → Bool
  | .die _ d n => d < 8 && n < 4096
  | .launch n => n < 1024

/-- Every field the opcode does not use is zero, and every number of an event names a part that exists. RM is a field of GCOL for every
selector (log entry 98). -/
def Instr.wf (i : Instr) : Bool :=
  match i with
  | .snop f | .endDie f | .tret f => f.unusedZero false false false false
  | .add f | .sub f | .mul f | .mulhs f | .mulhu f | .divs f | .divu f | .rems f | .remu f | .and f | .or f | .xor f | .andn f | .shl f | .shrl f | .shra f | .rotr f | .min f | .max f | .minu f | .maxu f | .slt f | .sltu f | .seq f | .waitg f | .arm f => f.unusedZero true true true false
  | .sel _ => true
  | .clz f | .popc f | .genrd f | .align f => f.unusedZero true true false false
  | .coll f => f.unusedZero false true true false
  | .reverse f => f.unusedZero false true false false
  | .logmark f | .enrd f => f.unusedZero true false false false
  | .addi _ | .andi _ | .ori _ | .xori _ | .slti _ | .muli _ => true
  | .shli f | .shrli f | .shrai f => f.imm >>> 6 == 0
  | .lit f => f.xa == 0
  | .lith f => f.imm == 0
  | .ldb _ | .ldh _ | .ldw _ | .ldd _ | .stb _ | .sth _ | .stw _ | .std _ => true
  | .br f | .call f => f.xa == 0 && f.xb == 0
  | .beq _ | .bne _ | .blt _ | .bge _ | .bltu _ | .bgeu _ => true
  | .ret f => f.xa == 0 && f.xb == 0 && f.off == 0
  | .jr f => f.xb == 0 && f.off == 0
  | .loop f => f.xa == 0 || f.cnt == 0
  | .loopl _ | .loopb _ => true
  | .itset f => f.unusedZero true true 5 0
  | .itrev f => f.unusedZero true false 0 4
  | .skset f => f.unusedZero true true 0 0
  | .itrd f => f.unusedZero true true 12 0
  | .fmtset f => f.unusedZero true false 0 16
  | .tshape f => f.unusedZero true false 0 14
  | .sink f => f.unusedZero true true 10 0 && (if f.csr.getLsbD 6 then f.xd == 0 && f.csr.extractLsb' 7 3 == 0 else f.xa == 0)
  | .cshape f => f.unusedZero false true 6 0
  | .trans f => f.unusedZero true true 0 2
  | .hinv f => f.unusedZero true false 0 0
  | .hget f => f.unusedZero true true 12 0
  | .acqb f | .relb f => f.unusedZero false false 0 4
  | .amode f => f.unusedZero false false 0 2
  | .dregset f => f.unusedZero true true 0 0
  | .trap f | .brk f => f.unusedZero false false 0 16
  | .cfgr f => f.unusedZero true false 12 0
  | .cfgw f => f.cfgwOk && plainCsr f.csr
  | .cfgwXflags f => f.cfgwOk && f.csr == csrXflags
  | .cfgwNf f => f.cfgwOk && f.csr == csrNf
  | .cfgwTapebase f => f.cfgwOk && f.csr == csrTapebase
  | .cfgwLogbase f => f.cfgwOk && f.csr == csrLogbase
  | .cfgwFmt f => f.cfgwOk && isFmtCsr f.csr
  | .vnop f => f == ⟨0, 0, 0, 0, 0, 0, 0, 0, 0, 0, 0⟩
  | .vadd f | .vsub f | .vmul f => f.unusedZero true true false true false true
  | .vfma f => f.unusedZero true true true true false true
  | .vmin f | .vmax f | .vadds f | .vsubs f | .vmulh f | .vand f | .vor f | .vxor f | .vsel f => f.unusedZero true true false false false true
  | .vabs f | .vneg f | .vnot f | .vclass f | .vrelu f => f.unusedZero true false false false false true
  | .vshl f | .vshr f | .vcmp f | .vrot f => f.unusedZero true true false false true true
  | .vround f | .vexp f | .vlog f | .vrcp f | .vrsq f | .vsqrt f | .vtanh f | .vsig f => f.unusedZero true false false true false true
  | .vcvt f => f.unusedZero true true false true true true && !f.imm.getLsbD 7 && (f.ty == 15 || f.imm.extractLsb' 0 4 == 15 || f.cvtNarrows || (f.b == 0 && !f.pk.getLsbD 1))
  | .vpack f => f.unusedZero true true false true true true
  | .vunpk f => f.unusedZero true false false true true true
  | .vmov f => f.unusedZero true false false false false true
  | .vsplat f => f.unusedZero true false false false true true
  | .kop f => f.unusedZero true (f.imm.toNat % 8 < 4) false false true false && f.mask == 0
  | .vscan f | .vred f => f.unusedZero true false false true true true
  | .vcompact f => f.unusedZero true true false false false true
  | .vcount f => f.unusedZero true false false false false true
  | .vroute f => f.unusedZero true false false false true true
  | .gadd f | .gsub f | .gmul f | .gscl f | .gofs f => f.unusedZero true true false true true false
  | .gmake f => f.unusedZero true true false false true false
  | .grelu f | .gexp f | .gsig f | .gsqr f => f.unusedZero true false false true true false
  | .gcol f => f.unusedZero true (f.imm == 3) false true true false
  | .mnop f => f == ⟨0, 0, 0, 0, 0, 0, 0, 0, 0, 0, 0⟩
  | .mfill f | .mdrn f => f.unusedZero true true false false false true 0xF
  | .mldb f => f.unusedZero false true (f.imm.getLsbD 0) false true false 1
  | .mldmd f => f.unusedZero true true false false false true 0 && f.rows == 0
  | .mma f | .mmaz f | .mmap f => f.unusedZero false true false true true true 0x8
  | .mmas f => f.unusedZero false true (f.ty == 1 || f.ty == 2 || f.ty == 15) true true true 0
  | .mmg f => f.unusedZero false true false true true true 0x0
  | .mmg2 f => f.unusedZero false true true true true true 0x0
  | .mout f => f.unusedZero true true false false true true 0x7
  | .mbyp f => f.unusedZero true true false false true true 0xF
  | .mzero f => f.unusedZero false false false true true true 0x0
  | .cnop f => f == ⟨0, 0, 0, 0, 0, 0, 0, 0⟩
  | .ldr f | .str f => f.spec2 == 0 && f.rop == 0
  | .rmw _ => true
  | .fill f | .fillm f | .spill f => f.aop == 0
  | .fillx f => f.aop == 0 && f.shape == 0
  | .hatom f => f.aop >>> 4 == 0 && f.bmask >>> 8 == 0 && f.shape == 0
  | .xsend _ | .xrecv _ | .recvadd _ => true
  | .bundleIssue p d => p < 8 && d < 8
  | .delayBundle p d => p < 8 && d < 8
  | .cycleBoundary p => p < 8
  | .fillmLatchExecute _ op => op < 14
  | .outerTrellisArrival plan _ _ => plan < 64
  | .adjointBundleIssue p d => p < 8 && d < 8
  | .walkComplete _ die => die < 8
  | .icacheFillComplete _ die => die < 8
  | .alignRelease _ die => die < 8
  | .syncArrival r _ _ _ => r.inRange
  | .syncTargetWrite r _ => r.inRange
  | .syncCountWrite r _ => r.inRange
  | .syncStatusWrite r _ => r.inRange
  | .tailWrite p q _ => p < 8 && q < 8
  | .queueSuspend p q => p < 8 && q < 8
  | .queueResume p q => p < 8 && q < 8
  | .queueClear p q => p < 8 && q < 8
  | .faultRespRetry p _ => p < 8
  | .faultRespTerminate p _ => p < 8
  | .dispatch p q _ => p < 8 && q < 8
  | .agingStep p q => p < 8 && q < 8
  | .quantumExpiry p => p < 8
  | .prologueEntryIssue _ _ ch => ch < 20
  | .preemptRequest p _ _ => p < 8
  | .dieCounterZero _ die => die < 8
  | .canopyDecrement _ die => die < 8
  | .energyRefill p => p < 8
  | .bankScrub _ slice bank line _ => slice < 4112 && bank < 16 && line < 8192
  | .migrationStart p _ _ => p < 8
  | .migrationComplete p _ _ _ => p < 8
  | .debugStop p => p < 8
  | .debugResume p => p < 8
  | .debugStep p _ => p < 8
  | .debugStateWrite p _ _ => p < 8
  | .rotorSlotStart port => port < 32
  | .identityFlitReceive port _ => port < 32
  | .packetReceive port _ => port < 32
  | .ackReceive port _ => port < 32
  | .refusalReceive port _ => port < 32
  | .collHandoff _ die => die < 8
  | .portEnable port => port < 32
  | .portTrained port _ => port < 32
  | .portDisable port => port < 32
  | .portQuarantineClear port => port < 64
  | .portScheduleLoad port _ => port < 32
  | .partitionChange p _ _ => p < 8
  | .spareMap die row _ _ => if row == 5 then die < 32 else die < 8 && row < 5
  | .marginReplan die _ _ => die < 8
  | .packetSend port _ => port < 32
  | .owedWritePerforms _ | .hatomHomeOperation _ | .hatomParkNotice _ _ | .hatomReplay _ _ _ _ | .hatomFetchLanding _ _ => true
  | .trapTaken _ | .fillLateClear _ | .mailboxWrite _ _ _ | .mailboxRead _ _ _ | .queryPartition _ _ => true
  | .shootdown _ _ _ _ | .shootdownApply _ _ | .clearPoisonMark _ _ _ | .loadLinkKey _ _ _ | .eraseLinkKey _ _ => true
  | .setTrace _ _ _ _ _ | .setProfileWindow _ _ _ _ | .recordReplay _ _ _ | .kernelStart _ | .storageClaim _ _ => true
  | .restoreComplete _ | .contextTerminate _ | .contextFree _ | .kernelRetire _ | .poisonMark _ => true
  | .debugStepExpiry _ | .debugNonceRequest | .debugUnlock _ _ | .debugPortClose | .attestationReport _ => true
  | .replayInputApply _ | .packetDelivery _ | .retransmitTimeout _ _ | .collLocalWrite _ | .collFail _ => true
  | .wacSyncExchange _ | .vintageAdopt _ | .powerFail | .powerReturn _ | .deviceReset _ => true
  | .prologueEntryLanding _ _ => true

/-- The check as a proposition. -/
abbrev WellFormed (i : Instr) : Prop := i.wf = true

end Sys2Proof
end

