-- ==== Sys2Proof/Decode.lean ====
section
/-!
DEFINITION. The decoder (R85 to R112): total on any word, rejecting by name; and after it the encoder, from the same
tables. A syllable word is 64 bits with the stop bit in bit 63 (R87), which neither side of the pair carries.
-/
namespace Sys2Proof

/-- Why a syllable word is no instruction: both are cause 0x02 (R96). -/
inductive DecodeError
  /-- An undefined or reserved opcode, or a scan-unit opcode in V0 (R112). -/
  | opcode
  /-- A nonzero bit in a field that the format or the opcode marks zero (R99). -/
  | field
  deriving DecidableEq, Repr

/-- The slot number of TSTAT.SLOT (R362). -/
abbrev Slot := Nat

/-- The opcode field OPC, bits [62:55] (R98). -/
def opcOf (w : DWord) : Nat := (w.extractLsb' 55 8).toNat

/-- Fields of an SR syllable. -/
def SR.ofWord (w : DWord) : SR :=
  ⟨w.extractLsb' 50 5, w.extractLsb' 45 5, w.extractLsb' 40 5, w.extractLsb' 35 5⟩
/-- Fields of an SI syllable. -/
def SI.ofWord (w : DWord) : SI := ⟨w.extractLsb' 50 5, w.extractLsb' 45 5, w.extractLsb' 0 45⟩
/-- Fields of an SB syllable. -/
def SB.ofWord (w : DWord) : SB := ⟨w.extractLsb' 50 5, w.extractLsb' 45 5, w.extractLsb' 0 45⟩
/-- Fields of an SL syllable. -/
def SL.ofWord (w : DWord) : SL :=
  ⟨w.extractLsb' 52 3, w.extractLsb' 47 5, w.extractLsb' 31 16, w.extractLsb' 0 31⟩
/-- Fields of an SC syllable. -/
def SC.ofWord (w : DWord) : SC :=
  ⟨w.extractLsb' 50 5, w.extractLsb' 45 5, w.extractLsb' 33 12, w.extractLsb' 0 33⟩
/-- Fields of a V syllable (R102). -/
def VF.ofWord (w : DWord) : VF :=
  ⟨w.extractLsb' 48 7, w.extractLsb' 41 7, w.extractLsb' 34 7, w.extractLsb' 27 7, w.extractLsb' 24 3, w.extractLsb' 20 4,
   w.extractLsb' 16 4, w.extractLsb' 13 3, w.extractLsb' 10 3, w.extractLsb' 8 2, w.extractLsb' 0 8⟩
/-- Fields of an M syllable (R104). -/
def MF.ofWord (w : DWord) : MF :=
  ⟨w.extractLsb' 48 7, w.extractLsb' 41 7, w.extractLsb' 34 7, w.extractLsb' 27 7, w.extractLsb' 26 1, w.extractLsb' 22 4,
   w.extractLsb' 18 4, w.extractLsb' 13 5, w.extractLsb' 8 5, w.extractLsb' 6 2, w.extractLsb' 0 6⟩
/-- Fields of a CB syllable (R106). -/
def CB.ofWord (w : DWord) : CB :=
  ⟨w.extractLsb' 48 7, w.extractLsb' 44 4, w.extractLsb' 41 3, w.extractLsb' 25 16, w.extractLsb' 18 7, w.extractLsb' 15 3,
   w.extractLsb' 4 11, w.extractLsb' 2 2⟩
/-- Fields of a CF syllable (R106). -/
def CF.ofWord (w : DWord) : CF :=
  ⟨w.extractLsb' 48 7, w.extractLsb' 44 4, w.extractLsb' 41 3, w.extractLsb' 25 16, w.extractLsb' 21 4, w.extractLsb' 15 6,
   w.extractLsb' 10 5, w.extractLsb' 4 6, w.extractLsb' 2 2⟩
/-- Fields of a CX syllable (R106). -/
def CX.ofWord (w : DWord) : CX :=
  ⟨w.extractLsb' 48 7, w.extractLsb' 44 4, w.extractLsb' 38 6, w.extractLsb' 30 8, w.extractLsb' 2 2⟩
/-- Fields of an RT or WT syllable (R107); `none` is cause 0x02: mode 11, or a nonzero bit in a zero field. -/
def Trel.ofWord (w : DWord) : Option Trel :=
  let f : Trel := ⟨w.extractLsb' 61 2, w.extractLsb' 58 2, w.extractLsb' 0 56⟩
  if f.mode == 3 || w.extractLsb' 60 1 != 0 || w.extractLsb' 56 2 != 0 || (f.mode != 1 && f.zi != 0)
      || (f.mode != 0 && f.sw != 0) then none
  else some f

/-- An instruction whose unused fields are zero, or the error (R99). -/
def checked (zeros : Bool) (i : Instr) : Except DecodeError Instr :=
  if zeros && i.wf then .ok i else .error .field

/-- An SR syllable: bits [34:0] are zero (R98). -/
def decSR (w : DWord) (mk : SR → Instr) : Except DecodeError Instr :=
  checked (w.extractLsb' 0 35 == 0) (mk (SR.ofWord w))
/-- A CB syllable: bits [1:0] are zero (R106). -/
def decCB (w : DWord) (mk : CB → Instr) : Except DecodeError Instr :=
  checked (w.extractLsb' 0 2 == 0) (mk (CB.ofWord w))
/-- A CF syllable: bits [1:0] are zero (R106). -/
def decCF (w : DWord) (mk : CF → Instr) : Except DecodeError Instr :=
  checked (w.extractLsb' 0 2 == 0) (mk (CF.ofWord w))
/-- A CX syllable: bits [29:4] and [1:0] are zero (R106). -/
def decCX (w : DWord) (mk : CX → Instr) : Except DecodeError Instr :=
  checked (w.extractLsb' 4 26 == 0 && w.extractLsb' 0 2 == 0) (mk (CX.ofWord w))

/-- The row of a CFGW, by its register number (R81). -/
def cfgwOf (f : SC) : Instr :=
  if f.csr = csrXflags then .cfgwXflags f
  else if f.csr = csrNf then .cfgwNf f
  else if f.csr = csrTapebase then .cfgwTapebase f
  else if f.csr = csrLogbase then .cfgwLogbase f
  else if isFmtCsr f.csr then .cfgwFmt f
  else .cfgw f

/-- An S syllable (R108). -/
def decodeS (w : DWord) : Except DecodeError Instr :=
  match opcOf w with
  | 0x00 => decSR w .snop
  | 0x01 => decSR w .add
  | 0x02 => decSR w .sub
  | 0x03 => decSR w .mul
  | 0x04 => decSR w .mulhs
  | 0x05 => decSR w .mulhu
  | 0x06 => decSR w .divs
  | 0x07 => decSR w .divu
  | 0x08 => decSR w .rems
  | 0x09 => decSR w .remu
  | 0x0A => decSR w .and
  | 0x0B => decSR w .or
  | 0x0C => decSR w .xor
  | 0x0D => decSR w .andn
  | 0x0E => decSR w .shl
  | 0x0F => decSR w .shrl
  | 0x10 => decSR w .shra
  | 0x11 => decSR w .rotr
  | 0x12 => decSR w .min
  | 0x13 => decSR w .max
  | 0x14 => decSR w .minu
  | 0x15 => decSR w .maxu
  | 0x16 => decSR w .slt
  | 0x17 => decSR w .sltu
  | 0x18 => decSR w .seq
  | 0x19 => decSR w .sel
  | 0x1A => decSR w .clz
  | 0x1B => decSR w .popc
  | 0x20 => checked true (.addi (SI.ofWord w))
  | 0x21 => checked true (.andi (SI.ofWord w))
  | 0x22 => checked true (.ori (SI.ofWord w))
  | 0x23 => checked true (.xori (SI.ofWord w))
  | 0x24 => checked true (.shli (SI.ofWord w))
  | 0x25 => checked true (.shrli (SI.ofWord w))
  | 0x26 => checked true (.shrai (SI.ofWord w))
  | 0x27 => checked true (.slti (SI.ofWord w))
  | 0x28 => checked true (.muli (SI.ofWord w))
  | 0x29 => checked true (.lit (SI.ofWord w))
  | 0x2A => checked true (.lith (SI.ofWord w))
  | 0x30 => checked true (.ldb (SI.ofWord w))
  | 0x31 => checked true (.ldh (SI.ofWord w))
  | 0x32 => checked true (.ldw (SI.ofWord w))
  | 0x33 => checked true (.ldd (SI.ofWord w))
  | 0x34 => checked true (.stb (SI.ofWord w))
  | 0x35 => checked true (.sth (SI.ofWord w))
  | 0x36 => checked true (.stw (SI.ofWord w))
  | 0x37 => checked true (.std (SI.ofWord w))
  | 0x40 => checked true (.br (SB.ofWord w))
  | 0x41 => checked true (.beq (SB.ofWord w))
  | 0x42 => checked true (.bne (SB.ofWord w))
  | 0x43 => checked true (.blt (SB.ofWord w))
  | 0x44 => checked true (.bge (SB.ofWord w))
  | 0x45 => checked true (.bltu (SB.ofWord w))
  | 0x46 => checked true (.bgeu (SB.ofWord w))
  | 0x47 => checked true (.call (SB.ofWord w))
  | 0x48 => checked true (.ret (SB.ofWord w))
  | 0x49 => checked true (.jr (SB.ofWord w))
  | 0x50 => checked true (.loop (SL.ofWord w))
  | 0x51 => checked true (.loopl (SL.ofWord w))
  | 0x52 => checked true (.loopb (SL.ofWord w))
  | 0x53 => checked true (.itset (SC.ofWord w))
  | 0x54 => checked true (.itrev (SC.ofWord w))
  | 0x55 => checked true (.skset (SC.ofWord w))
  | 0x56 => checked true (.itrd (SC.ofWord w))
  | 0x57 => checked true (.fmtset (SC.ofWord w))
  | 0x58 => checked true (.tshape (SC.ofWord w))
  | 0x59 => checked true (.sink (SC.ofWord w))
  | 0x5A => checked true (.cshape (SC.ofWord w))
  | 0x60 => checked true (.trans (SC.ofWord w))
  | 0x61 => checked true (.hinv (SC.ofWord w))
  | 0x62 => checked true (.hget (SC.ofWord w))
  | 0x68 => decSR w .waitg
  | 0x69 => decSR w .arm
  | 0x6A => decSR w .genrd
  | 0x6B => checked true (.acqb (SC.ofWord w))
  | 0x6C => checked true (.relb (SC.ofWord w))
  | 0x6D => decSR w .endDie
  | 0x6E => decSR w .align
  | 0x6F => decSR w .coll
  | 0x70 => checked true (.amode (SC.ofWord w))
  | 0x71 => decSR w .reverse
  | 0x72 => checked true (.dregset (SC.ofWord w))
  | 0x73 => decSR w .logmark
  | 0x78 => checked true (.trap (SC.ofWord w))
  | 0x79 => decSR w .tret
  | 0x7A => checked true (.cfgr (SC.ofWord w))
  | 0x7B => checked true (cfgwOf (SC.ofWord w))
  | 0x7C => checked true (.brk (SC.ofWord w))
  | 0x7D => decSR w .enrd
  | _ => .error .opcode

/-- A V syllable; the scan-unit opcodes are legal in V1 only (R96, R109). -/
def decodeV (v1 : Bool) (w : DWord) : Except DecodeError Instr :=
  match opcOf w with
  | 0x00 => checked true (.vnop (VF.ofWord w))
  | 0x01 => checked true (.vadd (VF.ofWord w))
  | 0x02 => checked true (.vsub (VF.ofWord w))
  | 0x03 => checked true (.vmul (VF.ofWord w))
  | 0x04 => checked true (.vfma (VF.ofWord w))
  | 0x05 => checked true (.vmin (VF.ofWord w))
  | 0x06 => checked true (.vmax (VF.ofWord w))
  | 0x07 => checked true (.vabs (VF.ofWord w))
  | 0x08 => checked true (.vneg (VF.ofWord w))
  | 0x09 => checked true (.vadds (VF.ofWord w))
  | 0x0A => checked true (.vsubs (VF.ofWord w))
  | 0x0B => checked true (.vmulh (VF.ofWord w))
  | 0x0C => checked true (.vshl (VF.ofWord w))
  | 0x0D => checked true (.vshr (VF.ofWord w))
  | 0x0E => checked true (.vand (VF.ofWord w))
  | 0x0F => checked true (.vor (VF.ofWord w))
  | 0x10 => checked true (.vxor (VF.ofWord w))
  | 0x11 => checked true (.vnot (VF.ofWord w))
  | 0x12 => checked true (.vcmp (VF.ofWord w))
  | 0x13 => checked true (.vsel (VF.ofWord w))
  | 0x14 => checked true (.vround (VF.ofWord w))
  | 0x15 => checked true (.vclass (VF.ofWord w))
  | 0x20 => checked true (.vexp (VF.ofWord w))
  | 0x21 => checked true (.vlog (VF.ofWord w))
  | 0x22 => checked true (.vrcp (VF.ofWord w))
  | 0x23 => checked true (.vrsq (VF.ofWord w))
  | 0x24 => checked true (.vsqrt (VF.ofWord w))
  | 0x25 => checked true (.vtanh (VF.ofWord w))
  | 0x26 => checked true (.vsig (VF.ofWord w))
  | 0x27 => checked true (.vrelu (VF.ofWord w))
  | 0x30 => checked true (.vcvt (VF.ofWord w))
  | 0x31 => checked true (.vpack (VF.ofWord w))
  | 0x32 => checked true (.vunpk (VF.ofWord w))
  | 0x33 => checked true (.vmov (VF.ofWord w))
  | 0x34 => checked true (.vsplat (VF.ofWord w))
  | 0x35 => checked true (.vrot (VF.ofWord w))
  | 0x36 => checked true (.kop (VF.ofWord w))
  | 0x40 => if v1 then checked true (.vscan (VF.ofWord w)) else .error .opcode
  | 0x41 => if v1 then checked true (.vred (VF.ofWord w)) else .error .opcode
  | 0x42 => if v1 then checked true (.vcompact (VF.ofWord w)) else .error .opcode
  | 0x43 => if v1 then checked true (.vcount (VF.ofWord w)) else .error .opcode
  | 0x44 => if v1 then checked true (.vroute (VF.ofWord w)) else .error .opcode
  | 0x50 => checked true (.gadd (VF.ofWord w))
  | 0x51 => checked true (.gsub (VF.ofWord w))
  | 0x52 => checked true (.gmul (VF.ofWord w))
  | 0x53 => checked true (.gscl (VF.ofWord w))
  | 0x54 => checked true (.gofs (VF.ofWord w))
  | 0x55 => checked true (.grelu (VF.ofWord w))
  | 0x56 => checked true (.gexp (VF.ofWord w))
  | 0x57 => checked true (.gsig (VF.ofWord w))
  | 0x58 => checked true (.gsqr (VF.ofWord w))
  | 0x59 => checked true (.gcol (VF.ofWord w))
  | 0x5A => checked true (.gmake (VF.ofWord w))
  | _ => .error .opcode

/-- An M syllable (R110). -/
def decodeM (w : DWord) : Except DecodeError Instr :=
  match opcOf w with
  | 0x00 => checked true (.mnop (MF.ofWord w))
  | 0x01 => checked true (.mfill (MF.ofWord w))
  | 0x02 => checked true (.mdrn (MF.ofWord w))
  | 0x03 => checked true (.mldb (MF.ofWord w))
  | 0x04 => checked true (.mldmd (MF.ofWord w))
  | 0x05 => checked true (.mma (MF.ofWord w))
  | 0x06 => checked true (.mmaz (MF.ofWord w))
  | 0x07 => checked true (.mmas (MF.ofWord w))
  | 0x08 => checked true (.mmap (MF.ofWord w))
  | 0x09 => checked true (.mmg (MF.ofWord w))
  | 0x0A => checked true (.mmg2 (MF.ofWord w))
  | 0x0B => checked true (.mout (MF.ofWord w))
  | 0x0C => checked true (.mbyp (MF.ofWord w))
  | 0x0D => checked true (.mzero (MF.ofWord w))
  | _ => .error .opcode

/-- A C syllable (R111). -/
def decodeC (w : DWord) : Except DecodeError Instr :=
  match opcOf w with
  | 0x00 => decCB w .cnop
  | 0x01 => decCB w .ldr
  | 0x02 => decCB w .str
  | 0x03 => decCB w .rmw
  | 0x04 => decCF w .fill
  | 0x05 => decCF w .fillm
  | 0x06 => decCF w .spill
  | 0x07 => decCF w .fillx
  | 0x08 => decCF w .hatom
  | 0x09 => decCX w .xsend
  | 0x0A => decCX w .xrecv
  | 0x0B => decCX w .recvadd
  | _ => .error .opcode

/-- The syllable of a slot 0 to 5 (S, V0, V1, M, C0, C1). -/
def decodeSlot (slot : Slot) (w : DWord) : Except DecodeError Instr :=
  match slot with
  | 0 => decodeS w
  | 1 => decodeV false w
  | 2 => decodeV true w
  | 3 => decodeM w
  | _ => decodeC w

/-- The header of a bundle (R86). -/
structure Header where
  p : BitVec 8
  grp : BitVec 8
  stall : BitVec 6
  chk : Bool
  rsv : BitVec 9
  lit : BitVec 32
  deriving DecidableEq, Repr

/-- Fields of a header syllable (R86). -/
def Header.ofWord (w : DWord) : Header :=
  ⟨w.extractLsb' 56 8, w.extractLsb' 48 8, w.extractLsb' 42 6, w.getLsbD 41, w.extractLsb' 32 9, w.extractLsb' 0 32⟩

/-- The present slots of a header in bundle order (R85): slot n has P bit 7 - n. -/
def Header.slots (h : Header) : List Slot := (List.range 8).filter fun n => h.p.getLsbD (7 - n)

/-- The length in bytes of a bundle (R85). -/
def Header.bytes (h : Header) : Nat := 8 * (1 + h.slots.length)

/-- The instruction the decoder reads from a word numbered as the opcode table numbers it. The table gives no row any
bits, so the word is laid out as the part stores a bundle (R85): bits [63:0] the header, then the first syllable. A header
without slots is a delay bundle; only the bundle's first syllable is answered. -/
def decodeTableWord (_nbits w : Nat) : Option Instr :=
  let h := Header.ofWord (BitVec.ofNat 64 w)
  match h.slots with
  | [] => some (.delayBundle 0 0)
  | sl :: _ => if sl < 6 then (decodeSlot sl (BitVec.ofNat 64 (w >>> 64))).toOption else none

/-! ### The encoder -/

/-- An SR syllable word, stop bit 0. -/
def SR.toWord (opc : BitVec 8) (f : SR) : DWord := 0#1 ++ opc ++ f.xd ++ f.xa ++ f.xb ++ f.xc ++ 0#35
/-- An SI syllable word. -/
def SI.toWord (opc : BitVec 8) (f : SI) : DWord := 0#1 ++ opc ++ f.xd ++ f.xa ++ f.imm
/-- An SB syllable word. -/
def SB.toWord (opc : BitVec 8) (f : SB) : DWord := 0#1 ++ opc ++ f.xa ++ f.xb ++ f.off
/-- An SL syllable word. -/
def SL.toWord (opc : BitVec 8) (f : SL) : DWord := 0#1 ++ opc ++ f.level ++ f.xa ++ f.cnt ++ f.endOff
/-- An SC syllable word. -/
def SC.toWord (opc : BitVec 8) (f : SC) : DWord := 0#1 ++ opc ++ f.xd ++ f.xa ++ f.csr ++ f.imm
/-- A V syllable word. -/
def VF.toWord (opc : BitVec 8) (f : VF) : DWord :=
  0#1 ++ opc ++ f.dst ++ f.a ++ f.b ++ f.c ++ f.pk ++ f.ty ++ f.fs ++ f.mask ++ f.rm ++ f.keep ++ f.imm
/-- An M syllable word. -/
def MF.toWord (opc : BitVec 8) (f : MF) : DWord :=
  0#1 ++ opc ++ f.dst ++ f.a ++ f.b ++ f.acc ++ f.pka ++ f.ty ++ f.fs ++ f.rows ++ f.row0 ++ f.keep ++ f.imm
/-- A CB syllable word. -/
def CB.toWord (opc : BitVec 8) (f : CB) : DWord :=
  0#1 ++ opc ++ f.spec ++ f.it ++ f.skew ++ f.bmask ++ f.spec2 ++ f.rop ++ f.loff ++ f.keep ++ 0#2
/-- A CF syllable word. -/
def CF.toWord (opc : BitVec 8) (f : CF) : DWord :=
  0#1 ++ opc ++ f.spec ++ f.it ++ f.skew ++ f.bmask ++ f.h ++ f.shape ++ f.chan ++ f.aop ++ f.keep ++ 0#2
/-- A CX syllable word. -/
def CX.toWord (opc : BitVec 8) (f : CX) : DWord :=
  0#1 ++ opc ++ f.spec ++ f.it ++ f.plan ++ f.words ++ 0#26 ++ f.keep ++ 0#2
/-- An RT or WT syllable word. -/
def Trel.toWord (f : Trel) : DWord := 0#1 ++ f.mode ++ 0#1 ++ f.zi ++ 0#2 ++ f.sw

/-- The word of a syllable, stop bit 0 (R98 to R111); a step that is no syllable has no word and gives zero. -/
def encode (i : Instr) : DWord :=
  match i with
  | .snop f => f.toWord 0x00
  | .add f => f.toWord 0x01
  | .sub f => f.toWord 0x02
  | .mul f => f.toWord 0x03
  | .mulhs f => f.toWord 0x04
  | .mulhu f => f.toWord 0x05
  | .divs f => f.toWord 0x06
  | .divu f => f.toWord 0x07
  | .rems f => f.toWord 0x08
  | .remu f => f.toWord 0x09
  | .and f => f.toWord 0x0A
  | .or f => f.toWord 0x0B
  | .xor f => f.toWord 0x0C
  | .andn f => f.toWord 0x0D
  | .shl f => f.toWord 0x0E
  | .shrl f => f.toWord 0x0F
  | .shra f => f.toWord 0x10
  | .rotr f => f.toWord 0x11
  | .min f => f.toWord 0x12
  | .max f => f.toWord 0x13
  | .minu f => f.toWord 0x14
  | .maxu f => f.toWord 0x15
  | .slt f => f.toWord 0x16
  | .sltu f => f.toWord 0x17
  | .seq f => f.toWord 0x18
  | .sel f => f.toWord 0x19
  | .clz f => f.toWord 0x1A
  | .popc f => f.toWord 0x1B
  | .addi f => f.toWord 0x20
  | .andi f => f.toWord 0x21
  | .ori f => f.toWord 0x22
  | .xori f => f.toWord 0x23
  | .shli f => f.toWord 0x24
  | .shrli f => f.toWord 0x25
  | .shrai f => f.toWord 0x26
  | .slti f => f.toWord 0x27
  | .muli f => f.toWord 0x28
  | .lit f => f.toWord 0x29
  | .lith f => f.toWord 0x2A
  | .ldb f => f.toWord 0x30
  | .ldh f => f.toWord 0x31
  | .ldw f => f.toWord 0x32
  | .ldd f => f.toWord 0x33
  | .stb f => f.toWord 0x34
  | .sth f => f.toWord 0x35
  | .stw f => f.toWord 0x36
  | .std f => f.toWord 0x37
  | .br f => f.toWord 0x40
  | .beq f => f.toWord 0x41
  | .bne f => f.toWord 0x42
  | .blt f => f.toWord 0x43
  | .bge f => f.toWord 0x44
  | .bltu f => f.toWord 0x45
  | .bgeu f => f.toWord 0x46
  | .call f => f.toWord 0x47
  | .ret f => f.toWord 0x48
  | .jr f => f.toWord 0x49
  | .loop f => f.toWord 0x50
  | .loopl f => f.toWord 0x51
  | .loopb f => f.toWord 0x52
  | .itset f => f.toWord 0x53
  | .itrev f => f.toWord 0x54
  | .skset f => f.toWord 0x55
  | .itrd f => f.toWord 0x56
  | .fmtset f => f.toWord 0x57
  | .tshape f => f.toWord 0x58
  | .sink f => f.toWord 0x59
  | .cshape f => f.toWord 0x5A
  | .trans f => f.toWord 0x60
  | .hinv f => f.toWord 0x61
  | .hget f => f.toWord 0x62
  | .waitg f => f.toWord 0x68
  | .arm f => f.toWord 0x69
  | .genrd f => f.toWord 0x6A
  | .acqb f => f.toWord 0x6B
  | .relb f => f.toWord 0x6C
  | .endDie f => f.toWord 0x6D
  | .align f => f.toWord 0x6E
  | .coll f => f.toWord 0x6F
  | .amode f => f.toWord 0x70
  | .reverse f => f.toWord 0x71
  | .dregset f => f.toWord 0x72
  | .logmark f => f.toWord 0x73
  | .trap f => f.toWord 0x78
  | .tret f => f.toWord 0x79
  | .cfgr f => f.toWord 0x7A
  | .cfgw f => f.toWord 0x7B
  | .brk f => f.toWord 0x7C
  | .enrd f => f.toWord 0x7D
  | .cfgwXflags f => f.toWord 0x7B
  | .cfgwNf f => f.toWord 0x7B
  | .cfgwFmt f => f.toWord 0x7B
  | .cfgwTapebase f => f.toWord 0x7B
  | .cfgwLogbase f => f.toWord 0x7B
  | .vnop f => f.toWord 0x00
  | .vadd f => f.toWord 0x01
  | .vsub f => f.toWord 0x02
  | .vmul f => f.toWord 0x03
  | .vfma f => f.toWord 0x04
  | .vmin f => f.toWord 0x05
  | .vmax f => f.toWord 0x06
  | .vabs f => f.toWord 0x07
  | .vneg f => f.toWord 0x08
  | .vadds f => f.toWord 0x09
  | .vsubs f => f.toWord 0x0A
  | .vmulh f => f.toWord 0x0B
  | .vshl f => f.toWord 0x0C
  | .vshr f => f.toWord 0x0D
  | .vand f => f.toWord 0x0E
  | .vor f => f.toWord 0x0F
  | .vxor f => f.toWord 0x10
  | .vnot f => f.toWord 0x11
  | .vcmp f => f.toWord 0x12
  | .vsel f => f.toWord 0x13
  | .vround f => f.toWord 0x14
  | .vclass f => f.toWord 0x15
  | .vexp f => f.toWord 0x20
  | .vlog f => f.toWord 0x21
  | .vrcp f => f.toWord 0x22
  | .vrsq f => f.toWord 0x23
  | .vsqrt f => f.toWord 0x24
  | .vtanh f => f.toWord 0x25
  | .vsig f => f.toWord 0x26
  | .vrelu f => f.toWord 0x27
  | .vcvt f => f.toWord 0x30
  | .vpack f => f.toWord 0x31
  | .vunpk f => f.toWord 0x32
  | .vmov f => f.toWord 0x33
  | .vsplat f => f.toWord 0x34
  | .vrot f => f.toWord 0x35
  | .kop f => f.toWord 0x36
  | .vscan f => f.toWord 0x40
  | .vred f => f.toWord 0x41
  | .vcompact f => f.toWord 0x42
  | .vcount f => f.toWord 0x43
  | .vroute f => f.toWord 0x44
  | .gadd f => f.toWord 0x50
  | .gsub f => f.toWord 0x51
  | .gmul f => f.toWord 0x52
  | .gscl f => f.toWord 0x53
  | .gofs f => f.toWord 0x54
  | .grelu f => f.toWord 0x55
  | .gexp f => f.toWord 0x56
  | .gsig f => f.toWord 0x57
  | .gsqr f => f.toWord 0x58
  | .gcol f => f.toWord 0x59
  | .gmake f => f.toWord 0x5A
  | .mnop f => f.toWord 0x00
  | .mfill f => f.toWord 0x01
  | .mdrn f => f.toWord 0x02
  | .mldb f => f.toWord 0x03
  | .mldmd f => f.toWord 0x04
  | .mma f => f.toWord 0x05
  | .mmaz f => f.toWord 0x06
  | .mmas f => f.toWord 0x07
  | .mmap f => f.toWord 0x08
  | .mmg f => f.toWord 0x09
  | .mmg2 f => f.toWord 0x0A
  | .mout f => f.toWord 0x0B
  | .mbyp f => f.toWord 0x0C
  | .mzero f => f.toWord 0x0D
  | .cnop f => f.toWord 0x00
  | .ldr f => f.toWord 0x01
  | .str f => f.toWord 0x02
  | .rmw f => f.toWord 0x03
  | .fill f => f.toWord 0x04
  | .fillm f => f.toWord 0x05
  | .spill f => f.toWord 0x06
  | .fillx f => f.toWord 0x07
  | .hatom f => f.toWord 0x08
  | .xsend f => f.toWord 0x09
  | .xrecv f => f.toWord 0x0A
  | .recvadd f => f.toWord 0x0B
  | .bundleIssue _ _ | .delayBundle _ _ | .cycleBoundary _ | .owedWritePerforms _ | .fillmLatchExecute _ _ => 0
  | .outerTrellisArrival _ _ _ | .hatomHomeOperation _ | .hatomParkNotice _ _ | .hatomReplay _ _ _ _ | .hatomFetchLanding _ _ => 0
  | .adjointBundleIssue _ _ | .trapTaken _ | .walkComplete _ _ | .icacheFillComplete _ _ | .fillLateClear _ => 0
  | .alignRelease _ _ | .syncArrival _ _ _ _ | .mailboxWrite _ _ _ | .mailboxRead _ _ _ | .syncTargetWrite _ _ => 0
  | .syncCountWrite _ _ | .syncStatusWrite _ _ | .tailWrite _ _ _ | .queueSuspend _ _ | .queueResume _ _ => 0
  | .queueClear _ _ | .faultRespRetry _ _ | .faultRespTerminate _ _ | .queryPartition _ _ | .shootdown _ _ _ _ => 0
  | .shootdownApply _ _ | .clearPoisonMark _ _ _ | .loadLinkKey _ _ _ | .eraseLinkKey _ _ | .setTrace _ _ _ _ _ => 0
  | .setProfileWindow _ _ _ _ | .recordReplay _ _ _ | .dispatch _ _ _ | .agingStep _ _ | .quantumExpiry _ => 0
  | .prologueEntryIssue _ _ _ | .kernelStart _ | .preemptRequest _ _ _ | .storageClaim _ _ | .restoreComplete _ => 0
  | .contextTerminate _ | .contextFree _ | .dieCounterZero _ _ | .canopyDecrement _ _ | .kernelRetire _ => 0
  | .energyRefill _ | .bankScrub _ _ _ _ _ | .poisonMark _ | .migrationStart _ _ _ | .migrationComplete _ _ _ _ => 0
  | .debugStop _ | .debugResume _ | .debugStep _ _ | .debugStepExpiry _ | .debugStateWrite _ _ _ => 0
  | .debugNonceRequest | .debugUnlock _ _ | .debugPortClose | .attestationReport _ | .replayInputApply _ => 0
  | .rotorSlotStart _ | .identityFlitReceive _ _ | .packetReceive _ _ | .packetDelivery _ | .ackReceive _ _ => 0
  | .refusalReceive _ _ | .retransmitTimeout _ _ | .collHandoff _ _ | .collLocalWrite _ | .collFail _ => 0
  | .wacSyncExchange _ | .vintageAdopt _ | .portEnable _ | .portTrained _ _ | .portDisable _ => 0
  | .portQuarantineClear _ | .portScheduleLoad _ _ | .partitionChange _ _ _ | .spareMap _ _ _ _ | .marginReplan _ _ _ => 0
  | .powerFail | .powerReturn _ | .deviceReset _ | .packetSend _ _ | .prologueEntryLanding _ _ => 0

/-- The slots in which a syllable may stand (R108 to R111): V forms in V0 and V1, the scan-unit forms in V1. -/
def Instr.slots (i : Instr) : List Slot :=
  match i with
  | .snop _ | .add _ | .sub _ | .mul _ | .mulhs _ | .mulhu _ | .divs _ | .divu _ | .rems _ | .remu _ | .and _ | .or _ => [0]
  | .xor _ | .andn _ | .shl _ | .shrl _ | .shra _ | .rotr _ | .min _ | .max _ | .minu _ | .maxu _ | .slt _ | .sltu _ => [0]
  | .seq _ | .sel _ | .clz _ | .popc _ | .addi _ | .andi _ | .ori _ | .xori _ | .shli _ | .shrli _ | .shrai _ | .slti _ => [0]
  | .muli _ | .lit _ | .lith _ | .ldb _ | .ldh _ | .ldw _ | .ldd _ | .stb _ | .sth _ | .stw _ | .std _ | .br _ => [0]
  | .beq _ | .bne _ | .blt _ | .bge _ | .bltu _ | .bgeu _ | .call _ | .ret _ | .jr _ | .loop _ | .loopl _ | .loopb _ => [0]
  | .itset _ | .itrev _ | .skset _ | .itrd _ | .fmtset _ | .tshape _ | .sink _ | .cshape _ | .trans _ | .hinv _ | .hget _ | .waitg _ => [0]
  | .arm _ | .genrd _ | .acqb _ | .relb _ | .endDie _ | .align _ | .coll _ | .amode _ | .reverse _ | .dregset _ | .logmark _ | .trap _ => [0]
  | .tret _ | .cfgr _ | .cfgw _ | .brk _ | .enrd _ | .cfgwXflags _ | .cfgwNf _ | .cfgwFmt _ | .cfgwTapebase _ | .cfgwLogbase _ => [0]
  | .vnop _ | .vadd _ | .vsub _ | .vmul _ | .vfma _ | .vmin _ | .vmax _ | .vabs _ | .vneg _ | .vadds _ | .vsubs _ | .vmulh _ => [1, 2]
  | .vshl _ | .vshr _ | .vand _ | .vor _ | .vxor _ | .vnot _ | .vcmp _ | .vsel _ | .vround _ | .vclass _ | .vexp _ | .vlog _ => [1, 2]
  | .vrcp _ | .vrsq _ | .vsqrt _ | .vtanh _ | .vsig _ | .vrelu _ | .vcvt _ | .vpack _ | .vunpk _ | .vmov _ | .vsplat _ | .vrot _ => [1, 2]
  | .kop _ | .gadd _ | .gsub _ | .gmul _ | .gscl _ | .gofs _ | .grelu _ | .gexp _ | .gsig _ | .gsqr _ | .gcol _ | .gmake _ => [1, 2]
  | .vscan _ | .vred _ | .vcompact _ | .vcount _ | .vroute _ => [2]
  | .mnop _ | .mfill _ | .mdrn _ | .mldb _ | .mldmd _ | .mma _ | .mmaz _ | .mmas _ | .mmap _ | .mmg _ | .mmg2 _ | .mout _ => [3]
  | .mbyp _ | .mzero _ => [3]
  | .cnop _ | .ldr _ | .str _ | .rmw _ | .fill _ | .fillm _ | .spill _ | .fillx _ | .hatom _ | .xsend _ | .xrecv _ | .recvadd _ => [4, 5]
  | .bundleIssue _ _ | .delayBundle _ _ | .cycleBoundary _ | .owedWritePerforms _ | .fillmLatchExecute _ _ => []
  | .outerTrellisArrival _ _ _ | .hatomHomeOperation _ | .hatomParkNotice _ _ | .hatomReplay _ _ _ _ | .hatomFetchLanding _ _ => []
  | .adjointBundleIssue _ _ | .trapTaken _ | .walkComplete _ _ | .icacheFillComplete _ _ | .fillLateClear _ => []
  | .alignRelease _ _ | .syncArrival _ _ _ _ | .mailboxWrite _ _ _ | .mailboxRead _ _ _ | .syncTargetWrite _ _ => []
  | .syncCountWrite _ _ | .syncStatusWrite _ _ | .tailWrite _ _ _ | .queueSuspend _ _ | .queueResume _ _ => []
  | .queueClear _ _ | .faultRespRetry _ _ | .faultRespTerminate _ _ | .queryPartition _ _ | .shootdown _ _ _ _ => []
  | .shootdownApply _ _ | .clearPoisonMark _ _ _ | .loadLinkKey _ _ _ | .eraseLinkKey _ _ | .setTrace _ _ _ _ _ => []
  | .setProfileWindow _ _ _ _ | .recordReplay _ _ _ | .dispatch _ _ _ | .agingStep _ _ | .quantumExpiry _ => []
  | .prologueEntryIssue _ _ _ | .kernelStart _ | .preemptRequest _ _ _ | .storageClaim _ _ | .restoreComplete _ => []
  | .contextTerminate _ | .contextFree _ | .dieCounterZero _ _ | .canopyDecrement _ _ | .kernelRetire _ => []
  | .energyRefill _ | .bankScrub _ _ _ _ _ | .poisonMark _ | .migrationStart _ _ _ | .migrationComplete _ _ _ _ => []
  | .debugStop _ | .debugResume _ | .debugStep _ _ | .debugStepExpiry _ | .debugStateWrite _ _ _ => []
  | .debugNonceRequest | .debugUnlock _ _ | .debugPortClose | .attestationReport _ | .replayInputApply _ => []
  | .rotorSlotStart _ | .identityFlitReceive _ _ | .packetReceive _ _ | .packetDelivery _ | .ackReceive _ _ => []
  | .refusalReceive _ _ | .retransmitTimeout _ _ | .collHandoff _ _ | .collLocalWrite _ | .collFail _ => []
  | .wacSyncExchange _ | .vintageAdopt _ | .portEnable _ | .portTrained _ _ | .portDisable _ => []
  | .portQuarantineClear _ | .portScheduleLoad _ _ | .partitionChange _ _ _ | .spareMap _ _ _ _ | .marginReplan _ _ _ => []
  | .powerFail | .powerReturn _ | .deviceReset _ | .packetSend _ _ | .prologueEntryLanding _ _ => []

end Sys2Proof
end

