-- ==== Sys2Proof/Machine/Bits.lean ====
section
/-!
DEFINITION. Bit-field, sign and byte-order helpers (spec 00 R4: bits numbered from 0, little-endian), on natural numbers.
-/
namespace Sys2Proof

/-- Bits `[lo + w - 1 : lo]` of a natural number. -/
def bitsOf (x lo w : Nat) : Nat := (x >>> lo) % 2 ^ w

/-- Bit `i` of a natural number. -/
def bitAt (x i : Nat) : Bool := bitsOf x i 1 == 1

/-- `x` with bits `[lo + w - 1 : lo]` replaced by the low `w` bits of `v`. -/
def putBits (x lo w v : Nat) : Nat :=
  x % 2 ^ lo + ((v % 2 ^ w) <<< lo) + ((x >>> (lo + w)) <<< (lo + w))

/-- The two's-complement reading of the low `w` bits of `x`. -/
def signedOf (w x : Nat) : Int :=
  let y := x % 2 ^ w
  if y < 2 ^ (w - 1) then (y : Int) else (y : Int) - (2 ^ w : Nat)

/-- The low `w` bits of an integer (wrap_w, R40). -/
def wrapInt (w : Nat) (x : Int) : Nat := (x % (2 ^ w : Nat)).toNat

/-- Bit of a Boolean. -/
def b2n (b : Bool) : Nat := if b then 1 else 0

/-- Little-endian bytes of a natural number (R4). -/
def leBytes : Nat → Nat → List Byte
  | 0, _ => []
  | n + 1, x => BitVec.ofNat 8 x :: leBytes n (x / 256)

/-- The little-endian number that a list of bytes holds (R4). -/
def ofLeBytes : List Byte → Nat
  | [] => 0
  | b :: bs => b.toNat + 256 * ofLeBytes bs

/-- Fields packed from bit 0 upward: each pair is (width, value). -/
def packLe : List (Nat × Nat) → Nat
  | [] => 0
  | (w, v) :: r => v % 2 ^ w + (packLe r <<< w)

/-- Number of one bits among the low `w` bits. -/
def popCount : Nat → Nat → Nat
  | 0, _ => 0
  | w + 1, x => x % 2 + popCount w (x / 2)

/-- The positions below `w` whose bit is one, ascending. -/
def onesOf (w x : Nat) : List Nat := (List.range w).filter (bitAt x)

/-- The lowest set bit position below `w`, or `w` when there is none. -/
def lowestOne (w x : Nat) : Nat := (onesOf w x).headD w

/-- The 64-bit word with the low 64 bits of a natural number. -/
def dw (n : Nat) : DWord := BitVec.ofNat 64 n

/-- Ascending insertion sort by a key, stable (kept structural so that the kernel evaluates it). -/
def insertBy {α : Type} (lt : α → α → Bool) (a : α) : List α → List α
  | [] => [a]
  | b :: bs => if lt a b then a :: b :: bs else b :: insertBy lt a bs

/-- Stable sort: equal keys keep their order. -/
def sortBy {α : Type} (lt : α → α → Bool) (l : List α) : List α :=
  l.foldr (fun a acc => insertStable lt a acc) []
where
  /-- Inserts before the first element that is not less. -/
  insertStable (lt : α → α → Bool) (a : α) : List α → List α
    | [] => [a]
    | b :: bs => if lt b a then b :: insertStable lt a bs else a :: b :: bs

end Sys2Proof
end

