-- ==== Sys2Proof/Machine/Float.lean ====
section
/-!
DEFINITION. Floating-point arithmetic on exact dyadic numbers with one rounding (R41 to R48, R63): decode to an exact
number, compute exactly, round once. Operations run in a state monad over the XFLAGS bits they raise.
-/
namespace Sys2Proof

/-- XFLAGS bits (R45). -/
def flagIV : Nat := 1
/-- Divide by zero. -/
def flagDZ : Nat := 2
/-- Overflow. -/
def flagOF : Nat := 4
/-- Underflow. -/
def flagUF : Nat := 8
/-- Inexact. -/
def flagIX : Nat := 16

/-- A computation that raises XFLAGS bits. -/
abbrev Flagged (α : Type) := StateM Nat α

/-- Raises flag bits. -/
def raiseFlags (f : Nat) : Flagged Unit := modify (· ||| f)

/-- A floating layout: exponent bits and fraction bits (R41). -/
structure Layout where
  eb : Nat
  fb : Nat
  deriving DecidableEq, Repr

/-- binary32. -/
def f32 : Layout := ⟨8, 23⟩
/-- bfloat16. -/
def bf16 : Layout := ⟨8, 7⟩
/-- binary16. -/
def f16 : Layout := ⟨5, 10⟩

/-- The exponent bias. -/
def Layout.bias (l : Layout) : Nat := 2 ^ (l.eb - 1) - 1
/-- Bits of +infinity. -/
def Layout.infBits (l : Layout) : Nat := (2 ^ l.eb - 1) <<< l.fb
/-- The canonical quiet NaN (R42). -/
def Layout.nanBits (l : Layout) : Nat := l.infBits + 2 ^ (l.fb - 1)
/-- The weight of the sign bit. -/
def Layout.signBit (l : Layout) : Nat := 2 ^ (l.eb + l.fb)
/-- The layout of a floating type code 0 to 2 (R38). -/
def layoutOf (ty : Nat) : Layout := if ty = 0 then f32 else if ty = 1 then bf16 else f16

/-- A number read from a register: NaN (signalling or not), an infinity, or a signed exact `m * 2^e`. -/
inductive Num
  | nan (signalling : Bool)
  | inf (neg : Bool)
  | fin (neg : Bool) (m : Nat) (e : Int)
  deriving DecidableEq, Repr

/-- Whether a number is NaN. -/
def Num.isNan : Num → Bool
  | .nan _ => true
  | _ => false

/-- Whether a number is a zero. -/
def Num.isZero : Num → Bool
  | .fin _ 0 _ => true
  | _ => false

/-- The sign of a number that is not NaN. -/
def Num.sign : Num → Bool
  | .nan _ => false
  | .inf n => n
  | .fin n _ _ => n

/-- Whether a number is a signalling NaN. -/
def Num.signals : Num → Bool
  | .nan true => true
  | _ => false

/-- Negation of the sign; NaN stays. -/
def Num.neg : Num → Num
  | .nan s => .nan s
  | .inf n => .inf (!n)
  | .fin n m e => .fin (!n) m e

/-- Magnitude. -/
def Num.abs : Num → Num
  | .nan s => .nan s
  | .inf _ => .inf false
  | .fin _ m e => .fin false m e

/-- Reads bits of a layout; with `fi`, subnormals read as zeros of their sign (R47). -/
def Layout.decode (l : Layout) (fi : Bool) (bits : Nat) : Num :=
  let neg := bitAt bits (l.eb + l.fb)
  let ex := bitsOf bits l.fb l.eb
  let fr := bitsOf bits 0 l.fb
  if ex = 2 ^ l.eb - 1 then if fr = 0 then .inf neg else .nan (!bitAt bits (l.fb - 1))
  else if ex = 0 then .fin neg (if fi then 0 else fr) (1 - l.bias - l.fb)
  else .fin neg (fr + 2 ^ l.fb) ((ex : Int) - l.bias - l.fb)

/-- `m * 2^-sh` rounded to an integer in a mode (1 RNE, 2 RZ, 3 RU, 4 RD: the RM codes of R102) and whether it was
inexact; a negative `sh` shifts left. A shift past all of `m` is one by two places more than it has. -/
def roundShift (rm : Nat) (neg : Bool) (m : Nat) (sh : Int) : Nat × Bool :=
  if sh ≤ 0 then (m <<< (-sh).toNat, false)
  else
    let s := min sh.toNat (Nat.log2 m + 2)
    let q := m >>> s
    let r := m % 2 ^ s
    let half := 2 ^ (s - 1)
    let up : Bool :=
      if r = 0 then false
      else if rm = 1 then decide (r > half) || (decide (r = half) && q % 2 == 1)
      else if rm = 2 then false
      else if rm = 3 then !neg
      else neg
    (q + b2n up, decide (r ≠ 0))

/-- The overflow result of R44. -/
def Layout.overflow (l : Layout) (rm : Nat) (neg : Bool) : Nat :=
  let big := if rm = 1 || (rm = 3 && !neg) || (rm = 4 && neg) then l.infBits else l.infBits - 1
  big + b2n neg * l.signBit

/-- Rounds an exact nonzero magnitude once (R44), with flush-results `fr` (R47). -/
def Layout.roundMag (l : Layout) (rm : Nat) (fr neg : Bool) (m : Nat) (e : Int) : Flagged Nat := do
  let top : Int := (Nat.log2 m : Int) + e
  let emin : Int := 1 - l.bias
  let fb : Int := l.fb
  let sgn := b2n neg * l.signBit
  let tiny : Bool := decide (top < emin) &&
    !(decide (top = emin - 1) && (roundShift rm neg m (top - fb - e)).1 == 2 ^ (l.fb + 1))
  if tiny && fr then
    raiseFlags (flagUF ||| flagIX)
    return sgn
  let q := max top emin - fb
  let (n, ix) := roundShift rm neg m (q - e)
  let bits := if top < emin then n else ((top + l.bias - 1).toNat <<< l.fb) + n
  if bits ≥ l.infBits then
    raiseFlags (flagOF ||| flagIX)
    return l.overflow rm neg
  raiseFlags ((if ix then flagIX else 0) ||| (if tiny && ix then flagUF else 0))
  return bits + sgn

/-- Rounds a number to a layout (round_t of R48); a signalling NaN raises IV. -/
def Layout.round (l : Layout) (rm : Nat) (fr : Bool) (x : Num) : Flagged Nat :=
  match x with
  | .nan s => do
    if s then raiseFlags flagIV
    return l.nanBits
  | .inf n => return l.infBits + b2n n * l.signBit
  | .fin n 0 _ => return b2n n * l.signBit
  | .fin n m e => l.roundMag rm fr n m e

/-- The exact sum of two finite signed dyadics as (integer, exponent). -/
def dyadicAdd (n1 : Bool) (m1 : Nat) (e1 : Int) (n2 : Bool) (m2 : Nat) (e2 : Int) : Int × Int :=
  let e := min e1 e2
  let v (n : Bool) (m : Nat) (ex : Int) : Int :=
    let w : Int := ((m <<< (ex - e).toNat : Nat) : Int)
    if n then -w else w
  (v n1 m1 e1 + v n2 m2 e2, e)

/-- Exact addition, with the signs of zero of R163; `rd` says that the mode is RD. Raises IV for ∞ - ∞ and for
signalling NaNs. -/
def numAdd (rd : Bool) (a b : Num) : Flagged Num :=
  match a, b with
  | .nan s, .nan t => do
    if s || t then raiseFlags flagIV
    return .nan false
  | .nan s, _ => do
    if s then raiseFlags flagIV
    return .nan false
  | _, .nan s => do
    if s then raiseFlags flagIV
    return .nan false
  | .inf n, .inf k => do
    if n != k then
      raiseFlags flagIV
      return .nan false
    return .inf n
  | .inf n, _ => return .inf n
  | _, .inf n => return .inf n
  | .fin n1 m1 e1, .fin n2 m2 e2 =>
    let (v, e) := dyadicAdd n1 m1 e1 n2 m2 e2
    if v = 0 then return .fin (if m1 = 0 && m2 = 0 && n1 == n2 then n1 else rd) 0 0
    else return .fin (decide (v < 0)) v.natAbs e

/-- Exact multiplication; raises IV for 0 × ∞ and for signalling NaNs (R42). -/
def numMul (a b : Num) : Flagged Num :=
  match a, b with
  | .nan s, .nan t => do
    if s || t then raiseFlags flagIV
    return .nan false
  | .nan s, _ => do
    if s then raiseFlags flagIV
    return .nan false
  | _, .nan s => do
    if s then raiseFlags flagIV
    return .nan false
  | .inf n, x => do
    match x with
    | .fin _ 0 _ =>
      raiseFlags flagIV
      return .nan false
    | .fin k _ _ => return .inf (n != k)
    | .inf k => return .inf (n != k)
    | .nan _ => return .nan false
  | .fin n m _, .inf k => do
    if m = 0 then
      raiseFlags flagIV
      return .nan false
    return .inf (n != k)
  | .fin n1 m1 e1, .fin n2 m2 e2 => return .fin (n1 != n2) (m1 * m2) (e1 + e2)

/-- Exact `a * b + c` (R163): one later rounding makes it a fused multiply-add. -/
def numFma (rd : Bool) (a b c : Num) : Flagged Num := do
  let p ← numMul a b
  numAdd rd p c

/-- Exact scaling by a power of two (R61). -/
def Num.scale (x : Num) (k : Int) : Num :=
  match x with
  | .fin n m e => .fin n m (e + k)
  | y => y

/-- Compares two numbers that are not NaN: -1, 0 or 1; the two zeros are equal. -/
def numCmp (a b : Num) : Int :=
  match a, b with
  | .inf n, .inf k => if n == k then 0 else if n then -1 else 1
  | .inf n, _ => if n then -1 else 1
  | _, .inf n => if n then 1 else -1
  | .fin n1 m1 e1, .fin n2 m2 e2 => (dyadicAdd n1 m1 e1 (!n2) m2 e2).1.sign
  | _, _ => 0

/-- The integer square root by bisection over the given number of bits. -/
def isqrtBits : Nat → Nat → Nat → Nat
  | 0, _, r => r
  | k + 1, n, r => if (r + 2 ^ k) * (r + 2 ^ k) ≤ n then isqrtBits k n (r + 2 ^ k) else isqrtBits k n r

/-- The square root of a nonnegative magnitude as a dyadic with a sticky low bit, exact enough for one rounding to 24 bits
(R66). -/
def sqrtDyadic (m : Nat) (e : Int) : Nat × Int :=
  let odd : Nat := (e % 2).toNat
  let n := m <<< (128 + odd)
  let r := isqrtBits (Nat.log2 n / 2 + 1) n 0
  (2 * r + b2n (decide (r * r ≠ n)), (e - odd) / 2 - 64 - 1)

/-- The exact square root before rounding; NaN with IV for a negative nonzero input (R66). -/
def numSqrt (x : Num) : Flagged Num :=
  match x with
  | .nan s => do
    if s then raiseFlags flagIV
    return .nan false
  | .inf false => return .inf false
  | .inf true => do
    raiseFlags flagIV
    return .nan false
  | .fin n 0 e => return .fin n 0 e
  | .fin true _ _ => do
    raiseFlags flagIV
    return .nan false
  | .fin false m e =>
    let (r, k) := sqrtDyadic m e
    return .fin false r k

/-- The quotient of two magnitudes as a dyadic with a sticky low bit, exact enough for one rounding to 24 bits. -/
def divDyadic (m1 : Nat) (e1 : Int) (m2 : Nat) (e2 : Int) : Nat × Int :=
  let sh := Nat.log2 m2 + 64
  let n := m1 <<< sh
  (2 * (n / m2) + b2n (decide (n % m2 ≠ 0)), e1 - e2 - sh - 1)

/-- The exact quotient of two finite numbers, the divisor not zero. -/
def numDiv (a b : Num) : Num :=
  match a, b with
  | .fin n1 m1 e1, .fin n2 m2 e2 =>
    if m1 = 0 then .fin (n1 != n2) 0 0
    else
      let (q, k) := divDyadic m1 e1 m2 e2
      .fin (n1 != n2) q k
  | .inf n, .fin k _ _ => .inf (n != k)
  | .fin n _ _, .inf k => .fin (n != k) 0 0
  | _, _ => .nan false

/-- The quotient as a step of its own, the divisor not zero: IV for ∞ / ∞ and for a signalling NaN (R42). -/
def numQuot (a b : Num) : Flagged Num := do
  if a.signals || b.signals then raiseFlags flagIV
  match a, b with
  | .inf _, .inf _ =>
    raiseFlags flagIV
    return .nan false
  | _, _ => return numDiv a b

/-- A number rounded to an integer in a mode, and whether it changed (R40, R51, R167). -/
def roundInt (rm : Nat) (neg : Bool) (m : Nat) (e : Int) : Int × Bool :=
  let (n, ix) := roundShift rm neg m (-e)
  (if neg then -(n : Int) else n, ix)

/-! ### Steps in binary32, rounded to nearest even (R57, R63) -/

/-- Reads F32 bits without flushing. -/
def rd32 (x : Nat) : Num := f32.decode false x

/-- Rounds to F32 in RNE. -/
def rne32 (x : Num) : Flagged Nat := f32.round 1 false x

/-- F32 addition step. -/
def add32 (a b : Nat) : Flagged Nat := do rne32 (← numAdd false (rd32 a) (rd32 b))
/-- F32 subtraction step. -/
def sub32 (a b : Nat) : Flagged Nat := do rne32 (← numAdd false (rd32 a) (rd32 b).neg)
/-- F32 multiplication step. -/
def mul32 (a b : Nat) : Flagged Nat := do rne32 (← numMul (rd32 a) (rd32 b))
/-- F32 fused multiply-add step. -/
def fma32 (a b c : Nat) : Flagged Nat := do rne32 (← numFma false (rd32 a) (rd32 b) (rd32 c))
/-- The correctly rounded F32 square root. -/
def sqrt32 (a : Nat) : Flagged Nat := do rne32 (← numSqrt (rd32 a))
/-- F32 bits with the sign inverted. -/
def neg32 (a : Nat) : Nat := Nat.xor a 0x80000000
/-- Exact scaling by a power of two with one RNE rounding where the result is subnormal (R64). -/
def scale32 (a : Nat) (k : Int) : Flagged Nat := rne32 ((rd32 a).scale k)
/-- Whether F32 bits are NaN. -/
def isNan32 (a : Nat) : Bool := (rd32 a).isNan
/-- Whether F32 bits are NaN or an infinity. -/
def nonFinite32 (a : Nat) : Bool := bitsOf a 23 8 == 255
/-- The canonical F32 NaN. -/
def nan32 : Nat := 0x7FC00000

end Sys2Proof
end

