-- ==== Sys2Proof/Config.lean ====
section
/-!
DEFINITION. What the Vexelo V1 fixes but the spec does not print, and the values the spec leaves open: opaque constants
without a body, so that no proof can rest on one of their values (log entries 3 to 8, 23, 32, 41, 42, 44, 45, 52, 62, 81, 92, 94, 96 and 97).
-/
namespace Sys2Proof.Config

/-- Wall nanoseconds that pass at one crossed boundary or idle step (R16, R33): free, drawn with the counter. -/
opaque wallStep : Nat → Nat

/-- Which of the partitions that can go on does so next (R15: they share no time), drawn with the counter. -/
opaque interleave : Nat → Nat

/-- Whether the dispatcher already chooses the next launch for the hand-over (R262 gives no time), drawn with the counter. -/
opaque handOver : Nat → Bool

/-- Energy cost of the header of a bundle, by die (R384). -/
opaque costHeader : Nat → Nat
/-- Energy cost E[slot][class][type] of a slice syllable, by die (R384). -/
opaque costSyllable : Nat → Nat → Nat → Nat → Nat
/-- Energy cost ES of an S syllable, by die and opcode (R384). -/
opaque costS : Nat → Nat → Nat
/-- Energy cost PAD of a bundle in a padded pass, by die (R384). -/
opaque costPad : Nat → Nat

/-- The specifier code that TVAL of cause 0x19 names for stationary B (R357 lists none). -/
opaque codeStationaryB : Nat
/-- The specifier code that TVAL of cause 0x19 names for the bypass latch (R357 lists none). -/
opaque codeBypass : Nat

/-- Bits [3:0] of TVAL of cause 0x07 where the port is not a bank's (R357 gives them for a bank alone), by port. -/
opaque portField : Nat → Nat

/-- VEXP of a finite F32 value so low that its product with 64/ln 2 is minus infinity in F32 (R64 defines no nearest integer of it). -/
opaque expBelow : Nat → Nat

/-- SHA3-256 of a byte string (R259, R381, R388, R390): the named algorithm, not evaluated here. -/
opaque sha3 : List Byte → BitVec 256
/-- ML-DSA-44 verification of (public key, signature, digest) (R381). -/
opaque mldsaVerify : List Byte → List Byte → BitVec 256 → Bool
/-- ML-DSA-44 signature of a digest under the device key (R390). -/
opaque mldsaSign : BitVec 256 → List Byte
/-- The device's ML-DSA-44 public key (R390). -/
opaque devicePublicKey : List Byte
/-- AES-256-GCM: the tag over header and payload under (key, nonce) (R322). -/
opaque gcmTag : Nat → Nat → List Byte → Nat
/-- AES-256-GCM: the payload as it stands on the fibre, and its inverse (R322). -/
opaque gcmCrypt : Nat → Nat → List Byte → List Byte
/-- The fused device identity digest DEVID (R381, R390). -/
opaque deviceId : BitVec 256
/-- The fused lifecycle state LCS, 1 to 3 (R381). -/
opaque lifecycle : Nat
/-- The fused SHA3-256 digest of the debug public key (R382). -/
opaque debugKeyDigest : BitVec 256
/-- A fresh nonce of the Rootstock, drawn with the counter (R382). -/
opaque nonce : Nat → BitVec 256

/-- Whether the home of a local HATOM meets an ECC retry (R240, R369), drawn with the counter. -/
opaque eccRetry : Nat → Bool
/-- How many cycles after the home operation a parking notice is applied, modulo 400 (R29), drawn with the counter. -/
opaque noticeDelay : Nat → Nat
/-- The home of a physical word (R369): wall time and queue room only. -/
opaque homeOf : Nat → Nat
/-- The value of a word found uncorrectable (R369), drawn with the counter. -/
opaque badWord : Nat → Word

/-- Whether the scrubber met a correctable error in a bank word (R367), drawn with the counter. -/
opaque correctable : Nat → Bool

/-- Whether a word that crosses UCIe meets an uncorrectable error (R313), drawn with the counter. -/
opaque ucieError : Nat → Bool

/-- The regions that section 16 of an image binds, whose layout the spec does not give (R233, R265): (address, length, die, word). -/
opaque imageRegions : List Byte → List (Nat × Nat × Nat × Nat)
/-- The initial sync words of section 16 (R117, R265): (die, word, TARGET). -/
opaque imageSyncs : List Byte → List (Nat × Nat × Nat)
/-- The SMEM images of section 17, whose layout the spec does not give (R265): (die, address, bytes). -/
opaque imageSmem : List Byte → List (Nat × Nat × List Byte)

/-- The rank that an MMAS took from its B in one row, which no saved block holds (R346, R348), drawn with the counter. -/
opaque unsavedRank : Nat → Nat → Nat

/-- A byte of the undefined destination of a failed collective (R331), drawn with the counter. -/
opaque failedByte : Nat → Byte
/-- The set of the last-level TLB that holds a virtual page (R295, R296: wall time only). -/
opaque lastLevelSet : Nat → Nat
/-- The entry that the link TLB replaces (R295: random; wall time only), drawn with the counter. -/
opaque linkVictim : Nat → Nat

/-- The line that a full instruction cache gives up (R17 gives no policy), drawn with the counter. -/
opaque cacheVictim : Nat → Nat

/-- What stands in a context's save area (R247, R249: no layout but offsets), drawn with the counter. -/
opaque saveArea : Nat → List Byte
/-- Ranks of the slice part of a snapshot, modulo 64 and minus 1 (R248: 1 to 64), drawn with the counter. -/
opaque snapshotRanks : Nat → Nat
/-- Where the steward allocates a context's save area (R247), drawn with the counter. -/
opaque saveBase : Nat → Nat

/-- Bytes of a piece of state as a checkpoint writes it (R388 gives no layout). -/
opaque stateBytes {α : Type} : α → List Byte
/-- Path monitor k of a die (R386), drawn with the counter. -/
opaque pathMonitor : Nat → Nat → Nat → Nat
/-- Spare HBM channels of a die (R387). -/
opaque spareChannels : Nat
/-- Spare optical lanes of a port (R387). -/
opaque spareLanes : Nat
/-- The public key under which the Rootstock verifies steward firmware (R393). -/
opaque firmwareKey : List Byte

/-- Where telemetry has the count of failed accesses, and after it the first one's address (R391, R441 give no layout). -/
opaque dropCountAt : Nat
/-- What a byte of telemetry reports (R376, R384, R386, R391, R392): byte `i` of a count, of a die's ageing state, of the schedule in a port's
registers, of an entry of a die's cost table; the rest is power, temperatures and what the spec does not name. -/
inductive Telemetry
  | other
  | ignored (i : Nat)
  | corrected (die i : Nat)
  | age (die : Nat)
  | schedule (port i : Nat)
  | traceDropped (part i : Nat)
  | costHeader (die i : Nat)
  | costPad (die i : Nat)
  | costS (die op i : Nat)
  | costSyllable (die slot op ty i : Nat)
  deriving DecidableEq, Repr, Inhabited

/-- Which report stands in a byte of telemetry (R391 gives no layout). -/
opaque telemetryMap : Nat → Telemetry
/-- The rest of telemetry (R391: power, temperatures), drawn with the counter. -/
opaque telemetry : Nat → Nat → Byte

end Sys2Proof.Config
end

