-- ==== Sys2Proof/Machine/SMap.lean ====
section
/-!
DEFINITION. Sparse data by number: a list of (key, value) pairs, keys strictly rising. `set` keeps one canonical form
(no entry equal to the default); `put` keeps a record under its key whatever it holds.
-/
namespace Sys2Proof

/-- A sparse map from natural numbers, sorted by key. -/
abbrev SMap (α : Type) := List (Nat × α)

namespace SMap

variable {α : Type}

/-- The value under a key, or the default. -/
def get (d : α) : SMap α → Nat → α
  | [], _ => d
  | (k, v) :: r, n => if k = n then v else get d r n

/-- Whether a key has an entry. -/
def has : SMap α → Nat → Bool
  | [], _ => false
  | (k, _) :: r, n => k == n || has r n

/-- Puts a value under a key, keeping keys rising. -/
def put : SMap α → Nat → α → SMap α
  | [], n, x => [(n, x)]
  | (k, v) :: r, n, x =>
    if n < k then (n, x) :: (k, v) :: r
    else if n = k then (n, x) :: r
    else (k, v) :: put r n x

/-- Removes a key, wherever it stands. -/
def erase : SMap α → Nat → SMap α
  | [], _ => []
  | (k, v) :: r, n => if k = n then erase r n else (k, v) :: erase r n

/-- Puts a value, or removes the key where the value is the default (the canonical form). -/
def set [DecidableEq α] (d : α) (m : SMap α) (n : Nat) (x : α) : SMap α :=
  if x = d then erase m n else put m n x

/-- Keys strictly rising from a bound. -/
def sortedFrom : Nat → SMap α → Bool
  | _, [] => true
  | lo, (k, _) :: r => decide (lo ≤ k) && sortedFrom (k + 1) r

/-- The canonical form: keys strictly rising and no entry equal to the default. -/
def wf [DecidableEq α] (d : α) (m : SMap α) : Bool :=
  sortedFrom 0 m && m.all (fun e => decide (e.2 ≠ d))

/-- The keys in rising order. -/
def keys (m : SMap α) : List Nat := m.map Prod.fst

end SMap
end Sys2Proof
end

