-- ==== Sys2Proof/Machine/State.lean ====
section
/-!
DEFINITION. The state of the Vexelo V1, as plain data. Sparse maps list only what differs from the launch or reset value;
INVENTORY.md gives the rule and the reset value of every field.
-/
namespace Sys2Proof.Machine

/-! ### Sequencer state (R67) -/

/-- A loop level (R131); `lcN` that never ran is the default. -/
structure LoopLevel where
  count : Nat := 0
  bound : Nat := 0
  index : Nat := 0
  start : Nat := 0
  stop : Nat := 0
  dir : Bool := false
  live : Bool := false
  depth : Nat := 0
  deriving DecidableEq, Repr

/-- A page handle (R297). -/
structure Handle where
  v : Bool := false
  r : Bool := false
  w : Bool := false
  watch : Bool := false
  diff : Bool := false
  poison : Bool := false
  remote : Bool := false
  revoked : Bool := false
  size : Nat := 0
  gen : BitVec 16 := 0
  vbase : BitVec 52 := 0
  frame : BitVec 48 := 0
  deriving DecidableEq, Repr

/-- The tables and controls that a syllable takes as they stand at its bundle's T (R21, R82, R138, R198, R309, R336). The
format table and the region descriptors are of partition scope: every die holds an equal copy (R67, R334). -/
structure Tables where
  it : SMap (BitVec 128) := []
  sk : SMap (BitVec 224) := []
  fslot : SMap (BitVec 16) := []
  tsh : SMap (BitVec 16) := []
  shape : SMap (BitVec 1088) := []
  lc : SMap LoopLevel := []
  fmt : SMap (BitVec 16) := []
  dr : SMap (BitVec 256) := []
  handles : SMap Handle := []
  watch : SMap (BitVec 64) := []
  rmode : BitVec 2 := 0
  flush : BitVec 8 := 0
  cov : BitVec 3 := 0
  check : Bool := false
  amode : BitVec 2 := 0
  tapeBase : BitVec 64 := 0
  tapeLim : BitVec 64 := 0
  deriving DecidableEq, Repr

/-- A REVERSE under way (R350): its bundle, its mark, the ACC of its next adjoint bundle, its STALL and the CHK of its header. -/
structure RevRun where
  addr : Nat
  len : Nat
  mark : Nat
  next : Nat
  stall : Nat
  chk : Bool
  deriving DecidableEq, Repr

/-- A bundle in the rows (R28): a word, with what its syllables took at T. -/
structure Flight where
  die : Nat := 0
  T : Nat := 0
  addr : Nat := 0
  len : Nat := 0
  grp : Nat := 0
  present : BitVec 8 := 0
  lit : BitVec 32 := 0
  chk : Bool := false
  /-- CHK of the header (R86): `chk` without CHECK.EN. -/
  hdrChk : Bool := false
  hnd : Bool := false
  syl : List (Nat × Instr) := []
  rt : Option Trel := none
  wt : Option Trel := none
  xs : DWord := 0
  tab : Tables := {}
  /-- Log places of the slots that record: slot, page offset of the data, and KEEP (R343, R346). -/
  logs : List (Nat × Nat × Nat) := []
  /-- The physical base of the log page, as taken at T. -/
  logPa : Nat := 0
  /-- The record that an adjoint bundle inverts: its 32 bytes and its log frame (R350). -/
  inv : Option (BitVec 256 × Nat) := none
  deriving DecidableEq, Repr

/-- The run context of one timed step: where a syllable executes (context, die, slice, slot), its base cycle X, the row or
phase it has reached, whether it is a latched or late step (R361), and its bundle. -/
structure Ctx where
  cid : Nat := 0
  p : Nat := 0
  d : Nat := 0
  s : Nat := 0
  slot : Nat := 0
  X : Nat := 0
  row : Nat := 0
  /-- What a step took at its X for its later rows: an INT tag, a word offset, an address. -/
  aux : Nat := 0
  late : Bool := false
  fl : Flight := {}
  deriving DecidableEq, Repr

/-- A step that waits for its cycle, with the context it runs in. -/
structure Task where
  cyc : Nat
  ctx : Ctx
  instr : Instr
  deriving DecidableEq, Repr

/-! ### Slice state (R73) -/

/-- The exact sum of one accumulator cell's products (R58, R59): NaN, an infinity, or `num * 2^exp` with the sign of a zero. -/
inductive ExactSum
  | nan
  | inf (neg : Bool)
  | fin (num exp : Int) (negZero : Bool)
  deriving DecidableEq, Repr

/-- The stationary B of the matrix unit (R205): no type at launch. Column j stands in `cols` under key j, in tile-row
layout. -/
structure StatB where
  ty : Option (BitVec 4) := none
  sparse : Bool := false
  md : BitVec 2048 := 0
  cols : SMap TileRow := []
  deriving DecidableEq, Repr

/-- The adjoint file of a slice (R349). An adjoint is a format, which is an element width in bits or a BQ type (R424), with one
F32 word per element position. Register keys: tile halves `2 * (32 * n + row) + half`, accumulator rows
`512 + 64 * n + 32 * plane + row`, m registers 768 + n, tw 776, tl 777, the bypass latch 800 + row, the columns of the B adjoint
832 + j; and the FIFOs of q0 to q15. -/
structure AdjFile where
  regs : SMap (Nat × List Word) := []
  fifo : SMap (List (Nat × List Word)) := []
  deriving DecidableEq, Repr

/-- One slice. Banks are keyed by `16 * line + bank` (R74), tiles by `32 * n + row`, accumulator rows by
`64 * n + 32 * plane + row`. -/
structure Slice where
  bank : SMap Word := []
  tag : SMap (BitVec 2) := []
  q : SMap (List Rank) := []
  k : SMap (BitVec 128) := []
  m : SMap (BitVec 1024) := []
  t : SMap TileRow := []
  acc : SMap TileRow := []
  int : BitVec 4 := 0
  d : SMap (BitVec 2048) := []
  z : SMap (BitVec 56) := []
  tw : Rank := 0
  tl : Nat × Rank := (0, 0)
  tp : BitVec 19 := 0
  gid : List (BitVec 8) := []
  b : StatB := {}
  byp : SMap Rank := []
  /-- The pair latch of an MMAP (R215): the cycle in which the east half takes the products, and the products by cell. -/
  pair : List (Nat × List (List Num)) := []
  /-- The B columns that an MLDB has read so far (R211). -/
  bl : StatB := {}
  /-- The B tiles of an MMG2 as sampled at its X (R217): tile tB, then tB + 1, row by row. -/
  mmg2 : List (Nat × List TileRow) := []
  /-- The bundles of the last M syllable and of the last MLDB executed (R377). -/
  lastM : Nat := 0
  lastB : Nat := 0
  /-- The words at the delivery port in this cycle: plan, word, poisoned (R313). -/
  arr : List (Nat × Word × Bool) := []
  adj : AdjFile := {}
  deriving DecidableEq, Repr

/-! ### Owed writes and the timed core -/

/-- A write to a table, a control register or other die state, governing bundles issued after it (R138, R150). -/
inductive TabWrite
  | it (n : Nat) (v : BitVec 128)
  | sk (n : Nat) (v : BitVec 224)
  | fslot (n : Nat) (v : BitVec 16)
  | tsh (n : Nat) (v : BitVec 16)
  | shape (n : Nat) (v : BitVec 1088)
  | handle (n : Nat) (v : Handle)
  | dr (n : Nat) (v : BitVec 256)
  | amode (v : BitVec 2)
  | csr (n : Nat) (v : DWord) (T : Nat)
  | arm (addr : Nat) (tgt : Nat)
  | lapped (addr : Nat)
  | hinv (n : Nat)
  | acquire (n : Nat)
  | release (n : Nat)
  /-- TP of the die's slices in one column (R339). -/
  | tp (col : Nat) (v : BitVec 19)
  /-- The adjoint file of the die's slices in one column is cleared (R349). -/
  | clearAdj (col : Nat)
  deriving DecidableEq, Repr

/-- How an accumulator row is updated (R58, R207). -/
structure RowUpdate where
  a : Nat
  row : Nat
  isInt : Bool
  fresh : Bool
  rm : Nat
  flush : BitVec 8
  clamp : Bool
  s0 : List ExactSum
  s1 : List ExactSum
  deriving DecidableEq, Repr

/-- What an owed write writes. -/
inductive Dest
  | x (n : Nat) (v : DWord)
  | smem (addr len v : Nat)
  | tab (w : TabWrite)
  /-- A rank destination by its specifier code (R100). -/
  | spec (code : Nat) (v : Rank)
  | tl (v : Rank)
  /-- A bank word, with its new poison tag and, when it was reserved, the tape address of its entry (R340). -/
  | bank (b line : Nat) (v : Word) (tag : BitVec 2) (tape : Option Nat)
  | mom (n : Nat) (v : BitVec 1024)
  | tile (t row lo len : Nat) (v : TileRow)
  | md (n quarter : Nat) (v : Rank)
  | row (u : RowUpdate)
  | zeroRow (a row : Nat)
  | statB (b : StatB)
  | byp (row : Nat) (v : Rank)
  /-- TP of a slice, as the restores of an adjoint move it (R351). -/
  | tp (v : BitVec 19)
  | hbm (pa chan k : Nat) (v : Word) (poisonMark : Bool)
  | hatom (chan : Nat) (tag : Nat)
  /-- Bytes of a log record or of a saved rank (R343). -/
  | log (pa : Nat) (bs : List Byte)
  deriving DecidableEq, Repr

/-- A pending write (R28, R29): it performs at the end of cycle `due`, on the handler's count when `hnd`. -/
structure Owed where
  id : Nat
  due : Nat
  hnd : Bool
  T : Nat
  die : Nat
  slot : Nat
  s : Nat
  late : Bool
  rev : Bool
  dest : Dest
  /-- T of the bundle that owes it: issue order (R24), which a latched syllable keeps (R200). -/
  issued : Nat
  deriving DecidableEq, Repr

/-- A HATOM on its way to its home (R202, R240): its pairs (j, physical word, operand), where fetched values land (j, bank
word, tape entry), whether its home meets a memory-side fault, and the old values (j, value, uncorrectable) once performed. -/
structure Hatom where
  tag : Nat
  cid : Nat
  ctx : Ctx
  op : Nat
  home : Nat
  pairs : List (Nat × Nat × Word)
  fetch : List (Nat × Nat × Option Nat)
  remote : Bool
  retry : Bool
  parked : Bool := false
  /-- The parking notice has withdrawn its fetch (R29). -/
  withdrawn : Bool := false
  got : List (Nat × Word × Bool) := []
  deriving DecidableEq, Repr

/-- A use of a port of a slice (R194, R208, R316), at cycles relative to column 0; `rsv` is an RMW reservation. -/
structure PortUse where
  port : Nat
  lo : Nat
  hi : Nat
  rsv : Bool
  die : Nat
  grp : Nat
  T : Nat
  slot : Nat
  deriving DecidableEq, Repr

/-- An occupied window of a fill channel, or of the outer trellis by a plan (R203, R316); for a send, the slice at which its
words arrive and the plan's latency (R317). -/
structure Window where
  chan : Nat
  lo : Nat
  hi : Nat
  die : Nat
  s : Nat
  T : Nat
  slot : Nat
  /-- The group of its bundle (R281). -/
  grp : Nat
  out : Option (Nat × Nat) := none
  deriving DecidableEq, Repr

/-- A location that the checking scoreboard follows (R32). -/
inductive Loc
  | x (d n : Nat)
  | smem (d a : Nat)
  | reg (s code sub : Nat)
  | word (s key : Nat)
  | hbm (pa : Nat)
  deriving DecidableEq, Repr

/-- A scheduled access of an issued syllable: a write with its result cycle, or an HBM read. -/
structure Access where
  loc : Loc
  cyc : Nat
  write : Bool
  T : Nat
  die : Nat
  slot : Nat
  s : Nat
  chk : Bool
  /-- It belongs to a handler bundle: `cyc` counts the handler's cycles (R364). -/
  hnd : Bool
  deriving DecidableEq, Repr

/-- A trap that a step found (R357 to R361), with the cycle in which it is detected. -/
structure Trap where
  T : Nat
  code : Nat
  val : Nat
  die : Nat
  slice : Option Nat
  slot : Nat
  rev : Bool
  late : Bool
  tslice : Nat := 0
  cyc : Nat := 0
  /-- Its bundle is a handler's (R366). -/
  hnd : Bool := false
  deriving DecidableEq, Repr

/-- A collective posted by a die, to be handed over at T + 176 (R360). -/
structure CollPost where
  die : Nat
  T : Nat
  desc : BitVec 512
  sync : Nat
  k : Nat
  deriving DecidableEq, Repr

/-- What a hold waits for (R26). -/
inductive HoldOn
  | walk (va perm : Nat) (h : Option Nat)
  | imiss (lines : List Nat)
  | late (cyc : Nat)
  | wait (sync token xd slot : Nat)
  | align (target xd : Nat)
  | bank (n : Nat)
  | energy (cost : Nat)
  | fault (va perm : Nat) (h : Option Nat) (why seq : Nat) (answered : Bool)
  | migrate (va perm : Nat) (h : Option Nat)
  /-- Poison service: the shootdown of a page in which a line was marked (R26, R306). -/
  | poison (va len : Nat)
  | preempt
  | debug
  deriving DecidableEq, Repr

/-- A hold in force: its kind (R26), the die that raised it, what it waits for. -/
structure Hold where
  kind : Nat
  die : Nat
  on : HoldOn
  deriving DecidableEq, Repr

/-- A hold that a syllable asks for, beginning at the boundary before cycle `cyc` (R26). -/
structure HoldReq where
  cyc : Nat
  hnd : Bool
  hold : Hold
  deriving DecidableEq, Repr

/-- One die of the timed core (R67). -/
structure Die where
  x : SMap DWord := []
  smem : SMap Byte := []
  smemBad : List Nat := []
  tab : Tables := {}
  link : List DWord := []
  pc : Nat := 0
  next : Nat := 0
  ended : Option Nat := none
  dieEnd : Bool := false
  rev : Option RevRun := none
  /-- The last result cycle, relative to column 0, of a bundle issued under RECORD (R337). -/
  recEnd : Nat := 0
  inS : Bool := false
  hpc : Nat := 0
  hnext : Nat := 0
  skip : Bool := false
  /-- The END bundle whose length the walker still has to read (R132). -/
  probe : Option Nat := none
  xflags : BitVec 5 := 0
  nf : BitVec 4 := 0
  evts : List (Nat × BitVec 9) := []
  tcause : DWord := 0
  tbundle : DWord := 0
  tacc : DWord := 0
  tval : DWord := 0
  tslice : DWord := 0
  tvec : DWord := 0
  tstat : DWord := 0
  tscratch : DWord := 0
  logbase : DWord := 0
  loglim : DWord := 0
  logptr : DWord := 0
  deriving DecidableEq, Repr

/-- Everything of a context that a rewind takes back (R358): the timed state of its partition. -/
structure Core where
  acc : DWord := 0
  hclk : Nat := 0
  handler : Bool := false
  hgen : BitVec 16 := 0
  dies : SMap Die := []
  slices : SMap Slice := []
  hops : SMap Rank := []
  sinks : SMap Rank := []
  owed : List Owed := []
  flights : List Flight := []
  tasks : List Task := []
  ports : List PortUse := []
  chans : List Window := []
  plans : List Window := []
  access : List Access := []
  hatoms : List Hatom := []
  homeWords : List Nat := []
  reqs : List HoldReq := []
  /-- The results that form when the last hold ends (R440). -/
  forming : List HoldReq := []
  posts : List CollPost := []
  postCount : SMap Nat := []
  traps : List Trap := []
  ereserve : BitVec 48 := 0
  acquired : BitVec 16 := 1
  owned : SMap (BitVec 128) := []
  planes : BitVec 8 := 0xFF
  /-- Blocks that a RELB gave back and that wait for the last write owed to them: slice and block, or 4096 and plane (R272). -/
  releasing : List (Nat × Nat) := []
  debit : Nat := 0
  nextId : Nat := 0
  /-- Inputs applied so far: what a rewind to this core has still to apply again (R360). -/
  seen : Nat := 0
  /-- Entries of the replay log when the core became a mark (R379). -/
  logged : Nat := 0
  deriving DecidableEq, Repr

/-! ### Contexts and kernels (R241 to R284) -/

/-- Context states (R244). -/
inductive CtxState
  | empty | loading | running | held | frozen | parked | saved | restoring | retired | failed
  deriving DecidableEq, Repr

/-- Kernel states (R270). -/
inductive KernelState
  | staged | admitted | prologue | running | held | suspended | ending | retired | faulted
  deriving DecidableEq, Repr

/-- The effect of an external input on the timed core, kept so that a rewind can apply it again (R360). -/
inductive CoreInput
  | arrival (d n b : Nat) (err : Bool) (vref : Nat)
  | target (d n v : Nat)
  | status (d n v : Nat)
  | shootdown (va len : Nat)
  /-- The parking notice of the HATOM with a key (R29). -/
  | withdraw (key : Nat)
  | landing (h : Hatom)
  /-- Bytes that another party writes to HBM (R232). -/
  | hbm (pa : Nat) (bs : List Byte)
  /-- An uncorrectable error in a bank word: its tag becomes 01 (R368). -/
  | bankError (slice key : Nat)
  /-- An uncorrectable error in an SMEM word (R367). -/
  | smemError (d w : Nat)
  /-- A debugger's write (R375), which a rewind leaves. -/
  | debug (t : DbgTarget) (v : Nat)
  deriving DecidableEq, Repr

/-- A group entry (R276). -/
structure GroupEntry where
  members : BitVec 4096 := 0
  dies : BitVec 8 := 0
  remote : List Nat := []
  v : Bool := false
  deriving DecidableEq, Repr

/-- A route plan (R312): kind 1 local, 2 global; its inverse; its settings. -/
structure Plan where
  kind : Nat
  inv : Option Nat
  settings : Nat
  deriving DecidableEq, Repr

/-- A shared region bound to a sync word (R233). -/
structure Region where
  va : Nat
  len : Nat
  die : Nat
  n : Nat
  deriving DecidableEq, Repr

/-- A prologue entry (R267) and how far it has come: 0 waiting, 1 issued, 2 landed. -/
structure Prologue where
  src : Nat
  words : Nat
  die : Nat
  row : Nat
  col0 : Nat
  col1 : Nat
  line : Nat
  bmask : BitVec 16
  after : Bool
  cstride : Int
  stage : Nat
  chan : Nat
  deriving DecidableEq, Repr

/-- One entry of a replay log (R379). -/
structure ReplayEntry where
  acc : Nat
  cls : Nat
  die : Nat
  payload : List Byte
  /-- What the entry does to the timed core when it is applied again (R380). -/
  inputs : List CoreInput
  deriving DecidableEq, Repr

/-- A context with its kernel: everything beside the timed core. `marks` are the cores at the last boundaries, newest
first (the rewind record of R358); `undo` the HBM writes of that span (cycle, address, bytes replaced, bytes written); `stands` those of
a rewound span that another party's access followed (R240); `applied` the inputs applied in it, numbered. -/
structure Context where
  state : CtxState := .empty
  kernel : KernelState := .staged
  p : Nat := 0
  dies : List Nat := []
  queue : Nat := 0
  launch : BitVec 512 := 0
  img : Nat := 0
  header : BitVec 2048 := 0
  asn : Nat := 0
  ptbase : Nat := 0
  save : Nat := 0
  text : List (Nat × List Byte) := []
  groups : SMap GroupEntry := []
  plans : SMap Plan := []
  regions : List Region := []
  sets : List (BitVec 8 × SMap (BitVec 128)) := []
  prologue : List Prologue := []
  spill : SMap (BitVec 64) := []
  holds : List Hold := []
  begun : Nat := 0
  holdr : DWord := 0
  holdcnt : DWord := 0
  counters : BitVec 8 := 0
  canopy : Nat := 0
  preempted : Bool := false
  stepTo : Option Nat := none
  marks : List (Nat × Core) := []
  undo : List (Nat × Nat × List Byte × List Byte) := []
  stands : List (Nat × Nat × List Byte) := []
  applied : List (Nat × CoreInput) := []
  recording : Bool := false
  replayLog : List ReplayEntry := []
  replaying : Bool := false
  truncated : Option Nat := none
  profBase : Nat := 0
  profG : Nat := 0
  prof : SMap Nat := []
  quantumOut : Bool := false
  /-- WAC at dispatch or restore (R263). -/
  started : Nat := 0
  /-- The kernel that ran in the partition at the launch's admission, for which an AFTER entry waits (R269). -/
  after : Option Nat := none
  deriving DecidableEq, Repr

/-! ### Partition, package and hub -/

/-- Queue states (R261). -/
inductive QueueState
  | empty | waiting | ready | dispatching | blocked | suspended | errored
  deriving DecidableEq, Repr

/-- The dispatcher's copy of a launch queue (R258, R262). The control block itself lies in HBM (R255). -/
structure Queue where
  state : QueueState := .empty
  head : BitVec 512 := 0
  boost : Nat := 0
  order : Nat := 0
  /-- WAC when the ready time of the present aging step began (R261, R262). -/
  since : Nat := 0
  launch : Option Nat := none
  deriving DecidableEq, Repr

/-- An unanswered page-fault entry (R300), or one kept back while the ring is full. -/
structure FaultEntry where
  seq : Nat
  bytes : BitVec 256
  posted : Bool
  deriving DecidableEq, Repr

/-- A partition (R14). -/
structure Part where
  n : Nat := 0
  make : PartMake := ⟨0, 0, 0, 0, 0, 0, 0, 0, 0⟩
  running : Option Nat := none
  next : Option Nat := none
  queues : SMap Queue := []
  served : SMap Nat := []
  level4 : Nat := 0
  pfSeq : Nat := 0
  pf : List FaultEntry := []
  allow : DWord := 0
  rate : BitVec 32 := 0
  cap : BitVec 32 := 0
  refill : Nat := 0
  record : Bool := false
  /-- The replay log that the partition keeps, and the ACC at which it was truncated (R379). -/
  log : List ReplayEntry := []
  logEnd : Option Nat := none
  profBase : Nat := 0
  profG : Nat := 0
  traceAt : Nat := 0
  /-- For each record of the ring the context that made it, plus 1; 0 once that context is gone (R376). -/
  traceBy : List Nat := []
  traceDropped : Nat := 0
  replayAt : Nat := 0
  deriving DecidableEq, Repr

/-- A TLB entry (R295): the page, its address-space number, and the leaf. -/
structure TlbEntry where
  va : Nat
  size : Nat
  asn : Nat
  leaf : BitVec 64
  pinned : Bool
  deriving DecidableEq, Repr

/-- Hardware of a die outside any context: TLBs, instruction cache, breakpoints, trace control, margins and spares
(R13, R295, R373, R376, R386). -/
structure DieHw where
  dtlb : List TlbEntry := []
  itlb : List TlbEntry := []
  linkTlb : List TlbEntry := []
  ltlb : List TlbEntry := []
  icache : List (Nat × Nat) := []
  dbp : SMap (BitVec 64) := []
  trKinds : BitVec 16 := 0
  trLo : Nat := 0
  trHi : Nat := 0
  age : Nat := 0
  mhz : Nat := 1800
  /-- What the path monitors 0 to 63 showed when the steward last read them (R386). -/
  monitors : List Nat := []
  /-- HBM channels whose place a spare channel has taken (R387). -/
  chanOut : List Nat := []
  out : List (Nat × Nat) := []
  degraded : Bool := false
  corrected : Nat := 0
  deriving DecidableEq, Repr

/-- Port states (R327). -/
inductive PortState
  | down | training | identityCheck | locked | live | draining | quarantined
  deriving DecidableEq, Repr

/-- An optical port (R320, R327). -/
structure Port where
  state : PortState := .down
  en : Bool := false
  nslot : Nat := 0
  slotLen : Nat := 10000
  guard : Nat := 500
  start : Nat := 0
  slots : List SlotReg := []
  slot : Nat := 0
  fails : SMap Nat := []
  noSlotYet : Bool := true
  /-- Lanes whose place a spare lane has taken (R327, R387). -/
  lanesOut : List Nat := []
  /-- Hundredths of a nanosecond of the present slot that its packets have used up. -/
  used : Nat := 0
  deriving DecidableEq, Repr

/-- A collective as one die of this package takes part in it (R329 to R331): its posted descriptor, the members, what its source held,
where its own part of the destination goes on, and the bytes written so far. -/
structure Coll where
  id : Nat
  cid : Nat
  die : Nat
  post : CollPost
  members : List (Nat × Nat)
  source : List Byte
  cursor : Nat
  written : Nat
  done : Bool
  /-- Reduction results that this member's engine has sent: member, offset. -/
  sent : List (Nat × Nat) := []
  /-- It is finished: the destination is complete, and so is what its engine owes other packages. -/
  finished : Bool := false
  /-- Its set has failed (R331): a member that posts later fails too. -/
  failed : Bool := false
  deriving DecidableEq, Repr

/-- A part of a remote member's source that the link engine holds for a reduction (R330): match number, member, offset, bytes. -/
structure Chunk where
  key : Nat
  member : Nat
  off : Nat
  bytes : List Byte
  deriving DecidableEq, Repr

/-- A packet that waits to be sent or acknowledged (R323 to R325): the collective that made it with its member's sync word, whether it
must take the two-hop path, and the WAC from which a lack of acknowledgement has it sent again. -/
structure Sent where
  pkt : Packet
  coll : Option Nat := none
  word : Option SyncRef := none
  ind : Bool := false
  due : Nat := 0
  deriving DecidableEq, Repr

/-- The tables of a vintage (R325): the packages of its topology and the schedule of each port. -/
structure Vintage where
  members : List Nat
  ports : SMap PortSchedule
  deriving DecidableEq, Repr

/-- The link engine (R319 to R331). -/
structure Link where
  ports : SMap Port := []
  keys : SMap Nat := []
  vint : Nat := 0
  tables : SMap Vintage := []
  sendQ : SMap (List Sent) := []
  fwdQ : SMap (List Packet) := []
  /-- The port that took the last packet for each peer in its present slot (R323). -/
  turn : SMap Nat := []
  unacked : List Sent := []
  seqOut : SMap Nat := []
  seqIn : SMap Nat := []
  /-- Packets taken in that wait for their turn in SEQ order. -/
  early : List Packet := []
  /-- Packets delivered to the link engine that wait for a post, or for a debug stop to end (R326, R329). -/
  waiting : List Packet := []
  acks : SMap (List Nat) := []
  refusals : SMap (List Packet) := []
  colls : List Coll := []
  chunks : List Chunk := []
  nextColl : Nat := 0
  /-- Match numbers of sets that failed before a member here had posted (R331). -/
  failedSets : List Nat := []
  /-- Launches begun on a die that use a group with other packages, by group and die (R329). -/
  launches : SMap Nat := []
  accepting : Bool := true
  slew : Int := 0
  /-- What the ports have handed to the fibre: port and packet. -/
  out : List (Nat × Packet) := []
  deriving DecidableEq, Repr

/-- A pending shootdown (R301): its range, the contexts it has still to reach, and its completion word. -/
structure Shootdown where
  id : Nat
  va : Nat
  len : Nat
  left : List Nat
  sync : Nat
  deriving DecidableEq, Repr

/-- A page migration under way (R305). -/
structure Migration where
  p : Nat
  va : Nat
  leafPa : Nat
  frame : Nat
  deriving DecidableEq, Repr

/-- A checkpoint in the cellar tier (R388): the HBM pages, the state of every saved context and its ACC, and the digest of the commit
record. -/
structure Checkpoint where
  digest : BitVec 256
  pages : List Host.Cell
  cores : SMap Core
  accs : List (Nat × Nat)
  deriving DecidableEq, Repr

/-- The hub die, the steward, the Rootstock and the host endpoint (R8, R371 to R393). -/
structure Hub where
  wac : DWord := 0
  /-- The part of a nanosecond that WAC carries, in millionths (R33). -/
  wacPart : Nat := 0
  pkg : BitVec 32 := 0
  sync : SMap (BitVec 128) := []
  stat : DWord := 0
  ret : List DWord := [0, 0, 0, 0, 0, 0, 0]
  args : List DWord := [0, 0, 0, 0, 0, 0, 0]
  cmd : DWord := 0
  /-- Commands written while BUSY (R392). -/
  cmdIgnored : Nat := 0
  mbwin : DWord := 0
  readback : List Byte := []
  msix : BitVec 32 := 0
  msixTable : SMap (BitVec 128) := []
  dropped : Nat := 0
  firstDrop : Option Nat := none
  events : List (Nat × Nat) := []
  shootdowns : List Shootdown := []
  migrations : List Migration := []
  poison : List Nat := []
  badWords : List Nat := []
  homes : SMap (List Nat) := []
  performed : List Nat := []
  hatoms : List Hatom := []
  nextId : Nat := 0
  debugOpen : Bool := false
  brkStops : Bool := false
  nonce : Option (BitVec 256) := none
  tokenFails : Nat := 0
  measure : BitVec 256 := 0
  /-- Host policy asks for the measurement of kernel images (R390). -/
  measureImages : Bool := false
  report : List Byte := []
  barOpen : Bool := false
  powered : Bool := true
  checkpoint : Option Checkpoint := none
  deriving DecidableEq, Repr

/-- An outside event that waits: it is due when its partition stands at `acc` (any boundary when `none`). -/
structure Pending where
  p : Nat
  acc : Option Nat
  instr : Instr
  deriving DecidableEq, Repr

/-- The whole machine. `cur`, `agenda`, `inputs` and `free` are the model's own (INVENTORY.md, State). -/
structure State where
  cur : Ctx
  agenda : List Task
  inputs : List Pending
  free : Nat
  cores : SMap Core
  ctxs : SMap Context
  parts : SMap Part
  hw : SMap DieHw
  hub : Hub
  link : Link
  hbm : List Host.Cell
  deriving DecidableEq, Repr

/-- Why a step stops with a fault. -/
inductive Fault
  /-- An event names a context, queue, pending write, hold or packet that is not there. Raised by the meanings of the
  outside events and of the numbered timed steps; safe: no such step exists in the spec. -/
  | noSuchObject
  /-- An event comes in a state in which the spec gives it no transition. Raised by the meanings of outside events; safe. -/
  | notInThisState
  deriving DecidableEq, Repr

/-- Why a step is refused. -/
inductive Refusal
  /-- The instruction has no meaning in the model. Raised by exec's arms only; safe. -/
  | notModelled (mnemonic : String)
  deriving DecidableEq, Repr

/-- The machine right after device reset (R393): every field at its reset value, no partition and no context (R244). WAC
and DIEID.PKG before bring-up, and what unlisted HBM bytes read as, are design choices (log entries 1 and 2). -/
def State.reset : State where
  cur := {}
  agenda := []
  inputs := []
  free := 0
  cores := []
  ctxs := []
  parts := []
  hw := []
  hub := {}
  link := {}
  hbm := []

end Sys2Proof.Machine
end

