-- ==== Sys2Proof/Machine/Ops.lean ====
section
/-!
DEFINITION. The named operations over the state: the running context, registers and memories, owed writes (R29), traps as
they are detected (R357), the checking scoreboard (R32), and the flag events of R45 and R46. A syllable that raises a trap
goes on with a zero in place of what it could not read: its whole bundle is taken back at the trap (R358).
-/
namespace Sys2Proof.Machine

/-- The answer of a step. -/
abbrev Res := Host.Outcome State Fault Refusal

/-- A truth value as a register value. -/
def boolW (b : Bool) : DWord := if b then 1 else 0

/-! ### Parts of the state -/

/-- The timed core of a context. -/
def State.core (s : State) (cid : Nat) : Core := SMap.get {} s.cores cid
/-- Replaces the timed core of a context. -/
def State.setCore (s : State) (cid : Nat) (c : Core) : State := { s with cores := SMap.put s.cores cid c }
/-- A context. -/
def State.ctx (s : State) (cid : Nat) : Context := SMap.get {} s.ctxs cid
/-- Replaces a context. -/
def State.setCtx (s : State) (cid : Nat) (c : Context) : State := { s with ctxs := SMap.put s.ctxs cid c }
/-- Changes a context. -/
def State.onCtx (s : State) (cid : Nat) (f : Context → Context) : State := s.setCtx cid (f (s.ctx cid))
/-- A partition. -/
def State.part (s : State) (p : Nat) : Part := SMap.get {} s.parts p
/-- Changes a partition. -/
def State.onPart (s : State) (p : Nat) (f : Part → Part) : State :=
  { s with parts := SMap.put s.parts p (f (s.part p)) }
/-- The hardware of a die outside any context. -/
def State.dieHw (s : State) (d : Nat) : DieHw := SMap.get {} s.hw d
/-- Changes the hardware of a die. -/
def State.onHw (s : State) (d : Nat) (f : DieHw → DieHw) : State := { s with hw := SMap.put s.hw d (f (s.dieHw d)) }
/-- Changes the hub. -/
def State.onHub (s : State) (f : Hub → Hub) : State := { s with hub := f s.hub }
/-- Changes the link engine. -/
def State.onLink (s : State) (f : Link → Link) : State := { s with link := f s.link }
/-- The core of the running step. -/
def State.here (s : State) : Core := s.core s.cur.cid
/-- Changes the core of the running step. -/
def State.onCore (s : State) (f : Core → Core) : State := s.setCore s.cur.cid (f s.here)
/-- A die of a core. -/
def Core.die (c : Core) (d : Nat) : Die := SMap.get {} c.dies d
/-- Changes a die of a core. -/
def Core.onDie (c : Core) (d : Nat) (f : Die → Die) : Core := { c with dies := SMap.put c.dies d (f (c.die d)) }
/-- A slice of a core (R12). -/
def Core.slice (c : Core) (n : Nat) : Slice := SMap.get {} c.slices n
/-- Changes a slice of a core. -/
def Core.onSlice (c : Core) (n : Nat) (f : Slice → Slice) : Core := { c with slices := SMap.put c.slices n (f (c.slice n)) }
/-- The die of the running step. -/
def State.die (s : State) : Die := s.here.die s.cur.d
/-- Changes the die of the running step. -/
def State.onDie (s : State) (f : Die → Die) : State := s.onCore (·.onDie s.cur.d f)
/-- The slice of the running step. -/
def State.slice (s : State) : Slice := s.here.slice s.cur.s
/-- Changes the slice of the running step. -/
def State.onSlice (s : State) (f : Slice → Slice) : State := s.onCore (·.onSlice s.cur.s f)
/-- T of the running step's bundle. -/
def State.T (s : State) : Nat := s.cur.fl.T
/-- The ACC of the running bundle: T, or TACC for a handler's bundle (R364). -/
def State.accT (s : State) : Nat := if s.cur.fl.hnd then s.here.acc.toNat else s.cur.fl.T
/-- X, the base sampling cycle of the running slice step (R3). -/
def State.X (s : State) : Nat := s.cur.X
/-- The tables as they stood at T. -/
def State.tab (s : State) : Tables := s.cur.fl.tab
/-- The cycle that the core counts now: ACC, or the handler's count while a handler runs (R364). -/
def Core.now (c : Core) : Nat := if c.handler then c.hclk else c.acc.toNat
/-- The column of a slice number (R12). -/
def colOf (n : Nat) : Nat := n % 128
/-- The die of a slice number (R12). -/
def dieOf (n : Nat) : Nat := n / 512
/-- The row of a slice number within its die (R12). -/
def rowOf (n : Nat) : Nat := n / 128 % 4
/-- Draws a number for a free value. -/
def State.fresh (s : State) : Nat × State := (s.free, { s with free := s.free + 1 })

/-! ### Owed writes and timed steps -/

/-- The T from which the running step counts (R45, R361): a latched M syllable counts as if it issued at `X_M - c - 2`. -/
def Ctx.issueT (c : Ctx) : Nat := if c.late && c.slot == 3 then c.X - colOf c.s - 2 else c.fl.T

/-- Adds a pending write that performs at the end of cycle `due` (R29). -/
def State.owe (s : State) (due : Nat) (dest : Dest) : State :=
  s.onCore fun c =>
    { c with
      owed := c.owed ++ [⟨c.nextId, due, s.cur.fl.hnd, s.cur.issueT, s.cur.d, s.cur.slot, s.cur.s, s.cur.late,
        s.cur.fl.inv.isSome, dest, s.cur.fl.T⟩]
      nextId := c.nextId + 1 }

/-- Schedules a step of the running context for a later cycle, at a row or phase. -/
def State.later (s : State) (cyc row : Nat) (i : Instr) : State :=
  s.onCore fun c => { c with tasks := c.tasks ++ [⟨cyc, { s.cur with row := row }, i⟩] }

/-! ### Traps (R357 to R361) -/

/-- The T to which a trap of the running step is charged (R361): the bundle's T; for a latched M syllable `X_M - c - 2`; for
the late part of a receive found in cycle `cyc`, `cyc - c - 2`, but not before the bundle's T. -/
def State.chargeT (s : State) (cyc : Nat) : Nat :=
  if s.cur.late && s.cur.slot != 3 then max s.cur.fl.T (cyc - colOf s.cur.s - 2) else s.cur.issueT

/-- Records a trap that the sequencer detects, charged to the running step's bundle. -/
def State.trapT (s : State) (code val : Nat) : State :=
  s.onCore fun c =>
    { c with traps := c.traps ++ [⟨s.cur.fl.T, code, val, s.cur.d, none, s.cur.slot, s.cur.fl.inv.isSome, false, 0, 0, s.cur.fl.hnd⟩] }

/-- Records a trap that the running slice detects in cycle `cyc`. -/
def State.trapS (s : State) (cyc code val : Nat) : State :=
  s.onCore fun c =>
    { c with traps := c.traps ++
        [⟨s.chargeT cyc, code, val, s.cur.d, some s.cur.s, s.cur.slot, s.cur.fl.inv.isSome,
          decide (s.chargeT cyc ≠ s.cur.fl.T) || (s.cur.late && s.cur.slot == 3), s.cur.s, cyc, s.cur.fl.hnd⟩] }

/-- Records a trap that is found in cycle `cyc` but that no slice detects (R357 gives the cause to the sequencer): SV = 0. -/
def State.trapB (s : State) (cyc code val : Nat) : State :=
  s.onCore fun c =>
    { c with traps := c.traps ++
        [⟨s.chargeT cyc, code, val, s.cur.d, none, s.cur.slot, s.cur.fl.inv.isSome,
          decide (s.chargeT cyc ≠ s.cur.fl.T) || (s.cur.late && s.cur.slot == 3), s.cur.s, cyc, s.cur.fl.hnd⟩] }

/-- Records a trap of the checking scoreboard (R32), which no slice detects: found at once, and charged by R361 for what happens in
cycle `cyc`. -/
def State.trapCWhen (s : State) (b : Bool) (cyc code val : Nat) : State :=
  if b then
    s.onCore fun c =>
      { c with traps := c.traps ++
          [⟨s.chargeT cyc, code, val, s.cur.d, none, s.cur.slot, s.cur.fl.inv.isSome,
            decide (s.chargeT cyc ≠ s.cur.fl.T) || (s.cur.late && s.cur.slot == 3), 0, 0, s.cur.fl.hnd⟩] }
  else s

/-- Records a trap of `trapB` when a condition holds. -/
def State.trapBWhen (s : State) (b : Bool) (cyc code val : Nat) : State := if b then s.trapB cyc code val else s
/-- Records a slice trap when a condition holds. -/
def State.trapWhen (s : State) (b : Bool) (cyc code val : Nat) : State := if b then s.trapS cyc code val else s
/-- Records a sequencer trap when a condition holds. -/
def State.trapTWhen (s : State) (b : Bool) (code val : Nat) : State := if b then s.trapT code val else s

/-- The position of the running syllable in its bundle (R357): 1 plus the present slots before it. -/
def State.position (s : State) : Nat :=
  1 + ((List.range s.cur.slot).filter fun n => s.cur.fl.present.getLsbD (7 - n)).length

/-! ### The checking scoreboard (R32) -/

/-- Whether an access belongs to a syllable issued before the running one: by T, then die, then slot (log entry 10). -/
def State.earlier (s : State) (a : Access) : Bool :=
  decide (a.T < s.cur.fl.T) ||
    (a.T == s.cur.fl.T && (decide (a.die < s.cur.d) || (a.die == s.cur.d && decide (a.slot < s.cur.slot))))

/-- TVAL of cause 0x19 (R357). -/
def Loc.tval : Loc → Nat
  | .x _ n => 1 + n * 256
  | .smem _ a => 2 + a * 256
  | .reg _ code _ =>
    3 + (if code = 0x7E then Config.codeStationaryB else if code = 0x7F then Config.codeBypass else code) * 256
  | .word _ key => 4 + (4 * key) * 256
  | .hbm pa => 5 + pa * 256

/-- Whether a write that the running step meets at cycle `cyc` is still owed then. A handler bundle counts its own cycles, while
ACC stands: every kernel write owed at the trap boundary is still owed to its S syllable (R364); its slice syllables meet the writes that
they would meet outside the handler (R366). -/
def State.owedPast (s : State) (a : Access) (cyc : Nat) : Bool :=
  if a.hnd == s.cur.fl.hnd then decide (a.cyc > cyc) && s.earlier a
  else s.cur.fl.hnd && decide (a.cyc > s.here.acc.toNat + (if s.cur.slot = 0 then 0 else cyc - s.cur.fl.T))

/-- Whether a covered sampling of a location in a cycle meets an earlier write still owed (R32). -/
def State.unsettled (s : State) (loc : Loc) (cyc : Nat) : Bool :=
  s.cur.fl.chk && s.here.access.any fun a => a.write && a.loc == loc && s.owedPast a cyc

/-- A covered sampling of a location in cycle `cyc`: cause 0x19 before the result cycle of an earlier write (R32). -/
def State.sample (s : State) (loc : Loc) (cyc : Nat) : State :=
  s.trapCWhen (s.unsettled loc cyc) cyc 0x19 loc.tval

/-- A write of a location with a result cycle: cause 0x19 when an earlier write has a later one; the write is recorded
(R32). -/
def State.mark (s : State) (loc : Loc) (result : Nat) : State :=
  let s' := s.trapCWhen
    (s.cur.fl.chk && s.here.access.any fun a => a.write && a.loc == loc && s.owedPast a result)
    result 0x19 loc.tval
  s'.onCore fun c =>
    { c with access := c.access ++ [⟨loc, result, true, s.cur.fl.T, s.cur.d, s.cur.slot, s.cur.s, s.cur.fl.chk, s.cur.fl.hnd⟩] }

/-- An HBM access in cycle `cyc`, kept for the check of R32 that runs once every earlier bundle has reached its X. -/
def State.markHbm (s : State) (pa cyc : Nat) (write : Bool) : State :=
  s.onCore fun c =>
    { c with access := c.access ++ [⟨.hbm pa, cyc, write, s.cur.fl.T, s.cur.d, s.cur.slot, s.cur.s, s.cur.fl.chk, s.cur.fl.hnd⟩] }

/-! ### x registers and the S result (R119, R121) -/

/-- An x register of the running die; x0 reads zero. -/
def State.xreg (s : State) (n : BitVec 5) : DWord := if n = 0 then 0 else SMap.get 0 s.die.x n.toNat

/-- Samples an x register at T for the scoreboard. -/
def State.useX (s : State) (n : BitVec 5) : State :=
  if n = 0 then s else s.sample (.x s.cur.d n.toNat) s.cur.fl.T

/-- The value of the bundle's S syllable, for xs (R101): kept with the word in the rows. -/
def State.setXs (s : State) (v : DWord) : State :=
  s.onCore fun c =>
    { c with flights := c.flights.map fun f =>
        if f.die = s.cur.d ∧ f.T = s.cur.fl.T ∧ f.hnd = s.cur.fl.hnd then { f with xs := v } else f }

/-- The xd result of an S syllable, seen from T + `lat` on (R119): a write to x0 is discarded, xs takes the value. -/
def State.retX (s : State) (xd : BitVec 5) (v : DWord) (lat : Nat) : State :=
  let s' := s.setXs v
  if xd = 0 then s'
  else (s'.mark (.x s.cur.d xd.toNat) (s.cur.fl.T + lat)).owe (s.cur.fl.T + lat - 1) (.x xd.toNat v)

/-- A table or control write of the bundle at T: it governs bundles issued at T + 1 or later (R138, R150). -/
def State.oweTab (s : State) (w : TabWrite) : State := s.owe s.cur.fl.T (.tab w)

/-! ### SMEM (R68, R127) -/

/-- One byte of SMEM. -/
def Die.smemByte (d : Die) (a : Nat) : Byte := SMap.get 0 d.smem a
/-- Little-endian bytes of SMEM from an address. -/
def Die.smemRead (d : Die) (a n : Nat) : Nat := ofLeBytes ((List.range n).map fun i => d.smemByte (a + i))
/-- Writes bytes into SMEM; a clean write clears an uncorrectable mark (R367). -/
def Die.smemWrite (d : Die) (a : Nat) (bs : List Byte) : Die :=
  { d with
    smem := (bs.zipIdx a).foldl (fun m e => SMap.set 0 m e.2 e.1) d.smem
    smemBad := d.smemBad.filter fun w => decide (4 * w + 4 ≤ a ∨ a + bs.length ≤ 4 * w) }
/-- Samples the SMEM words under a range. -/
def State.useSmem (s : State) (a n cyc : Nat) : State :=
  (List.range ((n + 3) / 4)).foldl (fun s i => s.sample (.smem s.cur.d (a / 4 * 4 + 4 * i)) cyc) s
/-- Marks the SMEM words under a range as written with a result cycle. -/
def State.markSmem (s : State) (a n result : Nat) : State :=
  (List.range ((n + 3) / 4)).foldl (fun s i => s.mark (.smem s.cur.d (a / 4 * 4 + 4 * i)) result) s

/-! ### HBM (R9, R229) -/

/-- One byte of HBM; an address that nothing has written reads 0, and one at or above the 512 GiB of R17 is like any other (log entry 1). -/
def State.hbmByte (s : State) (pa : Nat) : Byte := SMap.get 0 s.hbm pa
/-- Little-endian bytes of HBM. -/
def State.hbmRead (s : State) (pa n : Nat) : Nat := ofLeBytes ((List.range n).map fun i => s.hbmByte (pa + i))
/-- Writes bytes into HBM, keeping its canonical form. -/
def State.hbmWrite (s : State) (pa : Nat) (bs : List Byte) : State :=
  { s with hbm := (bs.zipIdx pa).foldl (fun m e => SMap.set 0 m e.2 e.1) s.hbm }
/-- The canonical form of HBM: addresses strictly rising, no entry equal to what an unlisted address reads as. -/
def State.hbmWf (s : State) : Bool := SMap.wf (0 : Byte) s.hbm
/-- Bytes of HBM. -/
def State.hbmBytes (s : State) (pa n : Nat) : List Byte := (List.range n).map fun i => s.hbmByte (pa + i)
/-- The bytes that an HBM write of the running context's cycle replaced, where it stands from before a rewind (R240). -/
def State.standing (s : State) (pa : Nat) : Option (List Byte) :=
  ((s.ctx s.cur.cid).stands.find? fun e => e.1 == s.here.acc.toNat && e.2.1 == pa).map fun e => e.2.2
/-- An HBM write of a partition: the bytes it replaces are kept for a rewind (R358); one that stands from before a rewind is not made
again (R240). -/
def State.hbmWriteTimed (s : State) (pa : Nat) (bs : List Byte) : State :=
  if (s.standing pa).isSome then s
  else
    (s.onCtx s.cur.cid fun c => { c with undo := (s.here.acc.toNat, pa, s.hbmBytes pa bs.length, bs) :: c.undo }).hbmWrite pa bs

/-! ### Flag events (R45, R46) -/

/-- XFLAGS bits `f` and NF bits `nf` raised by a syllable of the running bundle, seen by a CFGR by T (R45). -/
def State.event (s : State) (f nf cyc : Nat) : State :=
  let bits : BitVec 9 := BitVec.ofNat 9 (f % 32 + nf % 16 * 32)
  if bits = 0 then s
  else s.onDie fun d => { d with evts := d.evts ++ [(s.chargeT cyc, bits)] }

/-- The XFLAGS and NF bits that a CFGR at T returns: the settled ones and the events of bundles issued at T - 256 or
earlier (R45). -/
def Die.visible (d : Die) (T : Nat) : BitVec 9 :=
  d.evts.foldl (fun a e => if e.1 + 256 ≤ T then a ||| e.2 else a) (d.nf ++ d.xflags)

/-- Clears the bits of a mask among those visible at T (R45). -/
def Die.clearVisible (d : Die) (T : Nat) (mask : BitVec 9) : Die :=
  let v := d.visible T &&& ~~~mask
  { d with xflags := v.extractLsb' 0 5, nf := v.extractLsb' 5 4, evts := d.evts.filter fun e => decide (e.1 + 256 > T) }

/-! ### Groups (R278, R280) -/

/-- Whether a slice of the partition is a member of a group: g0 always, otherwise by its identifiers. -/
def Core.member (c : Core) (g n : Nat) : Bool := g == 0 || (c.slice n).gid.any fun i => i.toNat == g && i != 0

/-- The member slices of a group on one die, ascending. -/
def Core.members (c : Core) (g d : Nat) : List Nat :=
  ((List.range 512).map (512 * d + ·)).filter (c.member g)

/-! ### Virtual memory (R292, R293) -/

/-- Page size code of a leaf level: 64 KiB, 512 MiB, 4 TiB as powers of two (R292). -/
def pageBits (size : Nat) : Nat := if size = 0 then 16 else if size = 1 then 29 else 42

/-- A field of a page-table entry. -/
def pteBit (e : BitVec 64) (i : Nat) : Bool := e.getLsbD i
/-- FRAME << 16: the base that an entry names. -/
def pteBase (e : BitVec 64) : Nat := (e.extractLsb' 16 32).toNat * 2 ^ 16
/-- Whether an entry is malformed at a level (R293). -/
def pteMalformed (e : BitVec 64) (level : Nat) : Bool :=
  let ptr := !(pteBit e 1 || pteBit e 2 || pteBit e 3)
  (ptr && level == 0) || e.extractLsb' 12 4 != 0 || e.extractLsb' 48 16 != 0
    || (!ptr && level == 1 && e.extractLsb' 16 13 != 0) || (!ptr && level == 2 && e.extractLsb' 16 26 != 0)

/-- What a walk finds. -/
inductive WalkResult
  | leaf (e : BitVec 64) (level pa : Nat)
  | notMapped
  | malformed
  deriving DecidableEq, Repr

/-- Walks the page table from a table at a level (R292, R293): the leaf, its level and its own address. -/
def State.walkFrom (s : State) (va : Nat) : Nat → Nat → WalkResult
  | level, table =>
    let idx := if level = 2 then bitsOf va 42 10 else if level = 1 then bitsOf va 29 13 else bitsOf va 16 13
    let pa := table + 8 * idx
    let e : BitVec 64 := BitVec.ofNat 64 (s.hbmRead pa 8)
    if !pteBit e 0 then .notMapped
    else if pteMalformed e level then .malformed
    else if pteBit e 1 || pteBit e 2 || pteBit e 3 then .leaf e level pa
    else match level with
      | 0 => .malformed
      | l + 1 => walkFrom s va l (pteBase e)

/-- The translation of a canonical virtual address in a page table. -/
def State.walk (s : State) (ptbase va : Nat) : WalkResult := s.walkFrom va 2 ptbase

/-- The physical address of a virtual one in a page table, with the leaf; none without a valid, well-formed leaf. -/
def State.translate (s : State) (ptbase va : Nat) : Option (BitVec 64 × Nat) :=
  if va ≥ 2 ^ 52 then none
  else match s.walk ptbase va with
    | .leaf e level _ => some (e, pteBase e + va % 2 ^ pageBits level)
    | _ => none

/-! ### Events and telemetry of the hub -/

/-- Raises a steward event (kind, argument). -/
def State.steward (s : State) (kind arg : Nat) : State := s.onHub fun h => { h with events := h.events ++ [(kind, arg)] }

/-- Puts a step at the head of the agenda, to run next in a context. -/
def State.runNext (s : State) (c : Ctx) (i : Instr) : State := { s with agenda := ⟨0, c, i⟩ :: s.agenda }

/-- Puts steps at the head of the agenda, in order. -/
def State.runAll (s : State) (ts : List Task) : State := { s with agenda := ts ++ s.agenda }

end Sys2Proof.Machine
end

