-- ==== Sys2Proof/Machine/Operands.lean ====
section
/-!
DEFINITION. Operand forms: the specifiers of R100 as sources and destinations (R75, R76, R79, R101), format resolution
(R62, R70), rounding modes (R43), flush bits (R47), and the element views of R39 and R158.
-/
namespace Sys2Proof.Machine

/-! ### Specifier classes (R100) -/

/-- q0 to q15. -/
def specQ (c : Nat) : Bool := decide (c < 0x10)
/-- e0 to e15 and w0 to w15. -/
def specStream (c : Nat) : Bool := decide (0x10 ≤ c ∧ c < 0x30)
/-- m0 to m7. -/
def specM (c : Nat) : Bool := decide (0x30 ≤ c ∧ c < 0x38)
/-- t0 to t7. -/
def specT (c : Nat) : Bool := decide (0x40 ≤ c ∧ c < 0x48)
/-- a0 to a3, plane 0. -/
def specA0 (c : Nat) : Bool := decide (0x48 ≤ c ∧ c < 0x4C)
/-- a0 to a3, either plane. -/
def specA (c : Nat) : Bool := decide (0x48 ≤ c ∧ c < 0x50)
/-- d0 to d3. -/
def specD (c : Nat) : Bool := decide (0x50 ≤ c ∧ c < 0x54)
/-- z0 to z3. -/
def specZ (c : Nat) : Bool := decide (0x54 ≤ c ∧ c < 0x58)
/-- k0 to k7. -/
def specK (c : Nat) : Bool := decide (0x58 ≤ c ∧ c < 0x60)
/-- A defined code. -/
def specDefined (c : Nat) : Bool := decide (c < 0x3C ∨ (0x40 ≤ c ∧ c < 0x60))
/-- A rank source of R156 other than a moment register. -/
def rankSource (c : Nat) : Bool := specQ c || specStream c || c == 0x38 || c == 0x3A || c == 0x3B || specK c || specZ c
/-- A rank destination of R156 other than a moment register. -/
def rankDest (c : Nat) : Bool := specQ c || specStream c || c == 0x39 || c == 0x3A || specK c || specZ c
/-- A rank source of an M syllable (R206). -/
def mRankSource (c : Nat) : Bool := specQ c || specStream c || c == 0x38 || c == 0x3A || c == 0x3B
/-- A rank destination of an M syllable (R206). -/
def mRankDest (c : Nat) : Bool := specQ c || specStream c || c == 0x39 || c == 0x3A

/-! ### Streams -/

/-- The key of a hop register: channel 0 to 15 for e, 16 to 31 for w (R22). -/
def hopKey (die row chan col : Nat) : Nat := ((die * 4 + row) * 32 + chan) * 128 + col
/-- The key of a stream sink register (R148): westbound channel `chan` 0 to 15. -/
def sinkKey (die row chan : Nat) : Nat := (die * 4 + row) * 16 + chan
/-- The hop key of a stream specifier in a slice. -/
def specHop (n c : Nat) : Nat := hopKey (dieOf n) (rowOf n) (c - 0x10) (colOf n)

/-! ### Reading -/

/-- A rank whose lanes all hold bits [31:0] of a value (R101). -/
def splatLanes (v : Nat) : Nat := (List.range 16).foldl (fun a i => a + (v % 2 ^ 32) <<< (32 * i)) 0

/-- Mask register n of a slice; k0 reads all ones (R76). -/
def Slice.mask (sl : Slice) (n : Nat) : BitVec 128 := if n = 0 then BitVec.allOnes 128 else SMap.get 0 sl.k n

/-- The rank that a specifier other than a queue supplies in cycle `cyc` (R76, R79, R101). -/
def State.plainRank (s : State) (c cyc : Nat) : Rank :=
  let sl := s.slice
  if specStream c then SMap.get 0 s.here.hops (specHop s.cur.s c)
  else if c = 0x38 then if sl.tl.1 = cyc then sl.tl.2 else 0
  else if c = 0x39 then sl.tw
  else if c = 0x3B then BitVec.ofNat 512 (splatLanes s.cur.fl.xs.toNat)
  else if specZ c then (SMap.get (0 : BitVec 56) sl.z (c - 0x54)).setWidth 512
  else if specK c then (sl.mask (c - 0x58)).setWidth 512
  else 0

/-- Whether a specifier names a register that the scoreboard follows (R32): queues, masks, solver registers, tl (R404) and tw. -/
def specTracked (c : Nat) : Bool := specQ c || specK c && c != 0x58 || specZ c || c == 0x38 || c == 0x39

/-- Reads a rank source in cycle `cyc`: a queue pops, or is peeked (R75); an empty queue raises cause 0x06. -/
def State.readRank (s : State) (c cyc : Nat) (peek : Bool) : Rank × State :=
  if specQ c then
    match SMap.get [] s.slice.q c with
    | [] => (0, s.trapS cyc 6 c)
    | r :: rest =>
      let s1 := s.sample (.reg s.cur.s c 0) cyc
      (r, if peek then s1 else s1.onSlice fun sl => { sl with q := SMap.set [] sl.q c rest })
  else (s.plainRank c cyc, if specTracked c then s.sample (.reg s.cur.s c 0) cyc else s)

/-- Owes a rank to a destination specifier with a result cycle; `zero` and k0 discard it (R76, R100). -/
def State.writeRank (s : State) (c result : Nat) (v : Rank) : State :=
  if c = 0x3A || c = 0x58 then s
  else (if specTracked c then s.mark (.reg s.cur.s c 0) result else s).owe (result - 1) (.spec c v)

/-! ### Formats (R60 to R62, R70) -/

/-- The entry of the format table that a slot resolves to: base plus the pass index of its level modulo its length. -/
def Tables.fslotEntry (t : Tables) (f : Nat) : Nat :=
  let v := (SMap.get (0 : BitVec 16) t.fslot f).toNat
  let l : LoopLevel := SMap.get {} t.lc (bitsOf v 0 3)
  let n := bitsOf v 9 7
  (bitsOf v 3 6 + (if l.live then l.index else 0) % n) % 64

/-- The format-table entry in force for a TYPE and FSLOT pair: the entry of the slot for TYPE = 15, else the type alone. -/
def Tables.entry (t : Tables) (ty fs : Nat) : Nat :=
  if ty = 15 then (SMap.get (0 : BitVec 16) t.fmt (t.fslotEntry fs)).toNat else ty

/-- TYPE of an entry (R60). -/
def entryType (e : Nat) : Nat := bitsOf e 0 4
/-- SCALE of an entry. -/
def entryScale (e : Nat) : Int := signedOf 8 (bitsOf e 4 8)
/-- RM of an entry. -/
def entryRm (e : Nat) : Nat := bitsOf e 12 3

/-- The rounding mode in force, as an RM code 1 to 4 (R43). -/
def modeInForce (rm entry : Nat) (rmode : BitVec 2) : Nat :=
  if rm ≠ 0 then rm else if entryRm entry ≠ 0 then entryRm entry else rmode.toNat + 1

/-- Element width in bits of a type code (R38). -/
def typeWidth (ty : Nat) : Nat :=
  if ty = 0 || ty = 3 || ty = 6 then 32 else if ty = 5 || ty = 8 then 8 else if ty = 12 then 64 else 16
/-- Elements in a rank (R38). -/
def typeCount (ty : Nat) : Nat := 512 / typeWidth ty
/-- Floating types, codes 0 to 2. -/
def isF (ty : Nat) : Bool := decide (ty < 3)
/-- Signed integer types, codes 3 to 5. -/
def isI (ty : Nat) : Bool := decide (3 ≤ ty ∧ ty < 6)
/-- Unsigned integer types, codes 6 to 8. -/
def isN (ty : Nat) : Bool := decide (6 ≤ ty ∧ ty < 9)

/-- The FI bit of a type's class (R47). -/
def flushIn (fl : BitVec 8) (ty : Nat) : Bool :=
  fl.getLsbD (if ty = 0 then 0 else if ty < 3 then 2 else if ty = 12 then 6 else 4)
/-- The FR bit of a type's class (R47). -/
def flushOut (fl : BitVec 8) (ty : Nat) : Bool :=
  fl.getLsbD (if ty = 0 then 1 else if ty < 3 then 3 else if ty = 12 then 7 else 5)

/-- NF bit of a written floating element (R46). -/
def nfBit (ty bits : Nat) : Nat :=
  if ty = 0 then (if bitsOf bits 23 8 = 255 then 1 else 0)
  else if ty = 1 then (if bitsOf bits 7 8 = 255 then 2 else 0)
  else if ty = 2 then (if bitsOf bits 10 5 = 31 then 2 else 0)
  else 0

/-! ### Element views (R39, R158) -/

/-- Element i of width w. -/
def elemAt (w i x : Nat) : Nat := bitsOf x (w * i) w

/-- Builds n elements of width w in ascending order. -/
def buildElems (w : Nat) (f : Nat → Flagged Nat) : Nat → Flagged Nat
  | 0 => pure 0
  | n + 1 => do
    let lo ← buildElems w f n
    let v ← f n
    return lo + ((v % 2 ^ w) <<< (w * n))

/-- How a V syllable sees its operands (R43, R47, R158): type, scale, mode, flush bits, mask. -/
structure View where
  ty : Nat
  scale : Int
  rm : Nat
  fi : Bool
  fr : Bool
  mask : BitVec 128
  deriving DecidableEq, Repr

/-- Element width of a view. -/
def View.w (v : View) : Nat := typeWidth v.ty
/-- Element count of a view. -/
def View.n (v : View) : Nat := typeCount v.ty
/-- Layout of a floating view. -/
def View.lay (v : View) : Layout := layoutOf v.ty

/-- The view of the running V syllable; samples its mask register at X (R157). -/
def State.view (s : State) (f : VF) : View × State :=
  let e := s.tab.entry f.ty.toNat f.fs.toNat
  let ty := entryType e
  ({ ty := ty, scale := entryScale (if f.ty = 15 then e else 0), rm := modeInForce f.rm.toNat (if f.ty = 15 then e else 0) s.tab.rmode
     fi := flushIn s.tab.flush ty, fr := flushOut s.tab.flush ty, mask := s.slice.mask f.mask.toNat },
   if f.mask = 0 then s else s.sample (.reg s.cur.s (0x58 + f.mask.toNat) 0) s.X)

/-- Reads source A of a V syllable at X. -/
def State.vA (s : State) (f : VF) : Nat × State :=
  let (r, s') := s.readRank f.a.toNat s.X (f.pk.getLsbD 2)
  (r.toNat, s')
/-- Reads source B of a V syllable at X. -/
def State.vB (s : State) (f : VF) : Nat × State :=
  let (r, s') := s.readRank f.b.toNat s.X (f.pk.getLsbD 1)
  (r.toNat, s')
/-- Reads source C of a V syllable at X. -/
def State.vC (s : State) (f : VF) : Nat × State :=
  let (r, s') := s.readRank f.c.toNat s.X (f.pk.getLsbD 0)
  (r.toNat, s')

/-- The NF bits of the elements of a result that a view computed (R46). -/
def View.nf (v : View) (r : Nat) : Nat :=
  (List.range v.n).foldl (fun a i => if v.mask.getLsbD i then a ||| nfBit v.ty (elemAt v.w i r) else a) 0

/-- Ends a V syllable: its result at X + `lat`, its flags, its NF bits. -/
def State.vDone (s : State) (dst : BitVec 7) (lat : Nat) (r : Nat × Nat) (nf : Nat) : State :=
  (s.event r.2 nf s.X).writeRank dst.toNat (s.X + lat) (BitVec.ofNat 512 r.1)

/-- Elementwise application under the mask: a masked-off element is written as zero bits (R159). -/
def View.elems (v : View) (op : Nat → Flagged Nat) : Nat × Nat :=
  (buildElems v.w (fun i => if v.mask.getLsbD i then op i else return 0) v.n).run 0

/-! ### Bank lines (R69, R192) -/

/-- line(it) from the loop indices of the tables (R69). -/
def Tables.line (t : Tables) (n : Nat) : Nat :=
  let it := (SMap.get (0 : BitVec 128) t.it n).toNat
  let term (l : Nat) : Int :=
    let o := 16 + 24 * l
    let lv : LoopLevel := SMap.get {} t.lc (bitsOf it (o + 14) 3)
    let i := if lv.live then lv.index else 0
    let idx : Int := if bitAt it (o + 18) then (lv.count : Int) - 1 - i else i
    if bitAt it (o + 17) then signedOf 14 (bitsOf it o 14) * idx else 0
  (((bitsOf it 0 13 : Nat) + term 0 + term 1 + term 2 + term 3) % 8192).toNat

/-- Entry b of the skew table that a skew field names; 0 for field 0 (R192). -/
def Tables.skew (t : Tables) (field b : Nat) : Int :=
  if field = 0 then 0 else signedOf 14 (bitsOf (SMap.get (0 : BitVec 224) t.sk (field - 1)).toNat (14 * b) 14)

/-- The line of bank b for a syllable: (line(it) + offset + skew_b) mod 8192 (R192). -/
def Tables.bankLine (t : Tables) (it field b : Nat) (off : Int) : Nat :=
  (((t.line it : Int) + off + t.skew field b) % 8192).toNat

end Sys2Proof.Machine
end

