-- ==== Sys2Proof/Machine/SeqMem.lean ====
section
/-!
DEFINITION. SMEM access forms (R68, R127, R290): loads sample in T + 2, stores perform at the end of T + 2.
-/
namespace Sys2Proof.Machine

/-- The address of an SMEM form: wrap_64(a + i) (R127). -/
def State.smemAddr (s : State) (f : SI) : Nat := (s.xreg f.xa + f.imm.signExtend 64).toNat
/-- Whether an address is misaligned for a size, or lies at or above 0x4_0000 (R68). -/
def smemBadAddr (a n : Nat) : Bool := decide (a % n ≠ 0 ∨ a ≥ 0x40000)
/-- Whether an address lies in the sync area (R68). -/
def inSyncArea (a : Nat) : Bool := decide (0x30000 ≤ a ∧ a < 0x40000)
/-- Cause 0x03 with the position of the running syllable (R357). -/
def State.illegal (s : State) (b : Bool) : State := s.trapTWhen b 3 s.position

/-- A load at T: the address is checked, also against the scoreboard (R32), and the sampling in T + 2 scheduled. -/
def State.loadStart (s : State) (f : SI) (n : Nat) (i : Instr) : State :=
  let s1 := ((s.useX f.xa).useSmem (s.smemAddr f) n (s.T + 2)).illegal (smemBadAddr (s.smemAddr f) n)
  let s2 := if f.xd = 0 then s1 else s1.mark (.x s.cur.d f.xd.toNat) (s.T + 3)
  { s2 with cur := { s2.cur with X := s.smemAddr f } }.later (s.T + 2) 1 i

/-- A load in T + 2: the zero-extended value reaches xd at T + 3; an uncorrectable word traps (R367). -/
def State.loadSample (s : State) (f : SI) (n : Nat) : State :=
  let a := s.cur.X
  let s1 := s.trapTWhen (s.die.smemBad.any (· == a / 4) || (n == 8 && s.die.smemBad.any (· == a / 4 + 1))) 0x13 a
  if f.xd = 0 then s1 else s1.owe (s.T + 2) (.x f.xd.toNat (dw (s.die.smemRead a n)))

/-- A load, in its two cycles. -/
def State.load (s : State) (f : SI) (n : Nat) (i : Instr) : State :=
  if s.cur.row = 0 then s.loadStart f n i else s.loadSample f n

/-- A store: a store into the sync area in U traps with cause 0x04 (R127); the bytes perform at the end of T + 2. -/
def State.store (s : State) (f : SI) (n : Nat) : State :=
  let a := s.smemAddr f
  let s1 := ((s.useX f.xa).useX f.xd).illegal (smemBadAddr a n)
  let s2 := s1.trapTWhen (inSyncArea a && !s.die.inS) 4 s.position
  (s2.markSmem a n (s.T + 3)).owe (s.T + 2) (.smem a n ((s.xreg f.xd).toNat % 2 ^ (8 * n)))

/-- LDB (R127). -/
def execLdb (f : SI) (s : State) : Res := .next (s.load f 1 (.ldb f))
/-- LDH (R127). -/
def execLdh (f : SI) (s : State) : Res := .next (s.load f 2 (.ldh f))
/-- LDW (R127). -/
def execLdw (f : SI) (s : State) : Res := .next (s.load f 4 (.ldw f))
/-- LDD (R127). -/
def execLdd (f : SI) (s : State) : Res := .next (s.load f 8 (.ldd f))
/-- STB (R127). -/
def execStb (f : SI) (s : State) : Res := .next (s.store f 1)
/-- STH (R127). -/
def execSth (f : SI) (s : State) : Res := .next (s.store f 2)
/-- STW (R127). -/
def execStw (f : SI) (s : State) : Res := .next (s.store f 4)
/-- STD (R127). -/
def execStd (f : SI) (s : State) : Res := .next (s.store f 8)

end Sys2Proof.Machine
end

