-- ==== Sys2Proof/Machine/SeqFlow.lean ====
section
/-!
DEFINITION. Branches, calls, returns, and the loop walker (R128 to R137). The bundle's own step has already chosen the
fall-through or the back-edge; these forms read the loop levels as they stood at T and replace the next bundle.
-/
namespace Sys2Proof.Machine

/-- Makes an address the next bundle of the running die, on the handler's side while it runs. -/
def State.setNext (s : State) (pc : Nat) : State :=
  s.onDie fun d => if s.cur.fl.hnd then { d with hpc := pc % 2 ^ 64 } else { d with pc := pc % 2 ^ 64 }

/-- A branch target: bundle address + 8 × off45 (R93). -/
def State.target (s : State) (f : SB) : Nat := (dw s.cur.fl.addr + f.off.signExtend 64 * 8).toNat

/-- A loop level of the tables. -/
def Tables.level (t : Tables) (l : Nat) : LoopLevel := SMap.get {} t.lc l
/-- The live levels. -/
def Tables.live (t : Tables) : List Nat := (List.range 8).filter fun l => (t.level l).live
/-- The innermost live level: the one of greatest DEPTH (R131). -/
def Tables.innermost (t : Tables) : Option Nat :=
  t.live.foldl (fun b l => match b with
    | none => some l
    | some m => if (t.level l).depth > (t.level m).depth then some l else some m) none
/-- A level is in a padded pass: BOUND ≠ 0 and INDEX ≥ COUNT (R131). -/
def LoopLevel.padded (l : LoopLevel) : Bool := l.bound != 0 && decide (l.index ≥ l.count)
/-- Some live level is in a padded pass (R135). -/
def Tables.padded (t : Tables) : Bool := t.live.any fun l => (t.level l).padded
/-- Passes of a level: BOUND, or COUNT where BOUND is 0 (R130, R131). -/
def LoopLevel.passes (l : LoopLevel) : Nat := if l.bound = 0 then l.count else l.bound
/-- The bundle is the last of the body of a live level (R136). -/
def State.atLoopEnd (s : State) : Bool := s.tab.live.any fun l => (s.tab.level l).stop == s.cur.fl.addr

/-- Whether the running bundle may not transfer control (R136); the kernel's levels do not bind a handler's bundle. -/
def State.noTransfer (s : State) : Bool := s.atLoopEnd && !s.cur.fl.hnd

/-- A transfer of control to an address; at the end of a body it traps with cause 0x0A (R136). -/
def State.jump (s : State) (pc : Nat) : State := if s.noTransfer then s.trapT 0xA 1 else s.setNext pc

/-- A conditional branch (R128). -/
def State.branch (s : State) (f : SB) (taken : DWord → DWord → Bool) : State :=
  let s1 := (s.useX f.xa).useX f.xb
  if taken (s.xreg f.xa) (s.xreg f.xb) then s1.jump (s.target f) else s1

/-- BR (R128). -/
def execBr (f : SB) (s : State) : Res := .next (s.jump (s.target f))
/-- BEQ (R128). -/
def execBeq (f : SB) (s : State) : Res := .next (s.branch f (· == ·))
/-- BNE (R128). -/
def execBne (f : SB) (s : State) : Res := .next (s.branch f (· != ·))
/-- BLT (R128), signed. -/
def execBlt (f : SB) (s : State) : Res := .next (s.branch f fun a b => a.slt b)
/-- BGE (R128), signed. -/
def execBge (f : SB) (s : State) : Res := .next (s.branch f fun a b => !a.slt b)
/-- BLTU (R128). -/
def execBltu (f : SB) (s : State) : Res := .next (s.branch f fun a b => a.ult b)
/-- BGEU (R128). -/
def execBgeu (f : SB) (s : State) : Res := .next (s.branch f fun a b => !a.ult b)

/-- CALL (R129): pushes the address of the following bundle; cause 0x1A with 16 entries present. -/
def execCall (f : SB) (s : State) : Res :=
  .next (if s.die.link.length ≥ 16 then (s.trapTWhen s.noTransfer 0xA 1).trapT 0x1A 16
    else (s.onDie fun d => { d with link := dw (s.cur.fl.addr + s.cur.fl.len) :: d.link }).jump (s.target f))
/-- RET (R129): pops the link stack; cause 0x1A when it is empty. -/
def execRet (_f : SB) (s : State) : Res :=
  .next (match s.die.link with
    | [] => (s.trapTWhen s.noTransfer 0xA 1).trapT 0x1A 0
    | a :: r => (s.onDie fun d => { d with link := r }).jump a.toNat)
/-- JR (R129): cause 0x03 for a misaligned or out-of-range target (R93). -/
def execJr (f : SB) (s : State) : Res :=
  let a := (s.xreg f.xa).toNat
  let s1 := s.useX f.xa
  .next (if a % 8 ≠ 0 ∨ a ≥ 2 ^ 52 then (s1.trapTWhen s1.noTransfer 0xA 1).illegal true else s1.jump a)

/-! ### Loops (R130 to R135) -/

/-- Replaces a loop level of the running die. -/
def State.setLevel (s : State) (l : Nat) (v : LoopLevel) : State :=
  s.onDie fun d => { d with tab := { d.tab with lc := SMap.set {} d.tab.lc l v } }

/-- Starts a level of n live passes and a bound (0 for LOOP), or steps over the body when no pass is issued (R132). -/
def State.startLoop (s : State) (f : SL) (n bound passes : Nat) : State :=
  let l := f.level.toNat
  let start := s.cur.fl.addr + s.cur.fl.len
  let stop := s.cur.fl.addr + 8 * f.endOff.toNat
  let s1 := (s.illegal (decide (stop < start))).trapTWhen s.atLoopEnd 0xA 1
  if passes = 0 then s1.onDie fun d => { d with probe := some stop }
  else
    (s1.setLevel l
      { count := n, bound := bound, index := 0, start := start, stop := stop, live := true
        depth := s.tab.live.length }).setNext start

/-- A loop form: a level already live traps with cause 0x1B, beside whatever else is wrong with the form (R132, R357). -/
def State.loopForm (s : State) (f : SL) (body : State) : State :=
  body.trapTWhen (s.tab.level f.level.toNat).live 0x1B f.level.toNat

/-- LOOP (R130): cause 0x03 for a count above 2^32 - 1. -/
def execLoop (f : SL) (s : State) : Res :=
  let n := if f.xa = 0 then f.cnt.toNat else (s.xreg f.xa).toNat
  .next (s.loopForm f (((s.useX f.xa).illegal (decide (n ≥ 2 ^ 32))).startLoop f n 0 n))
/-- A bounded loop with live count n: cause 0x03 with TVAL n above the bound (R132). -/
def State.boundedLoop (s : State) (f : SL) (n : Nat) : State :=
  (s.trapTWhen (decide (n > f.cnt.toNat)) 3 n).startLoop f n f.cnt.toNat f.cnt.toNat
/-- LOOPB (R130): n is xa; in a padded pass n = 0 and xa is not read (R135). -/
def execLoopb (f : SL) (s : State) : Res :=
  .next (s.loopForm f
    (if s.tab.padded then s.boundedLoop f 0 else (s.useX f.xa).boundedLoop f (s.xreg f.xa).toNat))
/-- LOOPL (R134): n is the difference of two row pointers in SMEM, modulo 2^32. -/
def execLoopl (f : SL) (s : State) : Res :=
  let a := (s.xreg f.xa).toNat
  let n := ((s.die.smemRead (a + 4) 4 : Int) - s.die.smemRead a 4) % (2 ^ 32 : Int)
  .next (s.loopForm f
    (if s.tab.padded then s.boundedLoop f 0
     else if a % 4 ≠ 0 ∨ a + 4 ≥ 0x40000 then (s.useX f.xa).illegal true
     else ((s.useX f.xa).useSmem a 8 s.T).boundedLoop f n.toNat))

/-- The loop-end event of an issued bundle at `addr` (R133): the levels that end with it advance, from the innermost
outward; the answer is the new tables and the back-edge, if any. -/
def loopEnd (addr : Nat) : Nat → Tables → Tables × Option Nat
  | 0, t => (t, none)
  | k + 1, t =>
    match t.innermost with
    | none => (t, none)
    | some l =>
      let lv := t.level l
      if lv.stop ≠ addr then (t, none)
      else
        let i := lv.index + 1
        if i < lv.passes then ({ t with lc := SMap.set {} t.lc l { lv with index := i } }, some lv.start)
        else loopEnd addr k { t with lc := SMap.set {} t.lc l { lv with index := i, live := false } }

end Sys2Proof.Machine
end

