-- ==== Sys2Proof/Machine/SeqTables.lean ====
section
/-!
DEFINITION. The S forms that set and read the tables (R138 to R148) and the stream sink: a table write governs bundles
issued at T + 1 or later.
-/
namespace Sys2Proof.Machine

/-- An index field above its range: cause 0x03. -/
def State.indexCheck (s : State) (n : BitVec 5) (lim : Nat) : State := s.illegal (decide (n.toNat ≥ lim))

/-- The iterator bits that are not reserved (R69). -/
def itMask : BitVec 128 := 0x000007FFFF07FFFF07FFFF07FFFF1FFF

/-- ITSET (R139): bits [63:0] from xa, [127:64] from the register named in csr12 [4:0]. -/
def execItset (f : SC) (s : State) : Res :=
  let xb : BitVec 5 := f.csr.extractLsb' 0 5
  .next ((((s.useX f.xa).useX xb).indexCheck f.xd 16).oweTab (.it f.xd.toNat ((s.xreg xb ++ s.xreg f.xa) &&& itMask)))

/-- ITREV (R140): REV_l := bit l of imm33. -/
def execItrev (f : SC) (s : State) : Res :=
  let it := (SMap.get (0 : BitVec 128) s.tab.it f.xd.toNat).toNat
  let v := (List.range 4).foldl (fun a l => putBits a (16 + 24 * l + 18) 1 (bitsOf f.imm.toNat l 1)) it
  .next ((s.indexCheck f.xd 16).oweTab (.it f.xd.toNat (BitVec.ofNat 128 v)))

/-- SKSET (R141): sixteen halfwords of SMEM, their bits [13:0]. -/
def execSkset (f : SC) (s : State) : Res :=
  let a := (s.xreg f.xa).toNat
  let s1 := (s.useX f.xa).illegal (decide (f.xd.toNat ≥ 4) || smemBadAddr a 32)
  let raw := s.die.smemRead a 32
  let v := packLe ((List.range 16).map fun e => (14, bitsOf raw (16 * e) 14))
  .next ((s1.useSmem a 32 s.T).oweTab (.sk f.xd.toNat (BitVec.ofNat 224 v)))

/-- FMTSET (R142). -/
def execFmtset (f : SC) (s : State) : Res :=
  .next ((s.indexCheck f.xd 16).oweTab (.fslot f.xd.toNat (f.imm.extractLsb' 0 16)))

/-- TSHAPE (R143). -/
def execTshape (f : SC) (s : State) : Res :=
  .next ((s.indexCheck f.xd 8).oweTab (.tsh f.xd.toNat (f.imm.extractLsb' 0 16)))

/-- CSHAPE (R144): 136 bytes of SMEM; reserved header bits are stored as zero. -/
def execCshape (f : SC) (s : State) : Res :=
  let a := (s.xreg f.xa).toNat
  let raw := s.die.smemRead a 136
  let s1 := (s.useX f.xa).illegal (decide (a % 8 ≠ 0 ∨ a + 136 > 0x40000) || decide (bitsOf raw 0 5 > 15))
  .next ((s1.useSmem a 136 s.T).oweTab (.shape (f.csr.toNat % 64) (BitVec.ofNat 1088 (putBits raw 5 59 0))))

/-- The flags word of a level (R147). -/
def LoopLevel.flags (l : LoopLevel) : Nat :=
  b2n l.dir + 2 * b2n l.live + 4 * b2n l.padded + 8 * (l.depth % 8)

/-- What an ITRD selector reads, or nothing for another selector or an index out of range (R147). -/
def Tables.itrd (t : Tables) (n sel : Nat) : Option Nat :=
  let it := (SMap.get (0 : BitVec 128) t.it n).toNat
  let lv := t.level n
  if sel = 0 then if n < 16 then some (t.line n) else none
  else if sel = 1 then if n < 16 then some (it % 2 ^ 64) else none
  else if sel = 2 then if n < 16 then some (it / 2 ^ 64) else none
  else if n ≥ 8 then none
  else if sel = 0x10 then some lv.index
  else if sel = 0x11 then some lv.count
  else if sel = 0x12 then some lv.bound
  else if sel = 0x13 then some lv.flags
  else none

/-- ITRD (R147). -/
def execItrd (f : SC) (s : State) : Res :=
  match s.tab.itrd f.xa.toNat f.csr.toNat with
  | some v => .next (s.retX f.xd (dw v) 1)
  | none => .next (s.illegal true)

/-- SINK (R148): a stream sink register, to xd or to 64 bytes of SMEM. -/
def execSink (f : SC) (s : State) : Res :=
  let chan := f.csr.toNat % 16
  let row := bitsOf f.csr.toNat 4 2
  let rank : Rank := SMap.get 0 s.here.sinks (sinkKey s.cur.d row chan)
  if f.csr.getLsbD 6 then
    let a := (s.xreg f.xa).toNat
    let s1 := ((s.useX f.xa).illegal (smemBadAddr a 64)).trapTWhen (inSyncArea a && !s.die.inS) 4 s.position
    .next ((s1.markSmem a 64 (s.T + 3)).owe (s.T + 2) (.smem a 64 rank.toNat))
  else .next (s.retX f.xd (rank.extractLsb' (64 * bitsOf f.csr.toNat 7 3) 64) 1)

end Sys2Proof.Machine
end

