-- ==== Sys2Proof/Machine/Csr.lean ====
section
/-!
DEFINITION. Control registers (R81 to R83): numbers, privilege, reading, writing; and the wall readings of class 3 (R34,
R379, R380).
-/
namespace Sys2Proof.Machine

/-- A register that only S code may name (R81). -/
def csrS (n : Nat) : Bool := decide ((0x20 ≤ n ∧ n ≤ 0x27) ∨ (0x60 ≤ n ∧ n ≤ 0x67))
/-- A read-only register (R81). -/
def csrReadOnly (n : Nat) : Bool :=
  decide (n ≤ 4 ∨ n = 0x30 ∨ n = 0x40 ∨ n = 0x41 ∨ n = 0x50 ∨ n = 0x51)
/-- A register number that R81 lists. -/
def csrDefined (n : Nat) : Bool :=
  decide (n ≤ 4 ∨ (0x10 ≤ n ∧ n ≤ 0x15) ∨ (0x20 ≤ n ∧ n ≤ 0x27) ∨ (0x30 ≤ n ∧ n ≤ 0x35) ∨ (0x40 ≤ n ∧ n ≤ 0x42)
    ∨ n = 0x50 ∨ n = 0x51 ∨ (0x60 ≤ n ∧ n ≤ 0x67) ∨ (0x100 ≤ n ∧ n ≤ 0x13F))
/-- The registers whose reading is a wall reading (R34): WAC, HOLDR, HOLDCNT. -/
def csrWall (n : Nat) : Bool := decide (n = 1 ∨ n = 0x50 ∨ n = 0x51)

/-- The value of a control register as a syllable at T finds it (R81, R149). -/
def State.csr (s : State) (n : Nat) : DWord :=
  let d := s.die
  let t := s.tab
  let pt := s.part s.cur.p
  let cx := s.ctx s.cur.cid
  match n with
  | 0x000 => s.here.acc
  | 0x001 => s.hub.wac
  | 0x002 => dw (s.cur.p / pt.n + ((2 ^ pt.n - 1) <<< s.cur.p) * 256)
  | 0x003 => dw (s.cur.d + s.hub.pkg.toNat * 2 ^ 32)
  | 0x004 => boolW d.inS
  | 0x010 => t.rmode.setWidth 64
  | 0x011 => t.flush.setWidth 64
  | 0x012 => t.cov.setWidth 64
  | 0x013 => ((d.visible s.accT).extractLsb' 5 4).setWidth 64
  | 0x014 => boolW t.check
  | 0x015 => ((d.visible s.accT).extractLsb' 0 5).setWidth 64
  | 0x020 => d.tcause
  | 0x021 => d.tbundle
  | 0x022 => d.tacc
  | 0x023 => d.tval
  | 0x024 => d.tslice
  | 0x025 => d.tvec
  | 0x026 => d.tstat
  | 0x027 => d.tscratch
  | 0x030 => t.amode.setWidth 64
  | 0x031 => d.logbase
  | 0x032 => d.loglim
  | 0x033 => d.logptr
  | 0x034 => t.tapeBase
  | 0x035 => t.tapeLim
  | 0x040 => pt.allow
  | 0x041 => dw (pt.rate.toNat + pt.cap.toNat * 2 ^ 32)
  | 0x042 => s.here.ereserve.setWidth 64
  | 0x050 => cx.holdr
  | 0x051 => cx.holdcnt
  | _ =>
    if 0x60 ≤ n ∧ n ≤ 0x67 then SMap.get 0 t.watch (n - 0x60)
    else if 0x100 ≤ n ∧ n ≤ 0x13F then (SMap.get (0 : BitVec 16) t.fmt (n - 0x100)).setWidth 64
    else 0

/-- A control register of one die with a value written by CFGW (R5, R81): reserved bits are ignored. -/
def Die.csrWrite (d : Die) (n : Nat) (v : DWord) (T : Nat) : Die :=
  let t := d.tab
  match n with
  | 0x010 => { d with tab := { t with rmode := v.setWidth 2 } }
  | 0x011 => { d with tab := { t with flush := v.setWidth 8 } }
  | 0x012 => { d with tab := { t with cov := v.setWidth 3 } }
  | 0x013 => d.clearVisible T (v.setWidth 4 ++ 0#5)
  | 0x014 => { d with tab := { t with check := v.getLsbD 0 } }
  | 0x015 => d.clearVisible T (0#4 ++ v.setWidth 5)
  | 0x020 => { d with tcause := v &&& 0xFF }
  | 0x021 => { d with tbundle := v }
  | 0x022 => { d with tacc := v }
  | 0x023 => { d with tval := v }
  | 0x024 => { d with tslice := v &&& 0x8000000000000FFF }
  | 0x025 => { d with tvec := v }
  | 0x026 => { d with tstat := v &&& 0xFFFFFF }
  | 0x027 => { d with tscratch := v }
  | 0x031 => { d with logbase := v &&& 0xF00003FFFFFFFFE0, logptr := v &&& 0x3FFFFFFFFE0 }
  | 0x032 => { d with loglim := v &&& 0x3FFFFFFFFE0 }
  | 0x033 => { d with logptr := v &&& 0x3FFFFFFFFE0 }
  | 0x034 => { d with tab := { t with tapeBase := v &&& 0x7FFF8 } }
  | 0x035 => { d with tab := { t with tapeLim := v &&& 0x7FFF8 } }
  | _ =>
    if 0x60 ≤ n ∧ n ≤ 0x67 then { d with tab := { t with watch := SMap.set 0 t.watch (n - 0x60) (v &&& 0x3FFFFFFFFFFFFFFF) } }
    else d

/-- The dies of a partition. -/
def State.diesOf (s : State) (p : Nat) : List Nat := (List.range (s.part p).n).map (p + ·)

/-- A control-register write of a die, with what has partition scope (R82, R383). -/
def Core.csrWrite (c : Core) (dies : List Nat) (d n : Nat) (v : DWord) (T : Nat) : Core :=
  if n = 0x042 then { c with ereserve := v.setWidth 48 }
  else if 0x100 ≤ n ∧ n ≤ 0x13F then
    dies.foldl (fun c e => c.onDie e fun x => { x with tab := { x.tab with fmt := SMap.set 0 x.tab.fmt (n - 0x100) (v.setWidth 16 &&& 0x7FFF) } }) c
  else c.onDie d (·.csrWrite n v T)

/-! ### Trace (R376) -/

/-- A trace record (R376). -/
def State.traceBytes (acc addr slice : Nat) (sv : Bool) (die kind data : Nat) : List Byte :=
  leBytes 8 acc ++ leBytes 8 addr ++ leBytes 16 (packLe [(12, slice), (1, b2n sv), (3, die), (8, kind), (8, 0), (96, data)])

/-- Lexicographic order of lists of numbers. -/
def listBefore : List Nat → List Nat → Bool
  | a :: r, b :: q => decide (a < b) || (a == b && listBefore r q)
  | [], _ :: _ => true
  | _, _ => false

/-- The place of a trace record among those of its cycle: die, slice, KIND (R376). -/
def traceKey (r : Nat) : List Nat := [bitsOf r 141 3, bitsOf r 128 12, bitsOf r 144 8]

/-- Where a record goes among the first n of a ring: before those of its own context and ACC that R376 puts after it. -/
def State.tracePlace (s : State) (p own acc : Nat) (key : List Nat) : Nat → Nat
  | 0 => 0
  | n + 1 =>
    let r := s.hbmRead ((s.part p).make.traceRing + 32 * n) 32
    if (s.part p).traceBy.getD n 0 = own ∧ bitsOf r 0 64 = acc % 2 ^ 64 ∧ listBefore key (traceKey r) then s.tracePlace p own acc key n
    else n + 1

/-- Puts a record into a partition's ring, at its place among those of its context; `own` is that context plus 1 (R376). -/
def State.traceInsert (s : State) (p own acc : Nat) (key : List Nat) (bytes : List Byte) : State :=
  let pt := s.part p
  let ring := pt.make.traceRing
  let at_ := s.tracePlace p own acc key pt.traceAt
  let later := (List.range (32 * (pt.traceAt - at_))).map fun i => s.hbmByte (ring + 32 * at_ + i)
  (s.hbmWrite (ring + 32 * at_) (bytes ++ later)).onPart p fun q =>
    { q with traceAt := q.traceAt + 1, traceBy := q.traceBy.take at_ ++ own :: q.traceBy.drop at_ }

/-- Writes a trace record into the partition's ring, when the die records its kind; a full ring drops it (R376). -/
def State.trace (s : State) (cid die kind addr acc : Nat) (slice : Option Nat) (data : Nat) : State :=
  let p := (s.ctx cid).p
  let pt := s.part p
  let h := s.dieHw die
  if h.trKinds.getLsbD kind && (kind != 1 || (decide (h.trLo ≤ addr) && decide (addr ≤ h.trHi))) then
    if 32 * pt.traceAt + 32 ≤ pt.make.traceLen then
      s.traceInsert p (cid + 1) acc [die, slice.getD 0, kind] (State.traceBytes acc addr (slice.getD 0) slice.isSome die kind data)
    else s.onPart p fun q => { q with traceDropped := q.traceDropped + 1 }
  else s

/-- The address of the next bundle of a die: of its handler where it runs one. -/
def Core.nextAddr (c : Core) (d : Nat) : Nat := if c.handler && (c.die d).inS then (c.die d).hpc else (c.die d).pc

/-! ### Wall readings -/

/-- The bytes of an entry of the replay log (R379). -/
def ReplayEntry.bytes (e : ReplayEntry) : List Byte :=
  leBytes 8 e.acc ++ leBytes 8 (packLe [(3, e.cls), (3, e.die), (26, 0), (32, e.payload.length)])
    ++ e.payload ++ List.replicate ((8 - e.payload.length % 8) % 8) 0

/-- Writes the replay log of a context where its partition keeps it (R379): a full log stops recording and marks the ACC. -/
def State.storeReplay (s : State) (cid : Nat) : State :=
  let cx := s.ctx cid
  let pt := s.part cx.p
  let bytes := (cx.replayLog.map ReplayEntry.bytes).flatten
  if bytes.length > pt.make.replayLen then
    let stop := some ((cx.replayLog.getLast?.map ReplayEntry.acc).getD 0)
    (s.onCtx cid fun c => { c with recording := false, truncated := stop, replayLog := c.replayLog.dropLast }).onPart cx.p
      fun q => { q with logEnd := stop }
  else (s.hbmWrite pt.make.replayLog bytes).onPart cx.p fun q => { q with replayAt := bytes.length, log := cx.replayLog, logEnd := none }

/-- Records an external input of a context, when its launch is recorded (R379). -/
def State.record (s : State) (cid acc cls die : Nat) (payload : List Byte) (inputs : List CoreInput) : State :=
  if (s.ctx cid).recording then
    (s.onCtx cid fun c => { c with replayLog := c.replayLog ++ [⟨acc, cls, die, payload, inputs⟩] }).storeReplay cid
  else s

/-- Notes an external input of a context in its trace and its replay log (R376, R379). -/
def State.noteInput (s : State) (cid cls die : Nat) (payload : List Byte) (is : List CoreInput) : State :=
  let acc := (s.core cid).acc.toNat
  let s1 := s.trace cid die 8 ((s.core cid).nextAddr die) acc none cls
  if (s.ctx cid).replaying then s1 else s1.record cid acc cls die payload is

/-- The address under which an ALIGN that does not wait logs its reading, in its own cycle: no register has it. -/
def alignReading : Nat := 0x10000
/-- The address under which an ALIGN that waited logs its reading, in the cycle after its own (R333). -/
def alignHeld : Nat := 0x10001

/-- The payload of a wall reading: what it reads, and the value. -/
def wallPayload (reg : Nat) (v : DWord) : List Byte := leBytes 8 reg ++ leBytes 8 v.toNat

/-- The entry of a replay log that a reading takes, where the log holds one at this ACC (R380). Handler readings of one ACC go in order. -/
def State.loggedReading (s : State) (cid d reg : Nat) (hnd : Bool) : Option ReplayEntry :=
  let hit := (s.ctx cid).replayLog.filter fun e =>
    e.cls == 3 && e.acc == (s.core cid).acc.toNat && e.die == d && e.payload.take 8 == leBytes 8 reg
  if hnd then hit.head? else hit.getLast?

/-- A reading in replay takes the value of its entry; one for which the log holds no entry takes a debug hold at the next boundary
(R380). -/
def State.takeLogged (s : State) (e? : Option ReplayEntry) (v : DWord) : DWord × State :=
  let hnd := s.cur.fl.hnd
  match e? with
  | some e =>
    (dw (ofLeBytes (e.payload.drop 8)), if hnd then s.onCtx s.cur.cid fun c => { c with replayLog := c.replayLog.erase e } else s)
  | none =>
    (v, if s.here.now > s.T then s
      else (s.onCore fun c => { c with reqs := c.reqs ++ [⟨s.T + 1, hnd, ⟨10, s.cur.p, .debug⟩⟩] }).steward 3 s.here.acc.toNat)

/-- A wall reading (class 3 of R34): recorded with its ACC, and in replay the logged value (R380). -/
def State.wallReading (s : State) (reg : Nat) (v : DWord) : DWord × State :=
  let (cid, d) := (s.cur.cid, s.cur.d)
  let s1 := s.noteInput cid 3 d (wallPayload reg v) []
  if !(s.ctx cid).replaying then (v, s1) else s1.takeLogged (s.loggedReading cid d reg s.cur.fl.hnd) v

/-- The entry that the reading of an ALIGN takes in replay, whether or not the recorded one waited (R380). -/
def State.loggedAlign (s : State) : Option ReplayEntry :=
  let hnd := s.cur.fl.hnd
  let acc := s.here.acc.toNat
  (s.ctx s.cur.cid).replayLog.find? fun e =>
    e.cls == 3 && e.die == s.cur.d
      && ((e.acc == acc && e.payload.take 8 == leBytes 8 alignReading)
        || (e.acc == (if hnd then acc else acc + 1) && e.payload.take 8 == leBytes 8 alignHeld))

end Sys2Proof.Machine
end

