-- ==== Sys2Proof/Machine/SeqSys.lean ====
section
/-!
DEFINITION. The control-register and system forms (R150 to R153): CFGW with its five registers of their own, TRAP,
TRET, BRK.
-/
namespace Sys2Proof.Machine

/-- The value of a CFGW: xa, or imm33 zero-extended when xa is x0 (R150). -/
def State.cfgwValue (s : State) (f : SC) : DWord := if f.xa = 0 then f.imm.setWidth 64 else s.xreg f.xa

/-- The checks of a CFGW (R81, R150, R362): reserved, read-only, privilege, and TVEC's low bits. -/
def State.cfgwChecks (s : State) (f : SC) : State :=
  let n := f.csr.toNat
  ((s.useX f.xa).illegal (!csrDefined n || csrReadOnly n || (n == 0x25 && (s.cfgwValue f).extractLsb' 0 3 != 0))).trapTWhen
    (csrS n && !s.die.inS) 4 s.position

/-- A control-register write at T + 1 (R150). -/
def State.cfgw (s : State) (f : SC) : State :=
  (s.cfgwChecks f).oweTab (.csr f.csr.toNat (s.cfgwValue f) s.accT)

/-- CFGW of a register without a row of its own (R150). -/
def execCfgw (f : SC) (s : State) : Res := .next (s.cfgw f)
/-- CFGW of XFLAGS (R45): clears the bits that are 1 in the value. -/
def execCfgwXflags (f : SC) (s : State) : Res := .next (s.cfgw f)
/-- CFGW of NF (R46). -/
def execCfgwNf (f : SC) (s : State) : Res := .next (s.cfgw f)
/-- CFGW of FMTn (R82): every die's copy changes. -/
def execCfgwFmt (f : SC) (s : State) : Res := .next (s.cfgw f)
/-- CFGW of LOGBASE (R343): LOGPTR takes its OFF. -/
def execCfgwLogbase (f : SC) (s : State) : Res := .next (s.cfgw f)

/-- Owes a write on the kernel's count, between the bundle at T and the next at each column: at the end of T + c + 2, or of
TACC + c + 1 for a handler's bundle. -/
def State.oweColumns (s : State) (w : Nat → TabWrite) : State :=
  let base := if s.cur.fl.hnd then s.here.acc.toNat + 1 else s.T + 2
  (List.range 128).foldl (fun s c =>
    s.onCore fun k =>
      { k with
        owed := k.owed ++ [⟨k.nextId, base + c, false, s.T, s.cur.d, s.cur.slot, 0, false, false, .tab (w c), s.T⟩]
        nextId := k.nextId + 1 }) s

/-- CFGW of TAPEBASE (R339): TP := TAPEBASE in every slice of the die, for bundles issued at T + 1 or later. -/
def execCfgwTapebase (f : SC) (s : State) : Res :=
  .next ((s.cfgw f).oweColumns fun c => .tp c (((s.cfgwValue f) &&& 0x7FFF8).setWidth 19))

/-- TRAP (R151). -/
def execTrap (f : SC) (s : State) : Res := .next (s.trapT 0x1C (f.imm.toNat % 2 ^ 16))

/-- BRK (R153): where the debugger's stops are enabled it acts as SNOP in the one issue that follows its stop; otherwise it traps with
cause 0x1D, also where a breakpoint register has stopped the die there. -/
def execBrk (f : SC) (s : State) : Res :=
  .next (if s.die.skip && s.hub.debugOpen && s.hub.brkStops then s.onDie fun d => { d with skip := false } else s.trapT 0x1D (f.imm.toNat % 2 ^ 16))

/-- TRET (R152, R365): PRIV.S := 0; the partition resumes at the boundary once no die runs a handler. -/
def execTret (_f : SR) (s : State) : Res :=
  .next (if s.die.inS then (s.onDie fun d => { d with inS := false }).trace s.cur.cid s.cur.d 7 s.cur.fl.addr s.here.acc.toNat none 0
    else s.trapT 4 s.position)

end Sys2Proof.Machine
end

