-- ==== Sys2Proof/Machine/SeqDiff.lean ====
section
/-!
DEFINITION. The S forms of differentiable regions: AMODE (R336, R337), DREGSET (R334, R335), LOGMARK (R347), REVERSE (R350).
-/
namespace Sys2Proof.Machine

/-- AMODE (R336): REVERSE traps with cause 0x15 while a write made under RECORD is pending in the die's slices (R337); PLAIN
clears the adjoint file. -/
def execAmode (f : SC) (s : State) : Res :=
  let m := f.imm.toNat % 4
  let parked := s.here.hatoms.any fun h =>
    h.parked && h.ctx.d == s.cur.d && h.ctx.fl.tab.amode == 1 && h.fetch.any fun e => e.2.2.isSome
  let pending := m == 2 && s.tab.amode != 2 && (decide (s.die.recEnd > s.T + 2) || parked)
  let s1 := ((s.illegal (m == 3)).trapTWhen pending 0x15 0).oweTab (.amode (BitVec.ofNat 2 m))
  .next (if m = 0 then s1.oweColumns fun c => .clearAdj c else s1)

/-- SPACE of a region descriptor: 0 off, 1 bank lines, 2 HBM (R334). -/
def drSpace (r : BitVec 256) : Nat := bitsOf r.toNat 0 2
/-- ADJH of a region descriptor. -/
def drAdjh (r : BitVec 256) : Nat := bitsOf r.toNat 4 4
/-- BASE of a region descriptor. -/
def drBase (r : BitVec 256) : Nat := bitsOf r.toNat 64 64
/-- LEN of a region descriptor. -/
def drLen (r : BitVec 256) : Nat := bitsOf r.toNat 128 64
/-- OFFSET of a region descriptor, signed. -/
def drOffset (r : BitVec 256) : Int := signedOf 64 (bitsOf r.toNat 192 64)

/-- Whether two half-open intervals meet. -/
def meets (a n b m : Int) : Bool := decide (a < b + m ∧ b < a + n)

/-- Whether a region or its cells overlap another region of the same space or its cells (R335). -/
def drOverlap (r q : BitVec 256) : Bool :=
  let n : Int := drLen r
  let m : Int := drLen q
  let a : Int := drBase r
  let b : Int := drBase q
  drSpace r == drSpace q &&
    (meets a n b m || meets (a + drOffset r) n b m || meets a n (b + drOffset q) m || meets (a + drOffset r) n (b + drOffset q) m)

/-- Whether a descriptor for region n breaks a rule of R335. -/
def Tables.drBad (t : Tables) (n : Nat) (r : BitVec 256) : Bool :=
  let x := r.toNat
  let sp := drSpace r
  let base := drBase r
  let len := drLen r
  let lo : Int := base + drOffset r
  sp == 3 || bitsOf x 2 2 != 0 || bitsOf x 8 56 != 0
  || (sp == 1 && (decide (base > 8191 ∨ len = 0 ∨ len > 8192 - base ∨ lo < 0 ∨ lo + len > 8192)
        || decide (t.tapeLim.toNat > t.tapeBase.toNat) && meets (64 * base) (64 * len) t.tapeBase.toNat (t.tapeLim.toNat - t.tapeBase.toNat)))
  || (sp == 2 && decide (base % 4 ≠ 0 ∨ len % 4 ≠ 0 ∨ len = 0 ∨ base + len > 2 ^ 52))
  || (sp != 0 && (meets base len lo len || t.dr.any fun e => e.1 != n && drOverlap r e.2))

/-- DREGSET (R335). -/
def execDregset (f : SC) (s : State) : Res :=
  let a := (s.xreg f.xa).toNat
  let r : BitVec 256 := BitVec.ofNat 256 (s.die.smemRead a 32)
  let s1 := ((s.useX f.xa).indexCheck f.xd 16).illegal (smemBadAddr a 32 || s.tab.drBad f.xd.toNat r)
  .next (((s1.trapTWhen (s.tab.amode != 0) 0x15 0).useSmem a 32 s.T).oweTab (.dr f.xd.toNat r))

/-- LOGMARK (R347): LOGPTR.PTR × 32, after every earlier bundle's logging. -/
def execLogmark (f : SR) (s : State) : Res := .next (s.retX f.xd s.die.logptr 1)

/-- REVERSE (R350): the adjoint stream starts at T + 1 when a record lies above the mark. -/
def execReverse (f : SR) (s : State) : Res :=
  let m := (s.xreg f.xa).toNat
  let d := s.die
  let off := (d.logbase &&& 0x3FFFFFFFFE0).toNat
  let s1 := ((s.useX f.xa).trapTWhen (s.tab.amode != 2) 0x15 0).illegal
    (decide (m % 32 ≠ 0 ∨ m < off ∨ m > d.logptr.toNat))
  .next (if d.logptr.toNat > m then
      s1.onDie fun d =>
        { d with rev := some ⟨s.cur.fl.addr, s.cur.fl.len, m, s.T + 1, d.next - (s.T + 1), s.cur.fl.hdrChk⟩ }
    else s1)

end Sys2Proof.Machine
end

