-- ==== Sys2Proof/Machine/Trellis.lean ====
section
/-!
DEFINITION. The trellis (R181 to R184): the wiring, the permutation of a setting, its inverse; and the route solver's
procedure (R186, R187).
-/
namespace Sys2Proof.Machine

/-- W_s(q): the input of stage s + 1 that output q of stage s feeds (R181). -/
def benesWire (s q : Nat) : Nat :=
  if s < 3 then
    let h := 8 >>> s
    let j := q % (2 * h)
    q - j + (j % 2) * h + j / 2
  else
    let h := 1 <<< (s - 2)
    let j := q % (2 * h)
    q - j + 2 * (j % h) + j / h

/-- The input of stage s that feeds its output q: crossed where the switch bit is 1. -/
def benesSwitch (S s q : Nat) : Nat := if bitAt S (8 * s + q / 2) then Nat.xor q 1 else q

/-- The input of the network that feeds output q, traced back from stage 6; W_s and W_(5-s) are inverse (R184). -/
def benesSource (S q : Nat) : Nat :=
  [6, 5, 4, 3, 2, 1].foldl (fun p s => benesWire (6 - s) (benesSwitch S s p)) q |> benesSwitch S 0

/-- The rank that leaves a trellis under a setting. -/
def benesRank (S : Nat) (r : Nat) : Nat :=
  (List.range 16).foldl (fun a q => a + (elemAt 32 (benesSource S q) r) <<< (32 * q)) 0

/-- rev(S): byte s is byte 6 - s of S (R184). -/
def benesRev (S : Nat) : Nat := (List.range 7).foldl (fun a s => a + (bitsOf S (8 * (6 - s)) 8) <<< (8 * s)) 0

/-- A full permutation from requests (R186): the targets, and the miss mask. -/
def resolveRoutes (req : Nat → Nat) (valid : Nat → Bool) : List Nat × Nat :=
  let step (acc : List (Option Nat) × List Nat) (i : Nat) : List (Option Nat) × List Nat :=
    if valid i && !acc.2.contains (req i) then (acc.1 ++ [some (req i)], req i :: acc.2) else (acc.1 ++ [none], acc.2)
  let (served, claimed) := (List.range 16).foldl step ([], [])
  let free := (List.range 16).filter fun t => !claimed.contains t
  let fill (acc : List Nat × List Nat) (x : Option Nat) : List Nat × List Nat :=
    match x with
    | some t => (acc.1 ++ [t], acc.2)
    | none => (acc.1 ++ [acc.2.headD 0], acc.2.tail)
  let miss := (served.zipIdx.foldl (fun m e => if valid e.2 && e.1.isNone then m + 2 ^ e.2 else m) 0)
  ((served.foldl fill ([], free)).1, miss)

/-- The inverse of a permutation given as a list. -/
def inversePerm (l : List Nat) : List Nat := (List.range l.length).map fun t => l.idxOf t

/-- One loop of the solver from input i (R187): sides and switches until it closes. -/
def solveLoop (sig : List Nat) (s base : Nat) : Nat → Nat → List (Option Bool) × Nat → List (Option Bool) × Nat
  | 0, _, st => st
  | fuel + 1, i, (side, sw) =>
    let side' := (side.set i (some false)).set (Nat.xor i 1) (some true)
    let o := sig.getD i 0
    let sw1 := putBits sw (8 * s + base / 2 + i / 2) 1 (i % 2)
    let sw2 := putBits sw1 (8 * (6 - s) + base / 2 + o / 2) 1 (o % 2)
    let j := sig.idxOf (Nat.xor o 1)
    if (side'.getD j none).isSome then (side', sw2) else solveLoop sig s base fuel (Nat.xor j 1) (side', sw2)

/-- solve(sig, 2^k, s, base) of R187 on the switches so far. -/
def solveRoutes : Nat → List Nat → Nat → Nat → Nat → Nat
  | 0, _, _, _, sw => sw
  | k + 1, sig, s, base, sw =>
    if k = 0 then putBits sw (8 * s + base / 2) 1 (sig.getD 0 0)
    else
      let n := 2 ^ (k + 1)
      let h := 2 ^ k
      let start (st : List (Option Bool) × Nat) (w : Nat) : List (Option Bool) × Nat :=
        if (st.1.getD (2 * w) none).isSome then st else solveLoop sig s base n (2 * w) st
      let (side, sw1) := (List.range h).foldl start (List.replicate n none, sw)
      let pick (b : Bool) : List Nat :=
        (List.range h).map fun w => (if side.getD (2 * w) none = some b then sig.getD (2 * w) 0 else sig.getD (2 * w + 1) 0) / 2
      solveRoutes k (pick true) (s + 1) (base + h) (solveRoutes k (pick false) (s + 1) base sw1)

/-- The setting of a permutation sig: SW = 0, then solve(sig, 16, 0, 0). -/
def routeSetting (sig : List Nat) : Nat := solveRoutes 4 sig 0 0 0

/-- The setting of an RT or WT syllable in the running slice (R107, R183): literal, a z register as sampled at X, or the
identity. -/
def State.setting (s : State) (t : Option Trel) : Nat × State :=
  match t with
  | none => (0, s)
  | some f =>
    if f.mode = 0 then (f.sw.toNat, s)
    else if f.mode = 1 then
      ((SMap.get (0 : BitVec 56) s.slice.z f.zi.toNat).toNat, s.sample (.reg s.cur.s (0x54 + f.zi.toNat) 0) s.X)
    else (0, s)

end Sys2Proof.Machine
end

