-- ==== Sys2Proof/Machine/Access.lean ====
section
/-!
DEFINITION. Bank accesses (R192 to R197, R442): LDR, STR, RMW, and what every bank access shares: ownership (R273), the tape
area (R339), poison (R368), tape entries under RECORD (R340, R341).
-/
namespace Sys2Proof.Machine

/-- The key of bank word (b, line) in a slice's banks (R74): a quarter of its slice byte address. -/
def wordKey (b line : Nat) : Nat := 16 * line + b

/-- The banks that a bank mask names, ascending. -/
def maskBanks (m : BitVec 16) : List Nat := onesOf 16 m.toNat

/-- A bank word. -/
def Slice.word (sl : Slice) (key : Nat) : Word := SMap.get 0 sl.bank key
/-- The poison tag of a bank word (R368). -/
def Slice.poison (sl : Slice) (key : Nat) : BitVec 2 := SMap.get 0 sl.tag key

/-- Whether the context owns the block of a line of a slice (R266). -/
def Core.owns (c : Core) (n line : Nat) : Bool := (SMap.get (0 : BitVec 128) c.owned n).getLsbD (line / 64)

/-- The ownership check of R273 on bank words: cause 0x03. -/
def State.checkOwned (s : State) (cyc : Nat) (keys : List Nat) : State :=
  s.trapWhen (keys.any fun k => !s.here.owns s.cur.s (k / 16)) cyc 3 s.position

/-- Whether a bank word lies in the tape area (R339). -/
def Tables.inTape (t : Tables) (key : Nat) : Bool :=
  decide (t.tapeBase.toNat < t.tapeLim.toNat ∧ t.tapeBase.toNat ≤ 4 * key ∧ 4 * key < t.tapeLim.toNat)

/-- Consuming bank words (R368): cause 0x13 for tag 01, 0x12 for tag 10, at the first such word. -/
def State.checkPoison (s : State) (cyc : Nat) (keys : List Nat) : State :=
  let first (t : BitVec 2) (code : Nat) (st : State) : State :=
    match keys.find? fun k => s.slice.poison k == t with
    | some k => st.trapS cyc code (4 * k)
    | none => st
  first 1 0x13 (first 2 0x12 s)

/-- The bank region that covers a line (R334). -/
def Tables.bankRegion (t : Tables) (line : Nat) : Option (BitVec 256) :=
  (t.dr.map Prod.snd).find? fun r => drSpace r == 1 && decide (drBase r ≤ line ∧ line < drBase r + drLen r)

/-- Whether the write of a bank word pushes a tape entry (R340). -/
def Tables.taped (t : Tables) (key : Nat) : Bool := t.amode == 1 && (t.bankRegion (key / 16)).isSome

/-- Reserves the tape entries of a syllable at its X (R341): `ws` lists the words it will write, with their result cycles, in
the order of R340. The answer is the byte address of the first entry. -/
def State.reserve (s : State) (cyc : Nat) (ws : List (Nat × Nat)) : Nat × State :=
  let hit := ws.filter fun w => s.tab.taped w.1
  let n := hit.length
  let tp := s.slice.tp.toNat
  if n = 0 then (tp, s)
  else if tp + 8 * n > s.tab.tapeLim.toNat then (tp, s.trapS cyc 0x18 n)
  else
    let s1 := s.onSlice fun sl => { sl with tp := BitVec.ofNat 19 (tp + 8 * n) }
    let keys := (List.range (2 * n)).map (tp / 4 + ·)
    let s2 := s1.checkOwned cyc keys
    (tp, (hit.zipIdx).foldl (fun st e =>
      (st.mark (.word s.cur.s (tp / 4 + 2 * e.2)) e.1.2).mark (.word s.cur.s (tp / 4 + 2 * e.2 + 1)) e.1.2) s2)

/-- The tape address of the word at place `n` of a syllable's writes, when it has an entry. -/
def Tables.tapeAt (t : Tables) (base : Nat) (keys : List Nat) (n : Nat) : Option Nat :=
  if t.taped (keys.getD n 0) then some (base + 8 * ((keys.take n).filter t.taped).length) else none

/-- The checks and marks of a syllable's bank writes: ownership, scoreboard, tape entries (R273, R32, R341); its issue has checked the
tape area (R339).
The answer is the tape address of the first entry. -/
def State.claimWrites (s : State) (cyc : Nat) (ws : List (Nat × Nat)) : Nat × State :=
  let keys := ws.map Prod.fst
  let s1 := s.checkOwned cyc keys
  let s2 := ws.foldl (fun st w => st.mark (.word s.cur.s w.1) w.2) s1
  s2.reserve cyc ws

/-- Owes words with poison tags to banks, each performing at the end of `due` (R193): the writes of a
syllable's words `keys`, from number `skip` on. -/
def State.oweWords (s : State) (due base : Nat) (keys : List Nat) (skip : Nat) (ws : List (Word × BitVec 2)) : State :=
  (ws.zipIdx skip).foldl (fun st e =>
    let key := keys.getD e.2 0
    st.owe due (.bank (key % 16) (key / 16) e.1.1 e.1.2 (s.tab.tapeAt base keys e.2))) s

/-- The key of bank b that a CB syllable addresses (R192). -/
def State.cbKey (s : State) (f : CB) (b : Nat) : Nat :=
  wordKey b (s.tab.bankLine f.it.toNat f.skew.toNat b f.loff.toInt)

/-- Reads the masked bank words of a CB syllable at X: the rank whose lane b is bank b, unmasked lanes zero. -/
def State.readBanks (s : State) (f : CB) : Nat × State :=
  let keys := (maskBanks f.bmask).map (s.cbKey f)
  let s1 := s.checkOwned s.X keys
  let s2 := keys.foldl (fun st k => st.sample (.word s.cur.s k) s.X) s1
  (keys.foldl (fun a k => a + (s.slice.word k).toNat <<< (32 * (k % 16))) 0, s2.checkPoison s.X keys)

/-- CNOP (R442): no effect. -/
def execCnop (_f : CB) (s : State) : Res := .next s

/-- LDR (R195): the masked words through RT; tl and d see the rank at X + 4. -/
def execLdr (f : CB) (s : State) : Res :=
  let (set, s1) := s.setting s.cur.fl.rt
  let (r, s2) := s1.readBanks f
  let v : Rank := BitVec.ofNat 512 (benesRank set r)
  .next (((s2.mark (.reg s.cur.s 0x38 0) (s.X + 4)).owe (s.X + 3) (.tl v)).writeRank f.spec.toNat (s.X + 4) v)

/-- STR (R196): the source through WT to the masked words, at the end of X + 3. -/
def execStr (f : CB) (s : State) : Res :=
  let (a, s1) := s.readRank f.spec.toNat s.X false
  let (set, s2) := s1.setting s.cur.fl.wt
  let v := benesRank set a.toNat
  let keys := (maskBanks f.bmask).map (s.cbKey f)
  let (base, s3) := s2.claimWrites s.X (keys.map fun k => (k, s.X + 4))
  .next (s3.oweWords (s.X + 3) base keys 0 (keys.map fun k => (BitVec.ofNat 32 (elemAt 32 (k % 16) v), 0)))

/-- The new value of an RMW (R197). -/
def rmwValue (rop : Nat) (old v c : Word) : Word :=
  match rop with
  | 0 => old + v
  | 1 => if old.slt v then old else v
  | 2 => if old.slt v then v else old
  | 3 => old &&& v
  | 4 => old ||| v
  | 5 => old ^^^ v
  | 6 => v
  | _ => if old = c then v else old

/-- RMW (R197): old values to d at X + 3, new values at the end of X + 2. -/
def execRmw (f : CB) (s : State) : Res :=
  let (a, s1) := s.readRank f.spec2.toNat s.X false
  let (old, s2) := s1.readBanks f
  let keys := (maskBanks f.bmask).map (s.cbKey f)
  let (base, s3) := s2.claimWrites s.X (keys.map fun k => (k, s.X + 3))
  let lane (x k : Nat) : Word := BitVec.ofNat 32 (elemAt 32 (k % 16) x)
  let s4 := s3.oweWords (s.X + 2) base keys 0
    (keys.map fun k => (rmwValue f.rop.toNat (lane old k) (lane a.toNat k) (s.cur.fl.xs.setWidth 32), 0))
  .next (s4.writeRank f.spec.toNat (s.X + 3) (BitVec.ofNat 512 old))

end Sys2Proof.Machine
end

