-- ==== Sys2Proof/Machine/Bq.lean ====
section
/-!
DEFINITION. The BQ block formats (R49 to R52): decoding to exact numbers and encoding under a rounding mode.
-/
namespace Sys2Proof

/-- Magnitude bits m of a BQ type code 9 to 11. -/
def bqM (ty : Nat) : Nat := if ty = 9 then 7 else if ty = 10 then 4 else 2
/-- Bytes of a block (R49). -/
def bqBytes (ty : Nat) : Nat := if ty = 9 then 18 else if ty = 10 then 12 else 8
/-- Blocks per rank (R52). -/
def bqBlocks (ty : Nat) : Nat := if ty = 9 then 3 else if ty = 10 then 5 else 8

/-- Element i of a block (R50): the canonical NaN when E = 255. -/
def bqElem (m blk i : Nat) : Num :=
  let e := bitsOf blk 0 8
  if e = 255 then .nan false
  else
    let f := bitsOf blk (16 + (1 + m) * i) (1 + m)
    let mu := bitsOf blk (8 + i / 2) 1
    .fin (bitAt f m) (f % 2 ^ m) ((e : Int) - 127 - mu - (m - 1))

/-- The sixteen exact values of a block. -/
def bqDecode (m blk : Nat) : List Num := (List.range 16).map (bqElem m blk)

/-- Whether |round_int(x / 2^qe)| ≤ 2^m - 1 (R51). -/
def bqFits (rm m : Nat) (qe : Int) (x : Num) : Bool :=
  match x with
  | .fin n mm e => decide ((roundInt rm n mm (e - qe)).1.natAbs ≤ 2 ^ m - 1)
  | _ => false

/-- The search of e_id: the smallest e in [lo, lo + k] at which every input fits, or lo + k + 1 when none does. The caller
starts it below every exponent that can matter. -/
def bqSearch (rm m : Nat) (xs : List Num) : Nat → Int → Int
  | 0, lo => if xs.all (bqFits rm m (lo - 127 - (m - 1))) then lo else lo + 1
  | k + 1, lo => if xs.all (bqFits rm m (lo - 127 - (m - 1))) then lo else bqSearch rm m xs k (lo + 1)

/-- encode_bq (R51): the block; `zeroE` is BQFR. The inputs are already flushed by BQFI and scaled. -/
def bqEncode (rm m : Nat) (bqfr : Bool) (xs : List Num) : Flagged Nat := do
  if xs.any (fun x => match x with | .fin _ _ _ => false | _ => true) then
    raiseFlags flagIV
    return 255
  -- e_id < 1 exactly when every input fits at e = 0 (fitting is monotone in e)
  let below := xs.all (bqFits rm m (0 - 127 - (m - 1)))
  let eid : Int := if below then 0 else bqSearch rm m xs 253 1
  let sat := decide (eid > 254)
  let e : Int := if sat then 254 else eid
  let qe := e - 127 - (m - 1)
  let mu (j : Nat) : Nat :=
    b2n (bqFits rm m (qe - 1) (xs.getD (2 * j) (.fin false 0 0)) && bqFits rm m (qe - 1) (xs.getD (2 * j + 1) (.fin false 0 0)))
  let elem (i : Nat) : Nat × Nat × Bool :=   -- field, flags, rounded
    match xs.getD i (.fin false 0 0) with
    | .fin n mm ex =>
      let (v, ix) := roundInt rm n mm (ex - (qe - mu (i / 2)))
      if sat && decide (v.natAbs > 2 ^ m - 1) then (b2n n * 2 ^ m + (2 ^ m - 1), flagOF ||| flagIX, true)
      else (b2n n * 2 ^ m + v.natAbs, if ix then flagIX else 0, ix)
    | _ => (0, 0, false)
  let es := (List.range 16).map elem
  let signs := packLe (es.map fun x => (1 + m, x.1 / 2 ^ m * 2 ^ m))
  if below && bqfr then
    if xs.any (fun x => !x.isZero) then raiseFlags (flagUF ||| flagIX)
    raiseFlags (es.foldl (fun a x => a ||| x.2.1) 0)
    if es.any (·.2.2) then raiseFlags flagUF
    return signs <<< 16
  raiseFlags (es.foldl (fun a x => a ||| x.2.1) 0)
  if below && es.any (·.2.2) then raiseFlags flagUF
  return e.toNat + packLe ((List.range 8).map fun j => (1, mu j)) * 256 + (packLe (es.map fun x => (1 + m, x.1))) <<< 16

end Sys2Proof
end

