-- ==== Sys2Proof/Machine/Transc.lean ====
section
/-!
DEFINITION. The transcendentals (R63 to R66): tables, reduction, polynomial and combination, each step rounded RNE to F32.
The special cases of R65 are decided first; every other result raises IX. The bits raised by a function are those of its
table, IX, and the events of its last rounding (log entry 9).
-/
namespace Sys2Proof

/-- T of VEXP: 2^(j/64) (R64). -/
def expTable : List Nat :=
  [0x3F800000, 0x3F8164D2, 0x3F82CD87, 0x3F843A29, 0x3F85AAC3, 0x3F871F62, 0x3F88980F, 0x3F8A14D5] ++
  [0x3F8B95C2, 0x3F8D1ADF, 0x3F8EA43A, 0x3F9031DC, 0x3F91C3D3, 0x3F935A2B, 0x3F94F4F0, 0x3F96942D] ++
  [0x3F9837F0, 0x3F99E046, 0x3F9B8D3A, 0x3F9D3EDA, 0x3F9EF532, 0x3FA0B051, 0x3FA27043, 0x3FA43516] ++
  [0x3FA5FED7, 0x3FA7CD94, 0x3FA9A15B, 0x3FAB7A3A, 0x3FAD583F, 0x3FAF3B79, 0x3FB123F6, 0x3FB311C4] ++
  [0x3FB504F3, 0x3FB6FD92, 0x3FB8FBAF, 0x3FBAFF5B, 0x3FBD08A4, 0x3FBF179A, 0x3FC12C4D, 0x3FC346CD] ++
  [0x3FC5672A, 0x3FC78D75, 0x3FC9B9BE, 0x3FCBEC15, 0x3FCE248C, 0x3FD06334, 0x3FD2A81E, 0x3FD4F35B] ++
  [0x3FD744FD, 0x3FD99D16, 0x3FDBFBB8, 0x3FDE60F5, 0x3FE0CCDF, 0x3FE33F89, 0x3FE5B907, 0x3FE8396A] ++
  [0x3FEAC0C7, 0x3FED4F30, 0x3FEFE4BA, 0x3FF28177, 0x3FF5257D, 0x3FF7D0DF, 0x3FFA83B3, 0x3FFD3E0C]

/-- T.ln of VLOG: ln g (R64). -/
def lnTable : List Nat :=
  [0x00000000, 0x3C7E0546, 0x3CFC14D8, 0x3D3BA2C8, 0x3D785186, 0x3D9A0EBD, 0x3DB78694, 0x3DD4936A] ++
  [0x3DF1383B, 0x3E06BBF4, 0x3E14AA98, 0x3E22695B, 0x3E2FF984, 0x3E3D5C48, 0x3E4A92D5, 0x3E579E4A] ++
  [0x3E647FBE, 0x3E71383B, 0x3E7DC8C3, 0x3E851927, 0x3E8B3AE5, 0x3E914A10, 0x3E974716, 0x3E9D3263] ++
  [0x3EA30C5E, 0x3EA8D56C, 0x3EAE8DEE, 0x3EB43641, 0x3EB9CEC0, 0x3EBF57C2, 0x3EC4D19C, 0x3ECA3CA1] ++
  [0x3ECF991F, 0x3ED4E765, 0x3EDA27BC, 0x3EDF5A6D, 0x3EE47FBE, 0x3EE997F4, 0x3EEEA350, 0x3EF3A213] ++
  [0x3EF8947B, 0x3EFD7AC4, 0x3F012A95, 0x3F0391F3, 0x3F05F397, 0x3F084F9D, 0x3F0AA61F, 0x3F0CF736] ++
  [0x3F0F42FB, 0x3F118987, 0x3F13CAF1, 0x3F16074F, 0x3F183EBA, 0x3F1A7145, 0x3F1C9F07, 0x3F1EC813] ++
  [0x3F20EC7F, 0x3F230C5E, 0x3F2527C3, 0x3F273EC1, 0x3F295169, 0x3F2B5FCF, 0x3F2D6A02, 0x3F2F7015]

/-- 1/g, of VLOG and VRCP (R64). -/
def invTable : List Nat :=
  [0x3F800000, 0x3F7C0FC1, 0x3F783E10, 0x3F74898D, 0x3F70F0F1, 0x3F6D7304, 0x3F6A0EA1, 0x3F66C2B4] ++
  [0x3F638E39, 0x3F607038, 0x3F5D67C9, 0x3F5A740E, 0x3F579436, 0x3F54C77B, 0x3F520D21, 0x3F4F6475] ++
  [0x3F4CCCCD, 0x3F4A4588, 0x3F47CE0C, 0x3F4565C8, 0x3F430C31, 0x3F40C0C1, 0x3F3E82FA, 0x3F3C5264] ++
  [0x3F3A2E8C, 0x3F381703, 0x3F360B61, 0x3F340B41, 0x3F321643, 0x3F302C0B, 0x3F2E4C41, 0x3F2C7692] ++
  [0x3F2AAAAB, 0x3F28E83F, 0x3F272F05, 0x3F257EB5, 0x3F23D70A, 0x3F2237C3, 0x3F20A0A1, 0x3F1F1166] ++
  [0x3F1D89D9, 0x3F1C09C1, 0x3F1A90E8, 0x3F191F1A, 0x3F17B426, 0x3F164FDA, 0x3F14F209, 0x3F139A86] ++
  [0x3F124925, 0x3F10FDBC, 0x3F0FB824, 0x3F0E7835, 0x3F0D3DCB, 0x3F0C08C1, 0x3F0AD8F3, 0x3F09AE41] ++
  [0x3F088889, 0x3F0767AB, 0x3F064B8A, 0x3F053408, 0x3F042108, 0x3F03126F, 0x3F020821, 0x3F010204]

/-- Φ(a), a = (2j + 1)/16 (R64). -/
def capPhiTable : List Nat :=
  [0x3F066101, 0x3F1309A1, 0x3F1F6748, 0x3F2B4BD1, 0x3F368E87, 0x3F410DC2, 0x3F4AAFF9, 0x3F53644E] ++
  [0x3F5B2287, 0x3F61EA86, 0x3F67C355, 0x3F6CB9ED, 0x3F70DFCC, 0x3F74497E, 0x3F770D39, 0x3F7941A4] ++
  [0x3F7AFCCD, 0x3F7C535C, 0x3F7D580F, 0x3F7E1B63, 0x3F7EAB78, 0x3F7F141B, 0x3F7F5EEB, 0x3F7F9395] ++
  [0x3F7FB813, 0x3F7FD0FA, 0x3F7FE1B3, 0x3F7FECC3, 0x3F7FF3F7, 0x3F7FF894, 0x3F7FFB7E, 0x3F7FFD4D] ++
  [0x3F7FFE69, 0x3F7FFF13, 0x3F7FFF79, 0x3F7FFFB4, 0x3F7FFFD6, 0x3F7FFFE9, 0x3F7FFFF3, 0x3F7FFFF9] ++
  [0x3F7FFFFD, 0x3F7FFFFE, 0x3F7FFFFF, 0x3F800000, 0x3F800000, 0x3F800000, 0x3F800000, 0x3F800000] ++
  [0x3F800000, 0x3F800000, 0x3F800000, 0x3F800000, 0x3F800000, 0x3F800000, 0x3F800000, 0x3F800000] ++
  [0x3F800000, 0x3F800000, 0x3F800000, 0x3F800000, 0x3F800000, 0x3F800000, 0x3F800000, 0x3F800000]

/-- φ(a), a = (2j + 1)/16 (R64). -/
def lowPhiTable : List Nat :=
  [0x3ECBDC22, 0x3EC8B308, 0x3EC28644, 0x3EB99DD6, 0x3EAE5EE0, 0x3EA14436, 0x3E92D5B4, 0x3E839F31] ++
  [0x3E684FCE, 0x3E49D600, 0x3E2CA3B1, 0x3E116081, 0x3DF10B21, 0x3DC4BBE4, 0x3D9E1486, 0x3D7A1A7A] ++
  [0x3D42C7DE, 0x3D1557F4, 0x3CE175FD, 0x3CA78C5E, 0x3C752973, 0x3C309560, 0x3BFA6ED3, 0x3BAED492] ++
  [0x3B70516B, 0x3B229B79, 0x3AD8A3C1, 0x3A8E1365, 0x3A377646, 0x39E93B29, 0x3991F3C9, 0x3933D652] ++
  [0x38DA274E, 0x388243F3, 0x3819287F, 0x37B14846, 0x374A065C, 0x36E2A6BE, 0x367A5667, 0x36081B2C] ++
  [0x3591B46A, 0x35198FDF, 0x349F5576, 0x3422C270, 0x33A3AE66, 0x33220E62, 0x329DF5B3, 0x32179470] ++
  [0x318F33D7, 0x310530D1, 0x3073EAA4, 0x2FDBE235, 0x2F432541, 0x2EAA816B, 0x2E12AAC3, 0x2D786932] ++
  [0x2CCF1B2D, 0x2C29FE0D, 0x2B895DC4, 0x2ADA8FE6, 0x2A2B2E28, 0x2983FDE4, 0x28C864C9, 0x2815C368]

/-- K_E = rne_f32(64/ln 2). -/
def constKE : Nat := 0x42B8AA3B
/-- LH: ln 2/64 with the low 12 significand bits zero. -/
def constLH : Nat := 0x3C317000
/-- LL = rne_f32(ln 2/64 - LH). -/
def constLL : Nat := 0x3505FDF4
/-- L2H: ln 2 with the low 12 significand bits zero. -/
def constL2H : Nat := 0x3F317000
/-- L2L = rne_f32(ln 2 - L2H). -/
def constL2L : Nat := 0x3805FDF4
/-- KP = rne_f32(pi/8) (R57). -/
def constKP : Nat := 0x3EC90FDB
/-- φ0, the rounded 1/√(2π) (R65). -/
def constPhi0 : Nat := 0x3ECC422A

/-- Entry j of a table. -/
def tableAt (t : List Nat) (j : Nat) : Nat := t.getD j 0

/-- Runs a computation and keeps none of the bits it raises. -/
def quiet {α : Type} (c : Flagged α) : Flagged α := do return (c.run 0).1

/-- The polynomial of R63: `fma(fma(fma(c3, r, c2), r, c1), r, c0)`. -/
def poly3 (c3 c2 c1 c0 r : Nat) : Flagged Nat := do
  fma32 (← fma32 (← fma32 c3 r c2) r c1) r c0

/-- 1.0 in F32. -/
def one32 : Nat := 0x3F800000
/-- -1.0 in F32. -/
def minusOne32 : Nat := 0xBF800000
/-- +∞ in F32. -/
def inf32 : Nat := 0x7F800000

/-- The nearest integer, ties to even, of F32 bits (R64). -/
def nearestInt (x : Nat) : Int :=
  match rd32 x with
  | .fin n m e => (roundInt 1 n m e).1
  | _ => 0

/-- F32 bits of an integer of small magnitude. -/
def int32f (n : Int) : Flagged Nat := quiet (rne32 (.fin (decide (n < 0)) n.natAbs 0))

/-- exp_alg and VEXP (R64, R65). Where x * K_E rounds to minus infinity the nearest integer n is not defined, and the result is left open
(log entry 97). -/
def expAlg (x : Nat) : Flagged Nat :=
  match rd32 x with
  | .nan s => do
    if s then raiseFlags flagIV
    return nan32
  | .inf n => return if n then 0 else inf32
  | .fin _ 0 _ => return one32
  | .fin _ _ _ => do
    raiseFlags flagIX
    let t ← quiet (mul32 x constKE)
    if numCmp (rd32 t) (.fin false 8191 0) > 0 then
      raiseFlags flagOF
      return inf32
    if t = 0xFF800000 then return Config.expBelow x % 2 ^ 32
    let n := nearestInt t
    let j := (n % 64).toNat
    let nf ← int32f (-n)
    let r ← quiet (do fma32 nf constLL (← fma32 nf constLH x))
    let p ← quiet (poly3 0x3E2AAAAB 0x3F000000 one32 0 r)
    let tj := tableAt expTable j
    let c ← quiet (fma32 tj p tj)
    scale32 c ((n - j) / 64)

/-- f and e of a nonzero finite magnitude `m * 2^k = f * 2^e`, 1 ≤ f < 2: f as F32 bits (exact for 24-bit m), and e. -/
def splitSig (m : Nat) (k : Int) : Nat × Int :=
  let l := Nat.log2 m
  (((m <<< (23 - l)) % 2 ^ 23) + one32, (l : Int) + k)

/-- VLOG (R64, R65). -/
def logAlg (x : Nat) : Flagged Nat :=
  match rd32 x with
  | .nan s => do
    if s then raiseFlags flagIV
    return nan32
  | .inf false => return inf32
  | .inf true => do
    raiseFlags flagIV
    return nan32
  | .fin n m k => do
    if m = 0 then
      raiseFlags flagDZ
      return inf32 + 0x80000000
    if n then
      raiseFlags flagIV
      return nan32
    if x = one32 then return 0
    let (f, e) := splitSig m k
    let j := bitsOf f 17 6
    raiseFlags flagIX
    let r ← quiet (fma32 f (tableAt invTable j) minusOne32)
    let p ← quiet (poly3 0x3EAAAAAB 0xBF000000 one32 0 r)
    let ef ← int32f e
    let hi ← quiet (fma32 ef constL2H (tableAt lnTable j))
    let lo ← quiet (fma32 ef constL2L p)
    add32 hi lo

/-- rcp_alg and VRCP (R64, R65). -/
def rcpAlg (x : Nat) : Flagged Nat :=
  match rd32 x with
  | .nan s => do
    if s then raiseFlags flagIV
    return nan32
  | .inf n => return b2n n * 0x80000000
  | .fin n m k => do
    if m = 0 then
      raiseFlags flagDZ
      return inf32 + b2n n * 0x80000000
    let (f, e) := splitSig m k
    let t := tableAt invTable (bitsOf f 17 6)
    raiseFlags flagIX
    let r ← quiet (fma32 (neg32 f) t one32)
    let p ← quiet (poly3 one32 one32 one32 one32 r)
    let y ← quiet (mul32 t p)
    let z ← scale32 y (-e)
    return z + b2n n * 0x80000000

/-- VRSQ (R64, R65). -/
def rsqAlg (x : Nat) : Flagged Nat :=
  match rd32 x with
  | .fin n 0 _ => do
    raiseFlags flagDZ
    return inf32 + b2n n * 0x80000000
  | .inf false => return 0
  | .fin false _ _ => do rcpAlg (← quiet (sqrt32 x))
  | _ => sqrt32 x

/-- VTANH (R64, R65). -/
def tanhAlg (x : Nat) : Flagged Nat :=
  let sgn := x / 0x80000000 * 0x80000000
  let mag := x % 0x80000000
  match rd32 x with
  | .nan s => do
    if s then raiseFlags flagIV
    return nan32
  | .inf _ => return one32 + sgn
  | .fin _ m k => do
    if m = 0 then return x
    if mag ≥ 0x41100000 then return one32 + sgn
    if mag < 0x39800000 then return x
    let _ := k
    raiseFlags flagIX
    let e ← quiet (do expAlg (← scale32 mag 1))
    let d ← quiet (add32 e one32)
    let r ← quiet (rcpAlg d)
    let y ← fma32 0xC0000000 r one32
    return y + sgn

/-- sig_alg and VSIG (R64, R65). -/
def sigAlg (x : Nat) : Flagged Nat :=
  match rd32 x with
  | .nan s => do
    if s then raiseFlags flagIV
    return nan32
  | .inf n => return if n then 0 else one32
  | .fin _ 0 _ => return 0x3F000000
  | .fin _ _ _ => do
    raiseFlags flagIX
    let e ← quiet (expAlg (neg32 x))
    rcpAlg (← quiet (add32 one32 e))

/-- The reduction of Φ and φ: j, and r = |x| - a (R64). -/
def phiReduce (mag : Nat) : Nat × Flagged Nat :=
  match rd32 mag with
  | .fin _ m k =>
    let j := (roundShift 2 false m (-(k + 3))).1
    (j, do fma32 one32 mag (neg32 (← rne32 (.fin false (2 * j + 1) (-4)))))
  | _ => (0, return 0)

/-- rne_f32 of `num * 2^e / den`, the coefficients of Φ and φ (R64). -/
def coeff (num : Int) (den : Nat) (e : Int) : Flagged Nat :=
  quiet (rne32 (numDiv (.fin (decide (num < 0)) num.natAbs e) (.fin false den 0)))

/-- Φ, the standard normal distribution (R64, R65). -/
def capPhi (x : Nat) : Flagged Nat :=
  let neg := decide (x ≥ 0x80000000)
  let mag := x % 0x80000000
  match rd32 x with
  | .nan s => do
    if s then raiseFlags flagIV
    return nan32
  | .inf n => return if n then 0 else one32
  | .fin _ m _ => do
    if m = 0 then return 0x3F000000
    if mag ≥ 0x41000000 then return if neg then 0 else one32
    raiseFlags flagIX
    let (j, red) := phiReduce mag
    let a : Int := 2 * j + 1
    let r ← quiet red
    let c3 ← coeff (a * a - 256) 6 (-8)
    let c2 ← coeff (-a) 2 (-4)
    let p ← quiet (poly3 c3 c2 one32 0 r)
    let y ← quiet (fma32 (tableAt lowPhiTable j) p (tableAt capPhiTable j))
    if neg then sub32 one32 y else return y

/-- φ, the standard normal density (R64, R65). -/
def lowPhi (x : Nat) : Flagged Nat :=
  let mag := x % 0x80000000
  match rd32 x with
  | .nan s => do
    if s then raiseFlags flagIV
    return nan32
  | .inf _ => return 0
  | .fin _ m _ => do
    if m = 0 then return constPhi0
    if mag ≥ 0x41000000 then return 0
    raiseFlags flagIX
    let (j, red) := phiReduce mag
    let a : Int := 2 * j + 1
    let r ← quiet red
    let c3 ← coeff (-(a * a * a - 3 * 256 * a)) 6 (-12)
    let c2 ← coeff (a * a - 256) 2 (-8)
    let c1 ← coeff (-a) 1 (-4)
    let p ← quiet (poly3 c3 c2 c1 one32 r)
    mul32 (tableAt lowPhiTable j) p

end Sys2Proof
end

