-- ==== Sys2Proof/Machine/VecAlu.lean ====
section
/-!
DEFINITION. The V-slot forms that act element by element (R161 to R170): integer and floating arithmetic, logic, compare,
select, round, classify, the transcendentals and VRELU.
-/
namespace Sys2Proof.Machine

/-- An element operation: its immediate and the elements of A, B and C. -/
abbrev ElemOp := View → Nat → Nat → Nat → Flagged Nat

/-- A V form of one, two or three sources (R157 to R160): every source is sampled whole at X; the result comes at X + `lat`. -/
def State.vForm (s : State) (f : VF) (srcs : Nat) (lat : View → Nat) (nf : Bool) (op : ElemOp) : State :=
  let (v, s0) := s.view f
  let (a, s1) := s0.vA f
  let (b, s2) := if srcs ≥ 2 then s1.vB f else (0, s1)
  let (c, s3) := if srcs ≥ 3 then s2.vC f else (0, s2)
  let r := v.elems fun i => op v (elemAt v.w i a) (elemAt v.w i b) (elemAt v.w i c)
  s3.vDone f.dst (lat v) r (if nf then v.nf r.1 else 0)

/-- Latency 4 for F types, 2 for integers (R161). -/
def latFI (v : View) : Nat := if isF v.ty then 4 else 2

/-- An integer element: signed for I types (R162). -/
def View.int (v : View) (x : Nat) : Int := if isI v.ty then signedOf v.w x else (x : Int)
/-- sat_w of R40 for a type. -/
def satInt (ty w : Nat) (x : Int) : Nat :=
  if isI ty then wrapInt w (max (-(2 ^ (w - 1) : Nat) : Int) (min ((2 ^ (w - 1) : Nat) - 1 : Int) x))
  else wrapInt w (max 0 (min ((2 ^ w : Nat) - 1 : Int) x))
/-- A floating element, flushed by FI (R47). -/
def View.num (v : View) (x : Nat) : Num := v.lay.decode v.fi x
/-- round_t of the view (R48). -/
def View.round (v : View) (x : Num) : Flagged Nat := v.lay.round v.rm v.fr x
/-- Rounding for additions: the sign of an exact zero sum depends on RD (R163). -/
def View.rd (v : View) : Bool := v.rm == 4

/-- The bits of a floating element after FI; NaN gives the canonical NaN, with IV for a signalling one (R164, R170). -/
def View.exact (v : View) (x : Num) : Flagged Nat :=
  match x with
  | .nan s => do
    if s then raiseFlags flagIV
    return v.lay.nanBits
  | y => v.lay.round 1 false y

/-- An element operation by type: floating, or integer and wrapped (R162, R163). -/
def byType (fl : View → Num → Num → Num → Flagged Nat) (int : View → Int → Int → Int → Int) : ElemOp := fun v a b c =>
  if isF v.ty then fl v (v.num a) (v.num b) (v.num c) else return wrapInt v.w (int v (v.int a) (v.int b) (v.int c))

/-- VADD. -/
def opAdd : ElemOp := byType (fun v a b _ => do v.round (← numAdd v.rd a b)) (fun _ a b _ => a + b)
/-- VSUB. -/
def opSub : ElemOp := byType (fun v a b _ => do v.round (← numAdd v.rd a b.neg)) (fun _ a b _ => a - b)
/-- VMUL. -/
def opMul : ElemOp := byType (fun v a b _ => do v.round (← numMul a b)) (fun _ a b _ => a * b)
/-- VFMA: one rounding. -/
def opFma : ElemOp := byType (fun v a b c => do v.round (← numFma v.rd a b c)) (fun _ a b c => a * b + c)

/-- Whether a ≤ b in the order of R164, where -0 lies below +0. -/
def minLe (a b : Num) : Bool :=
  let c := numCmp a b
  decide (c < 0) || (c == 0 && (a.sign || !b.sign))

/-- VMIN and VMAX of floats (R164). -/
def floatMin (v : View) (isMax : Bool) (a b : Num) : Flagged Nat :=
  match a, b with
  | .nan s, .nan t => v.exact (.nan (s || t))
  | .nan s, _ => v.exact (.nan s)
  | _, .nan t => v.exact (.nan t)
  | a, b => v.exact (if isMax then (if minLe b a then a else b) else (if minLe a b then a else b))

/-- VMIN. -/
def opMin : ElemOp := byType (fun v a b _ => floatMin v false a b) (fun _ a b _ => if a ≤ b then a else b)
/-- VMAX. -/
def opMax : ElemOp := byType (fun v a b _ => floatMin v true a b) (fun _ a b _ => if a ≥ b then a else b)
/-- VABS. -/
def opAbs : ElemOp := byType (fun v a _ _ => v.exact a.abs) (fun _ a _ _ => (a.natAbs : Int))
/-- VNEG. -/
def opNeg : ElemOp := byType (fun v a _ _ => v.exact a.neg) (fun _ a _ _ => -a)
/-- VADDS (integers). -/
def opAdds : ElemOp := fun v a b _ => return satInt v.ty v.w (v.int a + v.int b)
/-- VSUBS. -/
def opSubs : ElemOp := fun v a b _ => return satInt v.ty v.w (v.int a - v.int b)
/-- VMULH: floor(a * b / 2^w). -/
def opMulh : ElemOp := fun v a b _ => return wrapInt v.w (v.int a * v.int b / (2 ^ v.w : Nat))
/-- The shift count of R162. -/
def shiftCount (v : View) (imm b : Nat) : Nat := (b + imm) % v.w
/-- VSHL. -/
def opShl (imm : Nat) : ElemOp := fun v a b _ => return wrapInt v.w (v.int a * (2 ^ shiftCount v imm b : Nat))
/-- VSHR. -/
def opShr (imm : Nat) : ElemOp := fun v a b _ => return wrapInt v.w (v.int a / (2 ^ shiftCount v imm b : Nat))
/-- VAND. -/
def opAnd : ElemOp := fun _ a b _ => return Nat.land a b
/-- VOR. -/
def opOr : ElemOp := fun _ a b _ => return Nat.lor a b
/-- VXOR. -/
def opXor : ElemOp := fun _ a b _ => return Nat.xor a b
/-- VNOT. -/
def opNot : ElemOp := fun v a _ _ => return 2 ^ v.w - 1 - a

/-- VADD (R162, R163). -/
def execVadd (f : VF) (s : State) : Res := .next (s.vForm f 2 latFI true opAdd)
/-- VSUB. -/
def execVsub (f : VF) (s : State) : Res := .next (s.vForm f 2 latFI true opSub)
/-- VMUL. -/
def execVmul (f : VF) (s : State) : Res := .next (s.vForm f 2 latFI true opMul)
/-- VFMA. -/
def execVfma (f : VF) (s : State) : Res := .next (s.vForm f 3 latFI true opFma)
/-- VMIN (R162, R164). -/
def execVmin (f : VF) (s : State) : Res := .next (s.vForm f 2 latFI true opMin)
/-- VMAX. -/
def execVmax (f : VF) (s : State) : Res := .next (s.vForm f 2 latFI true opMax)
/-- VABS. -/
def execVabs (f : VF) (s : State) : Res := .next (s.vForm f 1 latFI true opAbs)
/-- VNEG. -/
def execVneg (f : VF) (s : State) : Res := .next (s.vForm f 1 latFI true opNeg)
/-- VADDS. -/
def execVadds (f : VF) (s : State) : Res := .next (s.vForm f 2 (fun _ => 2) false opAdds)
/-- VSUBS. -/
def execVsubs (f : VF) (s : State) : Res := .next (s.vForm f 2 (fun _ => 2) false opSubs)
/-- VMULH. -/
def execVmulh (f : VF) (s : State) : Res := .next (s.vForm f 2 (fun _ => 2) false opMulh)
/-- VSHL. -/
def execVshl (f : VF) (s : State) : Res := .next (s.vForm f 2 (fun _ => 2) false (opShl f.imm.toNat))
/-- VSHR. -/
def execVshr (f : VF) (s : State) : Res := .next (s.vForm f 2 (fun _ => 2) false (opShr f.imm.toNat))
/-- VAND: raw bits, so NF is not set (R46). -/
def execVand (f : VF) (s : State) : Res := .next (s.vForm f 2 (fun _ => 2) false opAnd)
/-- VOR. -/
def execVor (f : VF) (s : State) : Res := .next (s.vForm f 2 (fun _ => 2) false opOr)
/-- VXOR. -/
def execVxor (f : VF) (s : State) : Res := .next (s.vForm f 2 (fun _ => 2) false opXor)
/-- VNOT. -/
def execVnot (f : VF) (s : State) : Res := .next (s.vForm f 1 (fun _ => 2) false opNot)
/-- VNOP (R178). -/
def execVnop (_f : VF) (s : State) : Res := .next s

/-! ### Compare, select, round, classify -/

/-- A floating comparison under a condition of R165, with its IV. -/
def floatCond (cond : Nat) (a b : Num) : Flagged Bool := do
  let sig (x : Num) : Bool := match x with
    | .nan true => true
    | _ => false
  let un := a.isNan || b.isNan
  let quietIv := decide (2 ≤ cond ∧ cond ≤ 5)
  if sig a || sig b || (un && quietIv) then raiseFlags flagIV
  let c := numCmp a b
  return match cond with
    | 0 => !un && c == 0
    | 1 => un || c != 0
    | 2 => !un && decide (c < 0)
    | 3 => !un && decide (c ≤ 0)
    | 4 => !un && decide (c > 0)
    | 5 => !un && decide (c ≥ 0)
    | 6 => un
    | _ => !un

/-- An integer comparison under a condition; nothing is unordered. -/
def intCond (cond : Nat) (a b : Int) : Bool :=
  match cond with
  | 0 => a == b
  | 1 => a != b
  | 2 => decide (a < b)
  | 3 => decide (a ≤ b)
  | 4 => decide (a > b)
  | 5 => decide (a ≥ b)
  | 6 => false
  | _ => true

/-- VCMP (R165): bit i of the result rank holds the comparison of element i. -/
def execVcmp (f : VF) (s : State) : Res :=
  let (v, s0) := s.view f
  let (a, s1) := s0.vA f
  let (b, s2) := s1.vB f
  let cond := f.imm.toNat
  let r := (buildElems 1 (fun i =>
    if v.mask.getLsbD i then do
      let x := elemAt v.w i a
      let y := elemAt v.w i b
      return b2n (← if isF v.ty then floatCond cond (v.num x) (v.num y) else pure (intCond cond (v.int x) (v.int y)))
    else pure 0) v.n).run 0
  .next (s2.vDone f.dst (latFI v) r 0)

/-- VSEL (R166): A where the selector bit is 1, else B. -/
def execVsel (f : VF) (s : State) : Res :=
  let (v, s0) := s.view f
  let (a, s1) := s0.vA f
  let (b, s2) := s1.vB f
  let r := (buildElems v.w (fun i => pure (elemAt v.w i (if v.mask.getLsbD i then a else b))) v.n).run 0
  .next (s2.vDone f.dst 2 r 0)

/-- VROUND of one element (R167). -/
def opRound : ElemOp := fun v a _ _ =>
  match v.num a with
  | .fin n m e => do
    let (q, ix) := roundInt v.rm n m e
    if ix then raiseFlags flagIX
    v.lay.round 1 false (.fin n q.natAbs 0)
  | x => v.exact x

/-- VROUND (R167). -/
def execVround (f : VF) (s : State) : Res := .next (s.vForm f 1 (fun _ => 4) true opRound)

/-- The class bit of R168, from the bits as stored. -/
def opClass : ElemOp := fun v a _ _ => return 2 ^ (
  match v.lay.decode false a with
  | .nan true => 0
  | .nan false => 1
  | .inf n => if n then 2 else 9
  | .fin n m _ =>
    if m = 0 then (if n then 5 else 6)
    else if m < 2 ^ v.lay.fb then (if n then 4 else 7)
    else (if n then 3 else 8))

/-- VCLASS (R168): no flag, no NF. -/
def execVclass (f : VF) (s : State) : Res := .next (s.vForm f 1 (fun _ => 2) false opClass)

/-! ### Transcendentals and VRELU -/

/-- A transcendental of one element (R63, R169): the operand after FI widened to F32, the algorithm, and one rounding of the
F32 result to a half type; FR of the destination applies to the final result. -/
def opTransc (alg : Nat → Flagged Nat) : ElemOp := fun v a _ _ => do
  let x := (f32.round 1 false (v.num a)).run 0
  let sig : Bool := match v.num a with
    | .nan true => true
    | _ => false
  if sig then raiseFlags flagIV
  let y ← alg x.1
  match rd32 y with
  | .nan _ => return v.lay.nanBits
  | z => v.round z

/-- VEXP (R64). -/
def execVexp (f : VF) (s : State) : Res := .next (s.vForm f 1 (fun _ => 10) true (opTransc expAlg))
/-- VLOG (R64). -/
def execVlog (f : VF) (s : State) : Res := .next (s.vForm f 1 (fun _ => 10) true (opTransc logAlg))
/-- VRCP (R64). -/
def execVrcp (f : VF) (s : State) : Res := .next (s.vForm f 1 (fun _ => 10) true (opTransc rcpAlg))
/-- VRSQ (R64). -/
def execVrsq (f : VF) (s : State) : Res := .next (s.vForm f 1 (fun _ => 10) true (opTransc rsqAlg))
/-- VTANH (R64). -/
def execVtanh (f : VF) (s : State) : Res := .next (s.vForm f 1 (fun _ => 10) true (opTransc tanhAlg))
/-- VSIG (R64). -/
def execVsig (f : VF) (s : State) : Res := .next (s.vForm f 1 (fun _ => 10) true (opTransc sigAlg))
/-- VSQRT (R66): correctly rounded in the mode in force. -/
def execVsqrt (f : VF) (s : State) : Res :=
  .next (s.vForm f 1 (fun _ => 10) true fun v a _ _ => do v.round (← numSqrt (v.num a)))

/-- VRELU of one element (R170). -/
def opRelu : ElemOp := fun v a _ _ =>
  if isF v.ty then
    match v.num a with
    | .nan s => v.exact (.nan s)
    | x => if !x.sign && !x.isZero then pure a else pure 0
  else return wrapInt v.w (max (v.int a) 0)

/-- VRELU (R170). -/
def execVrelu (f : VF) (s : State) : Res := .next (s.vForm f 1 (fun _ => 2) true opRelu)

end Sys2Proof.Machine
end

