-- ==== Sys2Proof/Machine/Moments.lean ====
section
/-!
DEFINITION. MP32 moment pairs (R53 to R55): reading and writing moment registers, the variance checks of R54, and the exact
sums of the moment forms.
-/
namespace Sys2Proof.Machine

/-- Bit 31 set and not -0, not NaN: a variance below -0 (R54). -/
def negVar (v : Nat) : Bool :=
  match rd32 v with
  | .fin true m _ => m != 0
  | .inf true => true
  | _ => false

/-- Reads -0 as +0 (R53). -/
def posZero (v : Nat) : Nat := if v = 0x80000000 then 0 else v

/-- A subnormal half flushed under MPFI (R47). -/
def flushHalf (b : Bool) (x : Nat) : Nat := if b && bitsOf x 23 8 == 0 then x / 0x80000000 * 0x80000000 else x

/-- Mean of pair j of a register or rank. -/
def pairMean (x j : Nat) : Nat := bitsOf x (64 * j) 32
/-- Variance of pair j. -/
def pairVar (x j : Nat) : Nat := bitsOf x (64 * j + 32) 32

/-- A moment register of the running slice. -/
def State.mreg (s : State) (n : Nat) : Nat := (SMap.get (0 : BitVec 1024) s.slice.m n).toNat

/-- NVCLAMP of COV at T. -/
def State.clamp (s : State) : Bool := s.tab.cov.getLsbD 2

/-- A negative variance met at a place in cycle `cyc`: cause 0x14, or +0 with IV under NVCLAMP (R54). -/
def State.variance (s : State) (v place cyc : Nat) : Nat × State :=
  if negVar v then
    if s.clamp then (0, s.event flagIV 0 cyc) else (v, s.trapS cyc 0x14 place)
  else (posZero v, s)

/-- A written variance: negative ones as R54; other bits stay. -/
def State.varianceOut (s : State) (v place cyc : Nat) : Nat × State :=
  if negVar v then
    if s.clamp then (0, s.event flagIV 0 cyc) else (v, s.trapS cyc 0x14 place)
  else (v, s)

/-- Owes a moment register with a result cycle. -/
def State.writeM (s : State) (c result : Nat) (v : Nat) : State :=
  (s.mark (.reg s.cur.s c 0) result).owe (result - 1) (.mom (c - 0x30) (BitVec.ofNat 1024 v))

/-- NF.MP of a register: a pair with a non-finite half (R46). -/
def nfPairs (n : Nat) (x : Nat) (mask : BitVec 128) : Nat :=
  (List.range n).foldl (fun a j =>
    if mask.getLsbD j && (nonFinite32 (pairMean x j) || nonFinite32 (pairVar x j)) then 8 else a) 0

end Sys2Proof.Machine
end

