-- ==== Sys2Proof/Machine/MomentVec.lean ====
section
/-!
DEFINITION. The element-wise moment forms GADD to GMAKE (R56, R57, R222 to R224).
-/
namespace Sys2Proof.Machine

/-- One step: an exact number rounded RNE to F32 (R57). -/
def step32 (x : Flagged Num) : Flagged Num := do return rd32 (← rne32 (← x))
/-- A stepped sum. -/
def gAdd (a b : Num) : Flagged Num := step32 (numAdd false a b)
/-- A stepped difference. -/
def gSub (a b : Num) : Flagged Num := step32 (numAdd false a b.neg)
/-- A stepped product. -/
def gMul (a b : Num) : Flagged Num := step32 (numMul a b)
/-- A stepped fused multiply-add. -/
def gFma (a b c : Num) : Flagged Num := step32 (numFma false a b c)
/-- sqrt_rn. -/
def gSqrt (a : Num) : Flagged Num := step32 (numSqrt a)
/-- An F32 algorithm on a number that stands in F32. -/
def gAlg (alg : Nat → Flagged Nat) (a : Num) : Flagged Num := do return rd32 (← alg ((rne32 a).run 0).1)
/-- 1.0. -/
def gOne : Num := .fin false 1 0

/-- What a moment form sees at T: ρ as -1, 0 or 1, the mode of the final step, MPFR. -/
structure GView where
  rho : Int
  rm : Nat
  fr : Bool
  deriving DecidableEq, Repr

/-- The final step of a half: one rounding in the syllable's mode (R57), with MPFR. -/
def GView.fin (g : GView) (x : Flagged Num) : Flagged Nat := do f32.round g.rm g.fr (← x)
/-- A sum as a final step. -/
def GView.add (g : GView) (a b : Num) : Flagged Nat := g.fin (numAdd (g.rm == 4) a b)
/-- A product as a final step. -/
def GView.mul (g : GView) (a b : Num) : Flagged Nat := g.fin (numMul a b)
/-- A fused multiply-add as a final step. -/
def GView.fma (g : GView) (a b c : Num) : Flagged Nat := g.fin (numFma (g.rm == 4) a b c)

/-- c of R57: exactly +0 when ρ = 0. -/
def GView.cov (g : GView) (va vb : Num) : Flagged Num := do
  if g.rho = 0 then return .fin false 0 0
  let c ← gSqrt (← gMul va vb)
  return if g.rho < 0 then c.neg else c

/-- A moment form on one pair: (μa, va), (μb, vb), the scalar k; its mean and variance bits. -/
abbrev GOp := GView → Num → Num → Num → Num → Num → Flagged (Nat × Nat)

/-- GADD. -/
def gopAdd : GOp := fun g ua va ub vb _ => do
  let c ← g.cov va vb
  return (← g.fma gOne ua ub, ← g.add (← gAdd va vb) (c.scale 1))
/-- GSUB. -/
def gopSub : GOp := fun g ua va ub vb _ => do
  let c ← g.cov va vb
  return (← g.add ua ub.neg, ← g.add (← gAdd va vb) (c.scale 1).neg)
/-- GMUL. -/
def gopMul : GOp := fun g ua va ub vb _ => do
  let c ← g.cov va vb
  let mean ← g.fma ua ub c
  let t1 ← gMul (← gMul ua ua) vb
  let t2 ← gMul (← gMul ub ub) va
  let t3 ← gMul (ua.scale 1) (← gMul ub c)
  let l ← gAdd (← gAdd t1 t2) t3
  let r ← gAdd (← gMul va vb) (← gMul c c)
  return (mean, ← g.add l r)
/-- GSCL. -/
def gopScl : GOp := fun g u v _ _ k => do return (← g.mul k u, ← g.mul (← gMul k k) v)
/-- GOFS: the variance passes as read. -/
def gopOfs : GOp := fun g u v _ _ k => do return (← g.add u k, ((rne32 v).run 0).1)
/-- GSQR. -/
def gopSqr : GOp := fun g u v _ _ _ => do
  let w ← gMul (← gMul u u) v
  return (← g.fma u u v, ← g.fma (v.scale 1) v (w.scale 2))
/-- GEXP. -/
def gopExp : GOp := fun g u v _ _ _ => do
  let mean ← g.fin (do gAlg expAlg (← gAdd u (v.scale (-1))))
  let a ← gSub (← gAlg expAlg v) gOne
  let b ← gAlg expAlg (← gAdd (u.scale 1) v)
  return (mean, ← g.mul a b)
/-- GSIG. -/
def gopSig : GOp := fun g u v _ _ _ => do
  let w ← gAdd gOne (← gMul v (rd32 constKP))
  let gg ← gAlg rcpAlg (← gSqrt w)
  let sg ← gAlg sigAlg (← gMul u gg)
  let a ← gMul sg (← gSub gOne sg)
  let b ← gSub gOne gg
  return (← g.fin (pure sg), ← g.mul a b)
/-- GRELU. -/
def gopRelu : GOp := fun g u v _ _ _ => do
  if v.isZero then
    return (← g.fin (pure (if u.sign || u.isZero then .fin false 0 0 else u)), 0)
  let sg ← gSqrt v
  let a ← step32 (match u, sg with
    | .inf _, .inf _ => do
      raiseFlags flagIV
      return .nan false
    | x, y => return numDiv x y)
  let P ← gAlg capPhi a
  let D ← gAlg lowPhi a
  let mean ← g.fma u P (← gMul sg D)
  let e ← gFma (← gFma u u v) P (← gMul (← gMul u sg) D)
  let m := rd32 mean
  return (mean, ← g.add e (← gMul m m).neg)

/-- The view of a moment form at T. -/
def State.gview (s : State) (f : VF) : GView :=
  let m := s.tab.cov.toNat % 4
  ⟨if m = 1 then 1 else if m = 2 then -1 else 0, modeInForce f.rm.toNat 0 s.tab.rmode, s.tab.flush.getLsbD 7⟩

/-- A pair as a syllable computes from it: its halves flushed by MPFI, -0 as +0, a negative variance by R54 at X, also beside a
mean that is NaN. -/
def State.readPair (s : State) (x j : Nat) : Num × Num × State :=
  let fi := s.tab.flush.getLsbD 6
  let u := f32.decode fi (pairMean x j)
  let (v, s') := s.variance (flushHalf fi (pairVar x j)) j s.X
  (u, rd32 v, s')

/-- One pair of a moment form: NaN halves by R53, else the operation; the variance written by R54 with its result. -/
def State.gPair (s : State) (f : VF) (lat : Nat) (op : GOp) (a b k j : Nat) (two : Bool) : Nat × State :=
  let (ua, va, s1) := s.readPair a j
  let (ub, vb, s2) := if two then s1.readPair b j else (.fin false 0 0, .fin false 0 0, s1)
  let kn := f32.decode (s.tab.flush.getLsbD 0) k
  let l := [ua, va, ub, vb]
  if l.any Num.isNan then
    (nan32 + nan32 * 2 ^ 32, if l.any Num.signals || (!two && kn.signals) then s2.event flagIV 0 s.X else s2)
  else
    let ((mean, var), fl) := (op (s.gview f) ua va ub vb kn).run 0
    let (var', s3) := (s2.event fl 0 s.X).varianceOut var j (s.X + lat)
    (mean + var' * 2 ^ 32, s3)

/-- Reads a moment register as 16 pairs. -/
def State.useM (s : State) (c : Nat) : Nat × State := (s.mreg (c - 0x30), s.sample (.reg s.cur.s c 0) s.X)

/-- The mask of a moment form, sampled at X. -/
def State.useMask (s : State) (f : VF) : BitVec 128 × State :=
  (s.slice.mask f.mask.toNat, if f.mask = 0 then s else s.sample (.reg s.cur.s (0x58 + f.mask.toNat) 0) s.X)

/-- All sixteen pairs of a moment result under the mask (R222): a masked-off pair is (+0, +0). -/
def gAll (mask : BitVec 128) (one : State → Nat → Nat × State) (s : State) : Nat × State :=
  (List.range 16).foldl (fun acc j =>
    if mask.getLsbD j then
      let (p, s') := one acc.2 j
      (acc.1 + p <<< (64 * j), s')
    else acc) (0, s)

/-- A moment form with a moment result: source B is a moment register (`two`), a rank of scalars (`scal`), or unused. -/
def State.gForm (s : State) (f : VF) (lat : Nat) (two scal : Bool) (op : GOp) : State :=
  let (mask, s0) := s.useMask f
  let (a, s1) := s0.useM f.a.toNat
  let (b, s2) := if two then s1.useM f.b.toNat else if scal then s1.vB f else (0, s1)
  let (r, s3) := gAll mask (fun st j => st.gPair f lat op a b (elemAt 32 j b) j two) s2
  (s3.event 0 (nfPairs 16 r mask) s.X).writeM f.dst.toNat (s.X + lat) r

/-- GADD (R57). -/
def execGadd (f : VF) (s : State) : Res := .next (s.gForm f 4 true false gopAdd)
/-- GSUB. -/
def execGsub (f : VF) (s : State) : Res := .next (s.gForm f 4 true false gopSub)
/-- GMUL. -/
def execGmul (f : VF) (s : State) : Res := .next (s.gForm f 6 true false gopMul)
/-- GSCL. -/
def execGscl (f : VF) (s : State) : Res := .next (s.gForm f 4 false true gopScl)
/-- GOFS. -/
def execGofs (f : VF) (s : State) : Res := .next (s.gForm f 4 false true gopOfs)
/-- GRELU. -/
def execGrelu (f : VF) (s : State) : Res := .next (s.gForm f 14 false false gopRelu)
/-- GEXP. -/
def execGexp (f : VF) (s : State) : Res := .next (s.gForm f 14 false false gopExp)
/-- GSIG. -/
def execGsig (f : VF) (s : State) : Res := .next (s.gForm f 14 false false gopSig)
/-- GSQR. -/
def execGsqr (f : VF) (s : State) : Res := .next (s.gForm f 14 false false gopSqr)

/-- One lane of GCOL (R223). -/
def State.gcolLane (s : State) (f : VF) (a z j : Nat) : Nat × State :=
  let sel := f.imm.toNat
  let rm := modeInForce f.rm.toNat 0 s.tab.rmode
  let fr := s.tab.flush.getLsbD 1
  let (u, v, s1) := s.readPair a j
  let zn := f32.decode (s.tab.flush.getLsbD 0) (elemAt 32 j z)
  if u.isNan || v.isNan then
    (nan32, if u.signals || v.signals || (sel == 3 && zn.signals) then s1.event flagIV 0 s.X else s1)
  else
    let (r, fl) := (match sel with
      | 0 => rne32 u
      | 1 => rne32 v
      | 2 => do f32.round rm fr (← numSqrt v)
      | _ => do f32.round rm fr (← numFma (rm == 4) zn (← gSqrt v) u) : Flagged Nat).run 0
    (r, s1.event fl 0 s.X)

/-- GCOL (R223): lane j from pair j. -/
def execGcol (f : VF) (s : State) : Res :=
  let (mask, s0) := s.useMask f
  let (a, s1) := s0.useM f.a.toNat
  let (z, s2) := if f.imm = 3 then s1.vB f else (0, s1)
  let (r, s3) := (List.range 16).foldl (fun acc j =>
    if mask.getLsbD j then
      let (x, s') := acc.2.gcolLane f a z j
      (acc.1 + x <<< (32 * j), s')
    else acc) (0, s2)
  let nf := (List.range 16).foldl (fun m j => if mask.getLsbD j then m ||| nfBit 0 (elemAt 32 j r) else m) 0
  .next (s3.vDone f.dst 4 (r, 0) nf)

/-- One pair of GMAKE (R224): the lanes after F32FI, a variance lane of -0 as +0 (R53); IV for a signalling NaN. A negative
variance is one that the pair's write brings (R54): it is found at X + 4, as in the worked case of chapter 19. -/
def State.gmakePair (s : State) (a b j : Nat) : Nat × State :=
  let fi := s.tab.flush.getLsbD 0
  let ub := flushHalf fi (elemAt 32 j a)
  let vb := flushHalf fi (elemAt 32 j b)
  let u := rd32 ub
  let v := rd32 vb
  let (v', s1) := s.varianceOut vb j (s.X + 4)
  if u.isNan || v.isNan then (nan32 + nan32 * 2 ^ 32, if u.signals || v.signals then s1.event flagIV 0 s.X else s1)
  else (ub + posZero v' * 2 ^ 32, s1)

/-- GMAKE (R224). -/
def execGmake (f : VF) (s : State) : Res :=
  let (mask, s0) := s.useMask f
  let (a, s1) := s0.vA f
  let (b, s2) := s1.vB f
  let (r, s3) := gAll mask (fun st j => st.gmakePair a b j) s2
  .next ((s3.event 0 (nfPairs 16 r mask) s.X).writeM f.dst.toNat (s.X + 4) r)

end Sys2Proof.Machine
end

