-- ==== Sys2Proof/Machine/Product.lean ====
section
/-!
DEFINITION. The arithmetic of the matrix unit (R58, R59, R205, R213 to R217): operand elements, exact products, the window
sum, and the update of a cell.
-/
namespace Sys2Proof.Machine

/-- K of R205. -/
def depthOf (ty : Nat) : Nat :=
  if ty = 0 then 8 else if ty < 3 then 32 else if ty = 5 || ty = 8 then 64 else if ty = 9 then 48 else if ty = 10 then 80 else 128

/-- Element k of an A row or of a B column of a type (R205), exact; FI applies to floating types (R209). -/
def matElem (ty : Nat) (fi : Bool) (x k : Nat) : Num :=
  if isF ty then (layoutOf ty).decode fi (elemAt (typeWidth ty) k x)
  else if 9 ≤ ty ∧ ty ≤ 11 then bqElem (bqM ty) (bitsOf x (8 * bqBytes ty * (k / 16)) (8 * bqBytes ty)) (k % 16)
  else
    let w := typeWidth ty
    let v : Int := if isI ty then signedOf w (elemAt w k x) else (elemAt w k x : Int)
    .fin (decide (v < 0)) v.natAbs 0

/-- The products of one cell, with the format scale (R58 step 1, R61). -/
def products (scale : Int) : List (Num × Num) → Flagged (List Num)
  | [] => return []
  | (a, b) :: r => do
    let p ← numMul a b
    return p.scale scale :: (← products scale r)

/-- ⌊log2 |p|⌋ of the largest nonzero product, when there is one (R58 step 3). -/
def maxExponent (ps : List Num) : Option Int :=
  ps.foldl (fun m p => match p with
    | .fin _ (k + 1) e =>
      let t : Int := (Nat.log2 (k + 1) : Int) + e
      match m with
      | none => some t
      | some u => some (max t u)
    | _ => m) none

/-- A product truncated toward zero to an integer multiple of 2^q. -/
def truncateTo (q : Int) (p : Num) : Int :=
  match p with
  | .fin n m e =>
    let v : Int := (roundShift 2 false m (q - e)).1
    if n then -v else v
  | _ => 0

/-- The exact window sum of R58 with the zero signs of R59; infinities of both signs set IV, beside a NaN too. -/
def exactSum (rd : Bool) (ps : List Num) : Flagged ExactSum := do
  let infs := ps.filterMap fun p => match p with
    | .inf n => some n
    | _ => none
  match infs with
  | n :: rest =>
    let both := rest.any (· != n)
    if both then raiseFlags flagIV
    return if both || ps.any Num.isNan then .nan else .inf n
  | [] =>
    if ps.any Num.isNan then return .nan
    match maxExponent ps with
    | none => return .fin 0 0 (!ps.isEmpty && ps.all Num.sign)
    | some t =>
      let q := t - 64
      let v := (ps.map (truncateTo q)).foldl (· + ·) 0
      return .fin v q (decide (v = 0) && rd)

/-- S as a number. -/
def ExactSum.num : ExactSum → Num
  | .nan => .nan false
  | .inf n => .inf n
  | .fin v e z => if v = 0 then .fin z 0 0 else .fin (decide (v < 0)) v.natAbs e

/-- An F32 cell updated by S: one rounding, with F32FI on the cell and F32FR on the result (R58 step 5, R209). -/
def cellF32 (rm : Nat) (fl : BitVec 8) (cell : Nat) (sum : ExactSum) : Flagged Nat := do
  f32.round rm (fl.getLsbD 1) (← numAdd (rm == 4) (f32.decode (fl.getLsbD 0) cell) sum.num)

/-- An I32 cell updated by S: S rounded to an integer without a flag, then wrap_32 (R58 step 5). -/
def cellI32 (rm : Nat) (cell : Nat) (sum : ExactSum) : Nat :=
  match sum.num with
  | .fin n m e => wrapInt 32 (signedOf 32 cell + (roundInt rm n m e).1)
  | _ => cell

/-- The MP32 pair k of an A row, its halves as numbers. -/
abbrev Pair := Num × Num

/-- Plane 0 and plane 1 addends of a pair against a plain b (R216): μ·b and v·b², each with the scale of the entry of A (R61). -/
def mmgAddends (scale : Int) (a : Pair) (b : Num) : Flagged (List Num × List Num) := do
  if a.1.isNan || a.2.isNan then
    if a.1.signals || a.2.signals || b.signals then raiseFlags flagIV
    return ([.nan false], [.nan false])
  return ([(← numMul a.1 b).scale scale], [(← numMul a.2 (← numMul b b)).scale scale])

/-- The addends of a pair against an uncertain b (R217), each with the scale of the entry of A (R61). -/
def mmg2Addends (scale rho : Int) (a b : Pair) : Flagged (List Num × List Num) := do
  let l := [a.1, a.2, b.1, b.2]
  if l.any Num.isNan then
    if l.any Num.signals then raiseFlags flagIV
    return ([.nan false], [.nan false])
  let c ← (⟨rho, 1, false⟩ : GView).cov a.2 b.2
  let t1 ← numMul (← numMul a.1 a.1) b.2
  let t2 ← numMul (← numMul b.1 b.1) a.2
  let t3 ← numMul (← numMul a.1 b.1) c
  let means := [← numMul a.1 b.1, c]
  let vars := [t1, t2, t3.scale 1, ← numMul a.2 b.2, ← numMul c c]
  return (means.map (·.scale scale), vars.map (·.scale scale))

/-- The addends of a cell over k. -/
def sumPairs (f : Nat → Flagged (List Num × List Num)) : List Nat → Flagged (List Num × List Num)
  | [] => return ([], [])
  | k :: ks => do
    let (a, b) ← f k
    let (as, bs) ← sumPairs f ks
    return (a ++ as, b ++ bs)

end Sys2Proof.Machine
end

