-- ==== Sys2Proof/Machine/VecMove.lean ====
section
/-!
DEFINITION. Conversion, block packing and movement in the V slots (R171 to R177).
-/
namespace Sys2Proof.Machine

/-- What VCVT resolves (R171): the source type, the destination type, SCALE_S - SCALE_D and the mode in force. -/
structure Cvt where
  src : Nat
  dst : Nat
  scale : Int
  rm : Nat
  deriving DecidableEq, Repr

/-- VCVT's resolution from the tables at T: at most one side resolves an entry. -/
def Tables.cvt (t : Tables) (f : VF) : Cvt :=
  let sc := f.imm.toNat % 16
  let e := t.entry 15 f.fs.toNat
  if sc = 15 then ⟨entryType e, f.ty.toNat, entryScale e, modeInForce f.rm.toNat e t.rmode⟩
  else if f.ty = 15 then ⟨sc, entryType e, -entryScale e, modeInForce f.rm.toNat e t.rmode⟩
  else ⟨sc, f.ty.toNat, 0, modeInForce f.rm.toNat 0 t.rmode⟩

/-- A rounded number as an integer of a type (R40): NaN gives 0, out-of-range values the limit, each with IV. -/
def floatToInt (ty : Nat) (rm : Nat) (x : Num) : Flagged Nat :=
  let w := typeWidth ty
  match x with
  | .nan _ => do
    raiseFlags flagIV
    return 0
  | .inf n => do
    raiseFlags flagIV
    return satInt ty w (if n then -(2 ^ 64 : Nat) else (2 ^ 64 : Nat))
  | .fin n m e => do
    let (v, ix) := roundInt rm n m e
    let r := satInt ty w v
    if (if isI ty then signedOf w r else (r : Int)) ≠ v then raiseFlags flagIV
    else if ix then raiseFlags flagIX
    return r

/-- cvt of R171 for one element. -/
def Cvt.elem (c : Cvt) (fl : BitVec 8) (sat : Bool) (x : Nat) : Flagged Nat :=
  let ws := typeWidth c.src
  let wd := typeWidth c.dst
  if isF c.src then
    let v := ((layoutOf c.src).decode (flushIn fl c.src) x).scale c.scale
    if isF c.dst then (layoutOf c.dst).round c.rm (flushOut fl c.dst) v else floatToInt c.dst c.rm v
  else
    let i : Int := if isI c.src then signedOf ws x else (x : Int)
    if isF c.dst then
      (layoutOf c.dst).round c.rm (flushOut fl c.dst) (.fin (decide (i < 0)) i.natAbs c.scale)
    else
      let q := (roundInt c.rm (decide (i < 0)) i.natAbs c.scale).1
      return if sat then satInt c.dst wd q else wrapInt wd q

/-- Whether B is a used field of a VCVT (R171): it narrows, or a side comes from a format slot. -/
def Tables.cvtUsesB (t : Tables) (f : VF) : Bool :=
  let c := t.cvt f
  f.ty == 15 || f.imm.toNat % 16 == 15 || decide (typeCount c.src < typeCount c.dst)

/-- VCVT (R171). -/
def execVcvt (f : VF) (s : State) : Res :=
  let c := s.tab.cvt f
  let ns := typeCount c.src
  let nd := typeCount c.dst
  let ws := typeWidth c.src
  let wd := typeWidth c.dst
  let p := (f.imm.extractLsb' 4 2).toNat
  let sat := f.imm.getLsbD 6
  let (v, s0) := s.view f
  let (a, s1) := s0.vA f
  let (b, s2) := if s.tab.cvtUsesB f then s1.vB f else (0, s1)
  let conv (i : Nat) : Flagged Nat := c.elem s.tab.flush sat (elemAt ws i a)
  let r := (buildElems wd (fun i =>
    if ns < nd then
      if p * ns ≤ i ∧ i < p * ns + ns ∧ v.mask.getLsbD i then conv (i - p * ns) else pure (elemAt wd i b)
    else if v.mask.getLsbD i then conv (if ns = nd then i else p * nd + i) else pure 0) nd).run 0
  let computed (i : Nat) : Bool := v.mask.getLsbD i && (decide (ns ≥ nd) || decide (p * ns ≤ i ∧ i < p * ns + ns))
  let nf := (List.range nd).foldl (fun m i => if computed i then m ||| nfBit c.dst (elemAt wd i r.1) else m) 0
  .next (s2.vDone f.dst 3 r nf)

/-- VPACK (R172): sixteen F32 elements to block p of the resolved BQ type; B supplies the other blocks. -/
def execVpack (f : VF) (s : State) : Res :=
  let (v, s0) := s.view f
  let (a, s1) := s0.vA f
  let (b, s2) := s1.vB f
  let m := bqM v.ty
  let bb := bqBytes v.ty
  let p := f.imm.toNat % 8
  let fi := s.tab.flush.getLsbD 4
  let xs := (List.range 16).map fun i =>
    if v.mask.getLsbD i then (f32.decode fi (elemAt 32 i a)).scale (-v.scale) else .fin false 0 0
  let r := (bqEncode v.rm m (s.tab.flush.getLsbD 5) xs).run 0
  let base := b % 2 ^ (8 * bb * bqBlocks v.ty)
  .next (s2.vDone f.dst 5 (putBits base (8 * bb * p) (8 * bb) r.1, r.2) (if r.1 % 256 = 255 then 4 else 0))

/-- VUNPK (R173): block p of A to sixteen F32 elements. -/
def execVunpk (f : VF) (s : State) : Res :=
  let (v, s0) := s.view f
  let (a, s1) := s0.vA f
  let bb := bqBytes v.ty
  let blk := bitsOf a (8 * bb * (f.imm.toNat % 8)) (8 * bb)
  let r := (buildElems 32 (fun i =>
    if v.mask.getLsbD i then f32.round v.rm (s.tab.flush.getLsbD 1) ((bqElem (bqM v.ty) blk i).scale v.scale) else pure 0) 16).run 0
  let nf := (List.range 16).foldl (fun m i => if v.mask.getLsbD i then m ||| nfBit 0 (elemAt 32 i r.1) else m) 0
  .next (s1.vDone f.dst 5 r nf)

/-! ### Movement -/

/-- VMOV of a moment register (R174): a masked-off pair becomes (+0, +0); a negative variance as R54. -/
def State.movMoment (s : State) (f : VF) : State :=
  let (v, s0) := s.view f
  let x := s.mreg (f.a.toNat - 0x30)
  let s1 := s0.sample (.reg s.cur.s f.a.toNat 0) s.X
  let step (acc : Nat × State) (j : Nat) : Nat × State :=
    if v.mask.getLsbD j then
      let (vr, s') := acc.2.varianceOut (pairVar x j) j (s.X + 1)
      (acc.1 + (pairMean x j + vr * 2 ^ 32) <<< (64 * j), s')
    else acc
  let (r, s2) := (List.range 16).foldl step (0, s1)
  s2.writeM f.dst.toNat (s.X + 1) r

/-- VMOV (R174). -/
def execVmov (f : VF) (s : State) : Res :=
  .next (if specM f.a.toNat then s.movMoment f
    else
      let (v, s0) := s.view f
      let (a, s1) := s0.vA f
      s1.vDone f.dst 1 (v.elems fun i => pure (elemAt v.w i a)) 0)

/-- VSPLAT (R175). -/
def execVsplat (f : VF) (s : State) : Res :=
  let (v, s0) := s.view f
  let (a, s1) := s0.vA f
  .next (s1.vDone f.dst 1 (v.elems fun _ => pure (elemAt v.w f.imm.toNat a)) 0)

/-- VROT (R176): element i comes from element (i + s) mod n of A. -/
def execVrot (f : VF) (s : State) : Res :=
  let (v, s0) := s.view f
  let (a, s1) := s0.vA f
  let (b, s2) := s1.vB f
  let sh := (f.imm.toNat + b % 2 ^ 32) % v.n
  .next (s2.vDone f.dst 2 (v.elems fun i => pure (elemAt v.w ((i + sh) % v.n) a)) 0)

/-- The 128-bit operation of KOP (R177). -/
def kopResult (op : Nat) (a b : BitVec 128) (lane0 : Nat) : BitVec 128 :=
  match op with
  | 0 => a &&& b
  | 1 => a ||| b
  | 2 => a ^^^ b
  | 3 => a &&& ~~~b
  | 4 => ~~~a
  | 5 => a &&& -a
  | 6 => BitVec.ofNat 128 (2 ^ min (lane0 % 256) 128 - 1)
  | _ => BitVec.ofNat 128 (popCount 128 a.toNat)

/-- KOP (R177). -/
def execKop (f : VF) (s : State) : Res :=
  let op := f.imm.toNat % 8
  let (a, s1) := s.vA f
  let (b, s2) := if op < 4 then s1.vB f else (0, s1)
  .next (s2.vDone f.dst 1 ((kopResult op (BitVec.ofNat 128 a) (BitVec.ofNat 128 b) a).toNat, 0) 0)

end Sys2Proof.Machine
end

