-- ==== Sys2Proof/Machine/Matrix.lean ====
section
/-!
DEFINITION. The M-slot forms (R205 to R221). Operation row i of a syllable runs in cycle X + i: row 0 at X, the others as
later steps of the same context.
-/
namespace Sys2Proof.Machine

/-- Row index r = ROW0 + i of the running operation row. -/
def State.mrow (s : State) (f : MF) : Nat := f.row0.toNat + s.cur.row

/-- Rows 0 to ROWS of a register with a specifier code, with result cycles from `lat` after X. -/
def mRowWrites (f : MF) (code lat : Nat) : List (Nat × Nat × Nat) :=
  (List.range (f.rows.toNat + 1)).map fun k => (code, f.row0.toNat + k, lat + k)

/-- Every write to a slice register that an M syllable makes in a slice, as (code, part, result cycle after X) (R37). -/
def mWrites (east : Bool) : Instr → List (Nat × Nat × Nat)
  | .mfill f => mRowWrites f f.dst.toNat 1
  | .mdrn f => if specQ f.dst.toNat then (mRowWrites f f.dst.toNat 2).map fun e => (e.1, 0, e.2.2) else []
  | .mldb _ => [(0x7E, 0, 34)]
  | .mldmd f => [(f.dst.toNat, f.row0.toNat, 4)]
  | .mma f => mRowWrites f f.acc.toNat 8
  | .mmaz f => mRowWrites f f.acc.toNat 8
  | .mmas f => mRowWrites f f.acc.toNat 8
  | .mmap f => if east then mRowWrites f f.acc.toNat 8 else []
  | .mmg f => mRowWrites f f.acc.toNat 12 ++ mRowWrites f (f.acc.toNat + 4) 12
  | .mmg2 f => mRowWrites f f.acc.toNat 12 ++ mRowWrites f (f.acc.toNat + 4) 12
  | .mout f => if specQ f.dst.toNat then (mRowWrites f f.dst.toNat 4).map fun e => (e.1, 0, e.2.2) else []
  | .mbyp f => mRowWrites f (if f.imm.getLsbD 3 then 0x7F else f.dst.toNat) 2
  | .mzero f =>
    (mRowWrites f f.acc.toNat 1 ++ mRowWrites f (f.acc.toNat + 4) 1).map fun e => (e.1, e.2.1, 1)
  | _ => []

/-- Marks every write of an M syllable for the scoreboard (R32), from the X that it has or, latched, will have. -/
def State.mMarks (s : State) (i : Instr) (x : Nat) : State :=
  (mWrites (s.cur.s % 2 == 1) i).foldl (fun st e => st.mark (.reg s.cur.s e.1 e.2.1) (x + e.2.2)) s

/-- Marks the writes of an M syllable and schedules operation rows 1 to ROWS when row 0 runs; `aux` travels with them. -/
def State.mrows (s : State) (f : MF) (i : Instr) : State :=
  if s.cur.row = 0 then
    (List.range f.rows.toNat).foldl (fun st k => st.later (s.X + k + 1) (k + 1) i) (s.mMarks i s.X)
  else s

/-- The cycle of the running operation row. -/
def State.mcyc (s : State) : Nat := s.X + s.cur.row

/-- The format entry in force for an M syllable. -/
def State.mentry (s : State) (f : MF) : Nat := s.tab.entry f.ty.toNat f.fs.toNat
/-- SCALE of a resolved entry; a type in the encoding has none. -/
def State.mscale (s : State) (f : MF) : Int := if f.ty = 15 then entryScale (s.mentry f) else 0
/-- The mode in force of an M syllable (R209). -/
def State.mmode (s : State) (f : MF) : Nat := modeInForce 0 (if f.ty = 15 then s.mentry f else 0) s.tab.rmode

/-- A tile row of the running slice. -/
def Slice.tileRow (sl : Slice) (t row : Nat) : TileRow := SMap.get 0 sl.t (32 * t + row)
/-- A row of accumulator cells. -/
def Slice.accRow (sl : Slice) (a plane row : Nat) : TileRow := SMap.get 0 sl.acc (64 * a + 32 * plane + row)
/-- The INT tag of an accumulator. -/
def Slice.tag1 (sl : Slice) (a : Nat) : Bool := sl.int.getLsbD a

/-- Reads a tile row in the running cycle. -/
def State.readTile (s : State) (t row : Nat) : TileRow × State :=
  (s.slice.tileRow t row, s.sample (.reg s.cur.s (0x40 + t) row) s.mcyc)

/-- Owes bytes of a tile row with a result cycle (`mMarks` has marked it). -/
def State.writeTile (s : State) (t row lo len result : Nat) (v : Nat) : State :=
  s.owe (result - 1) (.tile t row lo len (BitVec.ofNat 1024 v))

/-- MNOP (R221). -/
def execMnop (_f : MF) (s : State) : Res := .next s

/-! ### Tiles, B and metadata (R210 to R212) -/

/-- Bytes per row under a tile shape (R210). -/
def shapeBytes (sh : BitVec 16) : Nat :=
  let cols := bitsOf sh.toNat 5 5 + 1
  let ty := bitsOf sh.toNat 10 4
  if 9 ≤ ty ∧ ty ≤ 11 then bqBytes ty * ((cols + 15) / 16) else cols * (typeWidth ty / 8)

/-- MFILL (R210): row i writes its bytes at X + 1 + i. -/
def execMfill (f : MF) (s : State) : Res :=
  let nb := shapeBytes (SMap.get 0 s.tab.tsh (f.imm.toNat % 8))
  let (r, s1) := (s.mrows f (.mfill f)).readRank f.a.toNat s.mcyc (f.pka == 1)
  .next (s1.writeTile (f.dst.toNat - 0x40) (s.mrow f) (64 * b2n (f.imm.getLsbD 3)) nb (s.mcyc + 1) r.toNat)

/-- MDRN (R210): row i reaches DST at X + 2 + i. -/
def execMdrn (f : MF) (s : State) : Res :=
  let nb := shapeBytes (SMap.get 0 s.tab.tsh (f.imm.toNat % 8))
  let (t, s1) := (s.mrows f (.mdrn f)).readTile (f.a.toNat - 0x40) (s.mrow f)
  .next (s1.writeRank f.dst.toNat (s.mcyc + 2) (BitVec.ofNat 512 (bitsOf t.toNat (512 * b2n (f.imm.getLsbD 3)) (8 * nb))))

/-- MLDB (R211): reads tile row j at X + j; at X + 34 the B becomes stationary with its type and metadata. -/
def execMldb (f : MF) (s : State) : Res :=
  let sparse := f.imm.getLsbD 0
  let j := s.cur.row
  let s0 := if j = 0 then
      let d := f.b.toNat - 0x50
      let st := (List.range 31).foldl (fun st k => st.later (s.X + k + 1) (k + 1) (.mldb f)) s
      let st := if sparse then (List.range 4).foldl (fun st q => st.sample (.reg s.cur.s f.b.toNat q) s.X) st else st
      (st.onSlice fun sl =>
        { sl with bl := { ty := some (BitVec.ofNat 4 (entryType (s.mentry f))), sparse := sparse
                          md := if sparse then SMap.get 0 sl.d d else 0, cols := [] } }).mMarks (.mldb f) s.X
    else s
  let (t, s1) := s0.readTile (f.a.toNat - 0x40) j
  let s2 := s1.onSlice fun sl => { sl with bl := { sl.bl with cols := SMap.set 0 sl.bl.cols j t } }
  .next (if j = 31 then s2.owe (s.X + 33) (.statB s2.slice.bl) else s2)

/-- MLDMD (R212): a quarter of dN at X + 4. -/
def execMldmd (f : MF) (s : State) : Res :=
  let (r, s1) := s.readRank f.a.toNat s.X (f.pka == 1)
  .next ((s1.mMarks (.mldmd f) s.X).owe (s.X + 3)
    (.md (f.dst.toNat - 0x50) (f.row0.toNat % 4) r))

/-! ### Products (R213 to R217) -/

/-- The A row of a product (R207): a rank source, a tile row's low bytes, or a bypass latch entry. -/
def State.arow (s : State) (f : MF) (byp : Bool) : Nat × State :=
  if byp then
    ((SMap.get (0 : Rank) s.slice.byp (s.mrow f)).toNat, s.sample (.reg s.cur.s 0x7F (s.mrow f)) s.mcyc)
  else if specT f.a.toNat then
    let (t, s') := s.readTile (f.a.toNat - 0x40) (s.mrow f)
    (t.toNat % 2 ^ 512, s')
  else
    let (r, s') := s.readRank f.a.toNat s.mcyc (f.pka == 1)
    (r.toNat, s')

/-- Samples stationary B for a product row (R205, R207): no type, another type, or the other sparse use traps with cause
0x03; where the scoreboard already finds B owed, that is the cause (R32). The west half of an MMAP leaves the type to the east slice
(R215). -/
def State.useB (s : State) (ty : Nat) (sparse : Bool) (west : Bool := false) : StatB × State :=
  let b := s.slice.b
  let loc : Loc := .reg s.cur.s 0x7E 0
  let bad := (if west then b.ty.isNone else decide (b.ty ≠ some (BitVec.ofNat 4 ty))) || b.sparse != sparse
  (b, if s.unsettled loc s.mcyc then s.sample loc s.mcyc
      else s.trapWhen bad s.mcyc 3 s.position)

/-- Column j of a stationary B. -/
def StatB.col (b : StatB) (j : Nat) : Nat := (SMap.get (0 : TileRow) b.cols j).toNat

/-- The INT tag of an accumulator that the running syllable takes: a latched syllable took it when its FILLM executed (R200). -/
def State.tagOf (s : State) (a : Nat) : Bool :=
  if s.cur.late && s.cur.slot == 3 then bitAt s.cur.aux 0 else s.slice.tag1 a

/-- Sets the INT tag of an accumulator (R78); a latched syllable set it when its FILLM executed. -/
def State.setTag (s : State) (a : Nat) (isInt : Bool) : State :=
  if s.cur.late && s.cur.slot == 3 then s
  else s.onSlice fun sl => { sl with int := if isInt then sl.int ||| (1#4 <<< a) else sl.int &&& ~~~(1#4 <<< a) }

/-- Cells 0 to 31, each a flagged computation. -/
def cellsOf {α : Type} (f : Nat → Flagged α) : Nat → Flagged (List α)
  | 0 => return []
  | n + 1 => do
    let l ← cellsOf f n
    return l ++ [← f n]

/-- Owes the update of an accumulator row with a result cycle (R58, R207); `mMarks` has marked it. -/
def State.oweRow (s : State) (f : MF) (result : Nat) (isInt fresh : Bool) (s0 s1 : List ExactSum) : State :=
  let a := f.acc.toNat - 0x48
  s.owe (result - 1) (.row
    { a := a, row := s.mrow f, isInt := isInt, fresh := fresh, rm := s.mmode f, flush := s.tab.flush, clamp := s.clamp
      s0 := s0, s1 := s1 })

/-- The exact products of one cell of a dense product row. -/
def denseCell (ty : Nat) (fi : Bool) (scale : Int) (arow bcol : Nat) : Flagged (List Num) :=
  products scale ((List.range (depthOf ty)).map fun k => (matElem ty fi arow k, matElem ty fi bcol k))

/-- The exact products of one cell of a sparse product row (R212, R214): `ax` holds elements 0 to 63. -/
def sparseCell (ty : Nat) (fi : Bool) (scale : Int) (ax : Nat → Nat) (md : BitVec 2048) (j bcol : Nat) : Flagged (List Num) :=
  let pos (g h : Nat) : Nat := 4 * g + bitsOf md.toNat (64 * j + 4 * g + 2 * h) 2
  let w := typeWidth ty
  products scale (((List.range 16).map fun g =>
    [(matElem ty fi (ax (pos g 0)) 0, matElem ty fi (elemAt w (2 * g) bcol) 0),
     (matElem ty fi (ax (pos g 1)) 0, matElem ty fi (elemAt w (2 * g + 1) bcol) 0)]).flatten)

/-- A dense product into the slice's own accumulator (MMA, MMAZ). -/
def State.product (s : State) (f : MF) (fresh : Bool) (i : Instr) : State :=
  let ty := entryType (s.mentry f)
  let fi := flushIn s.tab.flush ty
  let isInt := isI ty || isN ty
  let a := f.acc.toNat - 0x48
  let st := s.mrows f i
  let st := if fresh && s.cur.row == 0 then st.setTag a isInt else st
  let (ar, st) := st.arow f (f.imm.getLsbD 3)
  let (b, st) := st.useB ty false
  let (sums, fl) := (cellsOf (fun j => do exactSum (s.mmode f == 4) (← denseCell ty fi (s.mscale f) ar (b.col j))) 32).run 0
  (st.event fl 0 s.mcyc).oweRow f (s.mcyc + 8) isInt fresh sums []

/-- MMA (R213). -/
def execMma (f : MF) (s : State) : Res := .next (s.product f false (.mma f))
/-- MMAZ (R213, R78). -/
def execMmaz (f : MF) (s : State) : Res := .next (s.product f true (.mmaz f))

/-- MMAS (R214): 64 logical elements against a sparse B. -/
def execMmas (f : MF) (s : State) : Res :=
  let ty := entryType (s.mentry f)
  let fi := flushIn s.tab.flush ty
  let isInt := isI ty || isN ty
  let w := typeWidth ty
  let st := s.mrows f (.mmas f)
  let (ar, st) := st.arow f false
  let (br, st) := if isInt then (0, st) else
      let (r, st') := st.readRank f.b.toNat s.mcyc false
      (r.toNat, st')
  let (b, st) := st.useB ty true
  let ax (k : Nat) : Nat := if isInt then elemAt w k ar else if k < 32 then elemAt w k ar else elemAt w (k - 32) br
  let (sums, fl) := (cellsOf (fun j => do
    exactSum (s.mmode f == 4) (← sparseCell ty fi (s.mscale f) ax b.md j (b.col j))) 32).run 0
  .next ((st.event fl 0 s.mcyc).oweRow f (s.mcyc + 8) isInt false sums [])

/-- MMAP (R215): the west half holds its products in the pair latch; the east half sums both and updates its accumulator. -/
def execMmap (f : MF) (s : State) : Res :=
  let ty := entryType (s.mentry f)
  let fi := flushIn s.tab.flush ty
  let isInt := isI ty || isN ty
  let west := s.cur.s % 2 == 0
  let st := s.mrows f (.mmap f)
  let (ar, st) := st.arow f (f.imm.getLsbD 3)
  let (b, st) := st.useB ty false west
  let (own, fl) := (cellsOf (fun j => denseCell ty fi (s.mscale f) ar (b.col j)) 32).run 0
  let st := st.event fl 0 s.mcyc
  .next (if west then st.onSlice fun sl => { sl with pair := sl.pair ++ [(s.mcyc + 1, own)] }
    else
      let latch := (s.here.slice (s.cur.s - 1)).pair
      let held := ((latch.find? fun e => e.1 == s.mcyc).map Prod.snd).getD []
      let (sums, fl2) := (cellsOf (fun j => exactSum (s.mmode f == 4) (held.getD j [] ++ own.getD j [])) 32).run 0
      let st := st.onCore fun c => c.onSlice (s.cur.s - 1) fun sl => { sl with pair := sl.pair.filter fun e => e.1 != s.mcyc }
      (st.event fl2 0 s.mcyc).oweRow f (s.mcyc + 8) isInt false sums [])

/-- The MP32 row of MMG and MMG2 (R216): 8 pairs of a rank, or pairs 8i to 8i + 7 of a moment register; with the number of
its first pair. -/
def State.pairRow (s : State) (f : MF) : Nat × Nat × State :=
  if specM f.a.toNat then
    (bitsOf (s.mreg (f.a.toNat - 0x30)) (512 * s.cur.row) 512, 8 * s.cur.row, s.sample (.reg s.cur.s f.a.toNat 0) s.mcyc)
  else
    let (r, s') := s.readRank f.a.toNat s.mcyc (f.pka == 1)
    (r.toNat, 0, s')

/-- The eight pairs of a row as read: MPFI, -0 variances, negative variances by R54. -/
def State.readPairs (s : State) (x base : Nat) : List Pair × State :=
  (List.range 8).foldl (fun acc k =>
    let fi := s.tab.flush.getLsbD 6
    let (v, s') := acc.2.variance (flushHalf fi (pairVar x k)) (base + k) s.mcyc
    (acc.1 ++ [(f32.decode fi (pairMean x k), rd32 v)], s')) ([], s)

/-- Plane sums from per-cell addends. -/
def planeSums (rd : Bool) (cell : Nat → Flagged (List Num × List Num)) : Flagged (List ExactSum × List ExactSum) := do
  let l ← cellsOf (fun j => do
    let (a, b) ← cell j
    return (← exactSum rd a, ← exactSum rd b)) 32
  return (l.map Prod.fst, l.map Prod.snd)

/-- MMG (R216): MP32 rows against an F32 stationary B. -/
def execMmg (f : MF) (s : State) : Res :=
  let fi := s.tab.flush.getLsbD 0
  let st := s.mrows f (.mmg f)
  let (x, base, st) := st.pairRow f
  let (ps, st) := st.readPairs x base
  let (b, st) := st.useB 0 false
  let ((s0, s1), fl) := (planeSums (s.mmode f == 4) fun j =>
    sumPairs (fun k => mmgAddends (s.mscale f) (ps.getD k (.nan false, .nan false)) (matElem 0 fi (b.col j) k)) (List.range 8)).run 0
  .next ((st.event fl 0 s.mcyc).oweRow f (s.mcyc + 12) false false s0 s1)

/-- Takes the B tiles of an MMG2 whole at its X, and finds negative variances in tile tB + 1 (R54, R217). -/
def State.takeMmg2 (s : State) (f : MF) : State :=
  let t := f.b.toNat - 0x40
  let rows := ((List.range 32).map fun j => s.slice.tileRow t j) ++ ((List.range 32).map fun j => s.slice.tileRow (t + 1) j)
  let st := (List.range 32).foldl (fun st j =>
    (st.sample (.reg s.cur.s (0x40 + t) j) s.X).sample (.reg s.cur.s (0x41 + t) j) s.X) s
  let st := st.onSlice fun sl => { sl with mmg2 := sl.mmg2 ++ [(s.X, rows)] }
  (List.range 256).foldl (fun st n =>
    if negVar (flushHalf (s.tab.flush.getLsbD 0) (elemAt 32 (n % 8) (rows.getD (32 + n / 8) 0).toNat)) then
      (if s.clamp then st.event flagIV 0 s.X else st.trapS s.X 0x14 (0x1000 + 8 * (n / 8) + n % 8))
    else st) st

/-- Pair k of column j of an uncertain B, as read. -/
def mmg2B (fi clamp : Bool) (rows : List TileRow) (j k : Nat) : Pair :=
  let u := flushHalf fi (elemAt 32 k (rows.getD j 0).toNat)
  let v := flushHalf fi (elemAt 32 k (rows.getD (32 + j) 0).toNat)
  (rd32 u, rd32 (if negVar v && clamp then 0 else posZero v))

/-- MMG2 (R217): MP32 rows against means in tB and variances in tB + 1. -/
def execMmg2 (f : MF) (s : State) : Res :=
  let st := s.mrows f (.mmg2 f)
  let st := if s.cur.row = 0 then st.takeMmg2 f else st
  let rows := ((st.slice.mmg2.find? fun e => e.1 == s.X).map Prod.snd).getD []
  let (x, base, st) := st.pairRow f
  let (ps, st) := st.readPairs x base
  let m := s.tab.cov.toNat % 4
  let rho : Int := if m = 1 then 1 else if m = 2 then -1 else 0
  let ((s0, s1), fl) := (planeSums (s.mmode f == 4) fun j =>
    sumPairs (fun k => mmg2Addends (s.mscale f) rho (ps.getD k (.nan false, .nan false)) (mmg2B (s.tab.flush.getLsbD 0) s.clamp rows j k))
      (List.range 8)).run 0
  let st := if s.cur.row = f.rows.toNat then st.onSlice fun sl => { sl with mmg2 := sl.mmg2.filter fun e => e.1 != s.X } else st
  .next ((st.event fl 0 s.mcyc).oweRow f (s.mcyc + 12) false false s0 s1)

/-! ### Drains, bypass and zeroing (R218 to R220) -/

/-- One cell converted to an output type (R218): `isInt` says that cells are I32. -/
def drainCell (isInt relu : Bool) (ty rm : Nat) (scale : Int) (fl : BitVec 8) (cell : Nat) : Flagged Nat :=
  if isInt then
    let v := signedOf 32 cell
    let v := if relu && decide (v ≤ 0) then 0 else v
    if ty = 3 then return wrapInt 32 v
    else if isF ty then (layoutOf ty).round rm (flushOut fl ty) (.fin (decide (v < 0)) v.natAbs (-scale))
    else return satInt ty (typeWidth ty) (roundInt rm (decide (v < 0)) v.natAbs (-scale)).1
  else
    let x := f32.decode (fl.getLsbD 0) cell
    let dead := relu && !x.isNan && (x.sign || x.isZero)
    if ty = 0 then return if relu && x.isNan then nan32 else if dead then 0 else cell
    else
      let y : Num := if dead then .fin false 0 0 else x.scale (-scale)
      if isF ty then (layoutOf ty).round rm (flushOut fl ty) y else floatToInt ty rm y

/-- The rank that an output conversion makes of a row of cells (R218). -/
def drainRank (isInt relu : Bool) (ty p rm : Nat) (scale : Int) (fl : BitVec 8) (row : Nat) : Flagged Nat :=
  let w := typeWidth ty
  buildElems w (fun j => drainCell isInt relu ty rm scale fl (elemAt 32 (if w = 32 then 16 * p + j else j) row)) (min 32 (512 / w))

/-- The output view of MOUT and MBYP: reads the accumulator row and converts it; XFLAGS and NF raised. -/
def State.drain (s : State) (f : MF) : Nat × State :=
  let c := f.a.toNat - 0x48
  let e := s.mentry f
  let ty := entryType e
  let isInt := bitAt s.cur.aux 0
  let row := (s.slice.accRow (c % 4) (c / 4) (s.mrow f)).toNat
  let (r, fl) := (drainRank isInt (f.imm.getLsbD 2) ty (f.imm.toNat % 4) (s.mmode f) (s.mscale f) s.tab.flush row).run 0
  let nf := (List.range (512 / typeWidth ty)).foldl (fun m j => m ||| nfBit ty (elemAt (typeWidth ty) j r)) 0
  (r, (s.sample (.reg s.cur.s f.a.toNat (s.mrow f)) s.mcyc).event fl nf s.mcyc)

/-- The MP32 drain (R218): pairs of plane 0 and plane 1 cells, bit for bit with R53 and R54. -/
def State.drainPairs (s : State) (f : MF) : Nat × State :=
  let a := (f.a.toNat - 0x48) % 4
  let p := f.imm.toNat % 4
  let r0 := (s.slice.accRow a 0 (s.mrow f)).toNat
  let r1 := (s.slice.accRow a 1 (s.mrow f)).toNat
  let st := (s.sample (.reg s.cur.s f.a.toNat (s.mrow f)) s.mcyc).sample (.reg s.cur.s (f.a.toNat + 4) (s.mrow f)) s.mcyc
  let (r, st) := (List.range 8).foldl (fun acc l =>
    let u := elemAt 32 (8 * p + l) r0
    let v := elemAt 32 (8 * p + l) r1
    let (v', st') := acc.2.variance v (32 * s.mrow f + 8 * p + l) s.mcyc
    if isNan32 u || isNan32 v then
      (acc.1 + (nan32 + nan32 * 2 ^ 32) <<< (64 * l), if (rd32 u).signals || (rd32 v).signals then st'.event flagIV 0 s.mcyc else st')
    else (acc.1 + (u + v' * 2 ^ 32) <<< (64 * l), st')) (0, st)
  (r, st.event 0 (nfPairs 8 r (BitVec.allOnes 128)) s.mcyc)

/-- Row 0 takes the INT tag for all rows of a drain. -/
def State.takeTag (s : State) (f : MF) : State :=
  if s.cur.row = 0 then { s with cur := { s.cur with aux := b2n (s.tagOf ((f.a.toNat - 0x48) % 4)) } } else s

/-- MOUT (R218): row i reaches DST at X + 4 + i. -/
def execMout (f : MF) (s : State) : Res :=
  let s0 := s.takeTag f
  let s1 := s0.mrows f (.mout f)
  let (r, s2) := if entryType (s.mentry f) = 12 then s1.drainPairs f else s1.drain f
  .next (s2.writeRank f.dst.toNat (s.mcyc + 4) (BitVec.ofNat 512 r))

/-- MBYP (R219): row i reaches a tile row's low bytes, or the bypass latch, at X + 2 + i. -/
def execMbyp (f : MF) (s : State) : Res :=
  let s0 := s.takeTag f
  let (r, s2) := (s0.mrows f (.mbyp f)).drain f
  .next (if f.imm.getLsbD 3 then
      s2.owe (s.mcyc + 1) (.byp (s.mrow f) (BitVec.ofNat 512 r))
    else s2.writeTile (f.dst.toNat - 0x40) (s.mrow f) 0 64 (s.mcyc + 2) r)

/-- MZERO (R220): +0 to both planes of its rows at X + 1; the INT tag from TYPE. -/
def execMzero (f : MF) (s : State) : Res :=
  let ty := entryType (s.mentry f)
  let a := f.acc.toNat - 0x48
  let isInt := isI ty || isN ty
  let st := s.setTag a isInt
  .next ((List.range (f.rows.toNat + 1)).foldl (fun st i =>
    let r := f.row0.toNat + i
    st.owe s.X (.zeroRow a r)) (st.mMarks (.mzero f) s.X))

end Sys2Proof.Machine
end

