-- ==== Sys2Proof/Machine/Copy.lean ====
section
/-!
DEFINITION. Timed copies (R198 to R204): FILL, FILLM, FILLX, SPILL, and the M syllable that a FILLM latches. Rank r of a
FILL lands in cycle X + 400 + r, rank r of a SPILL is read in cycle X + r: each is a later step of the copy.
-/
namespace Sys2Proof.Machine

/-- The dimensions of a copy shape (R71): count and byte stride. An image may give more than 16, and those from the 17th on have no field:
count 1, stride 0 (log entry 105). -/
def shapeDims (sh : BitVec 1088) : List (Nat × Int) :=
  (List.range (bitsOf sh.toNat 0 5 + 1)).map fun d =>
    (bitsOf sh.toNat (64 + 64 * d) 16 + 1, signedOf 48 (bitsOf sh.toNat (80 + 64 * d) 48))

/-- K: the words that a shape moves (R199). -/
def shapeWords (dims : List (Nat × Int)) : Nat := dims.foldl (fun a e => a * e.1) 1

/-- The byte offset of word k from OFF (R199): dimension 0 fastest. -/
def shapeOffset : List (Nat × Int) → Nat → Int
  | [], _ => 0
  | (n, st) :: r, k => (k % n : Nat) * st + shapeOffset r (k / n)

/-- The handle that a copy took at T. -/
def State.handleT (s : State) (f : CF) : Handle := SMap.get {} s.tab.handles f.h.toNat

/-- A watch filter that covers a word (R308, R309). -/
def watchHit (w : BitVec 64) (reads writes : Bool) (va : Nat) : Bool :=
  let x := w.toNat
  let a := 4 * bitsOf x 2 50
  ((reads && bitAt x 0) || (writes && bitAt x 1)) && decide (a ≤ va ∧ va < a + 4 * (bitsOf x 52 10 + 1))

/-- The physical address of a page offset. -/
def Handle.pa (h : Handle) (off : Int) : Nat := ((h.frame.toNat : Int) + off).toNat
/-- The virtual address of a page offset. -/
def Handle.va (h : Handle) (off : Int) : Nat := ((h.vbase.toNat : Int) + off).toNat

/-- Records the trap of a copy for the first word offset that fails, with the handle and the page offset as TVAL (R357). -/
def State.trapOff (s : State) (f : CF) (code : Nat) (off : Option Int) : State :=
  match off with
  | some a => s.trapS s.X code (f.h.toNat + wrapInt 56 a * 256)
  | none => s

/-- The address checks of a copy at X over its words' page offsets (R198, R306, R307, R309). -/
def State.checkCopy (s : State) (f : CF) (offs : List Int) (reads writes atom : Bool) : State :=
  let h := s.handleT f
  let size : Int := 2 ^ pageBits h.size
  let s1 := s.trapWhen (offs.any fun a => a % 4 != 0) s.X 3 s.position
  if !h.v then s1.trapOff f 0x0D (some (offs.headD 0))
  else
    let s2 := s1.trapOff f 0x0E (offs.find? fun a => decide (a < 0 ∨ a + 4 > size))
    let s3 := if (reads && !h.r) || (writes && !h.w) || (h.remote && !atom) then s2.trapOff f 0x0F offs.head? else s2
    let s4 := if h.revoked then s3.trapOff f 0x10 (some (offs.headD 0)) else s3
    let s5 := match if h.watch then offs.find? (fun a => s.tab.watch.any fun e => watchHit e.2 reads writes (h.va a)) else none with
      | some a => s4.trapS s.X 0x11 (h.va a)
      | none => s4
    match if h.poison && reads && !writes then offs.find? (fun a => s.hub.poison.contains (h.pa a / 64)) else none with
    | some a => s5.trapS s.X 0x12 (h.va a / 64 * 64)
    | none => s5

/-- OFF of a copy (R198): 0, bits [31:0] of the S result, or lanes 1 and 0 of a rank source. -/
def State.copyOff (s : State) (f : CF) : Nat × State :=
  if f.spec = 0x3A then (0, s)
  else if f.spec = 0x3B then (s.cur.fl.xs.toNat % 2 ^ 32, s)
  else
    let (r, s') := s.readRank f.spec.toNat s.X false
    (r.toNat % 2 ^ 64, s')

/-- The bank word of word k of a copy (R192, R199). -/
def State.copyKey (s : State) (f : CF) (k : Nat) : Nat :=
  wordKey (k % 16) (s.tab.bankLine f.it.toNat f.skew.toNat (k % 16) (k / 16 : Nat))

/-- The words of a copy whose banks are masked, among the first n. -/
def copyMasked (f : CF) (n : Nat) : List Nat := (List.range n).filter fun k => f.bmask.getLsbD (k % 16)

/-- What a copy took at its X, for its later ranks: the address of its first tape entry, and OFF or the index rank. -/
def copyAux (src base : Nat) : Nat := base + src * 2 ^ 32

/-- Whether a virtual address lies in a declared HBM region (R334). -/
def Tables.hbmRegion (t : Tables) (va : Nat) : Option (BitVec 256) :=
  (t.dr.map Prod.snd).find? fun r => drSpace r == 2 && decide (drBase r ≤ va ∧ va < drBase r + drLen r)

/-- What R342 forbids under RECORD for a copy whose words have these page offsets: cause 0x16. -/
def State.recordCheck (s : State) (f : CF) (offs : List Int) (bad : Bool) : State :=
  let h := s.handleT f
  s.trapBWhen (s.tab.amode == 1 && bad && offs.any fun a => (s.tab.hbmRegion (h.va a)).isSome) s.X 0x16 s.position

/-- The start of a FILL-like copy at X over its words' page offsets: checks, marks, tape entries, and one step for each rank
to land. -/
def State.fillStart (s : State) (f : CF) (src : Nat) (offs : List Int) (i : Instr) : State :=
  let s1 := s.checkCopy f offs true false false
  let (base, s2) := s1.claimWrites s.X ((copyMasked f offs.length).map fun k => (s.copyKey f k, s.X + 401 + k / 16))
  let s3 := (offs.zipIdx).foldl (fun st e => st.markHbm ((s.handleT f).pa e.1) (s.X + 400 + e.2 / 16) false) s2
  let s4 := { s3 with cur := { s3.cur with aux := copyAux src base } }
  (List.range ((offs.length + 15) / 16)).foldl (fun st r => st.later (s.X + 400 + r) (r + 1) i) s4

/-- Rank r of a FILL-like copy: each masked word is read in the cycle and owed to its bank at its end; a word with an
uncorrectable error lands poisoned (R199, R204, R368). -/
def State.fillRank (s : State) (f : CF) (offs : List Int) : State :=
  let r := s.cur.row - 1
  let all := copyMasked f offs.length
  let mine := all.filter fun k => k / 16 == r
  s.oweWords (s.X + 400 + r) (s.cur.aux % 2 ^ 32) (all.map (s.copyKey f)) ((all.takeWhile fun k => decide (k / 16 < r)).length)
    (mine.map fun k =>
      let pa := (s.handleT f).pa (offs.getD k 0)
      (BitVec.ofNat 32 (s.hbmRead pa 4), if s.hub.badWords.contains (pa / 4) then 2 else 0))

/-- The page offsets of a shaped copy (R199). -/
def State.shapeOffs (s : State) (f : CF) (off : Nat) : List Int :=
  let dims := shapeDims (SMap.get 0 s.tab.shape f.shape.toNat)
  (List.range (shapeWords dims)).map fun k => off + shapeOffset dims k

/-- A FILL, in its steps. -/
def State.fill (s : State) (f : CF) (i : Instr) : State :=
  if s.cur.row = 0 then
    let (off, s1) := s.copyOff f
    let offs := s.shapeOffs f off
    (s1.recordCheck f offs (f.spec != 0x3A && f.spec != 0x3B)).fillStart f off offs i
  else s.fillRank f (s.shapeOffs f (s.cur.aux / 2 ^ 32))

/-- FILL (R199). -/
def execFill (f : CF) (s : State) : Res := .next (s.fill f (.fill f))

/-- The opcode and fields of an M syllable. -/
def mForm : Instr → Option (Nat × MF)
  | .mnop f => some (0x00, f)
  | .mfill f => some (0x01, f)
  | .mdrn f => some (0x02, f)
  | .mldb f => some (0x03, f)
  | .mldmd f => some (0x04, f)
  | .mma f => some (0x05, f)
  | .mmaz f => some (0x06, f)
  | .mmas f => some (0x07, f)
  | .mmap f => some (0x08, f)
  | .mmg f => some (0x09, f)
  | .mmg2 f => some (0x0A, f)
  | .mout f => some (0x0B, f)
  | .mbyp f => some (0x0C, f)
  | .mzero f => some (0x0D, f)
  | _ => none

/-- The accumulator whose INT tag an M syllable checks. -/
def tagAcc (i : Instr) (f : MF) : Nat :=
  match i with
  | .mout _ | .mbyp _ => (f.a.toNat - 0x48) % 4
  | _ => (f.acc.toNat - 0x48) % 4

/-- The M syllable that a FILLM latches runs at X + 400 + R (R200); what it takes or sets of the INT tags at issue, it takes
or sets now. -/
def State.latch (s : State) (ranks : Nat) : State :=
  match s.cur.fl.syl.find? fun e => e.1 == 3 with
  | none => s
  | some e =>
    match mForm e.2 with
    | none => s
    | some (op, m) =>
      let x := s.X + 400 + ranks
      let cur := { s.cur with slot := 3, X := x, row := 0, aux := b2n (s.slice.tag1 (tagAcc e.2 m)), late := true }
      let s1 := ({ s with cur := cur } : State).mMarks e.2 x
      let ty := entryType (s.mentry m)
      let s2 : State := { s1 with cur := s.cur }
      let s2 := if op = 0x06 || op = 0x0D then s2.setTag (tagAcc e.2 m) (isI ty || isN ty) else s2
      s2.onCore fun c => { c with tasks := c.tasks ++ [⟨x, cur, .fillmLatchExecute m op⟩] }

/-- FILLM (R200): a FILL that latches the M syllable of its bundle. -/
def execFillm (f : CF) (s : State) : Res :=
  let s1 := s.fill f (.fillm f)
  .next (if s.cur.row = 0 then
      s1.latch ((shapeWords (shapeDims (SMap.get 0 s.tab.shape f.shape.toNat)) + 15) / 16)
    else s1)

/-- FILLM_LATCH_EXECUTE (R200): the latched M syllable executes once, at X_M. -/
def execFillmLatchExecute (m : MF) (op : Nat) (s : State) : Res :=
  match op with
  | 0x01 => execMfill m s
  | 0x02 => execMdrn m s
  | 0x03 => execMldb m s
  | 0x04 => execMldmd m s
  | 0x05 => execMma m s
  | 0x06 => execMmaz m s
  | 0x07 => execMmas m s
  | 0x08 => execMmap m s
  | 0x09 => execMmg m s
  | 0x0A => execMmg2 m s
  | 0x0B => execMout m s
  | 0x0C => execMbyp m s
  | 0x0D => execMzero m s
  | _ => .next s

/-- The page offsets that an index rank names (R201). -/
def indexOffs (idx : Nat) : List Int := (List.range 16).map fun l => 4 * (elemAt 32 l idx : Int)

/-- FILLX (R201): one rank by index; the index rank waits in `aux` for the landing. -/
def execFillx (f : CF) (s : State) : Res :=
  if s.cur.row = 0 then
    let (idx, s1) := s.readRank f.spec.toNat s.X false
    let offs := indexOffs idx.toNat
    .next ((s1.recordCheck f offs !(f.keep.getLsbD 1)).fillStart f idx.toNat offs (.fillx f))
  else .next (s.fillRank f (indexOffs (s.cur.aux / 2 ^ 32)))

/-- SPILL, rank r in cycle X + r: the words are read and owed to HBM at the end of X + 400 + r; a poisoned word marks its line
(R199, R368). -/
def State.spillRank (s : State) (f : CF) (offs : List Int) : State :=
  let r := s.cur.row
  ((copyMasked f offs.length).filter fun k => k / 16 == r).foldl (fun st k =>
    let key := s.copyKey f k
    (st.sample (.word s.cur.s key) (s.X + r)).owe (s.X + 400 + r)
      (.hbm ((s.handleT f).pa (offs.getD k 0)) f.chan.toNat k (s.slice.word key) (s.slice.poison key != 0))) s

/-- SPILL (R199). -/
def execSpill (f : CF) (s : State) : Res :=
  if s.cur.row = 0 then
    let (off, s1) := s.copyOff f
    let offs := s.shapeOffs f off
    let ks := copyMasked f offs.length
    let target := ks.map fun k => offs.getD k 0
    let s2 := ((s1.recordCheck f target true).checkCopy f target false true false).checkOwned s.X (ks.map (s.copyKey f))
    let s3 := ks.foldl (fun st k => st.markHbm ((s.handleT f).pa (offs.getD k 0)) (s.X + 401 + k / 16) true) s2
    let s4 := { s3 with cur := { s3.cur with aux := copyAux off 0 } }
    let s5 := (List.range ((offs.length + 15) / 16 - 1)).foldl (fun st r => st.later (s.X + r + 1) (r + 1) (.spill f)) s4
    .next (s5.spillRank f offs)
  else .next (s.spillRank f (s.shapeOffs f (s.cur.aux / 2 ^ 32)))

end Sys2Proof.Machine
end

