-- ==== Sys2Proof/Machine/Outer.lean ====
section
/-!
DEFINITION. The outer trellis (R311 to R317): the permutation of a route plan, XSEND, XRECV, RECVADD, and the arrival of a
word. Word k of a receive is a step of its own in cycle X + k; the words of a rank received so far travel in `aux`.
-/
namespace Sys2Proof.Machine

/-- The wire from output q of stage s of a Benes network of 2^m ports (R181, R311). -/
def netWire (m s q : Nat) : Nat :=
  let h := if s + 1 < m then 2 ^ (m - 1) >>> s else 1 <<< (s + 2 - m)
  let b := q - q % (2 * h)
  let j := q % (2 * h)
  if s + 1 < m then b + (j % 2) * h + j / 2 else b + 2 * (j % h) + j / h

/-- The port at which a word that enters at a port leaves a network of 2^m ports with settings `bits`, of 2^(m-1) switches a
stage (R311). -/
def netPort (m bits port : Nat) : Nat :=
  (List.range (2 * m - 1)).foldl (fun q s =>
    let q' := if bitAt bits (2 ^ (m - 1) * s + q / 2) then Nat.xor q 1 else q
    if s + 1 = 2 * m - 1 then q' else netWire m s q') port

/-- Latency of a plan (R311). -/
def Plan.latency (pl : Plan) : Nat := if pl.kind = 1 then 40 else 136

/-- The slice at which a word sent by slice n is delivered (R311, R312). -/
def Plan.dest (pl : Plan) (n : Nat) : Nat :=
  if pl.kind = 1 then 512 * dieOf n + netPort 9 (pl.settings >>> (4352 * dieOf n)) (n % 512)
  else netPort 12 pl.settings n

/-- The plan with a number in the running context, when the image loaded it (R72). -/
def Context.plan? (c : Context) (n : Nat) : Option Plan :=
  if SMap.has c.plans n then some (SMap.get ⟨1, none, 0⟩ c.plans n) else none

/-- Injects lane k of a rank for cycle `cyc`: it arrives in the destination slice after the plan's latency, poisoned
where the global network's UCIe crossings failed it (R311, R313). -/
def State.inject (s : State) (plan : Nat) (pl : Plan) (cyc : Nat) (w : Word) : State :=
  let target := pl.dest s.cur.s
  let (n, s1) := s.fresh
  let bad := pl.kind != 1 && Config.ucieError n
  s1.onCore fun c =>
    { c with tasks := c.tasks ++
        [⟨cyc + pl.latency, { s.cur with d := dieOf target, s := target, row := 0 }, .outerTrellisArrival plan w bad⟩] }

/-- XSEND (R315): every 16 cycles a rank is sampled, and its lanes are injected one in each cycle. -/
def execXsend (f : CX) (s : State) : Res :=
  let words := f.words.toNat + 1
  let j := s.cur.row
  let s0 := if j = 0 then
      (List.range ((words + 15) / 16 - 1)).foldl (fun st i => st.later (s.X + 16 * (i + 1)) (i + 1) (.xsend f)) s
    else s
  let (r, s1) := s0.readRank f.spec.toNat (s.X + 16 * j) false
  .next (match (s.ctx s.cur.cid).plan? f.plan.toNat with
    | none => s1
    | some pl =>
      (List.range (min 16 (words - 16 * j))).foldl (fun st l =>
        st.inject f.plan.toNat pl (s.X + 16 * j + l) (BitVec.ofNat 32 (elemAt 32 l r.toNat))) s1)

/-- OUTER_TRELLIS_ARRIVAL (R313): the word stands at the slice's delivery port in this cycle. -/
def execOuterTrellisArrival (plan : Nat) (w : Word) (poisoned : Bool) (s : State) : Res :=
  .next (s.onSlice fun sl => { sl with arr := sl.arr ++ [(plan, w, poisoned)] })

/-- The bank word of word k of a receive (R315). -/
def State.recvKey (s : State) (f : CX) (k : Nat) : Nat := wordKey (k % 16) (s.tab.bankLine f.it.toNat 0 (k % 16) (k / 16 : Nat))

/-- The start of a receive: its claims, and the step that follows in the next cycle. -/
def State.recvStart (s : State) (f : CX) : State :=
  if s.cur.row = 0 then
    let words := f.words.toNat + 1
    let (base, s1) := s.claimWrites s.X ((List.range words).map fun k => (s.recvKey f k, s.X + k + 1))
    { s1 with cur := { s1.cur with aux := base * 2 ^ 512, late := true } }
  else s

/-- Takes the word that arrives for a receive in its cycle; a poisoned one traps with cause 0x12 (R313, R368). -/
def State.takeArrival (s : State) (f : CX) : Option Word × State :=
  let plan := f.plan.toNat
  match s.slice.arr.find? fun e => e.1 == plan with
  | none => (none, s)
  | some e =>
    let s1 := s.onSlice fun sl => { sl with arr := sl.arr.erase e }
    (some e.2.1, s1.trapWhen e.2.2 (s.X + s.cur.row) 0x12 (4 * s.recvKey f s.cur.row))

/-- The tape address of word k of a receive. -/
def State.recvTape (s : State) (f : CX) (k : Nat) : Option Nat :=
  s.tab.tapeAt (s.cur.aux / 2 ^ 512) ((List.range (f.words.toNat + 1)).map (s.recvKey f)) k

/-- The step of a receive for its next word. -/
def State.recvNext (s : State) (f : CX) (i : Instr) : State :=
  if s.cur.row < f.words.toNat then s.later (s.X + s.cur.row + 1) (s.cur.row + 1) i else s

/-- XRECV (R315). -/
def execXrecv (f : CX) (s : State) : Res :=
  let k := s.cur.row
  let s0 := if k = 0 && specTracked f.spec.toNat then
      (List.range (f.words.toNat / 16 + 1)).foldl (fun st r => st.mark (.reg s.cur.s f.spec.toNat 0) (s.X + 16 * r + 16)) s
    else s
  let s1 := s0.recvStart f
  let (v, s2) := s1.takeArrival f
  let w : Word := v.getD 0
  let s3 := s2.owe (s.X + k) (.bank (k % 16) (s.recvKey f k / 16) w 0 (s1.recvTape f k))
  let sofar := (if k % 16 = 0 then 0 else s1.cur.aux % 2 ^ 512) + w.toNat <<< (32 * (k % 16))
  let s4 := { s3 with cur := { s3.cur with aux := s1.cur.aux / 2 ^ 512 * 2 ^ 512 + sofar } }
  let s5 := if k % 16 = 15 || k = f.words.toNat then
      s4.writeRank f.spec.toNat (s.X + 16 * (k / 16) + 16) (BitVec.ofNat 512 sofar)
    else s4
  .next (s5.recvNext f (.xrecv f))

/-- The sum of RECVADD f32 (R315): RNE, with F32FI and F32FR as sampled at T. -/
def recvSum (fl : BitVec 8) (a b : Nat) : Flagged Nat := do
  f32.round 1 (flushOut fl 0) (← numAdd false (f32.decode (flushIn fl 0) a) (f32.decode (flushIn fl 0) b))

/-- RECVADD (R315): where no word arrives the bank word keeps its value. -/
def execRecvadd (f : CX) (s : State) : Res :=
  let k := s.cur.row
  let key := s.recvKey f k
  let s1 := (s.recvStart f).sample (.word s.cur.s key) (s.X + k)
  let (v, s2) := s1.takeArrival f
  let old := s.slice.word key
  let s3 := match v with
    | none =>
      if (s1.recvTape f k).isSome then s2.owe (s.X + k) (.bank (k % 16) (key / 16) old (s.slice.poison key) (s1.recvTape f k)) else s2
    | some w =>
      if f.spec = 0 then
        let (x, fl) := (recvSum s.tab.flush old.toNat w.toNat).run 0
        (s2.event fl (nfBit 0 x) (s.X + k)).owe (s.X + k) (.bank (k % 16) (key / 16) (BitVec.ofNat 32 x) 0 (s1.recvTape f k))
      else s2.owe (s.X + k) (.bank (k % 16) (key / 16) (old + w) 0 (s1.recvTape f k))
  .next (s3.recvNext f (.recvadd f))

end Sys2Proof.Machine
end

