-- ==== Sys2Proof/Machine/Check.lean ====
section
/-!
DEFINITION. The checks that the sequencer makes of a bundle before it issues: encoding (R94 to R97), operand classes and
types of every form, and what format resolution adds at T (R62, R158, R206, R210, R215 to R219, R222).
-/
namespace Sys2Proof.Machine

/-- A bundle as fetched (R85): its address, its header, and the words of its present slots. -/
structure Bundle where
  addr : Nat
  hdr : Header
  words : List (Nat × DWord)
  deriving DecidableEq, Repr

/-- Something a check found: cause, TVAL, slot. -/
abbrev Finding := Nat × Nat × Nat

/-- The word of a slot. -/
def Bundle.word (b : Bundle) (slot : Nat) : Option DWord := (b.words.find? fun e => e.1 == slot).map Prod.snd
/-- The opcode of a slot, when it is present. -/
def Bundle.opc (b : Bundle) (slot : Nat) : Option Nat := (b.word slot).map opcOf
/-- The position of a present slot (R357). -/
def Bundle.position (b : Bundle) (slot : Nat) : Nat := 1 + (b.words.filter fun e => e.1 < slot).length
/-- Whether a C slot holds an opcode. -/
def Bundle.hasC (b : Bundle) (op : Nat) : Bool := b.opc 4 == some op || b.opc 5 == some op

/-- The instructions of slots 0 to 5 that decode. -/
def Bundle.decoded (b : Bundle) : List (Nat × Instr) :=
  b.words.filterMap fun e => if e.1 < 6 then (decodeSlot e.1 e.2).toOption.map fun i => (e.1, i) else none
/-- The RT or WT syllable (slot 6 or 7). -/
def Bundle.trel (b : Bundle) (slot : Nat) : Option Trel := (b.word slot).bind Trel.ofWord

/-- The length of a bundle in bytes (R85). -/
def Bundle.bytes (b : Bundle) : Nat := 8 * (1 + b.words.length)

/-! ### Cause 0x01 (R95) -/

/-- Stop-bit rule of R87: the first syllable whose stop bit is wrong; the rule concerns the bundle as a whole (R362). -/
def Bundle.stops (b : Bundle) : List Finding :=
  let n := b.words.length
  match (b.words.zipIdx).find? fun e => e.1.2.getLsbD 63 != (e.2 + 1 == n) with
  | some e => [(1, e.2 + 1, 15)]
  | none => []

/-- Two C slots that both hold an opcode (R95): charged to the later. -/
def Bundle.twice (b : Bundle) (op : Nat) : List Finding :=
  if b.opc 4 == some op && b.opc 5 == some op then [(1, b.position 5, 5)] else []

/-- Everything that R95 forbids. -/
def Bundle.illegal (b : Bundle) : List Finding :=
  (if b.hdr.rsv != 0 then [(1, 0, 15)] else [])
  ++ (if b.hdr.lit != 0 && b.opc 0 != some 0x29 && b.opc 0 != some 0x2A then [(1, 0, 15)] else [])
  ++ b.stops ++ b.twice 1 ++ b.twice 2 ++ b.twice 5
  ++ (if (b.word 6).isSome && !b.hasC 1 then [(1, b.position 6, 6)] else [])
  ++ (if (b.word 7).isSome && !b.hasC 2 then [(1, b.position 7, 7)] else [])
  ++ (if (b.word 3).isNone then ([4, 5].filter fun k => b.opc k == some 5).map fun k => (1, b.position k, k) else [])

/-! ### Cause 0x02 (R96) -/

/-- Syllables that do not decode (R96, R112). -/
def Bundle.undecoded (b : Bundle) : List Finding :=
  b.words.filterMap fun e =>
    let bad := if e.1 < 6 then (decodeSlot e.1 e.2).toOption.isNone else (Trel.ofWord e.2).isNone
    if bad then some (2, b.position e.1, e.1) else none

/-! ### Cause 0x03 by class (R97) -/

/-- Whether an S form has latency T + 1 and computes an xd result, so that its bundle may name xs (R101). -/
def givesXs (i : Instr) : Bool :=
  match i with
  | .add _ | .sub _ | .and _ | .or _ | .xor _ | .andn _ | .shl _ | .shrl _ | .shra _ | .rotr _ | .min _ | .max _ | .minu _
  | .maxu _ | .slt _ | .sltu _ | .seq _ | .sel _ | .clz _ | .popc _ | .addi _ | .andi _ | .ori _ | .xori _ | .shli _
  | .shrli _ | .shrai _ | .slti _ | .lit _ | .lith _ | .itrd _ | .hget _ | .waitg _ | .arm _ | .genrd _ | .align _
  | .logmark _ | .cfgr _ | .enrd _ => true
  | .sink f => !f.csr.getLsbD 6
  | _ => false

/-- A rank source that the bundle may name. -/
def srcOk (xs : Bool) (c : Nat) : Bool := rankSource c && (c != 0x3B || xs)
/-- A rank source of an M syllable that the bundle may name. -/
def mSrcOk (xs : Bool) (c : Nat) : Bool := mRankSource c && (c != 0x3B || xs)
/-- A source of STR or RMW (R196). -/
def strOk (xs : Bool) (c : Nat) : Bool := srcOk xs c || c == 0x39

/-- TYPE, FSLOT fields that R38 and R97 reject. -/
def typeFieldBad (ty fs : BitVec 4) : Bool := ty == 13 || ty == 14 || (fs != 0 && ty != 15)

/-- The operand classes of a V form (R156, R174, R185, R222). -/
def vClassOk (xs : Bool) (i : Instr) (f : VF) : Bool :=
  let a := f.a.toNat
  let b := f.b.toNat
  let d := f.dst.toNat
  match i with
  | .vnop _ => true
  | .vmov _ => (srcOk xs a && rankDest d) || (specM a && specM d)
  | .vroute _ => srcOk xs a && specZ d
  | .gadd _ | .gsub _ | .gmul _ => specM a && specM b && specM d
  | .gscl _ | .gofs _ => specM a && srcOk xs b && specM d
  | .grelu _ | .gexp _ | .gsig _ | .gsqr _ => specM a && specM d
  | .gcol _ => specM a && (f.imm != 3 || srcOk xs b) && rankDest d
  | .gmake _ => srcOk xs a && srcOk xs b && specM d
  | _ => srcOk xs a && srcOk xs b && srcOk xs f.c.toNat && rankDest d

/-- The immediate of a V form, as far as it does not depend on the type. -/
def vImmOk (i : Instr) (f : VF) : Bool :=
  let m := f.imm.toNat
  match i with
  | .vcmp _ => m < 8
  | .vpack _ | .vunpk _ | .kop _ => m < 8
  | .vscan _ => m % 8 < 6 && m < 16
  | .vred _ => m < 6
  | .vroute _ => m < 16 && f.ty == 0 && f.fs == 0
  | .vcvt _ =>
    !(f.ty == 15 && m % 16 == 15) && !(bitAt m 6 && ((f.ty != 15 && isF f.ty.toNat) || (m % 16 != 15 && isF (m % 16))))
  | .vsplat _ => m < 64
  | .gadd _ | .gsub _ | .gmul _ | .gscl _ | .gofs _ | .grelu _ | .gexp _ | .gsig _ | .gsqr _ | .gmake _ => m == 0
  | .gcol _ => m < 4
  | _ => true

/-- The types that a V form accepts (R161 to R177, R188 to R191). -/
def vTypeOk (i : Instr) (ty : Nat) : Bool :=
  match i with
  | .vadds _ | .vsubs _ | .vmulh _ | .vshl _ | .vshr _ => isI ty || isN ty
  | .vround _ | .vclass _ | .vexp _ | .vlog _ | .vrcp _ | .vrsq _ | .vsqrt _ | .vtanh _ | .vsig _ => isF ty
  | .vpack _ | .vunpk _ => decide (9 ≤ ty ∧ ty ≤ 11)
  | .vmov _ => decide (ty < 9 ∨ ty = 12)
  | _ => decide (ty < 9)

/-- Whether RM may be nonzero for the type (R160, R161, R188). -/
def vRmOk (i : Instr) (f : VF) (ty : Nat) : Bool :=
  match i with
  | .vadd _ | .vsub _ | .vmul _ | .vfma _ => f.rm == 0 || isF ty
  | .vscan _ | .vred _ => f.rm == 0 || (isF ty && f.imm.toNat % 8 == 0)
  | _ => true

/-- VCVT from type s to type d (R171). -/
def cvtOk (m d s : Nat) : Bool :=
  let nd := typeCount d
  let ns := typeCount s
  let p := bitsOf m 4 2
  decide (d < 9 ∧ s < 9) && (if ns = nd then p == 0 else if ns > nd then decide (p < ns / nd) else decide (p < nd / ns))
    && (!bitAt m 6 || (!isF d && !isF s))

/-- The check of a V form once its type is known: the cause, or 0. -/
def vTyped (i : Instr) (f : VF) (ty src : Nat) : Nat :=
  let m := f.imm.toNat
  let mOk := match i with
    | .vmov _ => (specM f.a.toNat && specM f.dst.toNat && ty == 12) || (!specM f.a.toNat && !specM f.dst.toNat && ty != 12)
    | .vpack _ | .vunpk _ => decide (m % 8 < (if ty = 9 then 3 else if ty = 10 then 5 else 8))
    | .vsplat _ => decide (m < typeCount ty)
    | .vcvt _ => cvtOk m ty src
    | _ => true
  if !vRmOk i f ty then 2 else if !vTypeOk i ty || !mOk then 3 else 0

/-- Whether a V form takes TYPE. -/
def vTakesType (i : Instr) : Bool :=
  match i with
  | .vnop _ | .kop _ | .vroute _ | .gadd _ | .gsub _ | .gmul _ | .gscl _ | .gofs _ | .grelu _ | .gexp _ | .gsig _ | .gsqr _
  | .gcol _ | .gmake _ => false
  | _ => true

/-- The fields of a V syllable. -/
def vForm? (i : Instr) : Option VF :=
  match i with
  | .vnop f | .vadd f | .vsub f | .vmul f | .vfma f | .vmin f | .vmax f | .vabs f | .vneg f | .vadds f | .vsubs f | .vmulh f
  | .vshl f | .vshr f | .vand f | .vor f | .vxor f | .vnot f | .vcmp f | .vsel f | .vround f | .vclass f | .vexp f | .vlog f
  | .vrcp f | .vrsq f | .vsqrt f | .vtanh f | .vsig f | .vrelu f | .vcvt f | .vpack f | .vunpk f | .vmov f | .vsplat f
  | .vrot f | .kop f | .vscan f | .vred f | .vcompact f | .vcount f | .vroute f | .gadd f | .gsub f | .gmul f | .gscl f
  | .gofs f | .grelu f | .gexp f | .gsig f | .gsqr f | .gcol f | .gmake f => some f
  | _ => none

/-- The static check of a V syllable: the cause, or 0. A VCVT that takes its source type through FSLOT may name any slot
(R171). -/
def vStatic (xs : Bool) (i : Instr) (f : VF) : Nat :=
  let pkBad := (f.pk.getLsbD 2 && !specQ f.a.toNat) || (f.pk.getLsbD 1 && !specQ f.b.toNat) || (f.pk.getLsbD 0 && !specQ f.c.toNat)
  let src := f.imm.toNat % 16
  let isCvt := match i with | .vcvt _ => true | _ => false
  let typed := if vTakesType i && f.ty != 15 && !(isCvt && src == 15) then vTyped i f f.ty.toNat src else 0
  let sideBad := isCvt && ((f.ty != 15 && decide (f.ty.toNat > 8)) || (src != 15 && decide (src > 8)))
  let rmBad := f.rm != 0 && (match i with | .vroute _ => true | .vscan _ | .vred _ => f.imm.toNat % 8 != 0 | _ => false)
  if typed = 2 || rmBad then 2
  else if pkBad || sideBad || decide (f.rm.toNat > 4) || typeFieldBad f.ty (if isCvt && src == 15 then 0 else f.fs) || !vClassOk xs i f || !vImmOk i f || typed = 3 then 3
  else 0

/-! ### M syllables (R206) -/

/-- The types that an M form accepts. -/
def mTypeOk (i : Instr) (ty : Nat) : Bool :=
  let prod := decide (ty < 3 ∨ ty = 5 ∨ (8 ≤ ty ∧ ty ≤ 11))
  let sparse := decide (ty = 1 ∨ ty = 2 ∨ ty = 5 ∨ ty = 8)
  match i with
  | .mldb f => if f.imm.getLsbD 0 then sparse else prod
  | .mma _ | .mmaz _ | .mmap _ => prod
  | .mmas _ => sparse
  | .mmg _ | .mmg2 _ => ty == 12
  | .mout _ => decide (ty < 9 ∨ ty = 12)
  | .mbyp _ => decide (ty < 3 ∨ ty = 5 ∨ ty = 8)
  | .mzero _ => decide (ty < 13)
  | _ => true

/-- The check of an M form once its type is known: the cause, or 0. -/
def mTyped (i : Instr) (f : MF) (ty : Nat) : Nat :=
  let p := f.imm.toNat % 4
  let pOk := if ty = 12 then !f.imm.getLsbD 2 && specA0 f.a.toNat else if typeWidth ty = 32 then decide (p < 2) else p == 0
  match i with
  | .mout _ | .mbyp _ => if mTypeOk i ty && pOk then 0 else 3
  | .mmas _ => if ty ≠ 1 ∧ ty ≠ 2 ∧ f.b ≠ 0 then 2 else if mTypeOk i ty then 0 else 3
  | _ => if mTypeOk i ty then 0 else 3

/-- Whether an M form takes TYPE. -/
def mTakesType (i : Instr) : Bool :=
  match i with
  | .mnop _ | .mfill _ | .mdrn _ | .mldmd _ => false
  | _ => true

/-- The operand classes of an M form. -/
def mClassOk (xs : Bool) (i : Instr) (f : MF) : Bool :=
  let a := f.a.toNat
  let d := f.dst.toNat
  let row := specA0 f.acc.toNat
  let prod := row && (mSrcOk xs a || specT a) && (!f.imm.getLsbD 3 || (a == 0x3A && f.pka == 0))
  match i with
  | .mnop _ => true
  | .mfill _ => specT d && mSrcOk xs a
  | .mdrn _ => mRankDest d && specT a
  | .mldb _ => specT a && (!f.imm.getLsbD 0 || specD f.b.toNat)
  | .mldmd _ => specD d && mSrcOk xs a && decide (f.row0.toNat < 4)
  | .mma _ | .mmaz _ | .mmap _ => prod
  | .mmas _ => row && (mSrcOk xs a || specT a) && mSrcOk xs f.b.toNat
  | .mmg _ => row && (mSrcOk xs a || (specM a && decide (f.rows.toNat < 2)))
  | .mmg2 _ => row && (mSrcOk xs a || (specM a && decide (f.rows.toNat < 2))) && specT f.b.toNat && f.b != 0x47
  | .mout _ => mRankDest d && specA a
  | .mbyp _ => specA a && decide (f.imm.toNat % 4 < 2) && (if f.imm.getLsbD 3 then d == 0x3A else specT d)
  | .mzero _ => row
  | _ => true

/-- The static check of an M syllable: the cause, or 0. -/
def mStatic (xs : Bool) (i : Instr) (f : MF) : Nat :=
  let typed := if mTakesType i && f.ty != 15 then mTyped i f f.ty.toNat else 0
  if typed = 2 then 2
  else if (f.pka == 1 && !specQ f.a.toNat) || typeFieldBad f.ty f.fs || decide (f.row0.toNat + f.rows.toNat > 31)
      || !mClassOk xs i f || typed = 3 then 3
  else 0

/-! ### C syllables -/

/-- The fields of a CX syllable. -/
def cxForm? : Instr → Option CX
  | .xsend f | .xrecv f | .recvadd f => some f
  | _ => none
/-- The fields of a CF syllable. -/
def cfForm? : Instr → Option CF
  | .fill f | .fillm f | .spill f | .fillx f | .hatom f => some f
  | _ => none
/-- The fields of a CB syllable. -/
def cbForm? : Instr → Option CB
  | .ldr f | .str f | .rmw f => some f
  | _ => none

/-- The static check of a C syllable: the cause, or 0. -/
def cStatic (c : Context) (xs : Bool) (i : Instr) : Nat :=
  let cfBad (f : CF) : Bool := decide (f.skew.toNat > 4 ∨ f.chan.toNat > 19) || !srcOk xs f.spec.toNat
  let plan (f : CX) : Bool := (c.plan? f.plan.toNat).isSome
  let ok := match i with
    | .ldr f => rankDest f.spec.toNat && decide (f.skew.toNat ≤ 4)
    | .str f => strOk xs f.spec.toNat && decide (f.skew.toNat ≤ 4)
    | .rmw f => rankDest f.spec.toNat && strOk xs f.spec2.toNat && decide (f.skew.toNat ≤ 4) && (f.rop != 7 || xs)
    | .fill f | .fillm f | .spill f | .fillx f | .hatom f => !cfBad f
    | .xsend f => srcOk xs f.spec.toNat && f.it == 0 && plan f
    | .xrecv f => rankDest f.spec.toNat && plan f
    | .recvadd f => decide (f.spec.toNat < 2) && plan f
    | _ => true
  if ok then 0 else 3

/-! ### The whole bundle -/

/-- The static check of one syllable: the cause, or 0. -/
def staticCause (c : Context) (xs : Bool) (i : Instr) : Nat :=
  match vForm? i with
  | some f => vStatic xs i f
  | none =>
    match mForm i with
    | some m => mStatic xs i m.2
    | none => cStatic c xs i

/-- What the encoding checks of R94 find in a bundle. -/
def Bundle.findings (c : Context) (b : Bundle) : List Finding :=
  let dec := b.decoded
  let xs := dec.any fun e => e.1 == 0 && givesXs e.2
  b.illegal ++ b.undecoded
    ++ dec.filterMap fun e =>
        let k := staticCause c xs e.2
        if k = 0 then none else some (k, b.position e.1, e.1)

/-! ### What issue adds when the bundle is not padded -/

/-- A format slot that does not resolve (R60, R62, R70): never bound, N = 0 or N above 64, or an entry with RM 101 to 111. -/
def Tables.slotBad (t : Tables) (fs : Nat) : Bool :=
  let n := bitsOf (SMap.get (0 : BitVec 16) t.fslot fs).toNat 9 7
  decide (n = 0 ∨ n > 64) || decide (entryRm (t.entry 15 fs) > 4)

/-- The resolved type of a TYPE and FSLOT pair. -/
def Tables.typeOf (t : Tables) (ty fs : BitVec 4) : Nat := entryType (t.entry ty.toNat fs.toNat)

/-- Whether a moment form samples COV (R55). -/
def takesCov (i : Instr) : Bool :=
  match i with
  | .gadd _ | .gsub _ | .gmul _ | .gscl _ | .gofs _ | .grelu _ | .gexp _ | .gsig _ | .gsqr _ | .gcol _ | .gmake _ | .mmg _
  | .mmg2 _ => true
  | _ => false

/-- The shape checks of MFILL and MDRN (R71, R210). -/
def Tables.tshBad (t : Tables) (f : MF) : Bool :=
  let sh := (SMap.get (0 : BitVec 16) t.tsh (f.imm.toNat % 8))
  decide (bitsOf sh.toNat 10 4 > 12) || decide (shapeBytes sh > 64) || decide (f.row0.toNat + f.rows.toNat > bitsOf sh.toNat 0 5)

/-- A pair of an MMAP with exactly one member (R215). -/
def Core.splitPair (c : Core) (g d : Nat) : Bool :=
  (List.range 256).any fun k => c.member g (512 * d + 2 * k) != c.member g (512 * d + 2 * k + 1)

/-- The accumulator planes that an M syllable names, reads or writes, as bits 2n + p (R241, R242). -/
def accPlanes (i : Instr) (ty : Nat) : List Nat :=
  let both (c : BitVec 7) : List Nat := [2 * ((c.toNat - 0x48) % 4), 2 * ((c.toNat - 0x48) % 4) + 1]
  let one (c : BitVec 7) : List Nat := [2 * ((c.toNat - 0x48) % 4) + (c.toNat - 0x48) / 4]
  match i with
  | .mma f | .mmaz f | .mmas f | .mmap f => one f.acc
  | .mmg f | .mmg2 f | .mzero f => both f.acc
  | .mout f => if ty = 12 then both f.a else one f.a
  | .mbyp f => one f.a
  | _ => []

/-- The planes allocated to a context: those of set 0 and of every set acquired and not released (R266). -/
def Core.allocation (c : Core) (cx : Context) : BitVec 8 :=
  (cx.sets.zipIdx).foldl (fun a e => if e.2 = 0 ∨ c.acquired.getLsbD e.2 then a ||| e.1.1 else a) 0

/-- The INT tag that an MMAZ or MZERO sets, with its accumulator (R78, R220); the adjoint of one sets none. -/
def Flight.setsTag (f : Flight) : Option (Nat × Bool) :=
  match if f.inv.isSome then none else f.syl.find? fun e => e.1 == 3 with
  | some (_, .mmaz m) => some (m.acc.toNat - 0x48, let ty := entryType (f.tab.entry m.ty.toNat m.fs.toNat); isI ty || isN ty)
  | some (_, .mzero m) => some (m.acc.toNat - 0x48, let ty := entryType (f.tab.entry m.ty.toNat m.fs.toNat); isI ty || isN ty)
  | _ => none

/-- The INT tag of an accumulator of a slice as a bundle issued now takes it (R138, R213): the tag that stands, after those
that bundles still on their way to the slice set. -/
def Core.tagNow (c : Core) (n a : Nat) : Bool :=
  ((c.flights.filter fun f => f.die == dieOf n && decide (c.now ≤ f.T + 2 + colOf n) && c.member f.grp n).filterMap fun f =>
    f.setsTag.bind fun e => if e.1 = a then some e.2 else none).getLastD ((c.slice n).int.getLsbD a)

/-- Whether the INT tag of a member slice forbids an M syllable (R78, R213 to R218): an integer product into a tag-0
accumulator, a floating or moment product into a tag-1 accumulator, MP32 output from a tag-1 accumulator; an MMAP uses the
east slices. -/
def Core.tagBad (c : Core) (t : Tables) (g d : Nat) (i : Instr) : Bool :=
  let isInt (f : MF) : Bool := isI (t.typeOf f.ty f.fs) || isN (t.typeOf f.ty f.fs)
  let want : Option (Nat × Bool × Bool) := match i with
    | .mma f | .mmas f => some (f.acc.toNat - 0x48, isInt f, false)
    | .mmap f => some (f.acc.toNat - 0x48, isInt f, true)
    | .mmg f | .mmg2 f => some (f.acc.toNat - 0x48, false, false)
    | .mout f => if t.typeOf f.ty f.fs = 12 then some ((f.a.toNat - 0x48) % 4, false, false) else none
    | _ => none
  match want with
  | none => false
  | some (a, tag, east) => (c.members g d).any fun n => (!east || n % 2 == 1) && c.tagNow n a != tag

/-- The cause that format resolution, shapes, pairs, INT tags, plane allocation and COV give a syllable at T, or 0. -/
def issueCause (c : Core) (cx : Context) (t : Tables) (g d : Nat) (i : Instr) : Nat :=
  let cov := if takesCov i && t.cov.toNat % 4 == 3 then 3 else 0
  match vForm? i with
  | some f =>
    let src := f.imm.toNat % 16
    let isCvt := match i with | .vcvt _ => true | _ => false
    let viaSlot := f.ty == 15 || (isCvt && src == 15)
    if viaSlot && vTakesType i then
      if t.slotBad f.fs.toNat then 3
      else
        let e := entryType (t.entry 15 f.fs.toNat)
        vTyped i f (if f.ty = 15 then e else f.ty.toNat) (if src = 15 then e else src)
    else cov
  | none =>
    match mForm i with
    | none => 0
    | some (_, f) =>
      let typed := if mTakesType i && f.ty == 15 then
          (if t.slotBad f.fs.toNat then 3 else mTyped i f (t.typeOf f.ty f.fs))
        else 0
      let own := match i with
        | .mfill _ | .mdrn _ => t.tshBad f
        | .mmap _ => c.splitPair g d
        | _ => false
      let own := own || c.tagBad t g d i || (accPlanes i (t.typeOf f.ty f.fs)).any fun k => !(c.allocation cx).getLsbD k
      if typed ≠ 0 then typed else if own then 3 else cov

end Sys2Proof.Machine
end

