-- ==== Sys2Proof/Machine/Ports.lean ====
section
/-!
DEFINITION. Port, channel and plan use, checked at issue (R193, R194, R203, R208, R314, R316). A port is a number: bank b
reads at b and writes at 16 + b; the matrix unit has its A port at 32, its B load port at 33, tile t's ports at 40 + t and
48 + t; injection is 60 and delivery 61. Cycles of a port use are those of column 0.
-/
namespace Sys2Proof.Machine

/-- A use of a port from X on: port, first and last cycle, and whether it is an RMW reservation. -/
abbrev RelUse := Nat × Nat × Nat × Bool

/-- Uses of a port in one span. -/
def useSpan (port lo n : Nat) : List RelUse := if n = 0 then [] else [(port, lo, lo + n - 1, false)]

/-- Words that a shaped copy moves (R199). -/
def Tables.copyWords (t : Tables) (f : CF) : Nat := shapeWords (shapeDims (SMap.get 0 t.shape f.shape.toNat))

/-- Ports of the matrix unit (R208). -/
def mUses (i : Instr) : List RelUse :=
  match mForm i with
  | none => []
  | some (_, f) =>
    let n := f.rows.toNat + 1
    let tileA := if specT f.a.toNat then useSpan (f.a.toNat - 0x18) 0 n else []
    match i with
    | .mma _ | .mmaz _ | .mmas _ | .mmap _ => useSpan 32 0 n ++ tileA
    | .mmg _ => useSpan 32 0 n
    | .mmg2 _ => useSpan 32 0 n ++ useSpan (f.b.toNat - 0x18) 0 1 ++ useSpan (f.b.toNat - 0x17) 0 1
    | .mldb _ => useSpan 33 0 34 ++ useSpan (f.a.toNat - 0x18) 0 32
    | .mdrn _ => tileA
    | .mfill _ => useSpan (f.dst.toNat - 0x10) 1 n
    | .mbyp _ => if f.imm.getLsbD 3 then [] else useSpan (f.dst.toNat - 0x10) 2 n
    | _ => []

/-- Ports of a C syllable (R193, R314). -/
def cUses (t : Tables) (i : Instr) : List RelUse :=
  match i with
  | .ldr f => (maskBanks f.bmask).map fun b => (b, 0, 0, false)
  | .str f => (maskBanks f.bmask).map fun b => (16 + b, 3, 3, false)
  | .rmw f => ((maskBanks f.bmask).map fun b => [(b, 0, 0, false), (16 + b, 2, 2, false), (b, 0, 2, true), (16 + b, 0, 2, true)]).flatten
  | .fill f | .fillm f => ((maskBanks f.bmask).map fun b => useSpan (16 + b) 400 ((t.copyWords f + 15 - b) / 16)).flatten
  | .fillx f => (maskBanks f.bmask).map fun b => (16 + b, 400, 400, false)
  | .spill f => ((maskBanks f.bmask).map fun b => useSpan b 0 ((t.copyWords f + 15 - b) / 16)).flatten
  | .hatom f =>
    if f.aop.getLsbD 3 then ((List.range 8).filter fun j => f.bmask.getLsbD j).map fun j => (17 + 2 * j, 800, 800, false) else []
  | .xsend f => useSpan 60 0 (f.words.toNat + 1)
  | .xrecv f => useSpan 61 0 (f.words.toNat + 1) ++ (List.range (f.words.toNat + 1)).map fun k => (16 + k % 16, k, k, false)
  | .recvadd f =>
    useSpan 61 0 (f.words.toNat + 1)
      ++ ((List.range (f.words.toNat + 1)).map fun k => [(16 + k % 16, k, k, false), (k % 16, k, k, false)]).flatten
  | _ => []

/-- The ranks of the FILLM of a bundle: its M syllable uses its ports from X + 400 + R (R200, R208). -/
def latchRanks (t : Tables) (syl : List (Nat × Instr)) : Option Nat :=
  syl.findSome? fun e => match e.2 with
    | .fillm f => some ((t.copyWords f + 15) / 16)
    | _ => none

/-- Every port use of the slice syllables of a bundle issued at T, at column 0. -/
def portUses (t : Tables) (die grp T : Nat) (syl : List (Nat × Instr)) : List PortUse :=
  let shift := match latchRanks t syl with | some r => 400 + r | none => 0
  (syl.map fun e =>
    let x := T + 2 + (if e.1 = 3 then shift else 0)
    (mUses e.2 ++ cUses t e.2).map fun u => ⟨u.1, x + u.2.1, x + u.2.2.1, u.2.2.2, die, grp, T, e.1⟩).flatten

/-- A conflict: cause, TSLICE, first shared cycle, TVAL, slot; in the order in which conflicts are named. -/
abbrev Conflict := Nat × Nat × Nat × Nat × Nat

/-- Whether two port uses conflict, and with which cause (R194). -/
def portCause (u v : PortUse) : Nat :=
  if u.port ≠ v.port || decide (u.hi < v.lo) || decide (v.hi < u.lo) then 0
  else if !u.rsv && !v.rsv then 7
  else if u.rsv && v.rsv then 0
  else 8

/-- The lowest slice of a die that two groups share (R194). -/
def Core.shared (c : Core) (die g h : Nat) : Option Nat :=
  ((List.range 512).map (512 * die + ·)).find? fun n => c.member g n && c.member h n

/-- The conflict of a new port use with another one. -/
def Core.portConflict (c : Core) (u v : PortUse) : Option Conflict :=
  let k := portCause u v
  if k = 0 || v.die ≠ u.die || (v.T == u.T && v.slot == u.slot) then none
  else (c.shared u.die u.grp v.grp).map fun n =>
    let cyc := max u.lo v.lo + colOf n
    let where_ := if u.port < 32 then u.port % 16
      else Config.portField u.port % 16 + (if u.port < 60 then 16 else 32)
    (k, n, cyc, where_ + cyc % 2 ^ 48 * 2 ^ 16, max u.slot (if v.T = u.T then v.slot else 0))

/-- The windows of a channel or a plan in each member slice: `lo` and `n` from the slice's X on (R203, R316). -/
def Core.windows (c : Core) (chan lo n die grp T slot : Nat) : List Window :=
  if n = 0 then []
  else (c.members grp die).map fun s =>
    { chan := chan, lo := T + 2 + colOf s + lo, hi := T + 1 + colOf s + lo + n, die := die, s := s, T := T, slot := slot, grp := grp }

/-- The fill-channel windows of a C syllable (R203). -/
def Core.chanWindows (c : Core) (t : Tables) (die grp T : Nat) (e : Nat × Instr) : List Window :=
  match e.2 with
  | .fill f | .fillm f | .spill f => c.windows f.chan.toNat 400 ((t.copyWords f + 15) / 16) die grp T e.1
  | .fillx f => c.windows f.chan.toNat 400 1 die grp T e.1
  | .hatom f =>
    c.windows f.chan.toNat 400 1 die grp T e.1 ++ (if f.aop.getLsbD 3 then c.windows f.chan.toNat 800 1 die grp T e.1 else [])
  | _ => []

/-- The windows of a send by a plan, with the slices at which its words arrive. -/
def sendWindows (pl : Plan) (ws : List Window) : List Window := ws.map fun w => { w with out := some (pl.dest w.s, pl.latency) }

/-- The outer-trellis windows of a C syllable, under its plan (R316). -/
def Core.planWindows (c : Core) (cx : Context) (die grp T : Nat) (e : Nat × Instr) : List Window :=
  match cxForm? e.2 with
  | some f =>
    let ws := c.windows f.plan.toNat 0 (f.words.toNat + 1) die grp T e.1
    match e.2, cx.plan? f.plan.toNat with
    | .xsend _, some pl => sendWindows pl ws
    | _, _ => ws
  | none => []

/-- Whether two windows share a cycle. -/
def Window.meets (a b : Window) : Bool := decide (a.lo ≤ b.hi ∧ b.lo ≤ a.hi)

/-- Conflicts of new windows with earlier ones and with one another, by a rule. -/
def windowConflicts (rule : Window → Window → Option Conflict) : List Window → List Window → List Conflict
  | _, [] => []
  | old, w :: r => old.filterMap (rule w) ++ windowConflicts rule (old ++ [w]) r

/-- The channel rule (R203): cause 0x09; of two windows of one bundle TSLICE names the lower slice (R194). Windows of different bundles
collide only where one of them lies in a slice of both groups (R281; log entry 101). -/
def Core.chanRule (c : Core) (w v : Window) : Option Conflict :=
  if w.chan == v.chan && w.die == v.die && w.meets v && (w.T == v.T || c.member w.grp v.s || c.member v.grp w.s) then
    some (9, if v.T = w.T then min w.s v.s else w.s, max w.lo v.lo, w.chan + max w.lo v.lo % 2 ^ 48 * 2 ^ 16, max w.slot (if v.T = w.T then v.slot else 0))
  else none

/-- The plan rule (R316): cause 0x0B, over the whole partition; TVAL names the earlier plan, then the later. -/
def planRule (w v : Window) : Option Conflict :=
  if w.chan != v.chan && w.meets v then
    some (0xB, w.s, max w.lo v.lo, v.chan + w.chan * 256, max w.slot (if v.T = w.T && v.die = w.die then v.slot else 0))
  else none

/-- The order in which conflicts are named: cause, slice, cycle. -/
def conflictBefore (a b : Conflict) : Bool :=
  decide (a.1 < b.1) || (a.1 == b.1 && (decide (a.2.1 < b.2.1) || (a.2.1 == b.2.1 && decide (a.2.2.1 < b.2.2.1))))

/-- The first conflict of each cause. -/
def firstConflicts (l : List Conflict) : List Conflict :=
  ([7, 8, 9, 0xB].map fun k =>
    match sortBy conflictBefore (l.filter fun e => e.1 == k) with
    | e :: _ => [e]
    | [] => []).flatten

/-- Drops uses that lie wholly in the past of every column. -/
def Core.pruneUses (c : Core) : Core :=
  let now := c.acc.toNat
  { c with ports := c.ports.filter fun u => decide (u.hi + 128 ≥ now)
           chans := c.chans.filter fun w => decide (w.hi ≥ now)
           plans := c.plans.filter fun w => decide (w.hi + (if w.out.isSome then 136 else 0) ≥ now) }

/-- Enters the uses of a bundle's slice syllables and answers the conflicts they make (R194, R203, R316). -/
def Core.enterUses (c : Core) (cx : Context) (t : Tables) (die grp T : Nat) (syl : List (Nat × Instr)) : List Conflict × Core :=
  let ports := portUses t die grp T syl
  let chans := (syl.map (c.chanWindows t die grp T)).flatten
  let plans := (syl.map (c.planWindows cx die grp T)).flatten
  let hits := (ports.map fun u => (c.ports ++ ports).filterMap (c.portConflict u)).flatten
    ++ windowConflicts c.chanRule c.chans chans ++ windowConflicts planRule c.plans plans
  (firstConflicts hits, { c with ports := c.ports ++ ports, chans := c.chans ++ chans, plans := c.plans ++ plans })

end Sys2Proof.Machine
end

