-- ==== Sys2Proof/Machine/Log.lean ====
section
/-!
DEFINITION. The log of record mode (R342 to R348): which syllables have an adjoint and are logged, the log places that a bundle
takes at T, the record, and the operands saved as the forward syllable samples them.
-/
namespace Sys2Proof.Machine

/-- Latency of a V form for its resolved type (R37). -/
def vLatency (i : Instr) (ty : Nat) : Nat :=
  match i with
  | .vadd _ | .vsub _ | .vmul _ | .vfma _ | .vmin _ | .vmax _ | .vabs _ | .vneg _ | .vcmp _ => if isF ty then 4 else 2
  | .vround _ | .gadd _ | .gsub _ | .gscl _ | .gofs _ | .gcol _ | .gmake _ => 4
  | .vexp _ | .vlog _ | .vrcp _ | .vrsq _ | .vsqrt _ | .vtanh _ | .vsig _ => 10
  | .vcvt _ => 3
  | .vpack _ | .vunpk _ => 5
  | .vmov _ | .vsplat _ | .kop _ => 1
  | .vscan _ | .vred _ | .vcompact _ | .vcount _ | .gmul _ => 6
  | .vroute _ => 12
  | .grelu _ | .gexp _ | .gsig _ | .gsqr _ => 14
  | .vnop _ => 0
  | _ => 2

/-- The last result cycle after X of the slice writes of a syllable (R37), for the mode-order rule of R337. -/
def sliceReach (t : Tables) (i : Instr) : Nat :=
  let nothing (dst : BitVec 7) : Bool := dst == 0x3A || dst == 0x58
  match vForm? i with
  | some f => if nothing f.dst then 0 else vLatency i (t.typeOf f.ty f.fs)
  | none =>
    match i with
    | .ldr _ => 4
    | .str f => if f.bmask = 0 then 0 else 4
    | .rmw _ => 3
    | .fill f | .fillm f => ((copyMasked f (t.copyWords f)).getLast?.map fun k => 401 + k / 16).getD 0
    | .fillx f => if (copyMasked f 16).isEmpty then 0 else 401
    | .hatom f => if f.aop.getLsbD 3 && (List.range 8).any f.bmask.getLsbD then 801 else 0
    | .xrecv f => if nothing f.spec then f.words.toNat + 1 else 16 * (f.words.toNat / 16 + 1)
    | .recvadd f => f.words.toNat + 1
    | .mdrn f => if nothing f.dst then 0 else 2 + f.rows.toNat
    | .mout f => if nothing f.dst then 0 else 4 + f.rows.toNat
    | _ => (mWrites true i).foldl (fun a e => max a e.2.2) 0

/-- The last result cycle, at column 0, of a bundle's slice writes. -/
def bundleReach (t : Tables) (T : Nat) (syl : List (Nat × Instr)) : Nat :=
  syl.foldl (fun a e =>
    let shift := if e.1 = 3 then (match latchRanks t syl with | some r => 400 + r | none => 0) else 0
    max a (if sliceReach t e.2 = 0 then 0 else T + 2 + shift + sliceReach t e.2)) 0

/-! ### Which syllables have an adjoint (R179, R180, R225 to R227, R318, R351) -/

/-- Whether a form with its resolved types has an adjoint. -/
def hasAdjoint (c : Context) (i : Instr) (ty src : Nat) : Bool :=
  match i with
  | .vadd _ | .vsub _ | .vmul _ | .vfma _ | .vmin _ | .vmax _ | .vabs _ | .vneg _ | .vrelu _ | .vexp _ | .vlog _ | .vrcp _
  | .vsqrt _ | .vrsq _ | .vtanh _ | .vsig _ | .vsel _ | .vsplat _ | .vrot _ => isF ty
  | .vcvt _ => isF ty && isF src
  | .vmov _ => isF ty || ty == 12
  | .vpack _ | .vunpk _ | .gadd _ | .gsub _ | .gmul _ | .gscl _ | .gofs _ | .grelu _ | .gexp _ | .gsig _ | .gsqr _ | .gcol _
  | .gmake _ => true
  | .mma _ | .mmaz _ | .mmas _ | .mmap _ | .mout _ | .mbyp _ => !(isI ty || isN ty)
  | .mfill _ | .mdrn _ | .mldb _ | .mmg _ | .mmg2 _ | .mzero _ => true
  | .ldr _ | .str _ | .rmw _ | .fill _ | .fillm _ | .spill _ | .fillx _ | .hatom _ => true
  | .xsend f | .xrecv f | .recvadd f => ((c.plan? f.plan.toNat).bind Plan.inv).isSome
  | _ => false

/-- Operands that pass no adjoint: streams, xs, masks, solver and metadata registers (R344). -/
def noAdjointSpec (c : Nat) : Bool := specStream c || c == 0x3B || specK c || specZ c || specD c

/-- The operand specifiers of a syllable; the offset of a shaped copy may be xs (R345 gives its ADDR). -/
def operandSpecs (i : Instr) : List Nat :=
  match vForm? i with
  | some f => [f.a.toNat, f.b.toNat, f.c.toNat, f.dst.toNat]
  | none =>
    match mForm i with
    | some (_, f) => [f.a.toNat, f.b.toNat, f.acc.toNat, f.dst.toNat]
    | none =>
      match i with
      | .ldr f | .str f => [f.spec.toNat]
      | .rmw f => [f.spec.toNat, f.spec2.toNat]
      | .fill f | .fillm f | .spill f => if f.spec = 0x3B then [] else [f.spec.toNat]
      | .fillx f | .hatom f => [f.spec.toNat]
      | .xsend f | .xrecv f => [f.spec.toNat]
      | _ => []

/-- Which of A and B the adjoint of a V form needs the value of (R179, R226). -/
def vNeeds (i : Instr) : Bool × Bool :=
  match i with
  | .vmul _ | .vfma _ | .vmin _ | .vmax _ | .gmul _ | .gscl _ => (true, true)
  | .vabs _ | .vrelu _ | .vexp _ | .vlog _ | .vrcp _ | .vsqrt _ | .vrsq _ | .vtanh _ | .vsig _ | .grelu _ | .gexp _ | .gsig _
  | .gsqr _ => (true, false)
  | .vrot _ => (false, true)
  | .gcol f => (decide (f.imm.toNat ≥ 2), f.imm == 3)
  | _ => (false, false)

/-- Whether REVERSE can take a value from the register named in the syllable (R348). -/
def adjointSupplies (c : Nat) : Bool := specM c || specT c || specA c || c == 0x3A

/-- Whether an adjoint needs a value that neither the saved data nor a register can supply (R344, R348). -/
def lacksOperand (i : Instr) (keep : Nat) : Bool :=
  match vForm? i with
  | some f =>
    let n := vNeeds i
    (n.1 && decide (keep < 2) && !adjointSupplies f.a.toNat) || (n.2 && decide (keep < 3) && !adjointSupplies f.b.toNat)
  | none =>
    match i with
    | .mma _ | .mmaz _ | .mmas _ | .mmap _ | .mmg _ => decide (keep < 3)
    | .mmg2 f => decide (keep < 2) && !adjointSupplies f.a.toNat
    | _ => false

/-- The KEEP field of a slice syllable. -/
def keepOf (i : Instr) : Nat :=
  match vForm? i with
  | some f => f.keep.toNat
  | none =>
    match mForm i with
    | some (_, f) => f.keep.toNat
    | none =>
      match i with
      | .ldr f | .str f | .rmw f => f.keep.toNat
      | .fill f | .fillm f | .spill f | .fillx f | .hatom f => f.keep.toNat
      | .xsend f | .xrecv f | .recvadd f => f.keep.toNat
      | _ => 0

/-- The bank words that a C syllable writes in every member slice, from the tables at T. -/
def cWriteKeys (t : Tables) (i : Instr) : List Nat :=
  let cb (f : CB) : List Nat := (maskBanks f.bmask).map fun b => wordKey b (t.bankLine f.it.toNat f.skew.toNat b f.loff.toInt)
  let cf (f : CF) (n : Nat) : List Nat :=
    (copyMasked f n).map fun k => wordKey (k % 16) (t.bankLine f.it.toNat f.skew.toNat (k % 16) (k / 16 : Nat))
  let cx (f : CX) : List Nat :=
    (List.range (f.words.toNat + 1)).map fun k => wordKey (k % 16) (t.bankLine f.it.toNat 0 (k % 16) (k / 16 : Nat))
  match i with
  | .str f | .rmw f => cb f
  | .fill f | .fillm f => cf f (t.copyWords f)
  | .fillx f => cf f 16
  | .hatom f =>
    if f.aop.getLsbD 3 then
      ((List.range 8).filter fun j => f.bmask.getLsbD j).map fun j =>
        wordKey (2 * j + 1) (t.bankLine f.it.toNat f.skew.toNat (2 * j + 1) 0)
    else []
  | .xrecv f | .recvadd f => cx f
  | _ => []

/-- KEEP as it counts under RECORD (R342, R344): a C syllable that writes a bank region is logged as KEEP = 01. -/
def recordedKeep (t : Tables) (i : Instr) : Nat :=
  if t.amode ≠ 1 then 0
  else if keepOf i ≠ 0 then keepOf i
  else if (cWriteKeys t i).any t.taped then 1 else 0

/-- The resolved type and, for VCVT, the source type of a syllable. -/
def resolvedTypes (t : Tables) (i : Instr) : Nat × Nat :=
  match vForm? i with
  | some f =>
    let src := f.imm.toNat % 16
    (if vTakesType i then t.typeOf f.ty f.fs else 0, if src = 15 then entryType (t.entry 15 f.fs.toNat) else src)
  | none =>
    match mForm i with
    | some (_, f) => (if mTakesType i then t.typeOf f.ty f.fs else 0, 0)
    | none => (0, 0)

/-- Whether a logged syllable traps for want of an adjoint (R344): cause 0x16. RT and WT in solver mode count for LDR and
STR. -/
def noAdjoint (c : Context) (t : Tables) (rt wt : Option Trel) (i : Instr) : Bool :=
  let ty := resolvedTypes t i
  let solver := match i with
    | .ldr _ => rt.any fun x => x.mode == 1
    | .str _ => wt.any fun x => x.mode == 1
    | _ => false
  !hasAdjoint c i ty.1 ty.2 || (operandSpecs i).any noAdjointSpec || solver || lacksOperand i (recordedKeep t i)

/-! ### Log places (R343, R346) -/

/-- Ranks per slice of the A, B and mask blocks of a syllable (R346). -/
def savedRanks (i : Instr) (keep : Nat) : Nat × Nat × Nat :=
  let a := if keep ≥ 2 then 1 else 0
  let b := if keep = 3 then 1 else 0
  match vForm? i with
  | some f => (a * (if specM f.a.toNat then 2 else 1), b * (if specM f.b.toNat then 2 else 1), if f.mask = 0 then 0 else 1)
  | none =>
    match i with
    | .mma f | .mmaz f | .mmas f | .mmap f | .mmg f => (a * (f.rows.toNat + 1), b * 32, 0)
    | .mmg2 f => (a * (f.rows.toNat + 1), b * 64, 0)
    | .fillx _ => (a, 0, 0)
    | _ => (0, 0, 0)

/-- Bytes of the saved data of a record. -/
def savedBytes (r : Nat × Nat × Nat) : Nat := 32768 * (r.1 + r.2.1 + r.2.2)

/-- The syllables of a bundle that are logged, with their KEEP, in slot order. -/
def loggedSyllables (t : Tables) (syl : List (Nat × Instr)) : List (Nat × Instr × Nat) :=
  syl.filterMap fun e => if recordedKeep t e.2 = 0 then none else some (e.1, e.2, recordedKeep t e.2)

/-- The log places of logged syllables from an offset on: slot, data offset, KEEP; and the offset after them. -/
def logPlaces : Nat → List (Nat × Instr × Nat) → List (Nat × Nat × Nat) × Nat
  | off, [] => ([], off)
  | off, (slot, i, keep) :: r =>
    let (l, e) := logPlaces (off + savedBytes (savedRanks i keep) + 32) r
    ((slot, off, keep) :: l, e)

/-- What a logging bundle does at T (R343): the handle and room checks, charged to its first logged slot (R428), its log places,
and LOGPTR. -/
def State.logIssue (s : State) (syl : List (Nat × Instr)) : State :=
  match loggedSyllables s.tab syl with
  | [] => s
  | first :: rest =>
    let logged := first :: rest
    let n := (s.die.logbase >>> 60).toNat
    let h : Handle := SMap.get {} s.tab.handles n
    let ptr := s.die.logptr.toNat
    let (places, stop) := logPlaces ptr logged
    let s0 : State := { s with cur := { s.cur with slot := first.1 } }
    let s1 := s0.trapTWhen (!h.v) 0x0D (n + ptr * 256)
    let s2 := s1.trapTWhen (h.v && !h.w) 0x0F (n + ptr * 256)
    let s3 := s2.trapTWhen (h.v && decide (s.die.loglim.toNat > 2 ^ pageBits h.size)) 0x0E (n + 2 ^ pageBits h.size * 256)
    let s4 := s3.trapTWhen (decide (stop > s.die.loglim.toNat)) 0x17 (stop - ptr)
    let s5 := ({ s4 with cur := { s.cur with slot := 0 } } : State).oweTab (.csr 0x33 (dw stop) s.T)
    { s5 with cur := { s.cur with fl := { s.cur.fl with logs := places, logPa := h.frame.toNat } } }

/-! ### The record (R345) -/

/-- An entry in the layout of R60. -/
def packEntry (ty scale rm : Nat) : Nat := packLe [(4, ty), (8, scale), (3, rm)]

/-- FMT of a record: the resolved entry, with the mode in force. -/
def recordFmt (t : Tables) (i : Instr) : Nat :=
  let form : Nat × Nat × Nat := match vForm? i with
    | some f => (f.ty.toNat, f.fs.toNat, f.rm.toNat)
    | none => match mForm i with
      | some (_, f) => (f.ty.toNat, f.fs.toNat, 0)
      | none => (0, 0, 0)
  let e := if form.1 = 15 then t.entry 15 form.2.1 else form.1
  let src := match i with | .vcvt f => if f.imm.toNat % 16 = 15 then entryRm (t.entry 15 f.fs.toNat) else 0 | _ => 0
  let rule2 := if entryRm e ≠ 0 then entryRm e else src
  packEntry (entryType e) (bitsOf e 4 8) (if form.2.2 ≠ 0 then form.2.2 else if rule2 ≠ 0 then rule2 else t.rmode.toNat + 1)

/-- ADDR of a record (R345). -/
def Flight.recordAddr (fl : Flight) (i : Instr) : Nat :=
  let lit (x : Option Trel) : Nat := match x with | some f => if f.mode = 0 then f.sw.toNat else 0 | none => 0
  let h (n : BitVec 4) : Handle := SMap.get {} fl.tab.handles n.toNat
  match i with
  | .fill f | .fillm f | .spill f => ((h f.h).vbase.toNat + (if f.spec = 0x3B then fl.xs.toNat % 2 ^ 32 else 0)) % 2 ^ 64
  | .fillx f | .hatom f => (h f.h).vbase.toNat
  | .ldr _ => lit fl.rt
  | .str _ => lit fl.wt
  | _ => 0

/-- LINE of a record: line(it) of a C syllable's iterator. -/
def recordLine (t : Tables) (i : Instr) : Nat :=
  match cbForm? i with
  | some f => t.line f.it.toNat
  | none =>
    match cfForm? i with
    | some f => t.line f.it.toNat
    | none => match cxForm? i with | some f => t.line f.it.toNat | none => 0

/-- The log record of a syllable (R345). -/
def Flight.record (fl : Flight) (slot : Nat) (i : Instr) (data : Nat) : Nat :=
  let t := fl.tab
  let pass := match t.innermost with | some l => (t.level l).index % 2 ^ 16 | none => 0
  let fmt2 := match i with
    | .vcvt f => let s := f.imm.toNat % 16
                 if s = 15 then t.entry 15 f.fs.toNat else s
    | _ => 0
  let last := !((List.range 8).any fun n => decide (n > slot) && fl.present.getLsbD (7 - n))
  packLe [(63, (encode i).toNat), (1, b2n last), (16, recordFmt t i), (8, fl.grp), (3, slot - 1), (2, t.cov.toNat % 4), (3, 0),
    (13, recordLine t i), (3, 0), (16, pass), (64, fl.recordAddr i), (42, data), (15, fmt2)]

/-- Owes the log records of a bundle and, with them, the zero ranks of the slices outside its group (R343, R346, R430). -/
def State.formLog (s : State) (fl : Flight) : State :=
  let s0 : State := { s with cur := { s.cur with d := fl.die, fl := fl, slot := 0 } }
  fl.logs.foldl (fun st l =>
    match (fl.syl.find? fun e => e.1 == l.1).map Prod.snd with
    | none => st
    | some i =>
      let n := savedRanks i l.2.2
      let rec_ := l.2.1 + savedBytes n
      let st := st.owe (fl.T + 400) (.log (fl.logPa + rec_) (leBytes 32 (fl.record l.1 i l.2.1)))
      let out := (List.range 512).filter fun k => !st.here.member fl.grp (512 * fl.die + k)
      (List.range (n.1 + n.2.1 + n.2.2)).foldl (fun st j =>
        out.foldl (fun st k =>
          st.owe (fl.T + 400) (.log (fl.logPa + l.2.1 + 64 * (512 * j + k)) (leBytes 64 0))) st) st) s0

/-! ### Saved operands (R346) -/

/-- The M syllable of an opcode. -/
def mInstr (op : Nat) (f : MF) : Instr :=
  match op with
  | 0x01 => .mfill f
  | 0x02 => .mdrn f
  | 0x03 => .mldb f
  | 0x04 => .mldmd f
  | 0x05 => .mma f
  | 0x06 => .mmaz f
  | 0x07 => .mmas f
  | 0x08 => .mmap f
  | 0x09 => .mmg f
  | 0x0A => .mmg2 f
  | 0x0B => .mout f
  | 0x0C => .mbyp f
  | 0x0D => .mzero f
  | _ => .mnop f

/-- The rank a specifier supplies without popping: `skip` ranks of a queue are already gone. -/
def State.lookRank (s : State) (c cyc skip : Nat) : Nat :=
  if specQ c then ((SMap.get [] s.slice.q c).getD skip 0).toNat else (s.plainRank c cyc).toNat

/-- A moment register as ranks of pairs 0 to 7 and 8 to 15, another operand as one rank. -/
def State.lookOperand (s : State) (c cyc skip : Nat) : List Nat :=
  if specM c then [bitsOf (s.mreg (c - 0x30)) 0 512, bitsOf (s.mreg (c - 0x30)) 512 512] else [s.lookRank c cyc skip]

/-- What the step about to run samples of the operands its record saves: block (0 A, 1 B, 2 mask), rank number, rank. -/
def State.sampled (s : State) (i : Instr) (keep : Nat) : List (Nat × Nat × Nat) :=
  let number (blk first : Nat) (l : List Nat) : List (Nat × Nat × Nat) := (l.zipIdx first).map fun e => (blk, e.2, e.1)
  let r := s.cur.row
  match vForm? i with
  | some f =>
    let skip := if f.a = f.b && specQ f.a.toNat && !f.pk.getLsbD 2 then 1 else 0
    (if keep ≥ 2 then number 0 0 (s.lookOperand f.a.toNat s.X 0) else [])
      ++ (if keep = 3 then number 1 0 (s.lookOperand f.b.toNat s.X skip) else [])
      ++ (if f.mask = 0 then [] else [(2, 0, (s.slice.mask f.mask.toNat).toNat)])
  | none =>
    let product (f : MF) : List (Nat × Nat × Nat) :=
      let row := if f.imm.getLsbD 3 then (SMap.get (0 : Rank) s.slice.byp (s.mrow f)).toNat
        else if specT f.a.toNat then (s.slice.tileRow (f.a.toNat - 0x40) (s.mrow f)).toNat % 2 ^ 512
        else if specM f.a.toNat then bitsOf (s.mreg (f.a.toNat - 0x30)) (512 * r) 512
        else s.lookRank f.a.toNat s.mcyc 0
      if keep ≥ 2 then [(0, r, row)] else []
    match i with
    | .mma f | .mmaz f | .mmas f | .mmap f | .mmg f =>
      product f ++ (if keep = 3 && r = 0 then number 1 0 ((List.range 32).map fun j => s.slice.b.col j % 2 ^ 512) else [])
    | .mmg2 f =>
      let t := f.b.toNat - 0x40
      product f ++ (if keep = 3 && r = 0 then
        number 1 0 ((List.range 64).map fun j => (s.slice.tileRow (t + j / 32) (j % 32)).toNat % 2 ^ 512) else [])
    | .fillx f => if keep ≥ 2 && r = 0 then [(0, 0, s.lookRank f.spec.toNat s.X 0)] else []
    | _ => []

/-- Owes the operands that the record of the running syllable saves, as the step about to run samples them (R346). -/
def State.saveOperands (s : State) (i : Instr) : State :=
  match s.cur.fl.logs.find? fun l => l.1 == s.cur.slot with
  | none => s
  | some (_, off, keep) =>
    let j := match i with | .fillmLatchExecute m op => mInstr op m | x => x
    let n := savedRanks j keep
    (s.sampled j keep).foldl (fun st e =>
      let first := if e.1 = 0 then 0 else if e.1 = 1 then n.1 else n.1 + n.2.1
      st.owe (s.X + s.cur.row + 400)
        (.log (s.cur.fl.logPa + off + 64 * (512 * (first + e.2.1) + s.cur.s % 512)) (leBytes 64 e.2.2))) s

/-- Bytes of a die's log, with the writes that have not performed yet; the later write counts (R343). -/
def State.logRead (s : State) (cid d pa n : Nat) : Nat :=
  let os := (s.core cid).owed.filterMap fun o =>
    match o.dest with
    | .log a bs => if o.die == d && decide (a < pa + n) && decide (pa < a + bs.length) then some (o.id, a, bs) else none
    | _ => none
  let late := (sortBy (fun a b => decide (a.1 > b.1)) os)
  ofLeBytes ((List.range n).map fun i =>
    match late.find? fun o => decide (o.2.1 ≤ pa + i ∧ pa + i < o.2.1 + o.2.2.length) with
    | some o => o.2.2.getD (pa + i - o.2.1) 0
    | none => s.hbmByte (pa + i))

end Sys2Proof.Machine
end

