-- ==== Sys2Proof/Machine/AdjFile.lean ====
section
/-!
DEFINITION. The adjoint file (R349) and its arithmetic (R353, R424): every step is an F32 operation rounded to nearest even,
no input is flushed, F32FR applies to results.
-/
namespace Sys2Proof.Machine

/-! ### Steps (R353) -/

/-- What the adjoint of one record carries in one slice: the file, a queue whose FIFO was full, the flags raised (bit 5 for a
result that is not finite), and F32FR. -/
structure AdjRun where
  file : AdjFile
  full : Option Nat := none
  flags : Nat := 0
  fr : Bool := false
  deriving DecidableEq, Repr

/-- A computation of adjoints. -/
abbrev Adj (α : Type) := StateM AdjRun α

/-- Runs a flagged computation with F32FR; its flags are raised. -/
def adjFlagged (f : Bool → Flagged Nat) : Adj Nat := do
  let r ← get
  let (v, fl) := (f r.fr).run 0
  set { r with flags := r.flags ||| fl ||| (if nonFinite32 v then 32 else 0) }
  return v

/-- A number rounded to F32. -/
def adjRound (x : Flagged Num) : Adj Nat := adjFlagged fun fr => do f32.round 1 fr (← x)
/-- One F32 add. -/
def adjAdd (a b : Nat) : Adj Nat := adjRound (numAdd false (rd32 a) (rd32 b))
/-- One product with an exact operand value. -/
def adjMul (a : Nat) (y : Num) : Adj Nat := adjRound (numMul (rd32 a) y)
/-- One negation: a computed step like every other (R42, R46). -/
def adjNeg (a : Nat) : Adj Nat := adjRound (return (rd32 a).neg)
/-- A sum in order, begun with its first term; +0 when there is none. -/
def adjSum : List Nat → Adj Nat
  | [] => return 0
  | x :: r => r.foldlM adjAdd x

/-! ### Element positions (R424) -/

/-- An adjoint: its format, and one F32 word for each element position that contributes. -/
abbrev AdjVec := Nat × List (Option Nat)

/-- The adjoint format of a type code: a BQ type as it is, else an element width; 32 for the halves of MP32. -/
def adjFmt (ty : Nat) : Nat := if 9 ≤ ty ∧ ty ≤ 11 then ty else if ty = 12 then 32 else typeWidth ty
/-- Whether a format is a BQ type. -/
def adjIsBq (g : Nat) : Bool := decide (9 ≤ g ∧ g ≤ 11)
/-- Element width of a format. -/
def adjWidth (g : Nat) : Nat := if adjIsBq g then bqM g + 1 else g
/-- Lowest bit of element i. -/
def adjPos (g i : Nat) : Nat := if adjIsBq g then 8 * bqBytes g * (i / 16) + 16 + (bqM g + 1) * (i % 16) else g * i
/-- Elements in a unit of `bits` bits. -/
def adjCount (g bits : Nat) : Nat := if adjIsBq g then 16 * bqBlocks g else bits / g

/-- The elements of one format that an element of another covers: those that begin in it. -/
def adjCovers (wide narrow n i : Nat) : List Nat :=
  (List.range n).filter fun j => decide (adjPos wide i ≤ adjPos narrow j ∧ adjPos narrow j < adjPos wide i + adjWidth wide)

/-- Converts between formats of different widths, in a unit of `bits` bits (R424). -/
def adjConvertStep (g h bits : Nat) (xs : List (Option Nat)) : Adj (List (Option Nat)) :=
  let n := adjCount g bits
  let m := adjCount h bits
  if adjWidth h > adjWidth g then
    (List.range m).mapM fun i => do
      let l := (adjCovers h g n i).filterMap fun j => xs.getD j none
      if l.isEmpty then return none
      return some (← adjSum l)
  else
    let placed : List (Nat × Nat) := ((List.range n).map fun i =>
      match xs.getD i none with
      | some x =>
        let l := adjCovers g h m i
        l.map fun j => (j, if l.getLast? = some j then x else 0)
      | none => []).flatten
    return (List.range m).map fun j => (placed.find? fun e => e.1 == j).map Prod.snd

/-- Converts an adjoint to a format (R424); BQ types meet one another, and widths equal to theirs, in F32 (log entry 49). -/
def adjConvert (h bits : Nat) (v : AdjVec) : Adj (List (Option Nat)) :=
  if v.1 = h then return (List.range (adjCount h bits)).map fun i => v.2.getD i none
  else if adjIsBq v.1 && adjIsBq h || adjWidth v.1 == adjWidth h then do
    adjConvertStep 32 h bits (← adjConvertStep v.1 32 bits v.2)
  else adjConvertStep v.1 h bits v.2

/-- An adjoint as it is stored. -/
def adjStored (v : Nat × List Word) : AdjVec := (v.1, v.2.map fun w => some w.toNat)

/-- Adds a contribution into an entry that holds an adjoint: the entry keeps its width. -/
def adjInto (bits : Nat) (old : Nat × List Word) (v : AdjVec) : Adj (Nat × List Word) := do
  let c ← adjConvert old.1 bits v
  let l ← (old.2.zipIdx).mapM fun e => match c.getD e.2 none with
    | some x => do return BitVec.ofNat 32 (← adjAdd e.1.toNat x)
    | none => return e.1
  return (old.1, l)

/-! ### Cells and FIFOs (R349) -/

/-- Reads cells in a format, as a list of words; empty cells read +0. -/
def adjLook (key g bits : Nat) : Adj (List Nat) := do
  let r ← get
  match SMap.get (0, []) r.file.regs key with
  | (_, []) => return List.replicate (adjCount g bits) 0
  | e => return (← adjConvert g bits (adjStored e)).map fun x => x.getD 0

/-- Clears cells. -/
def adjClear (key : Nat) : Adj Unit := modify fun r => { r with file := { r.file with regs := SMap.erase r.file.regs key } }

/-- Reads cells and clears them. -/
def adjTake (key g bits : Nat) : Adj (List Nat) := do
  let l ← adjLook key g bits
  adjClear key
  return l

/-- Reads elements of cells in a format and clears just those; the entry is empty once all of it is clear. -/
def adjTakePart (key g bits n : Nat) : Adj (List Nat) := do
  let l ← adjLook key g bits
  let r ← get
  let e := SMap.get (0, []) r.file.regs key
  let last := adjPos g (n - 1) + adjWidth g
  let kept := (e.2.zipIdx).map fun x => if adjPos e.1 x.2 < last then (0 : Word) else x.1
  if n = 0 then return []
  set { r with file := { r.file with
    regs := if kept.all (· == 0) then SMap.erase r.file.regs key else SMap.put r.file.regs key (e.1, kept) } }
  return l.take n

/-- Adds a contribution into cells; cells that are empty take its width. -/
def adjAddTo (key bits : Nat) (v : AdjVec) : Adj Unit := do
  let r ← get
  let old := match SMap.get (0, []) r.file.regs key with
    | (_, []) => (v.1, List.replicate (adjCount v.1 bits) (0 : Word))
    | e => e
  let new ← adjInto bits old v
  modify fun r => { r with file := { r.file with regs := SMap.put r.file.regs key new } }

/-- The entries of a FIFO. -/
def AdjFile.queue (f : AdjFile) (q : Nat) : List (Nat × List Word) := SMap.get [] f.fifo q
/-- Replaces a FIFO. -/
def AdjFile.setQueue (f : AdjFile) (q : Nat) (l : List (Nat × List Word)) : AdjFile := { f with fifo := SMap.set [] f.fifo q l }

/-- Pops an adjoint FIFO in a format; an empty one gives a zero rank. -/
def adjPop (q g : Nat) : Adj (List Nat) := do
  let r ← get
  match r.file.queue q with
  | [] => return List.replicate (adjCount g 512) 0
  | e :: rest =>
    set { r with file := r.file.setQueue q rest }
    return (← adjConvert g 512 (adjStored e)).map fun x => x.getD 0

/-- Pushes a contribution; a push onto 4 entries is noted. A contribution that is d itself was moved, not computed, so that pushing it sets no
flag (R46; log entry 88). -/
def adjPush (q : Nat) (v : AdjVec) : Adj Unit :=
  modify fun r =>
    let l := r.file.queue q
    if l.length ≥ 4 then { r with full := some (r.full.getD q) }
    else
      let e := (v.1, (List.range (adjCount v.1 512)).map fun i => BitVec.ofNat 32 ((v.2.getD i none).getD 0))
      { r with file := r.file.setQueue q (l ++ [e]) }

/-- Adds a contribution into the tail entry of a FIFO; an empty one takes a new entry. -/
def adjTail (q : Nat) (v : AdjVec) : Adj Unit := do
  let r ← get
  match (r.file.queue q).reverse with
  | [] => adjPush q v
  | e :: rest => do
    let new ← adjInto 512 e v
    modify fun r => { r with file := r.file.setQueue q (rest.reverse ++ [new]) }

/-- The key of a register cell that a specifier names, with its bits. -/
def adjKey (c : Nat) : Option (Nat × Nat) :=
  if c = 0x39 then some (776, 512) else if c = 0x38 then some (777, 512) else if specM c then some (768 + (c - 0x30), 1024) else none

/-- Takes the adjoint of a destination (R349). -/
def adjDst (c g : Nat) : Adj (List Nat) :=
  if specQ c then adjPop c g
  else match adjKey c with
    | some (k, bits) => adjTake k g bits
    | none => return List.replicate (adjCount g 512) 0

/-- Gives a source its contribution (R349). -/
def adjSrc (c : Nat) (peek : Bool) (v : AdjVec) : Adj Unit :=
  if specQ c then (if peek then adjTail c v else adjPush c v)
  else match adjKey c with
    | some (k, bits) => adjAddTo k bits v
    | none => return ()

/-- An integer operand takes a zero rank. -/
def adjZero (g : Nat) : AdjVec := (g, [])

/-- The cells of a tile row's half. -/
def adjTile (t row half : Nat) : Nat := 2 * (32 * t + row) + half
/-- The cells of an accumulator row. -/
def adjAcc (a plane row : Nat) : Nat := 512 + 64 * a + 32 * plane + row

/-- Runs adjoint steps on the running slice: the new file, the flags of cycle `cyc`, and cause 0x05 for a full FIFO. -/
def State.adjRun {α : Type} (s : State) (cyc : Nat) (m : Adj α) : α × State :=
  let (a, r) := m.run { file := s.slice.adj, fr := s.tab.flush.getLsbD 1 }
  let s1 := (s.onSlice fun sl => { sl with adj := r.file }).event (r.flags % 32) (r.flags / 32 % 2) cyc
  (a, match r.full with | some q => s1.trapS cyc 5 q | none => s1)

/-! ### The record (R345, R346) -/

/-- A log record as REVERSE takes it: its syllable, its bits, and the physical address of its log's first byte. -/
structure AdjRec where
  i : Instr
  r : Nat
  base : Nat
  deriving DecidableEq, Repr

/-- The resolved entry. -/
def AdjRec.fmt (x : AdjRec) : Nat := bitsOf x.r 64 16
/-- The resolved type. -/
def AdjRec.ty (x : AdjRec) : Nat := entryType x.fmt
/-- Offset of the saved data. -/
def AdjRec.data (x : AdjRec) : Nat := bitsOf x.r 192 42
/-- ADDR. -/
def AdjRec.addr (x : AdjRec) : Nat := bitsOf x.r 128 64
/-- LINE. -/
def AdjRec.line (x : AdjRec) : Nat := bitsOf x.r 96 13
/-- KEEP as it counted: a record with KEEP = 00 was forced (R342). -/
def AdjRec.keep (x : AdjRec) : Nat := max 1 (keepOf x.i)
/-- COV.MODE = 00. -/
def AdjRec.indep (x : AdjRec) : Bool := bitsOf x.r 91 2 == 0

/-- Rank j of a saved block (0 A, 1 B, 2 mask) for the running slice. -/
def State.savedRank (s : State) (x : AdjRec) (blk j : Nat) : Nat :=
  let n := savedRanks x.i x.keep
  let first := if blk = 0 then 0 else if blk = 1 then n.1 else n.1 + n.2.1
  s.logRead s.cur.cid s.cur.d (x.base + x.data + 64 * (512 * (first + j) + s.cur.s % 512)) 64

/-! ### Bank words of a record -/

/-- The bank line of bank b for the iterator line that a record holds (R345, R192). -/
def Tables.recLine (t : Tables) (line field b : Nat) (off : Int) : Nat := (((line : Int) + off + t.skew field b) % 8192).toNat

/-- The bank words that a record's syllable reads (LDR) or writes, by word number and key, in the order of R340. -/
def Tables.recWords (t : Tables) (x : AdjRec) : List (Nat × Nat) :=
  let cb (f : CB) : List (Nat × Nat) :=
    (maskBanks f.bmask).map fun b => (b, wordKey b (t.recLine x.line f.skew.toNat b f.loff.toInt))
  let cf (f : CF) (n : Nat) : List (Nat × Nat) :=
    (copyMasked f n).map fun k => (k, wordKey (k % 16) (t.recLine x.line f.skew.toNat (k % 16) (k / 16 : Nat)))
  let cx (f : CX) : List (Nat × Nat) :=
    (List.range (f.words.toNat + 1)).map fun k => (k, wordKey (k % 16) (t.recLine x.line 0 (k % 16) (k / 16 : Nat)))
  match x.i with
  | .ldr f | .str f | .rmw f => cb f
  | .fill f | .fillm f => cf f (t.copyWords f)
  | .fillx f => cf f 16
  | .hatom f =>
    if f.aop.getLsbD 3 then
      ((List.range 8).filter fun j => f.bmask.getLsbD j).map fun j =>
        (2 * j + 1, wordKey (2 * j + 1) (t.recLine x.line f.skew.toNat (2 * j + 1) 0))
    else []
  | .xrecv f | .recvadd f => cx f
  | _ => []

/-- The adjoint cell of a bank word, when a region covers it (R334). -/
def Tables.cellOf (t : Tables) (key : Nat) : Option Nat :=
  (t.bankRegion (key / 16)).map fun r => wordKey (key % 16) (((key / 16 : Nat) + drOffset r) % 8192).toNat

/-- The cycle, after X, in which word number k of a record has its turn: its rank for a copy, its own cycle for a receive. -/
def AdjRec.turn (x : AdjRec) (k : Nat) : Nat :=
  match x.i with
  | .fill _ | .fillm _ => k / 16
  | .xrecv _ | .recvadd _ => k
  | _ => 0

/-- The bank words that the adjoint of a record may write, each after its turn: the restored words, and the cells. -/
def Tables.recWrites (t : Tables) (x : AdjRec) : List (Nat × Nat) :=
  let ks := (t.recWords x).map fun e => (x.turn e.1, e.2)
  (match x.i with | .ldr _ => [] | _ => ks) ++ ks.filterMap fun e => (t.cellOf e.2).map fun c => (e.1, c)

/-- The tape entries of a record from TP downward: the record's written words, newest first, each meeting the entry on top of the
tape when that names it (R351). The answer lists word, key and address of each popped entry, and the new TP. -/
def Slice.tapePops (sl : Slice) (base tp : Nat) : List (Nat × Nat) → List (Nat × Nat × Nat) × Nat
  | [] => ([], tp)
  | (k, key) :: r =>
    if tp ≥ base + 8 ∧ (sl.word ((tp - 8) / 4 + 1)).toNat % 2 ^ 19 = 4 * key then
      let (l, e) := sl.tapePops base (tp - 8) r
      ((k, key, tp - 8) :: l, e)
    else sl.tapePops base tp r

end Sys2Proof.Machine
end

