-- ==== Sys2Proof/Machine/AdjForms.lean ====
section
/-!
DEFINITION. The adjoints of the vector, moment and matrix forms (R179, R180, R225 to R227), as they change the adjoint file of
one slice. Operand values are exact; operands are taken in the order DST, then C, B, A (R349).
-/
namespace Sys2Proof.Machine

/-! ### Element-wise vector forms (R179) -/

/-- The contributions of one result element to A, B and C. -/
abbrev AdjElem := Option Nat × Option Nat × Option Nat

/-- A forward transcendental recomputed for an element, as a number. -/
def adjValue (v : View) (op : ElemOp) (a : Nat) : Num := v.lay.decode false ((op v a 0 0).run 0).1

/-- An F32 algorithm on an exact value, as an adjoint step. -/
def adjAlg (alg : Nat → Flagged Nat) (x : Num) : Adj Nat := adjFlagged fun _ => do alg (← rne32 x)

/-- Whether VMIN or VMAX selected B (R164): ties and NaN results go to A. -/
def selectedB (isMax : Bool) (a b : Num) : Bool :=
  !a.isNan && !b.isNan && (if isMax then !minLe b a else !minLe a b)

/-- The forward square root, as a number. -/
def adjSqrt (v : View) (x : Num) : Num := v.lay.decode false ((do v.round (← numSqrt x) : Flagged Nat).run 0).1

/-- 1 - y·y. -/
def adjOneMinusSquare (y : Num) : Adj Nat := do
  let q ← adjRound (numMul y y)
  adjRound (numAdd false gOne (rd32 q).neg)

/-- One unmasked result element of a form that works element by element: d is its adjoint, a and b the operand elements. -/
def vAdjoint (i : Instr) (v : View) (d a b : Nat) : Adj AdjElem :=
  let x := v.num a
  let y := v.num b
  match i with
  | .vadd _ => return (some d, some d, none)
  | .vsub _ => do return (some d, some (← adjNeg d), none)
  | .vmul _ => do return (some (← adjMul d y), some (← adjMul d x), none)
  | .vfma _ => do return (some (← adjMul d y), some (← adjMul d x), some d)
  | .vmin _ => return if selectedB false x y then (none, some d, none) else (some d, none, none)
  | .vmax _ => return if selectedB true x y then (none, some d, none) else (some d, none, none)
  | .vabs _ => do return (some (← if bitAt a (v.w - 1) then adjNeg d else pure d), none, none)
  | .vneg _ => do return (some (← adjNeg d), none, none)
  | .vrelu _ => return (if !x.isNan && !x.sign && !x.isZero then some d else none, none, none)
  | .vexp _ => do return (some (← adjMul d (adjValue v (opTransc expAlg) a)), none, none)
  | .vlog _ => do return (some (← adjMul d (rd32 (← adjAlg rcpAlg x))), none, none)
  | .vrcp _ => do
    let r := adjValue v (opTransc rcpAlg) a
    return (some (← adjNeg (← adjMul (← adjMul d r) r)), none, none)
  | .vsqrt _ => do
    let h ← adjMul d (.fin false 1 (-1))
    return (some (← adjMul h (rd32 (← adjAlg rcpAlg (adjSqrt v x)))), none, none)
  | .vrsq _ => do
    let r := adjValue v (opTransc rsqAlg) a
    let h ← adjMul (← adjMul d (.fin true 1 (-1))) r
    return (some (← adjMul h (rd32 (← adjRound (numMul r r)))), none, none)
  | .vtanh _ => do
    return (some (← adjMul d (rd32 (← adjOneMinusSquare (adjValue v (opTransc tanhAlg) a)))), none, none)
  | .vsig _ => do
    let r := adjValue v (opTransc sigAlg) a
    let h ← adjMul d r
    return (some (← adjMul h (rd32 (← adjRound (numAdd false gOne r.neg)))), none, none)
  | _ => return (some d, none, none)

/-- Whether a V form has B, and C, as operands that take contributions. -/
def vOperands (i : Instr) : Bool × Bool :=
  match i with
  | .vadd _ | .vsub _ | .vmul _ | .vmin _ | .vmax _ | .vsel _ => (true, false)
  | .vfma _ => (true, true)
  | _ => (false, false)

/-- Gives C, B and A their contributions, each in its format. -/
def adjGive (f : VF) (a b c : Option AdjVec) : Adj Unit := do
  if let some x := c then adjSrc f.c.toNat (f.pk.getLsbD 0) x
  if let some x := b then adjSrc f.b.toNat (f.pk.getLsbD 1) x
  if let some x := a then adjSrc f.a.toNat (f.pk.getLsbD 2) x

/-- The V forms on F types (R179): `a` and `b` are the operand ranks, `src` the source type of a VCVT, `two` whether B of a VCVT
was read. -/
def vAdjointForm (i : Instr) (f : VF) (v : View) (src : Nat) (two : Bool) (a b : Nat) : Adj Unit := do
  let g := adjFmt v.ty
  let d ← adjDst f.dst.toNat g
  let on (k : Nat) : Bool := v.mask.getLsbD k
  let dk (k : Nat) : Nat := d.getD k 0
  match i with
  | .vsel _ =>
    let pick (sel : Bool) : AdjVec := (g, (List.range v.n).map fun k => if on k == sel then some (dk k) else none)
    adjGive f (some (pick true)) (some (pick false)) none
  | .vcvt _ =>
    let h := adjFmt src
    let ns := typeCount src
    let p := (f.imm.extractLsb' 4 2).toNat
    if ns < v.n then
      let inPart (k : Nat) : Bool := decide (p * ns ≤ k ∧ k < p * ns + ns)
      adjGive f (some (h, (List.range ns).map fun k => if on (p * ns + k) then some (dk (p * ns + k)) else none))
        (some (g, (List.range v.n).map fun k => if on k && !inPart k then some (dk k) else none)) none
    else
      let off := if ns = v.n then 0 else p * v.n
      adjGive f (some (h, (List.range ns).map fun k =>
          if off ≤ k ∧ k < off + v.n then (if on (k - off) then some (dk (k - off)) else none) else none))
        (if two then some (adjZero g) else none) none
  | .vpack _ =>
    let p := f.imm.toNat % 8
    adjGive f (some (32, (List.range 16).map fun k => if on k then some (dk (16 * p + k)) else none))
      (some (g, (List.range (adjCount g 512)).map fun k => if k / 16 = p then none else some (dk k))) none
  | .vsplat _ =>
    let s ← adjSum (((List.range v.n).filter on).map dk)
    adjGive f (some (g, (List.range v.n).map fun k => if k = f.imm.toNat then some s else none)) none none
  | .vrot _ =>
    let sh := (f.imm.toNat + b % 2 ^ 32) % v.n
    adjGive f (some (g, (List.range v.n).map fun k =>
        let j := (k + v.n - sh) % v.n
        if on j then some (dk j) else none)) (some (adjZero g)) none
  | _ =>
    let es ← (List.range v.n).mapM fun k =>
      if on k then vAdjoint i v (dk k) (elemAt v.w k a) (elemAt v.w k b) else return (none, none, none)
    adjGive f (some (g, es.map fun e => e.1)) (if (vOperands i).1 then some (g, es.map fun e => e.2.1) else none)
      (if (vOperands i).2 then some (g, es.map fun e => e.2.2) else none)

/-- VUNPK (R173, R179): the elements of block p of A. -/
def vunpkAdjoint (f : VF) (v : View) : Adj Unit := do
  let d ← adjDst f.dst.toNat 32
  let g := adjFmt v.ty
  adjGive f (some (g, (List.range (adjCount g 512)).map fun k =>
    if k / 16 = f.imm.toNat % 8 ∧ v.mask.getLsbD (k % 16) then some (d.getD (k % 16) 0) else none)) none none

/-- VMOV of a moment register (R174, R179): identity, pair by pair. -/
def vmovPairsAdjoint (f : VF) (mask : BitVec 128) : Adj Unit := do
  let d ← adjDst f.dst.toNat 32
  adjGive f (some (32, (List.range 32).map fun k => if mask.getLsbD (k / 2) then some (d.getD k 0) else none)) none none

/-! ### Moment forms (R226) -/

/-- A number as F32 bits. -/
def numBits (x : Num) : Nat := ((rne32 x).run 0).1
/-- A recomputed forward step: its flags do not count. -/
def fwd32 (x : Flagged Num) : Num := (x.run 0).1
/-- A variance as an adjoint computes from it: -0, and under NVCLAMP a negative one, as +0 (R53, R54). -/
def adjVar (v : Nat) : Num := rd32 (if negVar v then 0 else posZero v)
/-- A pair of a saved or named moment operand, as a form computes from it. -/
def adjPair (x j : Nat) : Num × Num := (rd32 (pairMean x j), adjVar (pairVar x j))

/-- Contributions of one pair: to (μa, va), (μb, vb), and to the lane operand. -/
structure AdjPair where
  ma : Option Nat := none
  va : Option Nat := none
  mb : Option Nat := none
  vb : Option Nat := none
  k : Option Nat := none
  deriving DecidableEq, Repr

/-- Φ(α) of a GRELU adjoint's mean (R57, R226). -/
def reluWeight (u v : Num) : Num :=
  let sg := fwd32 (gSqrt v)
  let a := fwd32 (step32 (match u, sg with
    | .inf _, .inf _ => return .nan false
    | x, y => return numDiv x y))
  fwd32 (gAlg capPhi a)

/-- The moment forms with a moment result, for one pair: (dm, dv) its adjoint. -/
def gAdjoint (i : Instr) (g : GView) (indep : Bool) (dm dv : Nat) (ua va ub k : Num) : Adj AdjPair := do
  let var (x : Nat) : Option Nat := if indep then some x else none
  match i with
  | .gadd _ => return { ma := some dm, mb := some dm, va := var dv, vb := var dv }
  | .gsub _ => return { ma := some dm, mb := some (← adjNeg dm), va := var dv, vb := var dv }
  | .gmul _ => return { ma := some (← adjMul dm ub), mb := some (← adjMul dm ua) }
  | .gscl _ =>
    let m ← adjMul dm k
    let l ← adjMul dm ua
    if indep then
      let v ← adjMul dv (rd32 (← adjRound (numMul k k)))
      let l2 ← adjMul (← adjMul dv (k.scale 1)) va
      return { ma := some m, va := some v, k := some (← adjAdd l l2) }
    return { ma := some m, k := some l }
  | .gofs _ => return { ma := some dm, va := var dv, k := some dm }
  | .grelu _ =>
    if va.isZero then return { ma := if !ua.isNan && !ua.sign && !ua.isZero then some dm else none }
    return { ma := some (← adjMul dm (reluWeight ua va)) }
  | .gexp _ =>
    let mean := ((gopExp g ua va ua va k).run 0).1.1
    return { ma := some (← adjMul dm (rd32 mean)) }
  | .gsig _ =>
    let gg := fwd32 (do gAlg rcpAlg (← gSqrt (← gAdd gOne (← gMul va (rd32 constKP)))))
    let s := fwd32 (do gAlg sigAlg (← gMul ua gg))
    let h ← adjMul (← adjMul dm s) (rd32 (← adjRound (numAdd false gOne s.neg)))
    return { ma := some (← adjMul h gg) }
  | .gsqr _ => return { ma := some (← adjMul dm (ua.scale 1)) }
  | _ => return { ma := some dm, va := var dv }

/-- A pair's contributions laid out as lanes of an MP32 register. -/
def pairLanes (l : List (Option Nat × Option Nat)) : AdjVec := (32, (l.map fun e => [e.1, e.2]).flatten)

/-- The moment forms with a moment result (R226): `a` and `b` are the operands as registers, or B a rank of scalars. -/
def gAdjointForm (i : Instr) (f : VF) (g : GView) (indep : Bool) (mask : BitVec 128) (a b : Nat) : Adj Unit := do
  let d ← adjDst f.dst.toNat 32
  let ps ← (List.range 16).mapM fun j =>
    if mask.getLsbD j then
      let pa := adjPair a j
      gAdjoint i g indep (d.getD (2 * j) 0) (d.getD (2 * j + 1) 0) pa.1 pa.2 (adjPair b j).1 (rd32 (elemAt 32 j b))
    else return {}
  let bv : Option AdjVec := match i with
    | .gadd _ | .gsub _ | .gmul _ => some (pairLanes (ps.map fun p => (p.mb, p.vb)))
    | .gscl _ | .gofs _ => some (32, ps.map fun p => p.k)
    | _ => none
  adjGive f (some (pairLanes (ps.map fun p => (p.ma, p.va)))) bv none

/-- GMAKE (R226): the mean lane and the variance lane. -/
def gmakeAdjoint (f : VF) (indep : Bool) (mask : BitVec 128) : Adj Unit := do
  let d ← adjDst f.dst.toNat 32
  let lane (off : Nat) (use : Bool) : AdjVec :=
    (32, (List.range 16).map fun j => if mask.getLsbD j && use then some (d.getD (2 * j + off) 0) else none)
  adjGive f (some (lane 0 true)) (some (lane 1 indep)) none

/-- d·0.5/σ, or with z in between: one division, rounded. -/
def sigmaShare (d : Nat) (z : Option Num) (sg : Num) : Adj Nat := do
  let h ← match z with
    | some z => do adjMul (← adjMul d z) (.fin false 1 (-1))
    | none => adjMul d (.fin false 1 (-1))
  adjRound (numQuot (rd32 h) sg)

/-- GCOL (R226): lane j to pair j of A; nothing where σ = 0. The rank z of sel 3 gets zeros (log entry 103). -/
def gcolAdjoint (f : VF) (indep : Bool) (mask : BitVec 128) (a z : Nat) : Adj Unit := do
  let d ← adjDst f.dst.toNat 32
  let ps ← (List.range 16).mapM fun j => do
    if !mask.getLsbD j then return ((none, none) : Option Nat × Option Nat)
    let dj := d.getD j 0
    let sg := fwd32 (gSqrt (adjPair a j).2)
    let dead := sg.isZero || !indep
    match f.imm.toNat with
    | 0 => return (some dj, none)
    | 1 => return (none, if indep then some dj else none)
    | 2 => if dead then return (none, none) else return (none, some (← sigmaShare dj none sg))
    | _ => if dead then return (some dj, none) else return (some dj, some (← sigmaShare dj (some (rd32 (elemAt 32 j z))) sg))
  adjGive f (some (pairLanes ps)) (if f.imm = 3 then some (adjZero 32) else none) none

/-! ### Matrix forms (R225) -/

/-- Gives one row of A of an M form its contribution: a queue, a register, a tile row's low half, or a bypass latch entry. -/
def adjMrow (f : MF) (byp : Bool) (row : Nat) (v : AdjVec) : Adj Unit :=
  if byp then adjAddTo (800 + row) 512 v
  else if specT f.a.toNat then adjAddTo (adjTile (f.a.toNat - 0x40) row 0) 512 v
  else adjSrc f.a.toNat (f.pka == 1) v

/-- Reads the adjoints of the accumulator rows of an M form, cleared when `clear`. -/
def adjRows (f : MF) (plane : Nat) (clear : Bool) : Adj (List (List Nat)) :=
  (List.range (f.rows.toNat + 1)).mapM fun i =>
    let k := adjAcc ((f.acc.toNat - 0x48) % 4) plane (f.row0.toNat + i)
    if clear then adjTake k 32 1024 else adjLook k 32 1024

/-- The places of a product's terms: for column j, pairs (element of A, stored element of B). -/
def denseTerms (ty : Nat) (_j : Nat) : List (Nat × Nat) := (List.range (depthOf ty)).map fun k => (k, k)
/-- The places of a sparse product's terms (R212, R214). -/
def sparseTerms (md : BitVec 2048) (j : Nat) : List (Nat × Nat) :=
  (List.range 32).map fun v => (4 * (v / 2) + bitsOf md.toNat (64 * j + 4 * (v / 2) + 2 * (v % 2)) 2, v)

/-- MMA, MMAZ, MMAS and each half of MMAP (R225): dC the adjoints of the rows written, `arows` and `bcols` the operands' ranks, and `hi`
the ranks that an MMAS took from B, as the logical elements behind those of A (R214). -/
def productAdjoint (f : MF) (byp : Bool) (ty : Nat) (scale : Int) (terms : Nat → List (Nat × Nat)) (dC : List (List Nat))
    (arows hi bcols : List Nat) : Adj Unit := do
  let g := adjFmt ty
  let n := adjCount g 512
  let b (j v : Nat) : Num := (matElem ty false (bcols.getD j 0) v).scale scale
  let a (i k : Nat) : Num :=
    (if k < n then matElem ty false (arows.getD i 0) k else matElem ty false (hi.getD i 0) (k - n)).scale scale
  let depth := match terms 0 with | [] => 0 | _ => depthOf ty
  for j in List.range 32 do
    let col ← (List.range (min depth n)).mapM fun v => do
      let ts ← (List.range dC.length).mapM fun i => do
        adjSum (← ((terms j).filter fun e => e.2 == v).mapM fun e => adjMul ((dC.getD i []).getD j 0) (a i e.1))
      return some (← adjSum ts)
    adjAddTo (832 + j) 512 (g, col)
  let row (i first : Nat) : Adj AdjVec := do
    return (g, ← (List.range n).mapM fun k => do
      let ts ← (List.range 32).mapM fun j => do
        ((terms j).filter fun e => e.1 == first + k).mapM fun e => adjMul ((dC.getD i []).getD j 0) (b j e.2)
      if ts.flatten.isEmpty then return none
      return some (← adjSum ts.flatten))
  if !hi.isEmpty then
    for i in List.range dC.length do
      adjSrc f.b.toNat false (← row i n)
  for i in List.range dC.length do
    adjMrow f byp (f.row0.toNat + i) (← row i 0)

/-- The eight pairs of an MP32 A row. -/
def adjPairs (x : Nat) : List (Num × Num) := (List.range 8).map (adjPair x)

/-- Gives an MP32 A row its contributions: a rank, or pairs 8i to 8i + 7 of a moment register. -/
def adjPairRow (f : MF) (i : Nat) (l : List (Option Nat × Option Nat)) : Adj Unit :=
  let v := pairLanes l
  if specM f.a.toNat then adjSrc f.a.toNat false (32, List.replicate (16 * i) none ++ v.2) else adjSrc f.a.toNat (f.pka == 1) v

/-- MMG (R225): `bcols` the columns of the stationary B; each product has the scale of the entry of A. -/
def mmgAdjoint (f : MF) (scale : Int) (arows bcols : List Nat) : Adj Unit := do
  let dM ← adjRows f 0 false
  let dV ← adjRows f 1 false
  let b (j k : Nat) : Num := matElem 0 false (bcols.getD j 0) k
  let at_ (l : List (List Nat)) (i j : Nat) : Nat := (l.getD i []).getD j 0
  for j in List.range 32 do
    let col ← (List.range 8).mapM fun k => do
      let ts ← (List.range dM.length).mapM fun i => do
        let p := (adjPairs (arows.getD i 0)).getD k (.nan false, .nan false)
        let x ← adjRound (numMul (p.1.scale scale) (rd32 (at_ dM i j)))
        let y ← adjRound (numMul (p.2.scale 1) (b j k))
        adjAdd x (← adjRound (numMul ((rd32 y).scale scale) (rd32 (at_ dV i j))))
      return some (← adjSum ts)
    adjAddTo (832 + j) 512 (32, col)
  for i in List.range dM.length do
    let l ← (List.range 8).mapM fun k => do
      let ms ← (List.range 32).mapM fun j => adjMul (at_ dM i j) ((b j k).scale scale)
      let vs ← (List.range 32).mapM fun j => do
        adjMul (at_ dV i j) ((rd32 (← adjRound (numMul (b j k) (b j k)))).scale scale)
      return (some (← adjSum ms), some (← adjSum vs))
    adjPairRow f i l

/-- One cell's share of an MMG2 mean: dM·μ, and under COV.MODE 00 dV·2μ'·v as well. -/
def mmg2Mean (indep : Bool) (scale : Int) (dM dV : Nat) (other : Num) (own v : Num) : Adj Nat := do
  let x ← adjMul dM (other.scale scale)
  if indep then return ← adjAdd x (← adjMul (← adjMul dV (own.scale 1)) (v.scale scale))
  return x

/-- One cell's share of an MMG2 variance: dV·(μ² + v). -/
def mmg2Var (scale : Int) (dV : Nat) (u v : Num) : Adj Nat := do
  adjMul dV ((rd32 (← adjRound (numAdd false (rd32 (← adjRound (numMul u u))) v))).scale scale)

/-- MMG2 (R225): `rows` the 32 rows of tile tB, then those of tB + 1. -/
def mmg2Adjoint (f : MF) (indep : Bool) (scale : Int) (arows rows : List Nat) : Adj Unit := do
  let dM ← adjRows f 0 false
  let dV ← adjRows f 1 false
  let at_ (l : List (List Nat)) (i j : Nat) : Nat := (l.getD i []).getD j 0
  let pb (j k : Nat) : Num × Num := (rd32 (elemAt 32 k (rows.getD j 0)), adjVar (elemAt 32 k (rows.getD (32 + j) 0)))
  let pa (i k : Nat) : Num × Num := (adjPairs (arows.getD i 0)).getD k (.nan false, .nan false)
  let t := f.b.toNat - 0x40
  for j in List.range 32 do
    let ms ← (List.range 8).mapM fun k => do
      let l ← (List.range dM.length).mapM fun i => mmg2Mean indep scale (at_ dM i j) (at_ dV i j) (pa i k).1 (pb j k).1 (pa i k).2
      return some (← adjSum l)
    adjAddTo (adjTile t j 0) 512 (32, ms)
    if indep then
      let vs ← (List.range 8).mapM fun k => do
        let l ← (List.range dV.length).mapM fun i => mmg2Var scale (at_ dV i j) (pa i k).1 (pa i k).2
        return some (← adjSum l)
      adjAddTo (adjTile (t + 1) j 0) 512 (32, vs)
  for i in List.range dM.length do
    let l ← (List.range 8).mapM fun k => do
      let ms ← (List.range 32).mapM fun j => mmg2Mean indep scale (at_ dM i j) (at_ dV i j) (pb j k).1 (pa i k).1 (pb j k).2
      let m ← adjSum ms
      if indep then
        let vs ← (List.range 32).mapM fun j => mmg2Var scale (at_ dV i j) (pb j k).1 (pb j k).2
        return (some m, some (← adjSum vs))
      return (some m, none)
    adjPairRow f i l

/-- MLDB (R225): column j of the B adjoint to row j of the tile; the B adjoint is cleared. -/
def mldbAdjoint (f : MF) : Adj Unit := do
  for j in List.range 32 do
    let r ← get
    let e := SMap.get (0, []) r.file.regs (832 + j)
    if !e.2.isEmpty then
      adjAddTo (adjTile (f.a.toNat - 0x40) j 0) 512 (adjStored e)
      adjClear (832 + j)

/-- Elements of a format in the bytes that a tile shape moves. -/
def shapeElems (sh : BitVec 16) : Nat :=
  let g := adjFmt (bitsOf sh.toNat 10 4)
  if adjIsBq g then 16 * (shapeBytes sh / bqBytes g) else 8 * shapeBytes sh / g

/-- MFILL (R225): each row's cells to A, in the format of the tile shape (R424). -/
def mfillAdjoint (f : MF) (sh : BitVec 16) : Adj Unit := do
  let g := adjFmt (bitsOf sh.toNat 10 4)
  for i in List.range (f.rows.toNat + 1) do
    let l ← adjTakePart (adjTile (f.dst.toNat - 0x40) (f.row0.toNat + i) (b2n (f.imm.getLsbD 3))) g 512 (shapeElems sh)
    adjSrc f.a.toNat (f.pka == 1) (g, l.map some)

/-- MDRN (R225): each rank's adjoint to the tile row's cells. -/
def mdrnAdjoint (f : MF) (sh : BitVec 16) : Adj Unit := do
  let g := adjFmt (bitsOf sh.toNat 10 4)
  for i in List.range (f.rows.toNat + 1) do
    let l ← adjDst f.dst.toNat g
    adjAddTo (adjTile (f.a.toNat - 0x40) (f.row0.toNat + i) (b2n (f.imm.getLsbD 3))) 512 (g, (l.take (shapeElems sh)).map some)

/-- The cell that element j of a drained rank comes from: plane and column (R218). -/
def drainPlace (ty plane p j : Nat) : Nat × Nat :=
  if ty = 12 then (j % 2, 8 * p + j / 2) else if typeWidth ty = 32 then (plane, 16 * p + j) else (plane, j)

/-- MOUT and MBYP (R225): straight through to the accumulator's cells; `alive` says whether a cell of a row passed relu. -/
def drainAdjoint (f : MF) (ty : Nat) (take : Nat → Nat → Adj (List Nat)) (alive : Nat → Nat → Nat → Bool) : Adj Unit := do
  let a := (f.a.toNat - 0x48) % 4
  let plane := (f.a.toNat - 0x48) / 4
  let g := adjFmt ty
  for i in List.range (f.rows.toNat + 1) do
    let row := f.row0.toNat + i
    let d ← take i g
    let places := (List.range (min 32 d.length)).map fun j => (drainPlace ty plane (f.imm.toNat % 4) j, d.getD j 0)
    for k in [0, 1] do
      let hit := places.filter fun e => e.1.1 == k && decide (e.1.2 < 32) && alive k row e.1.2
      if !hit.isEmpty then
        adjAddTo (adjAcc a k row) 1024 (32, (List.range 32).map fun c => (hit.find? fun e => e.1.2 == c).map Prod.snd)

/-- MZERO (R225). -/
def mzeroAdjoint (f : MF) : Adj Unit := do
  for i in List.range (f.rows.toNat + 1) do
    adjClear (adjAcc ((f.acc.toNat - 0x48) % 4) 0 (f.row0.toNat + i))
    adjClear (adjAcc ((f.acc.toNat - 0x48) % 4) 1 (f.row0.toNat + i))

end Sys2Proof.Machine
end

