-- ==== Sys2Proof/Machine/Atom.lean ====
section
/-!
DEFINITION. HATOM (R202) with its home: the operation at X + 400, parking, replay and landing (R240, R369). A performed HATOM
owes its fetched words at X + 800; a parked one leaves the timed order, and its value lands as an input of class 5.
-/
namespace Sys2Proof.Machine

/-- The operation of a HATOM on a home word (R202). -/
def hatomValue (op : Nat) (m v : Word) : Word :=
  match op with
  | 0 => m + v
  | 1 => if m.slt v then m else v
  | 2 => if m.slt v then v else m
  | 3 => m &&& v
  | 4 => m ||| v
  | 5 => m ^^^ v
  | 6 => v
  | _ => BitVec.ofNat 32 ((add32 m.toNat v.toNat).run 0).1

/-- Sends a HATOM on its way: it reaches its home at the end of X + 400. -/
def State.sendHatom (s : State) (f : CF) (op : Nat) (pairs : List (Nat × Nat × Word)) (fetch : List (Nat × Nat × Option Nat))
    (remote : Bool) : State :=
  let (n, s1) := s.fresh
  let tag := s1.hub.nextId
  let h : Hatom :=
    { tag := tag, cid := s.cur.cid, ctx := s.cur, op := op, home := Config.homeOf ((pairs.map fun e => e.2.1).headD 0)
      pairs := pairs, fetch := fetch, remote := remote, retry := Config.eccRetry n }
  let s2 := s1.onHub fun b => { b with nextId := (tag + 1) % 2 ^ 32 }
  (s2.onCore fun c => { c with hatoms := c.hatoms ++ [h] }).owe (s.X + 400) (.hatom f.chan.toNat tag)

/-- HATOM (R202). -/
def execHatom (f : CF) (s : State) : Res :=
  let (a, s1) := s.readRank f.spec.toNat s.X false
  let lane (i : Nat) : Nat := elemAt 32 i a.toNat
  let js := (List.range 8).filter fun j => f.bmask.getLsbD j
  let h := s.handleT f
  let offs := js.map fun j => 4 * (lane (2 * j) : Int)
  let s2 := (s1.recordCheck f offs true).checkCopy f offs true true true
  let pairs := js.map fun j => (j, h.pa (4 * lane (2 * j)), BitVec.ofNat 32 (lane (2 * j + 1)))
  let s3 := pairs.foldl (fun st e => (st.markHbm e.2.1 (s.X + 400) false).markHbm e.2.1 (s.X + 401) true) s2
  let keys := if f.aop.getLsbD 3 then
      js.map fun j => wordKey (2 * j + 1) (s.tab.bankLine f.it.toNat f.skew.toNat (2 * j + 1) 0)
    else []
  let (base, s4) := s3.claimWrites s.X (keys.map fun k => (k, s.X + 801))
  let fetch := ((js.zip keys).zipIdx).map fun e => (e.1.1, e.1.2, s.tab.tapeAt base keys e.2)
  .next (s4.sendHatom f (f.aop.toNat % 8) pairs fetch h.remote)

/-- A HATOM of a core. -/
def Core.hatom (c : Core) (tag : Nat) : Option Hatom := c.hatoms.find? fun h => h.tag == tag
/-- Whether a home has performed or holds a tag. -/
def Hub.knows (h : Hub) (tag : Nat) : Bool := h.performed.contains tag || h.hatoms.any fun x => x.tag == tag

/-- Performs the pairs of a HATOM on HBM in ascending j order, with the old values (R202); `timed` in the running context's cycle,
where a pair that stands from before a rewind keeps its old value (R240). -/
def hatomPairs (timed : Bool) (h : Hatom) (s : State) : List (Nat × Word × Bool) × State :=
  h.pairs.foldl (fun acc e =>
    let st := acc.2
    let old : Word := BitVec.ofNat 32 (match if timed then st.standing e.2.1 else none with
      | some bs => ofLeBytes bs
      | none => st.hbmRead e.2.1 4)
    let new := leBytes 4 (hatomValue h.op old e.2.2).toNat
    (acc.1 ++ [(e.1, old, false)], if timed then st.hbmWriteTimed e.2.1 new else st.hbmWrite e.2.1 new)) ([], s)

/-- What names a HATOM within its context, also when a replay issues it again: T, slice and slot. -/
def Hatom.key (h : Hatom) : Nat := packLe [(3, h.ctx.slot), (12, h.ctx.s), (64, h.ctx.fl.T)]

/-- Whether the home of a HATOM parks it (R240, R307, R369): a remote home, an ECC retry, or an uncorrectable word; one whose fetch is
withdrawn is parked. In replay the log's notices say which fetching HATOMs are (R380). -/
def State.parks (s : State) (h : Hatom) : Bool :=
  let x := s.ctx h.cid
  if x.replaying && !h.fetch.isEmpty then h.withdrawn || x.replayLog.any fun e => e.inputs.contains (.withdraw h.key)
  else h.withdrawn || h.remote || h.retry || h.pairs.any fun e => s.hub.badWords.contains (e.2.1 / 4)

/-- A HATOM of a core is noted as parked. -/
def Core.notePark (c : Core) (tag : Nat) : Core :=
  { c with hatoms := c.hatoms.map fun x => if x.tag = tag then { x with parked := true } else x }

/-- A HATOM is parked at its home, and the notice that withdraws its fetch is on its way (R29, R240). A remote home keeps its own fault
queue, and refuses and retries what finds it full (R307, R369). -/
def State.parkHatom (s : State) (h : Hatom) : State :=
  let (n, s1) := s.fresh
  let s2 := s1.onCore (·.notePark h.tag)
  let s3 := s2.onHub fun b =>
    { b with hatoms := b.hatoms ++ [{ h with parked := true }]
             homes := if h.remote then b.homes else SMap.set [] b.homes h.home (SMap.get [] b.homes h.home ++ [h.tag]) }
  if h.fetch.isEmpty then s3
  else if (s.ctx h.cid).replaying then s2
  else { s3 with inputs := s3.inputs ++ [⟨s.cur.p, some (s.here.acc.toNat + Config.noticeDelay n % 400), .hatomParkNotice h.cid h.tag⟩] }

/-- What a home does again after a rewind with a HATOM that it knows (R240, R360): nothing; the HATOM is parked still, or is over. -/
def State.homeAgain (s : State) (tag : Nat) : State :=
  s.onCore fun c =>
    if s.hub.hatoms.any fun x => x.tag == tag then c.notePark tag else { c with hatoms := c.hatoms.filter fun x => x.tag != tag }

/-- HATOM_HOME_OPERATION (R202, R240): the HATOM performs on its home words, or is parked. -/
def execHatomHomeOperation (id : Nat) (s : State) : Res :=
  match s.here.hatom id with
  | none => .fault .noSuchObject
  | some h =>
    if s.parks h then .next (if s.hub.knows id then s.homeAgain id else s.parkHatom h)
    else
      let (got, s1) := hatomPairs true h s
      let s2 := s1.onCore fun c =>
        { c with hatoms := c.hatoms.filter fun x => x.tag != id, homeWords := c.homeWords ++ h.pairs.map fun e => e.2.1 }
      .next (h.fetch.foldl (fun st e =>
        let v : Word := ((got.find? fun g => g.1 == e.1).map fun g => g.2.1).getD 0
        st.owe (s.X + 800) (.bank (e.2.1 % 16) (e.2.1 / 16) v 0 e.2.2)) s2)

/-- The fetch of a HATOM is withdrawn: it is no pending write any more, and the checking scoreboard forgets its landing (R29). -/
def Core.withdraw (c : Core) (key : Nat) : Core :=
  match c.hatoms.find? fun h => h.key == key with
  | none => c
  | some h =>
    { c with
      hatoms := c.hatoms.map fun x => if x.key = key then { x with parked := true, withdrawn := true } else x
      access := c.access.filter fun a =>
        !(a.T == h.ctx.fl.T && a.die == h.ctx.d && a.slot == h.ctx.slot && a.s == h.ctx.s
          && h.fetch.any fun e => a.loc == .word h.ctx.s e.2.1) }

/-- Notes an input of the timed core, to be applied again after a rewind (R360), and records it (R379). -/
def State.applied (s : State) (cid : Nat) (i : CoreInput) : State :=
  (s.setCore cid { s.core cid with seen := (s.core cid).seen + 1 }).onCtx cid fun c =>
    { c with applied := c.applied ++ [((s.core cid).seen, i)] }

/-- The core as it stands becomes what a rewind to this boundary restores (R358). -/
def State.remark (s : State) (cid : Nat) : State :=
  let c := s.core cid
  s.onCtx cid fun x => { x with marks := (c.acc.toNat, { c with logged := x.replayLog.length }) :: (x.marks.filter fun m => decide (m.1 < c.acc.toNat)).take 600 }

/-- The address of a bank word that a HATOM fetches into, as the payload of a class-5 entry has it: slice byte address and slice. -/
def Hatom.place (h : Hatom) (key : Nat) : List Byte := leBytes 8 (packLe [(19, 4 * key), (12, h.ctx.s)])

/-- HATOM_PARK_NOTICE (R29, R240): the pending fetch is withdrawn, as an input of class 5. In replay only the log's notices count (R380). -/
def execHatomParkNotice (cid tag : Nat) (s : State) : Res :=
  .next (match if (s.ctx cid).replaying then none else (s.core cid).hatom tag with
    | none => s
    | some h =>
      ((s.setCore cid ((s.core cid).withdraw h.key)).applied cid (.withdraw h.key)).noteInput cid 5 h.ctx.d
        ((h.fetch.map fun e => h.place e.2.1).flatten) [.withdraw h.key])

/-- A die-local view of whether the die of a slice has ended. -/
def Core.dieOver (c : Core) (d : Nat) : Bool := (c.die d).dieEnd

/-- HATOM_REPLAY (R240, R369): the home performs a parked HATOM once; a remote home returns the old values; an uncorrectable
word is not operated on, and its fetched values land poisoned. -/
def execHatomReplay (home tag : Nat) (old : List Word) (bad : Bool) (s : State) : Res :=
  match s.hub.hatoms.find? fun h => h.tag == tag && h.home == home && h.got.isEmpty with
  | none => if s.hub.performed.contains tag then .next s else .fault .noSuchObject
  | some h =>
    let (n, s0) := s.fresh
    let (got, s1) :=
      if bad then (h.pairs.map fun e => (e.1, Config.badWord (n + e.1), true), s0.steward 6 tag)
      else if h.remote then ((h.pairs.zip old).map fun e => (e.1.1, e.2, false), s0)
      else hatomPairs false h s0
    let live := !h.fetch.isEmpty && ((s.core h.cid).hatom tag).isSome && (s.ctx h.cid).state != .failed && (s.ctx h.cid).state != .empty
      && !(s.core h.cid).dieOver h.ctx.d
    let s2 := s1.onHub fun b =>
      { b with
        hatoms := (b.hatoms.filter fun x => x.tag != tag) ++ (if live then [{ h with got := got }] else [])
        homes := SMap.set [] b.homes home ((SMap.get [] b.homes home).filter (· != tag))
        performed := b.performed ++ [tag] }
    .next (if live then { s2 with inputs := s2.inputs ++ [⟨h.ctx.p, none, .hatomFetchLanding h.cid tag⟩] }
      else if (SMap.has s2.cores h.cid) then
        s2.setCore h.cid { s2.core h.cid with hatoms := (s2.core h.cid).hatoms.filter fun x => x.tag != tag }
      else s2)

/-- Writes a bank word with its tag, and its tape entry from what the word held (R340, R368). -/
def Slice.writeWord (sl : Slice) (key : Nat) (v : Word) (tag : BitVec 2) (tape : Option Nat) : Slice :=
  let sl1 := match tape with
    | none => sl
    | some a =>
      { sl with
        bank := SMap.set 0 (SMap.set 0 sl.bank (a / 4) (sl.word key)) (a / 4 + 1) (BitVec.ofNat 32 (4 * key))
        tag := SMap.set 0 (SMap.set 0 sl.tag (a / 4) (sl.poison key)) (a / 4 + 1) 0 }
  { sl1 with bank := SMap.set 0 sl1.bank key v, tag := SMap.set 0 sl1.tag key tag }

/-- The fetched values of a replayed HATOM land in the timed core (R240). -/
def Core.land (c : Core) (h : Hatom) : Core :=
  let c1 := h.fetch.foldl (fun c e =>
    match h.got.find? fun g => g.1 == e.1 with
    | none => c
    | some g => c.onSlice h.ctx.s (·.writeWord e.2.1 g.2.1 (if g.2.2 then 2 else 0) e.2.2)) c
  { c1 with hatoms := c1.hatoms.filter fun x => x.key != h.key }

/-- HATOM_FETCH_LANDING (R240): the values land at a boundary, as an input of class 5; after the end of its die they are
discarded. In replay only the log's landings count (R380). -/
def execHatomFetchLanding (cid tag : Nat) (s : State) : Res :=
  match s.hub.hatoms.find? fun h => h.tag == tag && h.cid == cid && !h.got.isEmpty with
  | none => .fault .noSuchObject
  | some h =>
    let s1 := s.onHub fun b => { b with hatoms := b.hatoms.filter fun x => x.tag != tag }
    let c := s1.core cid
    .next (if !SMap.has s1.cores cid || (s1.ctx cid).replaying then s1
      else if c.dieOver h.ctx.d then
        s1.setCore cid { c with hatoms := c.hatoms.filter fun x => x.tag != tag }
      else
        let s2 := (s1.setCore cid (c.land h)).applied cid (.landing h)
        s2.noteInput cid 5 h.ctx.d
          ((h.got.map fun g => ((h.fetch.find? fun e => e.1 == g.1).map fun e => h.place e.2.1).getD [] ++ leBytes 4 g.2.1.toNat).flatten)
          [.landing h])

end Sys2Proof.Machine
end

