-- ==== Sys2Proof/Machine/DebugWrite.lean ====
section
/-!
DEFINITION. What a debugger's write does to the timed core (R375).
-/
namespace Sys2Proof.Machine

/-- XFLAGS or NF as the debugger leaves them: what a CFGR at C returns has these bits in place of those of `mask`. -/
def Die.setVisible (d : Die) (C : Nat) (mask v : BitVec 9) : Die :=
  let w := (d.visible C &&& ~~~mask) ||| (v &&& mask)
  { d with xflags := w.extractLsb' 0 5, nf := w.extractLsb' 5 4, evts := d.evts.filter fun e => decide (e.1 + 256 > C) }

/-- Whether the debugger may write a control register: AMODE, which no CFGW writes, is one (R375). -/
def debugCsrOk (n : Nat) : Bool := csrDefined n && (n == 0x30 || !csrReadOnly n)

/-- A control register as the debugger writes it at the boundary before cycle C: it reads as written; TAPEBASE empties the tape (R339). -/
def Core.debugCsr (c : Core) (dies : List Nat) (d n : Nat) (v : DWord) : Core :=
  let C := c.acc.toNat
  if n = 0x30 then c.onDie d fun x => { x with tab := { x.tab with amode := v.setWidth 2 } }
  else if n = 0x13 then c.onDie d fun x => x.setVisible C 0x1E0 (v.setWidth 4 ++ 0#5)
  else if n = 0x15 then c.onDie d fun x => x.setVisible C 0x01F (0#4 ++ v.setWidth 5)
  else
    let c1 := c.csrWrite dies d n v C
    if n = 0x34 then (List.range 512).foldl (fun c k => c.onSlice (512 * d + k) fun sl => { sl with tp := (v &&& 0x7FFF8).setWidth 19 }) c1 else c1

/-- A debugger's write to the timed core; none where the place may not be written. -/
def Core.debugWrite (c : Core) (dies : List Nat) (t : DbgTarget) (v : Nat) : Option Core :=
  let slice (n : Nat) (f : Slice → Slice) : Option Core := if dies.contains (dieOf n) then some (c.onSlice n f) else none
  match t with
  | .x d n => if dies.contains d ∧ 0 < n ∧ n < 32 then some (c.onDie d fun x => { x with x := SMap.set 0 x.x n (dw v) }) else none
  | .csr d n => if dies.contains d && debugCsrOk n then some (c.debugCsr dies d n (dw v)) else none
  | .smem d a => if dies.contains d ∧ a + 4 ≤ 0x40000 then some (c.onDie d fun x => x.smemWrite a (leBytes 4 v)) else none
  | .bank n b l =>
    if b < 16 ∧ l < 8192 ∧ (SMap.get 0 c.owned n).getLsbD (l / 64) then
      slice n fun sl => { sl with bank := SMap.set 0 sl.bank (16 * l + b) (BitVec.ofNat 32 v), tag := SMap.set 0 sl.tag (16 * l + b) 0 }
    else none
  | .q n k i =>
    let old := SMap.get [] (c.slice n).q k
    if k < 16 ∧ i < 4 ∧ i ≤ old.length then slice n fun sl => { sl with q := SMap.set [] sl.q k (old.take i ++ [BitVec.ofNat 512 v] ++ old.drop (i + 1)) }
    else none
  | .k n i => if 0 < i ∧ i < 8 then slice n fun sl => { sl with k := SMap.set 0 sl.k i (BitVec.ofNat 128 v) } else none
  | .m n i => if i < 8 then slice n fun sl => { sl with m := SMap.set 0 sl.m i (BitVec.ofNat 1024 v) } else none
  | .t n i row => if i < 8 ∧ row < 32 then slice n fun sl => { sl with t := SMap.set 0 sl.t (32 * i + row) (BitVec.ofNat 1024 v) } else none
  | .a n i plane row =>
    if i < 4 ∧ plane < 2 ∧ row < 32 then
      slice n fun sl => { sl with acc := SMap.set 0 sl.acc (64 * i + 32 * plane + row) (BitVec.ofNat 1024 v) }
    else none
  | .d n i => if i < 4 then slice n fun sl => { sl with d := SMap.set 0 sl.d i (BitVec.ofNat 2048 v) } else none
  | .z n i => if i < 4 then slice n fun sl => { sl with z := SMap.set 0 sl.z i (BitVec.ofNat 56 v) } else none
  | .tw n => slice n fun sl => { sl with tw := BitVec.ofNat 512 v }
  | .tp n => slice n fun sl => { sl with tp := BitVec.ofNat 19 v &&& 0x7FFF8 }
  | .int n i => if i < 4 then slice n fun sl => { sl with int := if bitAt v 0 then sl.int ||| (1#4 <<< i) else sl.int &&& ~~~(1#4 <<< i) } else none
  | .hbm _ | .dbp _ _ => some c

end Sys2Proof.Machine
end

