-- ==== Sys2Proof/Machine/SyncWord.lean ====
section
/-!
DEFINITION. The sync word (R285 to R291): its fields, the advance loop, an arrival, and the host's writes; in a die's sync
area (SMEM) or among the launch sync words.
-/
namespace Sys2Proof.Machine

/-- TARGET of a sync word. -/
def swTarget (w : BitVec 128) : Nat := (w.extractLsb' 0 32).toNat
/-- COUNT of a sync word. -/
def swCount (w : BitVec 128) : Nat := (w.extractLsb' 32 32).toNat
/-- GEN of a sync word. -/
def swGen (w : BitVec 128) : Nat := (w.extractLsb' 64 32).toNat
/-- STATUS of a sync word. -/
def swStatus (w : BitVec 128) : Nat := (w.extractLsb' 96 32).toNat
/-- A sync word from its fields. -/
def swMake (target count gen status : Nat) : BitVec 128 := BitVec.ofNat 128 (packLe [(32, target), (32, count), (32, gen), (32, status)])

/-- The advance loop of R287: one generation for each whole TARGET in COUNT, the excess carried. -/
def swAdvance (w : BitVec 128) : BitVec 128 :=
  let t := swTarget w
  let c := swCount w
  if t = 0 then w else swMake t (c % t) ((swGen w + c / t) % 2 ^ 32) (swStatus w)

/-- VREF with `n` more refused deliveries, saturating at 255 (R285). -/
def swRefused (st n : Nat) : Nat := putBits st 8 8 (min 255 (bitsOf st 8 8 + n))

/-- An arrival of `b` bytes (R287), with an error mark and `vref` refused deliveries (R286). -/
def swArrival (w : BitVec 128) (b : Nat) (err : Bool) (vref : Nat) : BitVec 128 :=
  let sum := swCount w + b
  let ovf := decide (sum > 0xFFFFFFFF)
  let st := swRefused (Nat.lor (swStatus w) (b2n ovf + 2 * b2n err)) vref
  swAdvance (swMake (swTarget w) (if ovf then 0xFFFFFFFF else sum) (swGen w) st)

/-- ARM (R289): TARGET := t, then the advance loop. -/
def swArm (w : BitVec 128) (t : Nat) : BitVec 128 := swAdvance (swMake t (swCount w) (swGen w) (swStatus w))

/-- A host write of STATUS (R290): clears OVF, ERR and LAPPED where v is 1, and VREF when v [15:8] is all ones. -/
def swClear (w : BitVec 128) (v : Nat) : BitVec 128 :=
  let st := swStatus w
  let low := (List.range 3).foldl (fun a i => if bitAt v i then putBits a i 1 0 else a) st
  swMake (swTarget w) (swCount w) (swGen w) (if bitsOf v 8 8 = 255 then putBits low 8 8 0 else low)

/-- Sets LAPPED (R289). -/
def swLapped (w : BitVec 128) : BitVec 128 := w ||| BitVec.ofNat 128 (2 ^ 98)

/-- d of R289: generations past a token. -/
def swPast (w : BitVec 128) (token : Nat) : Nat := ((swGen w : Int) - token % 2 ^ 32 : Int) % (2 ^ 32 : Int) |>.toNat
/-- Whether a WAITG waits: d = 0 or d ≥ 2^31 (R289). -/
def swWaits (w : BitVec 128) (token : Nat) : Bool := decide (swPast w token = 0 ∨ swPast w token ≥ 2 ^ 31)
/-- xd of a WAITG (R289). -/
def swWaitResult (w : BitVec 128) (token : Nat) : DWord := dw (b2n (decide (swPast w token ≥ 2)) * 2 ^ 63 + swGen w)

/-- SMEM address of sync word n (R68). -/
def syncAddr (n : Nat) : Nat := 0x30000 + 16 * n
/-- The sync word at an SMEM address. -/
def Die.syncAt (d : Die) (a : Nat) : BitVec 128 := BitVec.ofNat 128 (d.smemRead a 16)
/-- Replaces the sync word at an SMEM address. -/
def Die.setSync (d : Die) (a : Nat) (w : BitVec 128) : Die := d.smemWrite a (leBytes 16 w.toNat)
/-- Changes a sync word of a die. -/
def Core.onSync (c : Core) (d n : Nat) (f : BitVec 128 → BitVec 128) : Core :=
  c.onDie d fun x => x.setSync (syncAddr n) (f (x.syncAt (syncAddr n)))
/-- Whether an address names a sync word of the die (R288). -/
def syncBad (a : Nat) : Bool := decide (a % 16 ≠ 0) || !inSyncArea a

end Sys2Proof.Machine
end

