-- ==== Sys2Proof/Machine/SeqSync.lean ====
section
/-!
DEFINITION. The S forms that meet other parties: WAITG, ARM, GENRD (R288, R289), ACQB, RELB (R272), END (R274), COLL (R328)
and ALIGN (R333).
-/
namespace Sys2Proof.Machine

/-- Asks for a hold at the boundary before T + 1, whose result forms when the last hold ends (R440). -/
def State.askHold (s : State) (kind : Nat) (on : HoldOn) : State :=
  s.onCore fun c => { c with reqs := c.reqs ++ [⟨s.T + 1, s.cur.fl.hnd, ⟨kind, s.cur.d, on⟩⟩] }

/-- Marks xd of a form whose result comes with a hold. -/
def State.markXd (s : State) (xd : BitVec 5) : State := if xd = 0 then s else s.mark (.x s.cur.d xd.toNat) (s.T + 1)

/-- The sync word that xa names, with the checks of R288. -/
def State.syncOperand (s : State) (f : SR) : BitVec 128 × State :=
  let a := (s.xreg f.xa).toNat
  (s.die.syncAt a, ((s.useX f.xa).illegal (syncBad a)).useSmem a 16 s.T)

/-- WAITG (R289). -/
def execWaitg (f : SR) (s : State) : Res :=
  let a := (s.xreg f.xa).toNat
  let token := (s.xreg f.xb).toNat
  let (w, s1) := (s.useX f.xb).syncOperand f
  .next (if swWaits w token then (s1.markXd f.xd).askHold 4 (.wait a token f.xd.toNat s.cur.slot)
    else
      let s2 := s1.retX f.xd (swWaitResult w token) 1
      if swPast w token ≥ 2 then s2.oweTab (.lapped a) else s2)

/-- ARM (R289): xd takes GEN; TARGET and the advance loop perform at the end of T. -/
def execArm (f : SR) (s : State) : Res :=
  let t := (s.xreg f.xb).toNat
  let (w, s1) := (s.useX f.xb).syncOperand f
  let s2 := ((s1.illegal (decide (t > 0xFFFFFFFF))).retX f.xd (dw (swGen w)) 1)
  .next ((s2.markSmem (s.xreg f.xa).toNat 16 (s.T + 1)).oweTab (.arm (s.xreg f.xa).toNat (t % 2 ^ 32)))

/-- GENRD (R289). -/
def execGenrd (f : SR) (s : State) : Res :=
  let (w, s1) := s.syncOperand f
  .next (s1.retX f.xd (dw (swGen w)) 1)

/-- Number of bank-mask sets of the image: NSETS + 1 (R265). -/
def Context.nsets (c : Context) : Nat := (c.header.extractLsb' 52 4).toNat + 1
/-- The bank-mask set n: its planes and its block masks by slice. -/
def Context.set (c : Context) (n : Nat) : BitVec 8 × SMap (BitVec 128) := c.sets.getD n (0, [])
/-- Whether the context owns every block and plane of set n. -/
def State.ownsSet (s : State) (cid n : Nat) : Bool :=
  let set := (s.ctx cid).set n
  let c := s.core cid
  set.2.all (fun e => e.2 &&& ~~~(SMap.get 0 c.owned e.1) == 0) && (set.1 &&& ~~~c.planes == 0)

/-- ACQB (R272): a hold of kind bank until every block and plane of the set is owned. -/
def execAcqb (f : SC) (s : State) : Res :=
  let n := f.imm.toNat % 16
  let s1 := (s.illegal (decide (n ≥ (s.ctx s.cur.cid).nsets))).oweTab (.acquire n)
  .next (if s.ownsSet s.cur.cid n then s1 else s1.askHold 6 (.bank n))

/-- RELB (R272): no effect for set 0 or a set that is not acquired. -/
def execRelb (f : SC) (s : State) : Res :=
  let n := f.imm.toNat % 16
  let s1 := s.illegal (decide (n ≥ (s.ctx s.cur.cid).nsets))
  .next (if n = 0 ∨ s.here.acquired.getLsbD n = false then s1 else s1.oweTab (.release n))

/-- END (R274): the die issues no further bundle, its live loop levels are abandoned, and its next bundle is the one behind END
(R317). -/
def execEndDie (_f : SR) (s : State) : Res :=
  .next ((s.onCtx s.cur.cid fun c => { c with kernel := if c.kernel = .running then .ending else c.kernel }).onDie fun d =>
    { d with ended := some (d.ended.getD s.here.acc.toNat), inS := false, rev := none
             pc := s.cur.fl.addr + s.cur.fl.len
             tab := { d.tab with lc := d.tab.lc.map fun e => (e.1, { e.2 with live := false }) } })

/-- ALIGN (R333): xd is a wall reading; in replay it is the logged one, and waits for nothing (R380). -/
def execAlign (f : SR) (s : State) : Res :=
  let a := s.xreg f.xa
  let s1 := s.useX f.xa
  .next (if (s.ctx s.cur.cid).replaying then
      let r := (s1.noteInput s.cur.cid 3 s.cur.d [] []).takeLogged s.loggedAlign s.hub.wac
      r.2.retX f.xd r.1 1
    else if a.toNat ≤ s.hub.wac.toNat then
      let r := s1.wallReading alignReading s.hub.wac
      r.2.retX f.xd r.1 1
    else (s1.markXd f.xd).askHold 5 (.align a.toNat f.xd.toNat))

/-- Whether a COLL descriptor breaks a rule of R328: reserved bits, or a value the table forbids. -/
def collBad (d : BitVec 512) : Bool :=
  let x := d.toNat
  let op := bitsOf x 8 3
  let ty := bitsOf x 16 4
  let lg := bitsOf x 32 5
  decide (bitsOf x 0 8 = 255 ∨ op > 4 ∨ (op % 2 = 0 ∧ op < 4 ∧ bitsOf x 11 2 = 3) ∨ bitsOf x 13 3 ≠ 0
    ∨ ¬(ty < 4 ∨ ty = 6) ∨ bitsOf x 20 4 ≠ 0 ∨ lg < 12 ∨ lg > 20 ∨ bitsOf x 38 26 ≠ 0
    ∨ bitsOf x 64 64 % 64 ≠ 0 ∨ bitsOf x 128 64 % 64 ≠ 0 ∨ bitsOf x 192 32 = 0 ∨ bitsOf x 224 288 ≠ 0)

/-- An entry of the group table (R276): g0 and g255 are fixed by the device. -/
def State.group (s : State) (cid g : Nat) : GroupEntry :=
  let c := s.ctx cid
  if g = 0 then
    { members := BitVec.ofNat 4096 ((2 ^ (512 * (s.part c.p).n) - 1) <<< (512 * c.p))
      dies := BitVec.ofNat 8 ((2 ^ (s.part c.p).n - 1) <<< c.p), remote := [], v := true }
  else if g = 255 then { v := true }
  else SMap.get {} c.groups g

/-- COLL (R328): the descriptor is read whole at T; the link engine receives it at T + 176 (R360). -/
def execColl (f : SR) (s : State) : Res :=
  let a := (s.xreg f.xa).toNat
  let b := (s.xreg f.xb).toNat
  let desc : BitVec 512 := BitVec.ofNat 512 (s.die.smemRead a 64)
  let g := bitsOf desc.toNat 0 8
  let ge := s.group s.cur.cid g
  let key := 8 * g + s.cur.d
  let k := SMap.get 0 s.here.postCount key
  let s1 := (((s.useX f.xa).useX f.xb).useSmem a 64 s.T).illegal
    (smemBadAddr a 64 || syncBad b || collBad desc || !ge.v || !ge.dies.getLsbD s.cur.d)
  .next (s1.onCore fun c =>
    { c with posts := c.posts ++ [⟨s.cur.d, s.T, desc, b, k⟩], postCount := SMap.set 0 c.postCount key (k + 1) })

end Sys2Proof.Machine
end

