-- ==== Sys2Proof/Machine/Tlb.lean ====
section
/-!
DEFINITION. TLBs, the walker and handles (R294 to R299): the lookup, a walker's fill, and the handle that a leaf gives.
-/
namespace Sys2Proof.Machine

/-- Whether an entry translates an address of an address space; a leaf with G = 1 matches every context (R295). -/
def TlbEntry.hits (e : TlbEntry) (asn va : Nat) : Bool :=
  va / 2 ^ pageBits e.size == e.va / 2 ^ pageBits e.size && (e.asn == asn || pteBit e.leaf 4)

/-- The entry that translates an address. -/
def tlbFind (l : List TlbEntry) (asn va : Nat) : Option TlbEntry := l.find? fun e => e.hits asn va

/-- Puts an entry first, keeping `cap` entries: least recently used goes (R295). -/
def tlbTouch (l : List TlbEntry) (e : TlbEntry) (cap : Nat) : List TlbEntry :=
  (e :: l.filter (fun x => !(x.va == e.va && x.asn == e.asn && x.size == e.size))).take cap

/-- Puts an entry into an 8-way set of the last level, which has 4,096 sets (R295): the least recently used of its set goes. -/
def tlbTouchSet (l : List TlbEntry) (e : TlbEntry) : List TlbEntry :=
  let set (x : TlbEntry) : Nat := Config.lastLevelSet (x.va / 2 ^ pageBits x.size) % 4096
  let rest := l.filter fun x => !(x.va == e.va && x.asn == e.asn && x.size == e.size)
  let same := rest.filter fun x => set x == set e
  match same.drop 7 with
  | [] => e :: rest
  | v :: _ => e :: rest.erase v

/-- Puts an entry into the instruction TLB (R295): first-in first-out over the unpinned entries. -/
def tlbPush (l : List TlbEntry) (e : TlbEntry) : List TlbEntry :=
  let rest := l.filter fun x => !(x.va == e.va && x.asn == e.asn && x.size == e.size)
  let unpinned := rest.filter fun x => !x.pinned
  if rest.length < 256 then e :: rest
  else match unpinned.getLast? with
    | some v => e :: rest.erase v
    | none => rest

/-- The leaf that a data lookup finds without a walk: data TLB, then last level (R295, R299), with the TLBs after it. -/
def State.lookupData (s : State) (d asn va : Nat) : Option TlbEntry × State :=
  let h := s.dieHw d
  match tlbFind h.dtlb asn va with
  | some e => (some e, s.onHw d fun h => { h with dtlb := tlbTouch h.dtlb e 256 })
  | none =>
    match tlbFind h.ltlb asn va with
    | some e => (some e, s.onHw d fun h => { h with dtlb := tlbTouch h.dtlb e 256, ltlb := tlbTouchSet h.ltlb e })
    | none => (none, s)

/-- Whether a leaf grants the permissions R (bit 0), W (bit 1) and X (bit 2) asked for. -/
def leafGrants (leaf : BitVec 64) (perm : Nat) : Bool :=
  (!bitAt perm 0 || pteBit leaf 1) && (!bitAt perm 1 || pteBit leaf 2) && (!bitAt perm 2 || pteBit leaf 3)

/-- The walker fills a leaf into the last level and a first-level TLB, setting A, and D for a write (R294). -/
def State.fillTlb (s : State) (d asn va : Nat) (leaf : BitVec 64) (level pa perm : Nat) (fetch : Bool) : State :=
  let leaf' := leaf ||| (if bitAt perm 1 then 0x60 else 0x20)
  let e : TlbEntry := ⟨va / 2 ^ pageBits level * 2 ^ pageBits level, level, asn, leaf', false⟩
  (s.hbmWrite pa (leBytes 8 leaf'.toNat)).onHw d fun h =>
    if fetch then { h with itlb := tlbPush h.itlb e, ltlb := tlbTouchSet h.ltlb e }
    else { h with dtlb := tlbTouch h.dtlb e 256, ltlb := tlbTouchSet h.ltlb e }

/-- The handle that a leaf gives for an address (R297, R299). -/
def handleOf (leaf : BitVec 64) (size va perm : Nat) (gen : BitVec 16) : Handle :=
  let base := va / 2 ^ pageBits size * 2 ^ pageBits size
  { v := true, r := bitAt perm 0, w := bitAt perm 1, watch := pteBit leaf 7, diff := pteBit leaf 8, poison := pteBit leaf 9
    remote := pteBit leaf 11, revoked := false, size := size, gen := gen, vbase := BitVec.ofNat 52 base
    frame := BitVec.ofNat 48 (pteBase leaf) }

/-- A word of a handle (R297). -/
def Handle.word (h : Handle) (sel : Nat) : Nat :=
  if sel = 0 then
    packLe [(1, b2n h.v), (1, b2n h.r), (1, b2n h.w), (1, b2n h.watch), (1, b2n h.diff), (1, b2n h.poison), (1, b2n h.remote),
      (1, b2n h.revoked), (2, h.size), (6, 0), (16, h.gen.toNat)]
  else if sel = 1 then h.vbase.toNat
  else h.frame.toNat

end Sys2Proof.Machine
end

