-- ==== Sys2Proof/Machine/Hub.lean ====
section
/-!
DEFINITION. Services of the hub die that several events share: MSI-X (R391), the page-fault queue (R300), launch sync words
(R259), arrivals at sync words (R286, R287) and the external inputs of a context (R35, R360, R379).
-/
namespace Sys2Proof.Machine

/-- Raises an MSI-X vector: its pending bit shows that it was raised (R391). -/
def State.raiseVector (s : State) (v : Nat) : State := s.onHub fun h => { h with msix := h.msix ||| BitVec.ofNat 32 (2 ^ v) }

/-! ### The page-fault queue (R300) -/

/-- An entry of the page-fault queue. -/
def faultBytes (va kind die h perm seq acc : Nat) : BitVec 256 :=
  BitVec.ofNat 256 (packLe [(64, va), (4, kind), (4, 0), (3, die), (5, 0), (4, h), (2, perm), (10, 0), (32, seq), (64, acc), (64, 0)])

/-- KIND of an entry. -/
def FaultEntry.kind (e : FaultEntry) : Nat := bitsOf e.bytes.toNat 64 4
/-- Kinds 5 and 6 are notices, which take no answer. -/
def FaultEntry.notice (e : FaultEntry) : Bool := e.kind == 5 || e.kind == 6

/-- Posts one entry into the ring, when the ring has room, and raises VEC (R300). -/
def State.postEntry (s : State) (p : Nat) (e : FaultEntry) : FaultEntry × State :=
  let base := (s.part p).make.faultQueue
  let tail := s.hbmRead base 4
  let head := s.hbmRead (base + 4) 4
  if e.posted || decide ((tail + 2 ^ 32 - head) % 2 ^ 32 ≥ 256) then (e, s)
  else
    let s1 := (s.hbmWrite (base + 64 + 32 * (e.seq % 256)) (leBytes 32 e.bytes.toNat)).hbmWrite base (leBytes 4 (tail + 1))
    let vec := s.hbmRead (base + 16) 1
    ({ e with posted := true }, if bitAt vec 7 then s1.raiseVector (vec % 32) else s1)

/-- Posts entries in order; once one is kept back, the ring has no room for the later ones either. -/
def State.postEntries (s : State) (p : Nat) : List FaultEntry → List FaultEntry × State
  | [] => ([], s)
  | e :: r =>
    let (e1, s1) := s.postEntry p e
    let (r1, s2) := s1.postEntries p r
    (e1 :: r1, s2)

/-- Posts what the ring has room for; a notice that is posted is forgotten. -/
def State.flushFaults (s : State) (p : Nat) : State :=
  let (l, s1) := s.postEntries p (s.part p).pf
  s1.onPart p fun q => { q with pf := l.filter fun e => !(e.notice && e.posted) }

/-- Queues an entry for the host driver, with its sequence number. -/
def State.queueFault (s : State) (p va kind die h perm acc : Nat) : Nat × State :=
  let seq := (s.part p).pfSeq
  let s1 := s.onPart p fun q =>
    { q with pfSeq := (seq + 1) % 2 ^ 32, pf := q.pf ++ [⟨seq, faultBytes va kind die h perm seq acc, false⟩] }
  (seq, s1.flushFaults p)

/-! ### External inputs (R35, R360, R379) -/

/-- The contexts that hold or wait with their state: they take inputs (R244, R287). -/
def Context.alive (c : Context) : Bool :=
  match c.state with
  | .empty | .retired | .failed => false
  | _ => true

/-- Applies an input to a timed core. -/
def Core.applyInput (c : Core) (i : CoreInput) : Core :=
  match i with
  | .arrival d n b err vref => c.onSync d n fun w => swArrival w b err vref
  | .target d n v => c.onSync d n fun w => swArm w v
  | .status d n v => c.onSync d n fun w => swClear w v
  | .shootdown va len =>
    let hit (h : Handle) : Bool :=
      h.v && decide (h.vbase.toNat < va + len) && decide (va < h.vbase.toNat + 2 ^ pageBits h.size)
    { c with
      hgen := c.hgen + 1
      dies := c.dies.map fun e => (e.1, { e.2 with tab := { e.2.tab with
        handles := e.2.tab.handles.map fun x => (x.1, if hit x.2 then { x.2 with revoked := true } else x.2) } }) }
  | .withdraw key => c.withdraw key
  | .landing h => c.land h
  | .hbm _ _ => c
  | .bankError n key => c.onSlice n fun sl => { sl with tag := SMap.set 0 sl.tag key 1 }
  | .smemError d w => c.onDie d fun x => { x with smemBad := w :: x.smemBad.filter (· != w) }
  | .debug t v => (c.debugWrite (c.dies.map Prod.fst) t v).getD c

/-- An input takes effect on a context at the boundary where it stands, and is kept for a rewind (R35, R360). -/
def State.absorb (s : State) (cid : Nat) (i : CoreInput) : State := (s.setCore cid ((s.core cid).applyInput i)).applied cid i

/-- An external input: its effects in order, and its record. -/
def State.input (s : State) (cid cls die : Nat) (payload : List Byte) (is : List CoreInput) : State :=
  (is.foldl (fun s i => s.absorb cid i) s).noteInput cid cls die payload is

/-- Puts a step of the link engine among the waiting events, once. -/
def State.linkSoon (s : State) (p : Nat) (i : Instr) : State :=
  if s.inputs.any fun e => e.instr == i then s else { s with inputs := s.inputs ++ [⟨p, none, i⟩] }

/-! ### Sync words -/

/-- Changes a launch sync word (R259). -/
def State.onLaunchWord (s : State) (n : Nat) (f : BitVec 128 → BitVec 128) : State :=
  s.onHub fun h => { h with sync := SMap.set 0 h.sync n (f (SMap.get 0 h.sync n)) }
/-- A launch sync word. -/
def State.launchWord (s : State) (n : Nat) : BitVec 128 := SMap.get 0 s.hub.sync n

end Sys2Proof.Machine
end

