-- ==== Sys2Proof/Machine/Queue.lean ====
section
/-!
DEFINITION. Launch queues (R255 to R263): control blocks in HBM, head records, queue states, TAIL writes, commands, aging and
the quantum.
-/
namespace Sys2Proof.Machine

/-- STATE codes (R256). -/
def QueueState.code : QueueState → Nat
  | .empty => 0
  | .waiting => 1
  | .ready => 2
  | .dispatching => 3
  | .blocked => 4
  | .suspended => 5
  | .errored => 6

/-- The address of a control block (R255). -/
def State.qBase (s : State) (p q : Nat) : Nat := (s.part p).make.queueArea + 64 * q
/-- A field of a control block, by byte offset and bytes. -/
def State.qRead (s : State) (p q off n : Nat) : Nat := s.hbmRead (s.qBase p q + off) n
/-- The dispatcher writes a field of a control block. -/
def State.qWrite (s : State) (p q off n v : Nat) : State := s.hbmWrite (s.qBase p q + off) (leBytes n v)
/-- HEAD (R256). -/
def State.qHead (s : State) (p q : Nat) : Nat := s.qRead p q 16 4
/-- TAIL (R256). -/
def State.qTail (s : State) (p q : Nat) : Nat := s.qRead p q 20 4
/-- LOG2N (R256). -/
def State.qLog (s : State) (p q : Nat) : Nat := s.qRead p q 8 1 % 16
/-- The dispatcher's copy of a queue. -/
def State.queue (s : State) (p q : Nat) : Queue := SMap.get {} (s.part p).queues q
/-- Changes the dispatcher's copy of a queue. -/
def State.onQueue (s : State) (p q : Nat) (f : Queue → Queue) : State :=
  s.onPart p fun t => { t with queues := SMap.put t.queues q (f (SMap.get {} t.queues q)) }
/-- Moves a queue to a state, and writes STATE; ERR is 0 unless errored (R256). Ready time starts with no boost (R261, R262). -/
def State.qState (s : State) (p q : Nat) (st : QueueState) : State :=
  let s1 := (s.onQueue p q fun x =>
    if st = .ready then { x with state := st, boost := 0, since := s.hub.wac.toNat } else { x with state := st }).qWrite p q 12 1 st.code
  if st = .errored then s1 else s1.qWrite p q 13 1 0
/-- A queue enters errored with a code (R260). -/
def State.qError (s : State) (p q code : Nat) : State := (s.qState p q .errored).qWrite p q 13 1 code
/-- The outstanding launch moves its queue, unless the queue stands suspended or errored, which only a command ends (R260, R261). -/
def State.qFollow (s : State) (p q : Nat) (st : QueueState) : State :=
  if (s.queue p q).state = .suspended ∨ (s.queue p q).state = .errored then s else s.qState p q st

/-! ### Launch records (R259, R260) -/

/-- A field of a launch record. -/
def recField (r : BitVec 512) (lo w : Nat) : Nat := bitsOf r.toNat lo w
/-- IMAGE. -/
def recImage (r : BitVec 512) : Nat := recField r 0 64
/-- PRIO. -/
def recPrio (r : BitVec 512) : Nat := recField r 328 2
/-- PREEMPT. -/
def recPreempt (r : BitVec 512) : Bool := recField r 336 1 == 1

/-- Whether a wait entry is met (R259): its word's GEN exceeds the token. -/
def State.waitMet (s : State) (e : Nat) : Bool :=
  !bitAt e 15 || !swWaits (s.launchWord (e % 1024)) (bitsOf e 32 32)
/-- Whether both wait entries of a record are met. -/
def State.recordMet (s : State) (r : BitVec 512) : Bool := s.waitMet (recField r 128 64) && s.waitMet (recField r 192 64)

/-- Whether a reserved bit of a launch record is nonzero (R259). -/
def recReserved (r : BitVec 512) : Bool :=
  let w (lo : Nat) : Bool := recField r (lo + 10) 5 != 0 || recField r (lo + 16) 16 != 0
  w 128 || w 192 || recField r 266 5 != 0 || recField r 278 10 != 0 || recField r 323 5 != 0 || recField r 330 6 != 0
    || recField r 337 47 != 0

/-- What R260 finds in a head record of a partition's queue: the error code, or 0. -/
def recError (id : Nat) (r : BitVec 512) : Nat :=
  if recReserved r then 1
  else if recField r 320 3 ≠ id then 2
  else if recField r 288 32 = 0 then 3
  else if recImage r % 64 ≠ 0 ∨ recImage r ≥ 2 ^ 52 then 4
  else 0

/-- PARTN.ID of a partition (R14). -/
def State.partId (s : State) (p : Nat) : Nat := p / (s.part p).n

/-- Reads bytes through a page table, where every page has a valid leaf with the permissions asked for and REMOTE = 0. -/
def State.readVa (s : State) (ptbase va n perm : Nat) : Option (List Byte) :=
  (List.range n).foldr (fun i acc =>
    match acc, s.translate ptbase (va + i) with
    | some l, some (leaf, pa) => if leafGrants leaf perm && !pteBit leaf 11 then some (s.hbmByte pa :: l) else none
    | _, _ => none) (some [])

/-- Whether the record at HEAD is posted (R256, R257); a disabled queue has none. -/
def State.qPosted (s : State) (p q : Nat) : Bool :=
  let d := (s.qTail p q + 2 ^ 32 - s.qHead p q) % 2 ^ 32
  decide (s.qLog p q ≠ 0 ∧ 1 ≤ d ∧ d ≤ 2 ^ s.qLog p q)

/-- Reads the head record of a queue and puts the queue into the state it gives (R258, R260, R261); a suspended queue stays
suspended unless the check fails. -/
def State.headRecord (s : State) (p q : Nat) : State :=
  if !s.qPosted p q then s.qFollow p q .empty
  else
    let va := s.qRead p q 0 8 + 64 * (s.qHead p q % 2 ^ s.qLog p q)
    match s.readVa (s.part p).make.ptbase va 64 1 with
    | none => s.qError p q 8
    | some bs =>
      let r : BitVec 512 := BitVec.ofNat 512 (ofLeBytes bs)
      let s1 := s.onQueue p q fun x => { x with head := r, launch := none }
      if recError (s.partId p) r ≠ 0 then s1.qError p q (recError (s.partId p) r)
      else s1.qFollow p q (if s1.recordMet r then .ready else .waiting)

/-- The record of a finished launch is consumed: HEAD := HEAD + 1, and the next record is read, but by an errored queue (R260, R261). -/
def State.advanceHead (s : State) (p q : Nat) : State :=
  let s1 := (s.qWrite p q 16 4 (s.qHead p q + 1)).onQueue p q fun x => { x with launch := none }
  if (s.queue p q).state = .errored then s1 else s1.headRecord p q

/-- Queues whose last unmet wait entry is met become ready (R261). -/
def State.wakeQueues (s : State) : State :=
  s.parts.foldl (fun s e =>
    (List.range 8).foldl (fun s q =>
      let x := s.queue e.1 q
      if x.state = .waiting ∧ s.recordMet x.head then s.qState e.1 q .ready else s) s) s

/-- An arrival at a launch sync word, at the DSOP (R259, R287). -/
def State.launchArrival (s : State) (n b : Nat) (err : Bool) (vref : Nat) : State :=
  (s.onLaunchWord n fun w => swArrival w b err vref).wakeQueues

/-! ### TAIL and CMD (R257, R261) -/

/-- TAIL_WRITE (R257). -/
def execTailWrite (p q v : Nat) (s : State) : Res :=
  let head := s.qHead p q
  let old := s.qTail p q
  let d := (v % 2 ^ 32 + 2 ^ 32 - head) % 2 ^ 32
  .next (if s.qLog p q = 0 then s
    else if d > 2 ^ s.qLog p q ∨ (old + 2 ^ 32 - head) % 2 ^ 32 > d then s.qError p q 6
    else
      let s1 := s.qWrite p q 20 4 v
      if old = head ∧ (s.queue p q).state ≠ .errored ∧ (s.queue p q).launch = none then s1.headRecord p q else s1)

/-- The command field reads back 00 once applied (R256). -/
def State.cmdDone (s : State) (p q : Nat) : State := s.qWrite p q 24 1 (s.qRead p q 24 1 / 4 * 4)

/-- A launch that is parked is not restored while its queue is suspended: a selected one is selected no more (R261). -/
def State.deselect (s : State) (p q : Nat) : State :=
  match (s.queue p q).launch with
  | some cid =>
    if (s.part p).next = some cid ∧ ((s.ctx cid).state = .parked ∨ (s.ctx cid).state = .saved) then s.onPart p fun t => { t with next := none }
    else s
  | none => s

/-- QUEUE_SUSPEND (R261): any state but errored; the outstanding launch runs on. -/
def execQueueSuspend (p q : Nat) (s : State) : Res :=
  .next ((if (s.queue p q).state = .errored then s else (s.deselect p q).qState p q .suspended).cmdDone p q)

/-- The state of a queue that leaves suspended or errored, per the conditions of R261. -/
def State.resumeState (s : State) (p q : Nat) : QueueState :=
  let x := s.queue p q
  let selected : QueueState := if (s.part p).running.isSome then .blocked else .dispatching
  match x.launch with
  | some cid =>
    match (s.ctx cid).state with
    | .parked | .saved => if (s.part p).next = some cid then selected else .ready
    | .loading => selected
    | _ => .dispatching
  | none => if !s.qPosted p q then .empty else if s.recordMet x.head then .ready else .waiting

/-- QUEUE_RESUME (R261): ignored outside suspended. -/
def execQueueResume (p q : Nat) (s : State) : Res :=
  .next ((if (s.queue p q).state = .suspended then s.qState p q (s.resumeState p q) else s).cmdDone p q)

/-- QUEUE_CLEAR (R260, R261): HEAD := HEAD + 1 and ERR := 0; ignored outside errored. The launch outstanding stays so. -/
def execQueueClear (p q : Nat) (s : State) : Res :=
  .next ((if (s.queue p q).state = .errored then
      let s1 := (s.qWrite p q 16 4 (s.qHead p q + 1)).qState p q .empty
      if (s.queue p q).launch.isSome then s1.qState p q (s1.resumeState p q) else s1.headRecord p q
    else s).cmdDone p q)

/-! ### Priority (R262, R263) -/

/-- Effective priority of a ready queue (R262). -/
def State.effective (s : State) (p q : Nat) : Nat := min 4 (recPrio (s.queue p q).head + (s.queue p q).boost)

/-- Service of a parked launch's fault is not complete, so dispatch does not select it (R246). -/
def Context.faulted (c : Context) : Bool :=
  c.holds.any fun h => match h.on with
    | .fault _ _ _ _ _ answered => !answered
    | .migrate _ _ _ | .poison _ _ => true
    | _ => false

/-- The ready queues; LOG2N = 0 disables a queue (R256). -/
def State.readyQueues (s : State) (p : Nat) : List Nat :=
  (List.range 8).filter fun q => (s.queue p q).state == .ready && decide (s.qLog p q ≠ 0)

/-- The queues that dispatch may select: the ready ones, but not one whose parked launch waits for fault service (R246). -/
def State.selectable (s : State) (p : Nat) : List Nat :=
  (s.readyQueues p).filter fun q => match (s.queue p q).launch with | some cid => !(s.ctx cid).faulted | none => true

/-- The queue that dispatch selects (R262): highest effective priority; round-robin below level 4, order of arrival at it. -/
def State.pickQueue (s : State) (p : Nat) : Option Nat :=
  let l := s.selectable p
  let top := l.foldl (fun a q => max a (s.effective p q)) 0
  let at_ := l.filter fun q => s.effective p q == top
  let last := SMap.get 7 (s.part p).served top
  let key (q : Nat) : Nat := if top = 4 then (s.queue p q).order else (q + 7 - last) % 8
  at_.foldl (fun b q => match b with
    | none => some q
    | some x => if key q < key x then some q else some x) none

/-- The aging limit of a queue in wall nanoseconds: AGE ms, 0 meaning 50 (R256). -/
def State.agingLimit (s : State) (p q : Nat) : Nat :=
  let age := s.qRead p q 9 1
  1000000 * (if age = 0 then 50 else age)

/-- Whether a ready queue has waited one aging limit (R257, R262). -/
def State.agingDue (s : State) (p q : Nat) : Bool :=
  (s.queue p q).state == .ready && decide ((s.queue p q).since + s.agingLimit p q ≤ s.hub.wac.toNat)

/-- The queue whose next aging step fell due first (R262: level 4 is served in the order in which queues reached it). -/
def State.agingFirst (s : State) (p : Nat) : Option Nat :=
  let due (q : Nat) : Nat := (s.queue p q).since + s.agingLimit p q
  ((List.range 8).filter fun q => s.agingDue p q).foldl (fun b q => match b with
    | none => some q
    | some x => if due q < due x then some q else some x) none

/-- AGING_STEP (R262): a ready queue that has waited one aging limit rises by 1, up to 4. -/
def execAgingStep (p q : Nat) (s : State) : Res :=
  if !s.agingDue p q then .fault .notInThisState
  else
    let s1 := s.onQueue p q fun x => { x with since := x.since + s.agingLimit p q, boost := x.boost + (if s.effective p q < 4 then 1 else 0) }
    .next (if s.effective p q < 4 ∧ s1.effective p q = 4 then
        (s1.onQueue p q fun x => { x with order := (s.part p).level4 }).onPart p fun t => { t with level4 := t.level4 + 1 }
      else s1)

/-- Whether the running launch may be pre-empted and a ready queue stands strictly above it (R263). -/
def State.outranked (s : State) (p cid : Nat) : Bool :=
  let c := s.ctx cid
  recPreempt c.launch && (s.readyQueues p).any fun q => decide (s.effective p q > recPrio c.launch)

/-- Whether the dispatcher requests a pre-emption: the launch is outranked and has used its quantum (R263). That its queue is suspended
does not keep it from being pre-empted (log entry 94). -/
def State.mustPreempt (s : State) (p : Nat) : Bool :=
  match (s.part p).running with
  | none => false
  | some cid => (s.ctx cid).quantumOut && s.outranked p cid

/-- Whether the running launch has used its quantum, in wall time since its dispatch or restore (R263). -/
def State.quantumDue (s : State) (cid : Nat) : Bool :=
  let c := s.ctx cid
  !c.quantumOut && decide (c.started + 1000 * recField c.launch 288 32 ≤ s.hub.wac.toNat)

/-- QUANTUM_EXPIRY (R263): from now on a higher ready queue has the running launch pre-empted. -/
def execQuantumExpiry (p : Nat) (s : State) : Res :=
  match (s.part p).running with
  | none => .fault .noSuchObject
  | some cid => if s.quantumDue cid then .next (s.onCtx cid fun c => { c with quantumOut := true }) else .fault .notInThisState

end Sys2Proof.Machine
end

