-- ==== Sys2Proof/Machine/Fetch.lean ====
section
/-!
DEFINITION. Fetching a bundle (R85, R91, R92), its energy cost (R384), ENRD and CFGR (R149, R154), the breakpoints it meets (R153, R373), and which bundles
a partition is about to issue (R20).
-/
namespace Sys2Proof.Machine

/-- A byte of the die program as it stood at admission (R92). -/
def Context.textByte (c : Context) (va : Nat) : Option Byte :=
  (c.text.find? fun e => decide (e.1 ≤ va ∧ va < e.1 + e.2.length)).map fun e => e.2.getD (va - e.1) 0

/-- A byte that the sequencer fetches: the program as admitted, elsewhere what the address maps to. -/
def State.fetchByte (s : State) (cid va : Nat) : Byte :=
  match (s.ctx cid).textByte va with
  | some b => b
  | none =>
    match s.translate (s.ctx cid).ptbase va with
    | some (_, pa) => s.hbmByte pa
    | none => 0

/-- A 64-bit word that the sequencer fetches. -/
def State.fetchWord (s : State) (cid va : Nat) : DWord := dw (ofLeBytes ((List.range 8).map fun i => s.fetchByte cid (va + i)))

/-- The bundle at an address (R85). -/
def State.fetchBundle (s : State) (cid va : Nat) : Bundle :=
  let h := Header.ofWord (s.fetchWord cid va)
  ⟨va, h, h.slots.zipIdx.map fun e => (e.1, s.fetchWord cid (va + 8 * (e.2 + 1)))⟩

/-! ### What is about to issue (R20, R350, R364) -/

/-- The address of the bundle that a die issues in the cycle about to run. -/
def Core.dueBundle (c : Core) (d : Nat) : Option Nat :=
  let x := c.die d
  if c.handler then (if x.inS ∧ x.hnext = c.hclk then some x.hpc else none)
  else if x.ended.isSome ∨ x.rev.isSome ∨ x.next ≠ c.acc.toNat then none
  else some x.pc

/-- Whether REVERSE issues an adjoint bundle on a die in the cycle about to run. -/
def Core.dueAdjoint (c : Core) (d : Nat) : Bool :=
  !c.handler && match (c.die d).rev with
    | some r => r.next == c.acc.toNat
    | none => false

/-- The log record that REVERSE takes next: it ends at LOGPTR, performed or not (R343, R350). -/
def State.revRecord (s : State) (cid d : Nat) : BitVec 256 :=
  let x := (s.core cid).die d
  let h : Handle := SMap.get {} x.tab.handles (x.logbase >>> 60).toNat
  BitVec.ofNat 256 (s.logRead cid d (h.frame.toNat + x.logptr.toNat - 32) 32)

/-! ### Energy (R384) -/

/-- m(y) of a syllable (R384). -/
def energyTimes (t : Tables) (i : Instr) : Nat :=
  match i with
  | .fill f | .fillm f | .spill f => (t.copyWords f + 15) / 16
  | _ =>
    match mForm i with
    | some (_, f) => f.rows.toNat + 1
    | none => match cxForm? i with | some f => f.words.toNat + 1 | none => 1

/-- The cost of a slice syllable given as its word, in n member slices. -/
def syllableCost (t : Tables) (d n slot : Nat) (w : DWord) : Nat :=
  let i? := if slot < 6 then (decodeSlot slot w).toOption else none
  let ty := match i? with | some i => (resolvedTypes t i).1 | none => 0
  let m := match i? with | some i => energyTimes t i | none => 1
  Config.costSyllable d slot (if slot < 6 then opcOf w else 0) ty * n * m

/-- The cost of a bundle on a die (R384). -/
def Core.bundleCost (c : Core) (d : Nat) (t : Tables) (padded : Bool) (b : Bundle) : Nat :=
  if padded then Config.costPad d
  else
    let n := (c.members b.hdr.grp.toNat d).length
    Config.costHeader d + (b.words.map fun e =>
      if e.1 = 0 then Config.costS d (opcOf e.2) else syllableCost t d n e.1 e.2).sum

/-- The cost of the adjoint bundle of a record: charged like an issued bundle of its one syllable (R384). -/
def Core.adjointCost (c : Core) (d : Nat) (t : Tables) (r : BitVec 256) : Nat :=
  let n := (c.members (bitsOf r.toNat 80 8) d).length
  Config.costHeader d + syllableCost t d n (bitsOf r.toNat 88 3 + 1) (dw (bitsOf r.toNat 0 64))

/-- What a die of a context costs its partition in the cycle about to run. -/
def State.dieCost (s : State) (cid d : Nat) : Nat :=
  let c := s.core cid
  let t := (c.die d).tab
  match c.dueBundle d with
  | some a => c.bundleCost d t (t.padded && !c.handler) (s.fetchBundle cid a)
  | none => if c.dueAdjoint d then c.adjointCost d t (s.revRecord cid d) else 0

/-- What a partition's dies cost together in the cycle about to run (R384). -/
def State.cycleCost (s : State) (cid : Nat) : Nat := ((s.diesOf (s.ctx cid).p).map (s.dieCost cid)).sum

/-- The allowance after the debit of this cycle, which takes the sum over the dies of the partition (R384): those that issue in it after
the running die count already. -/
def State.allowT (s : State) : DWord :=
  let have_ := (s.part s.cur.p).allow
  have_ - dw (min (s.cycleCost s.cur.cid) have_.toNat)

/-- ENRD (R154): the allowance after the debit of its T. -/
def execEnrd (f : SR) (s : State) : Res :=
  let r := s.wallReading 0x40 s.allowT
  .next (r.2.retX f.xd r.1 1)

/-- What a CFGR at T finds: EALLOW is of partition scope, one value on every die (R81, R149). -/
def State.csrT (s : State) (n : Nat) : DWord := if n = 0x40 then s.allowT else s.csr n

/-- CFGR (R149): a reserved number traps with cause 0x03, an S register in U with cause 0x04 (R81). -/
def execCfgr (f : SC) (s : State) : Res :=
  let n := f.csr.toNat
  let s1 := (s.illegal (!csrDefined n)).trapTWhen (csrS n && !s.die.inS) 4 s.position
  let r := if csrWall n then s1.wallReading n (s.csr n) else (s.csrT n, s1)
  .next (r.2.retX f.xd r.1 1)

/-! ### Breakpoints (R153, R373) -/

/-- Whether a breakpoint register matches a bundle about to issue. -/
def dbpHit (v : BitVec 64) (addr : Nat) (padded hnd : Bool) : Bool :=
  v.getLsbD 0 && (v.getLsbD 1 || !padded) && (v.getLsbD 2 || !hnd) && bitsOf v.toNat 3 49 == bitsOf addr 3 49

/-- Whether a die is about to issue a bundle at which the debugger stops it, by a register or by the bundle's own BRK. -/
def State.stopsHere (s : State) (cid d : Nat) : Bool :=
  let c := s.core cid
  let x := c.die d
  match c.dueBundle d with
  | none => false
  | some a =>
    let padded := x.tab.padded && !c.handler
    s.hub.debugOpen && !x.skip && x.probe.isNone &&
      ((s.dieHw d).dbp.any (fun e => dbpHit e.2 a padded c.handler)
        || (s.hub.brkStops && !padded && (s.fetchBundle cid a).decoded.any fun e => match e.2 with | .brk _ => true | _ => false))

end Sys2Proof.Machine
end

