-- ==== Sys2Proof/Machine/SeqPage.lean ====
section
/-!
DEFINITION. The handle forms: TRANS (R299), HINV (R303), HGET (R304).
-/
namespace Sys2Proof.Machine

/-- TRANS (R299): the handle at T + 18. A lookup that needs no hold forms it from the state at T (R440); otherwise the walk
or fault hold is asked for at the boundary before T + 18. -/
def execTrans (f : SC) (s : State) : Res :=
  let va := (s.xreg f.xa).toNat
  let perm := f.imm.toNat % 4
  let s1 := (s.useX f.xa).illegal (decide (f.xd.toNat ≥ 16 ∨ perm = 0 ∨ va ≥ 2 ^ 52))
  let (hit, s2) := s1.lookupData s.cur.d (s.ctx s.cur.cid).asn va
  let ask (kind : Nat) (on : HoldOn) : State := s2.onCore fun c =>
    { c with reqs := c.reqs ++ [⟨s.T + 18, s.cur.fl.hnd, ⟨kind, s.cur.d, on⟩⟩] }
  let h := some f.xd.toNat
  .next (match hit with
    | some e =>
      if pteBit e.leaf 10 then ask 8 (.migrate va perm h)
      else if leafGrants e.leaf perm then
        s2.owe (s.T + 17) (.tab (.handle f.xd.toNat (handleOf e.leaf e.size va perm s.here.hgen)))
      else ask 8 (.fault va perm h 2 0 false)
    | none => ask 1 (.walk va perm h))

/-- HINV (R303): V := 0 at T + 1. -/
def execHinv (f : SC) (s : State) : Res := .next ((s.indexCheck f.xd 16).oweTab (.hinv f.xd.toNat))

/-- HGET (R304): a word of the handle as it stands at T; word 2 in U traps with cause 0x04. -/
def execHget (f : SC) (s : State) : Res :=
  let sel := f.csr.toNat
  let s1 := (s.illegal (decide (f.xa.toNat ≥ 16 ∨ sel > 2))).trapTWhen (sel == 2 && !s.die.inS) 4 s.position
  .next (s1.retX f.xd (dw ((SMap.get {} s.tab.handles f.xa.toNat).word sel)) 1)

end Sys2Proof.Machine
end

