-- ==== Sys2Proof/Machine/Hold.lean ====
section
/-!
DEFINITION. Holds (R25 to R27, R440): which ones a boundary begins, how they are recorded, how they end, and the results that
form when the last one ends.
-/
namespace Sys2Proof.Machine

/-! ### Lookups (R91, R295, R299, R300) -/

/-- The pages of the handler section, then those of a die's program, each in ascending address (R295). -/
def Context.textPages (c : Context) (d : Nat) : List Nat :=
  let sect (n : Nat) : List Nat :=
    let off := bitsOf c.header.toNat (384 + 64 * n) 32
    let len := bitsOf c.header.toNat (384 + 64 * n + 32) 32
    if len = 0 then [] else (List.range ((c.img + off + len - 1) / 65536 - (c.img + off) / 65536 + 1)).map ((c.img + off) / 65536 + ·)
  (sect 8 ++ sect (d - c.p)).eraseDups

/-- The pages that the steward pins in a die's instruction TLB (R295): the first 32 text pages whose leaves carry X. -/
def State.pinPages (s : State) (cid d : Nat) : List Nat :=
  let c := s.ctx cid
  ((c.textPages d).filter fun page =>
    match s.walk c.ptbase (65536 * page) with
    | .leaf leaf _ _ => pteBit leaf 3
    | _ => false).take 32

/-- The steward pins a page of a context's text once a lookup has filled a leaf that carries X, while fewer than 32 are pinned
(R295). -/
def State.pinPage (s : State) (cid d va : Nat) : State :=
  let asn := (s.ctx cid).asn
  if (s.pinPages cid d).contains (va / 65536) && decide ((((s.dieHw d).itlb.filter fun e => e.pinned).length) < 32) then
    s.onHw d fun w => { w with itlb := w.itlb.map fun e => if e.hits asn va && pteBit e.leaf 3 then { e with pinned := true } else e }
  else s

/-- The leaf that a fetch finds without a walk: instruction TLB, then last level (R295). -/
def State.lookupFetch (s : State) (cid d va : Nat) : Option TlbEntry × State :=
  let h := s.dieHw d
  let asn := (s.ctx cid).asn
  match tlbFind h.itlb asn va with
  | some e => (some e, s)
  | none =>
    match tlbFind h.ltlb asn va with
    | some e => (some e, (s.onHw d fun h => { h with itlb := tlbPush h.itlb e, ltlb := tlbTouchSet h.ltlb e }).pinPage cid d va)
    | none => (none, s)

/-- What a lookup finds wrong with a leaf: the hold it needs (R299, R300, R305). -/
def leafHold (d va perm : Nat) (h : Option Nat) (leaf : BitVec 64) : Option Hold :=
  if h.isSome && pteBit leaf 10 then some ⟨8, d, .migrate va perm h⟩
  else if leafGrants leaf perm then none
  else some ⟨8, d, .fault va perm h (if h.isSome then 2 else 4) 0 false⟩

/-- Looks an address up for a TRANS (handle h) or a fetch (none): the hold that it needs, if any. -/
def State.lookAgain (s : State) (cid d va perm : Nat) (h : Option Nat) : Option Hold × State :=
  let (hit, s1) := if h.isSome then s.lookupData d (s.ctx cid).asn va else s.lookupFetch cid d va
  match hit with
  | some e => (leafHold d va perm h e.leaf, s1)
  | none => (some ⟨1, d, .walk va perm h⟩, s1)

/-- The hold that a line of a bundle about to issue needs (R91): a translation, the permission X, or the line itself. -/
def State.lineHold (s : State) (cid d line : Nat) : Option Hold × State :=
  match s.lookAgain cid d (64 * line) 4 none with
  | (some h, s1) => (some h, s1)
  | (none, s1) =>
    (if (s1.dieHw d).icache.contains ((s.ctx cid).asn, line) then none else some ⟨2, d, .imiss [line]⟩, s1)

/-- The holds of the lines that a range of the program touches, in order; a later line waits until the first is present, for it
is the first that tells the bundle's length. -/
def State.rangeHold (s : State) (cid d va n : Nat) : Option Hold × State :=
  match s.lineHold cid d (va / 64) with
  | (some h, s1) => (some h, s1)
  | (none, s1) => if (va + n - 1) / 64 = va / 64 then (none, s1) else s1.lineHold cid d ((va + n - 1) / 64)

/-- The walker has read the header of the bundle at `stop`, the END of a loop of no passes: the die goes on behind it (R132). -/
def State.passEnd (s : State) (cid d stop : Nat) : State :=
  let len := (Header.ofWord (s.fetchWord cid stop)).bytes
  s.setCore cid ((s.core cid).onDie d fun x => { x with probe := none, pc := stop + len })

/-- The header at END that the walker reads after a loop of no passes (R132): its line is fetched like a bundle's. -/
def State.probeEnd (s : State) (cid d : Nat) : Option Hold × State :=
  match ((s.core cid).die d).probe with
  | none => (none, s)
  | some stop =>
    match s.lineHold cid d (stop / 64) with
    | (some h, s1) => (some h, s1)
    | (none, s1) => (none, s1.passEnd cid d stop)

/-- What keeps the bundle that a die is about to issue from being fetched. -/
def State.fetchHold (s : State) (cid d : Nat) : Option Hold × State :=
  match (s.core cid).dueBundle d with
  | none => (none, s)
  | some _ =>
    match s.probeEnd cid d with
    | (some h, s1) => (some h, s1)
    | (none, s1) =>
      match (s1.core cid).dueBundle d with
      | none => (none, s1)
      | some a =>
        match s1.rangeHold cid d a 8 with
        | (some h, s2) => (some h, s2)
        | (none, s2) => s2.rangeHold cid d a (Header.ofWord (s2.fetchWord cid a)).bytes

/-- The fetch holds of every die of a context, in ascending die order. -/
def State.fetchHolds (s : State) (cid : Nat) : List Nat → List Hold × State
  | [] => ([], s)
  | d :: r =>
    let (h, s1) := s.fetchHold cid d
    let (l, s2) := s1.fetchHolds cid r
    (h.toList ++ l, s2)

/-- The local HATOMs that are about to reach their homes and will be parked there (R369). -/
def State.parkingNow (s : State) (cid : Nat) : List Hatom :=
  let c := s.core cid
  if c.handler then [] else c.hatoms.filter fun h =>
    h.ctx.X + 400 == c.acc.toNat && !h.parked && !h.remote && !s.hub.knows h.tag
      && (h.retry || h.pairs.any fun e => s.hub.badWords.contains (e.2.1 / 4))

/-- The die of a HATOM that would be parked in a full fault queue, counting those that reach the same home in the same cycle (R369);
the lowest such die. -/
def State.homeFull (s : State) (cid : Nat) : Option Nat :=
  let l := s.parkingNow cid
  ((l.filter fun h =>
    let n := (SMap.get [] s.hub.homes h.home).length
    decide (n ≠ 0) && decide (n + (l.filter fun g => g.home == h.home).length > 64)).map fun h => h.ctx.d).min?

/-- Whether a pending write is the fetched value of a HATOM, which lands at X + 800 (R29, R202). -/
def Core.fetched (c : Core) (o : Owed) : Bool :=
  (match o.dest with | .bank _ _ _ _ _ => true | _ => false)
    && c.flights.any fun f => !f.hnd && f.inv.isNone && f.die == o.die && f.T == o.issued
      && f.syl.any fun e => e.1 == o.slot && match e.2 with | .hatom _ => true | _ => false

/-- The dies of which a landing or an HBM perform cycle falls in the cycle about to run (R26, R29, R204, R343). -/
def Core.landings (c : Core) : List Nat :=
  let C := c.acc.toNat
  ((c.tasks.filter fun t => t.cyc == C && !t.ctx.fl.hnd && t.ctx.row != 0 && match t.instr with
      | .fill _ | .fillm _ | .fillx _ => true
      | _ => false).map fun t => t.ctx.d)
  ++ ((c.owed.filter fun o => o.due == C && !o.hnd
      && (c.fetched o || match o.dest with | .hbm _ _ _ _ _ | .hatom _ _ | .log _ _ => true | _ => false)).map Owed.die)

/-- The die whose landing or perform cycle the memory controller cannot meet in the cycle about to run, the lowest where there are
several (R26, R27, R204, R369): one of the cycle's, while the FILL_LATE_CLEAR of that cycle waits among the outside events (log entry
91), or one of a HATOM that finds its home full. -/
def State.lateNow (s : State) (cid : Nat) : Option Nat :=
  let c := s.core cid
  let told := !c.handler && s.inputs.any fun e =>
    e.acc == some c.acc.toNat && (match e.instr with | .fillLateClear n => n == cid | _ => false)
  ((if told then c.landings.min? else none).toList ++ (s.homeFull cid).toList).min?

/-- The holds that the cycle about to run needs (R26): breakpoints, fetches, late landings; and once every bundle is there,
energy. -/
def State.cycleHolds (s : State) (cid : Nat) : List Hold × State :=
  let p := (s.ctx cid).p
  let dies := s.diesOf p
  let (fetches, s1) := s.fetchHolds cid dies
  let stops : List Hold := (dies.filter (s1.stopsHere cid)).map fun d => ⟨10, d, .debug⟩
  let late : List Hold := ((s1.lateNow cid).map fun d => (⟨3, d, .late (s.core cid).acc.toNat⟩ : Hold)).toList
  let cost := s1.cycleCost cid
  let energy : List Hold :=
    if fetches.isEmpty && decide (cost > (s1.part p).allow.toNat) then [⟨7, p, .energy cost⟩] else []
  (stops ++ fetches ++ late ++ energy, s1)

/-! ### Beginning and ending -/

/-- The order in which holds that begin together count: kind, then die. -/
def holdBefore (a b : Hold) : Bool := decide (a.kind < b.kind) || (a.kind == b.kind && decide (a.die < b.die))

/-- DIE of HOLDR (R27): the partition's lowest die for preempt, debug, energy, wait and align. -/
def holdDie (p : Nat) (h : Hold) : Nat := if h.kind = 4 ∨ h.kind = 5 ∨ h.kind = 7 ∨ h.kind = 9 ∨ h.kind = 10 then p else h.die

/-- State of a context under holds (R244). -/
def heldState (hs : List Hold) : CtxState :=
  if hs.isEmpty then .running
  else if hs.any fun h => h.kind == 9 then .parked
  else if hs.any fun h => h.kind == 8 || h.kind == 10 then .frozen else .held

/-- Posts the page-fault entry of a fault hold, and keeps its SEQ (R300). -/
def State.postHold (s : State) (cid : Nat) (h : Hold) : Hold × State :=
  match h.on with
  | .fault va perm n why _ _ =>
    let va' := if n.isSome then va else va / 64 * 64
    let (seq, s1) := s.queueFault (s.ctx cid).p va' why h.die (n.getD 0) (if n.isSome then perm else 0) (s.core cid).acc.toNat
    ({ h with on := .fault va perm n why seq false }, s1)
  | _ => (h, s)

/-- Posts the entries of holds, in order. -/
def State.postHolds (s : State) (cid : Nat) : List Hold → List Hold × State
  | [] => ([], s)
  | h :: r =>
    let (h1, s1) := s.postHold cid h
    let (l, s2) := s1.postHolds cid r
    (h1 :: l, s2)

/-- Holds begin at the boundary where a context stands; HOLDR records the lowest code of those that begin together (R27), and faults
post their entries in ascending die order (R300). -/
def State.beginHolds (s : State) (cid : Nat) (hs : List Hold) : State :=
  match sortBy holdBefore hs with
  | [] => s
  | h :: _ =>
    let (l, s1) := s.postHolds cid (sortBy (fun a b => decide (a.die < b.die)) hs)
    let acc := (s.core cid).acc.toNat
    let c := s1.ctx cid
    let s2 := s1.setCtx cid
      { c with
        holds := c.holds ++ l
        state := if c.state = .parked ∨ c.state = .saved ∨ c.state = .restoring then c.state else heldState (c.holds ++ l)
        kernel := if c.kernel = .running then .held else c.kernel
        begun := if c.state = .running then s.hub.wac.toNat else c.begun
        holdr := dw (packLe [(4, h.kind), (3, holdDie c.p h), (9, 0), (48, acc)]) }
    l.foldl (fun s x => s.trace cid x.die 3 ((s.core cid).nextAddr x.die) acc none x.kind) s2

/-! ### Results that form at a release (R440) -/

/-- Writes the xd of a WAITG or ALIGN, and the xs of its bundle, at the release. -/
def State.formX (s : State) (cid : Nat) (r : HoldReq) (xd : Nat) (v : DWord) : State :=
  s.setCore cid ((let c := (s.core cid)
    { c with flights := c.flights.map fun f =>
        if f.die = r.hold.die ∧ f.T + 1 = r.cyc ∧ f.hnd = r.hnd then { f with xs := v } else f } : Core).onDie r.hold.die fun d =>
      if xd = 0 then d else { d with x := SMap.set 0 d.x xd v })

/-- Whether the bundle before the result cycle of a TRANS invalidates the same handle: that later write stands (R298). -/
def Core.hinvAfter (c : Core) (r : HoldReq) (n : Nat) : Bool :=
  c.flights.any fun f => f.die == r.hold.die && f.hnd == r.hnd && f.T + 1 == r.cyc
    && f.syl.any fun e => match e.2 with | .hinv g => g.xd.toNat == n | _ => false

/-- What the translation of a TRANS, as the page tables stand, needs before its handle can form (R299, R305, R440). -/
def State.formHold (s : State) (cid : Nat) (r : HoldReq) : Option Hold :=
  let d := r.hold.die
  let look (va perm n : Nat) : Option Hold :=
    match s.walk (s.ctx cid).ptbase va with
    | .leaf leaf _ _ => leafHold d va perm (some n) leaf
    | .notMapped => some ⟨8, d, .fault va perm (some n) 1 0 false⟩
    | .malformed => some ⟨8, d, .fault va perm (some n) 7 0 false⟩
  match r.hold.on with
  | .walk va perm (some n) | .fault va perm (some n) _ _ _ | .migrate va perm (some n) => look va perm n
  | _ => none

/-- Forms the handle of a TRANS from the page tables as they stand (R299, R440); a handler's stays through a rewind (R359). -/
def State.formHandle (s : State) (cid : Nat) (r : HoldReq) (va perm n : Nat) : State :=
  match s.walk (s.ctx cid).ptbase va with
  | .leaf leaf level _ =>
    let c := s.core cid
    let h : Handle := { handleOf leaf level va perm c.hgen with v := !c.hinvAfter r n }
    let put (c : Core) : Core := c.onDie r.hold.die fun d => { d with tab := { d.tab with handles := SMap.put d.tab.handles n h } }
    let s1 := s.setCore cid (put c)
    if r.hnd then s1.onCtx cid fun x => { x with marks := x.marks.map fun m => (m.1, put m.2) } else s1
  | _ => s

/-- Forms one result. -/
def State.formResult (s : State) (cid : Nat) (r : HoldReq) : State :=
  match r.hold.on with
  | .wait a token xd _ =>
    let d := (s.core cid).die r.hold.die
    let w := d.syncAt a
    let s1 := s.formX cid r xd (swWaitResult w token)
    if swPast w token ≥ 2 then
      s1.setCore cid ((s1.core cid).onDie r.hold.die fun d => d.setSync a (swLapped (d.syncAt a)))
    else s1
  | .align _ xd =>
    let cur : Ctx := { cid := cid, p := (s.ctx cid).p, d := r.hold.die, fl := { T := r.cyc - 1, hnd := r.hnd, die := r.hold.die } }
    let (v, s1) := ({ s with cur := cur } : State).wallReading alignHeld s.hub.wac
    ({ s1 with cur := s.cur } : State).formX cid r xd v
  | .walk va perm (some n) | .fault va perm (some n) _ _ _ | .migrate va perm (some n) => s.formHandle cid r va perm n
  | _ => s

/-- Running, or ending once a die has ended (R270). -/
def Core.kernelState (c : Core) : KernelState := if c.dies.any fun e => e.2.ended.isSome then .ending else .running

/-- The results that form when the last hold of a boundary ends (R440). They form as the cycle begins, so that every input applied at
the held boundary is in them, and the boundary of the rewind record holds them (R358). -/
def State.formResults (s : State) (cid : Nat) : State :=
  if (s.core cid).forming.isEmpty then s
  else
    let s1 := (s.core cid).forming.foldl (fun s r => s.formResult cid r) s
    (s1.setCore cid { s1.core cid with forming := [] }).remark cid

/-- The last hold has ended, and the cycle goes on (R25). -/
def State.resume (s : State) (cid : Nat) : State :=
  s.onCtx cid fun c =>
    { c with
      state := .running
      kernel := if c.kernel = .held ∨ c.kernel = .suspended then (s.core cid).kernelState else c.kernel
      holdcnt := c.holdcnt + (s.hub.wac - dw c.begun) }

/-- When no hold of a context is left: the holds that a forming handle or the cycle still needs begin while it stands held (R27, R299),
else it runs. -/
def State.release (s : State) (cid : Nat) : State :=
  if (s.ctx cid).holds.isEmpty && ((s.ctx cid).state == .held || (s.ctx cid).state == .frozen) then
    let (cycle, s1) := s.cycleHolds cid
    let hs := (s.core cid).forming.filterMap (s.formHold cid) ++ cycle
    if hs.isEmpty then s1.resume cid else s1.beginHolds cid hs
  else s

/-- Removes the holds that a test picks out, with their trace records (R376). -/
def State.dropHolds (s : State) (cid : Nat) (ends : Hold → Bool) : State :=
  let c := s.ctx cid
  let gone := c.holds.filter ends
  if gone.isEmpty then s
  else
    let rest := c.holds.filter fun h => !ends h
    let st := if c.state = .parked ∨ c.state = .saved ∨ c.state = .restoring then c.state
      else if rest.isEmpty then c.state else heldState rest
    gone.foldl (fun s h => s.trace cid h.die 4 ((s.core cid).nextAddr h.die) (s.core cid).acc.toNat none h.kind)
      (s.setCtx cid { c with holds := rest, state := st })

/-- Holds end; when none is left, the context goes on. -/
def State.endHolds (s : State) (cid : Nat) (ends : Hold → Bool) : State := (s.dropHolds cid ends).release cid

/-- Whether a wait, bank or energy hold has its condition met (R289, R272, R385). -/
def State.holdMet (s : State) (cid : Nat) (h : Hold) : Bool :=
  match h.on with
  | .wait a token _ _ => !swWaits (((s.core cid).die h.die).syncAt a) token
  | .bank n => s.ownsSet cid n
  | .energy cost => decide (cost + (s.core cid).ereserve.toNat ≤ (s.part (s.ctx cid).p).allow.toNat)
  | _ => false

/-- Ends the wait, bank and energy holds whose condition is met. -/
def State.recheck (s : State) (cid : Nat) : State :=
  if (s.ctx cid).state = .held ∨ (s.ctx cid).state = .frozen then s.endHolds cid (s.holdMet cid) else s

/-- RATE nJ for one µs are added to a partition's allowance, capped at CAP; the part below one unit is carried (R385). -/
def State.refill (s : State) (p : Nat) : State :=
  s.onPart p fun q =>
    let total := q.refill + q.rate.toNat * 65536
    { q with allow := dw (min (q.allow.toNat + total / 1000) (q.cap.toNat * 65536)), refill := total % 1000 }

/-- The refills that are to be applied at a boundary come before what the cycle debits there (R385). -/
def State.refillsDue (s : State) (cid : Nat) : State :=
  let c := s.core cid
  let p := (s.ctx cid).p
  let mine (e : Pending) : Bool := !c.handler && e.p == p && e.acc == some c.acc.toNat && e.instr == .energyRefill p
  (s.inputs.filter mine).foldl (fun s _ => s.refill p) { s with inputs := s.inputs.filter fun e => !mine e }

/-- Looks again for the lookups of holds that have ended, in order. -/
def State.lookAll (s : State) (cid : Nat) : List Hold → List Hold × State
  | [] => ([], s)
  | h :: r =>
    let (l1, s1) : List Hold × State :=
      match h.on with
      | .fault va perm n _ _ _ | .migrate va perm n =>
        let (x, s1) := s.lookAgain cid h.die va perm n
        (x.toList, s1)
      | _ => ([], s)
    let (l2, s2) := s1.lookAll cid r
    (l1 ++ l2, s2)

/-- Fault holds end, each lookup is made again at the same boundary, and what it needs begins there (R27, R300). -/
def State.lookAfter (s : State) (cid : Nat) (ends : Hold → Bool) : State :=
  let done := (s.ctx cid).holds.filter ends
  if done.isEmpty then s
  else
    let (hs, s1) := (s.dropHolds cid ends).lookAll cid done
    if hs.isEmpty then s1.release cid else s1.beginHolds cid hs

/-- Whether a hold waits for a migration that is over before it begins: the page tables have no MIG for its page, and no shootdown of
the page has still to reach the context (R299, R305). -/
def State.migrated (s : State) (cid : Nat) (h : Hold) : Bool :=
  match h.on with
  | .migrate va _ _ =>
    (match s.walk (s.ctx cid).ptbase va with
      | .leaf leaf _ _ => !pteBit leaf 10
      | _ => true)
    && !s.hub.shootdowns.any fun x => x.left.contains cid && decide (x.va ≤ va ∧ va < x.va + x.len)
  | _ => false

/-- The holds of a boundary begin: those that syllables asked for, and those that the cycle needs (R26); with them the holds that a
result formed at this boundary still needs, and the lookups whose migration is over are made again (R299, R440). -/
def State.settleHolds (s0 : State) (cid : Nat) : State :=
  let s := s0.refillsDue cid
  let c := s.core cid
  let due := c.reqs.filter fun r => r.hnd == c.handler && r.cyc == c.now
  let s1 := s.setCore cid { c with reqs := c.reqs.filter (fun r => !due.contains r), forming := c.forming ++ due }
  let (hs, s2) := s1.cycleHolds cid
  let all := c.forming.filterMap (s.formHold cid) ++ due.map HoldReq.hold ++ hs
  if all.isEmpty then s2
  else
    let s3 := (s2.beginHolds cid all).recheck cid
    s3.lookAfter cid (s3.migrated cid)

/-- The fault hold of an entry. -/
def Hold.ofSeq (seq : Nat) (h : Hold) : Bool := match h.on with | .fault _ _ _ _ n _ => n == seq | _ => false

/-! ### The services that end holds -/

/-- WALK_COMPLETE (R26, R294, R300): the walker fills the entry, or a fault hold begins after the walk hold. -/
def execWalkComplete (cid die : Nat) (s : State) : Res :=
  let walking (h : Hold) : Bool := h.die == die && match h.on with | .walk _ _ _ => true | _ => false
  match (s.ctx cid).holds.find? walking with
  | some ⟨_, _, .walk va perm h⟩ =>
    let c := s.ctx cid
    let s1 := s.dropHolds cid fun x => x == ⟨1, die, .walk va perm h⟩
    .next (match s1.walk c.ptbase va with
      | .leaf leaf level pa =>
        let s2 := s1.fillTlb die c.asn va leaf level pa perm h.isNone
        let s3 := if h.isNone then s2.pinPage cid die va else s2
        match leafHold die va perm h leaf with
        | some x => s3.beginHolds cid [x]
        | none => s3.release cid
      | .notMapped => s1.beginHolds cid [⟨8, die, .fault va perm h (if h.isSome then 1 else 3) 0 false⟩]
      | .malformed => s1.beginHolds cid [⟨8, die, .fault va perm h 7 0 false⟩])
  | _ => .fault .noSuchObject

/-- Lines that an instruction cache holds: 1 MiB of 64 bytes (R17). -/
def cacheLines : Nat := 16384

/-- A line comes into a die's instruction cache; in a full one it takes the place of a line that is free, but not of the one that
came last (R17; log entry 32). -/
def State.cacheLine (s : State) (d : Nat) (l : Nat × Nat) : State :=
  let others := (s.dieHw d).icache.erase l
  if others.length < cacheLines then s.onHw d fun h => { h with icache := others ++ [l] }
  else
    let (n, s1) := s.fresh
    s1.onHw d fun h => { h with icache := others.eraseIdx (Config.cacheVictim n % (cacheLines - 1)) ++ [l] }

/-- ICACHE_FILL_COMPLETE (R26, R91): the lines are present, and so is the second line of the bundle where the first now tells
that there is one and its page is translated. -/
def execIcacheFillComplete (cid die : Nat) (s : State) : Res :=
  match (s.ctx cid).holds.find? fun h => h.die == die && h.kind == 2 with
  | some ⟨_, _, .imiss lines⟩ =>
    let asn := (s.ctx cid).asn
    let more := match (s.core cid).dueBundle die with
      | some a =>
        let last := (a + (Header.ofWord (s.fetchWord cid a)).bytes - 1) / 64
        if lines.contains (a / 64) && (tlbFind (s.dieHw die).itlb asn (64 * last)).any (fun (e : TlbEntry) => pteBit e.leaf 3) then [last] else []
      | none => []
    let s1 := (lines ++ more).foldl (fun s l => s.cacheLine die (asn, l)) s
    .next (s1.endHolds cid fun x => x == ⟨2, die, .imiss lines⟩)
  | _ => .fault .noSuchObject

/-- FILL_LATE_CLEAR (R26, R204): the memory controller can meet the cycle. -/
def execFillLateClear (cid : Nat) (s : State) : Res :=
  match (s.ctx cid).holds.find? fun h => h.kind == 3 with
  | some ⟨_, _, .late _⟩ =>
    .next (if (s.homeFull cid).isSome then s else s.endHolds cid fun h => h.kind == 3)
  | _ => .fault .noSuchObject

/-- A debug hold begins where a context stands, unless one is in force (R372). -/
def State.stopContext (s : State) (cid : Nat) : State :=
  let c := s.ctx cid
  if c.holds.any fun h => h.kind == 10 then s else s.beginHolds cid [⟨10, c.p, .debug⟩]

/-- The partition takes a debug hold, and the steward raises an event (R380). -/
def State.replayStop (s : State) (cid : Nat) : State := (s.stopContext cid).steward 3 (s.core cid).acc.toNat

/-- ALIGN_RELEASE (R333): WAC has reached the target. A replay whose log holds no such reading stops here (R380). -/
def execAlignRelease (cid die : Nat) (s : State) : Res :=
  match (s.ctx cid).holds.find? fun h => h.die == die && h.kind == 5 with
  | some ⟨_, _, .align target xd⟩ =>
    if s.hub.wac.toNat < target then .fault .notInThisState
    else
      let ends (h : Hold) : Bool := h == ⟨5, die, .align target xd⟩
      let hnd := (s.core cid).handler
      .next (if (s.ctx cid).replaying && (s.loggedReading cid die alignHeld hnd).isNone then (s.replayStop cid).endHolds cid ends
        else s.endHolds cid ends)
  | _ => .fault .noSuchObject

/-- ENERGY_REFILL (R385): the allowance of a partition grows, and an energy hold ends when it covers cost and reserve. -/
def execEnergyRefill (p : Nat) (s : State) : Res :=
  if (s.part p).n = 0 then .fault .noSuchObject
  else
    let s1 := s.refill p
    .next (match (s.part p).running with
      | none => s1
      | some cid => s1.recheck cid)

end Sys2Proof.Machine
end

