-- ==== Sys2Proof/Machine/Score.lean ====
section
/-!
DEFINITION. What the checking scoreboard finds at a bundle's T (R32, R357): the slice registers and bank words that its syllables will
sample and write, against the writes that earlier bundles still owe. Everything is counted at column 0; a column c is c cycles later
for both bundles. What only X can tell, such as a queue's ranks, a landing withdrawn, a tape entry or an HBM word, is found where the
access is made.
-/
namespace Sys2Proof.Machine

/-- An access of a syllable, so many cycles after its X; of a write, the result cycle. The location names slice 0 for the slice. -/
abbrev ScoreUse := Loc × Nat

/-- A register of the slice. -/
def scoreReg (code part after : Nat) : ScoreUse := (.reg 0 code part, after)
/-- A bank word of the slice. -/
def scoreWord (key after : Nat) : ScoreUse := (.word 0 key, after)
/-- A rank specifier that names a register the scoreboard follows. Of a queue only the pushes are known at T: a pop that finds the queue
empty reports its underflow first (R32). -/
def scoreRank (write : Bool) (c after : Nat) : List ScoreUse :=
  if specTracked c && (write || !specQ c) then [scoreReg c 0 after] else []
/-- A moment register. -/
def scoreMoment (c after : Nat) : List ScoreUse := if specM c then [scoreReg c 0 after] else []
/-- Rows ROW0 to ROW0 + ROWS of a tile, an accumulator or the bypass latch, one in each cycle. -/
def scoreRows (f : MF) (code : Nat) : List ScoreUse :=
  (List.range (f.rows.toNat + 1)).map fun k => scoreReg code (f.row0.toNat + k) k

/-- What a V syllable samples at its X: its mask and its sources. -/
def vSamples (t : Tables) (i : Instr) (f : VF) : List ScoreUse :=
  let mask := scoreRank false (0x58 + f.mask.toNat) 0
  let a := scoreRank false f.a.toNat 0
  let b := scoreRank false f.b.toNat 0
  let ma := scoreMoment f.a.toNat 0
  match i with
  | .vnop _ => []
  | .kop _ => a ++ (if f.imm.toNat % 8 < 4 then b else [])
  | .vmov _ => mask ++ ma ++ a
  | .gadd _ | .gsub _ | .gmul _ => mask ++ ma ++ scoreMoment f.b.toNat 0
  | .gscl _ | .gofs _ => mask ++ ma ++ b
  | .gcol _ => mask ++ ma ++ (if f.imm = 3 then b else [])
  | .grelu _ | .gexp _ | .gsig _ | .gsqr _ => mask ++ ma
  | .vabs _ | .vneg _ | .vnot _ | .vround _ | .vclass _ | .vexp _ | .vlog _ | .vrcp _ | .vrsq _ | .vsqrt _ | .vtanh _ | .vsig _
  | .vrelu _ | .vunpk _ | .vsplat _ | .vscan _ | .vred _ | .vcount _ | .vroute _ => mask ++ a
  | .vcvt _ => mask ++ a ++ (if t.cvtUsesB f then b else [])
  | .vfma _ => mask ++ a ++ b ++ scoreRank false f.c.toNat 0
  | _ => mask ++ a ++ b

/-- What an M syllable samples: tile and accumulator rows, ranks, moment registers, stationary B (R207). -/
def mSamples (t : Tables) (i : Instr) (f : MF) : List ScoreUse :=
  let each (l : Nat → List ScoreUse) : List ScoreUse := ((List.range (f.rows.toNat + 1)).map l).flatten
  let b := each fun k => [scoreReg 0x7E 0 k]
  let rows := if specT f.a.toNat then scoreRows f f.a.toNat else each fun k => scoreRank false f.a.toNat k
  let pairs := each fun k => scoreRank false f.a.toNat k ++ scoreMoment f.a.toNat k
  let ty := t.typeOf f.ty f.fs
  match i with
  | .mfill _ => rows
  | .mdrn _ => rows
  | .mldb _ =>
    ((List.range 32).map fun j => scoreReg f.a.toNat j j) ++ (if f.imm.getLsbD 0 then (List.range 4).map fun q => scoreReg f.b.toNat q 0 else [])
  | .mldmd _ => scoreRank false f.a.toNat 0
  | .mma _ | .mmaz _ | .mmap _ => (if f.imm.getLsbD 3 then scoreRows f 0x7F else rows) ++ b
  | .mmas _ => rows ++ (if isI ty || isN ty then [] else each fun k => scoreRank false f.b.toNat k) ++ b
  | .mmg _ => pairs ++ b
  | .mmg2 _ => pairs ++ (List.range 64).map fun j => scoreReg (f.b.toNat + j / 32) (j % 32) 0
  | .mout _ | .mbyp _ => scoreRows f f.a.toNat ++ (if ty = 12 then scoreRows f (f.a.toNat + 4) else [])
  | _ => []

/-- The solver register of an RT or WT syllable. -/
def scoreSetting (z : Option Trel) : List ScoreUse :=
  match z with
  | some x => if x.mode = 1 then scoreRank false (0x54 + x.zi.toNat) 0 else []
  | none => []

/-- The bank words of a CB syllable. -/
def cbKeys (t : Tables) (f : CB) : List Nat :=
  (maskBanks f.bmask).map fun b => wordKey b (t.bankLine f.it.toNat f.skew.toNat b f.loff.toInt)

/-- What a C syllable samples: bank words, ranks, the solver registers of RT and WT. -/
def cSamples (fl : Flight) (i : Instr) : List ScoreUse :=
  let t := fl.tab
  let words (f : CB) : List ScoreUse := (cbKeys t f).map fun k => scoreWord k 0
  match i with
  | .ldr f => words f ++ scoreSetting fl.rt
  | .str f => scoreRank false f.spec.toNat 0 ++ scoreSetting fl.wt
  | .rmw f => words f ++ scoreRank false f.spec2.toNat 0
  | .fill f | .fillm f | .fillx f | .hatom f => scoreRank false f.spec.toNat 0
  | .spill f =>
    scoreRank false f.spec.toNat 0 ++ (copyMasked f (t.copyWords f)).map fun k =>
      scoreWord (wordKey (k % 16) (t.bankLine f.it.toNat f.skew.toNat (k % 16) (k / 16 : Nat))) (k / 16)
  | .xsend f => ((List.range (f.words.toNat / 16 + 1)).map fun j => scoreRank false f.spec.toNat (16 * j)).flatten
  | .recvadd _ => ((cWriteKeys t i).zipIdx).map fun e => scoreWord e.1 e.2
  | _ => []

/-- What a syllable of a bundle samples. -/
def Flight.samples (fl : Flight) (i : Instr) : List ScoreUse :=
  match vForm? i with
  | some f => vSamples fl.tab i f
  | none =>
    match mForm i with
    | some (_, f) => mSamples fl.tab i f
    | none => cSamples fl i

/-- What a syllable writes, with its result cycles (R37); the fetch of a HATOM may yet be withdrawn. -/
def Tables.results (t : Tables) (i : Instr) : List ScoreUse :=
  match vForm? i with
  | some f =>
    let lat := vLatency i (t.typeOf f.ty f.fs)
    match i with
    | .vnop _ => []
    | .vroute _ => scoreRank true f.dst.toNat lat ++ scoreRank true (0x58 + (f.imm.extractLsb' 1 3).toNat) lat
    | _ => scoreRank true f.dst.toNat lat ++ scoreMoment f.dst.toNat lat
  | none =>
    match mForm i with
    | some _ => (mWrites true i).map fun e => scoreReg e.1 e.2.1 e.2.2
    | none =>
      let words (after : Nat → Nat) : List ScoreUse := ((cWriteKeys t i).zipIdx).map fun e => scoreWord e.1 (after e.2)
      match i with
      | .ldr f => scoreReg 0x38 0 4 :: scoreRank true f.spec.toNat 4
      | .str _ => words fun _ => 4
      | .rmw f => (words fun _ => 3) ++ scoreRank true f.spec.toNat 3
      | .fill f | .fillm f => words fun n => 401 + (copyMasked f (t.copyWords f)).getD n 0 / 16
      | .fillx _ => words fun _ => 401
      | .xrecv f =>
        (words fun n => n + 1)
          ++ ((List.range (f.words.toNat / 16 + 1)).map fun r => scoreRank true f.spec.toNat (16 * r + 16)).flatten
      | .recvadd _ => words fun n => n + 1
      | _ => []

/-- An access that a bundle will make: its slot, what and when at column 0, and whether only the east half of a pair makes it (R215). -/
structure ScoreAt where
  slot : Nat
  loc : Loc
  cyc : Nat
  east : Bool
  deriving DecidableEq, Repr

/-- The cycles by which the X of a slot's syllable follows T at column 0: a FILLM latches the M syllable (R200). -/
def Flight.startOf (fl : Flight) (slot : Nat) : Nat :=
  2 + (if slot = 3 then (match latchRanks fl.tab fl.syl with | some r => 400 + r | none => 0) else 0)

/-- What a bundle will write, a latched syllable included. -/
def Flight.resultsAt (fl : Flight) : List ScoreAt :=
  ((fl.syl.filter fun e => e.1 != 0).map fun e =>
    (fl.tab.results e.2).map fun u =>
      (⟨e.1, u.1, fl.T + fl.startOf e.1 + u.2, match e.2 with | .mmap _ => true | _ => false⟩ : ScoreAt)).flatten

/-- What a bundle will sample, but for a latched syllable. -/
def Flight.samplesAt (fl : Flight) : List ScoreAt :=
  ((fl.syl.filter fun e => e.1 != 0 && fl.startOf e.1 == 2).map fun e =>
    (fl.samples e.2).map fun u => (⟨e.1, u.1, fl.T + 2 + u.2, false⟩ : ScoreAt)).flatten

/-- Whether two groups share a slice of a die, or with `east` the east half of a pair. -/
def Core.sharedHalf (c : Core) (die g h : Nat) (east : Bool) : Bool :=
  (List.range 512).any fun k => (!east || k % 2 == 1) && c.member g (512 * die + k) && c.member h (512 * die + k)

/-- The findings of R32 at a bundle's T: a sampling before the result cycle of an earlier syllable's write, and a write whose result
cycle is earlier than that of an earlier one's. What a latched syllable does is charged to a later T (R361), and not found here. -/
def Core.scoreFindings (c : Core) (fl : Flight) : List Finding :=
  if !fl.chk then []
  else
    let before := c.flights.filter fun g => g.die == fl.die && !g.hnd && g.inv.isNone && decide (g.T < fl.T)
    let old := (before.map fun g => g.resultsAt.map fun w => (g, w)).flatten
    let own := fl.resultsAt.map fun w => (fl, w)
    (fl.samplesAt ++ fl.resultsAt.filter fun u => fl.startOf u.slot == 2).filterMap fun u =>
      if (old ++ own).any fun e =>
        e.2.loc == u.loc && decide (e.2.cyc > u.cyc) && (decide (e.1.T < fl.T) || decide (e.2.slot < u.slot))
          && c.sharedHalf fl.die fl.grp e.1.grp (u.east || e.2.east)
      then some (0x19, u.loc.tval, u.slot) else none

end Sys2Proof.Machine
end

