-- ==== Sys2Proof/Machine/Issue.lean ====
section
/-!
DEFINITION. The issue of a bundle at T (R20, R94, R194, R343, R384): its checks, its debit, its place in the rows, the loop walker
and the next bundle. The S syllable runs as the next step; the slice syllables run in the cycles of their columns.
-/
namespace Sys2Proof.Machine

/-- Records a trap of the running bundle, charged to a slot. -/
def State.trapAt (s : State) (slot code val : Nat) : State :=
  { ({ s with cur := { s.cur with slot := slot } } : State).trapT code val with cur := s.cur }

/-- Records the traps that checks found. -/
def State.trapAll (s : State) (l : List Finding) : State := l.foldl (fun s f => s.trapAt f.2.2 f.1 f.2.1) s

/-- Records a conflict: the sequencer detects it, and TSLICE names the slice (R194). -/
def State.trapConflict (s : State) (k : Conflict) : State :=
  s.onCore fun c =>
    { c with traps := c.traps ++
        [⟨s.cur.fl.T, k.1, k.2.2.2.1, s.cur.d, none, k.2.2.2.2, s.cur.fl.inv.isSome, false, k.2.1, 0, s.cur.fl.hnd⟩] }

/-- Debits the allowance of the running partition (R384); a rewind gives it back. -/
def State.debit (s : State) (cost : Nat) : State :=
  (s.onPart s.cur.p fun q => { q with allow := q.allow - dw (min cost q.allow.toNat) }).onCore fun c =>
    { c with debit := c.debit + cost }

/-- What R364 forbids in a handler bundle: cause 0x1E. -/
def handlerForbids (slot : Nat) (i : Instr) : Bool :=
  slot != 0 || match i with
    | .loop _ | .loopl _ | .loopb _ | .itset _ | .itrev _ | .skset _ | .fmtset _ | .tshape _ | .cshape _ | .amode _ | .dregset _
    | .reverse _ | .coll _ => true
    | _ => false

/-- The loop forms, which a padded pass does not suppress (R135). -/
def isLoopForm (i : Instr) : Bool :=
  match i with
  | .loop _ | .loopl _ | .loopb _ => true
  | _ => false

/-- The encoding checks of R94, with the group of the header (R280). -/
def State.encodingFindings (s : State) (cid : Nat) (b : Bundle) : List Finding :=
  b.findings (s.ctx cid) ++ (if (s.group cid b.hdr.grp.toNat).v then [] else [(3, 0, 15)])

/-- The bundle as it enters the rows: what its syllables take at T. -/
def Core.newFlight (c : Core) (d : Nat) (b : Bundle) : Flight :=
  let t := (c.die d).tab
  { die := d, T := c.now, addr := b.addr, len := b.bytes, grp := b.hdr.grp.toNat, present := b.hdr.p, lit := b.hdr.lit
    chk := b.hdr.chk || t.check, hdrChk := b.hdr.chk, hnd := c.handler, rt := b.trel 6, wt := b.trel 7, tab := t }

/-- The checks that issue makes of a bundle's syllables beyond its encoding (R32, R62, R71, R194, R203, R215, R316, R339, R344, R364).
A handler's bundle that holds slice syllables is checked for what they would raise outside the handler as well (R366). -/
def State.issueChecks (s : State) (cid : Nat) (b : Bundle) (syl : List (Nat × Instr)) : State :=
  let d := s.cur.d
  let fl := s.cur.fl
  let all := b.decoded
  let slices := syl.filter fun e => e.1 != 0
  let s1 := if fl.hnd then s.trapAll (all.filterMap fun e =>
      if handlerForbids e.1 e.2 then some (0x1E, b.position e.1, e.1) else none) else s
  let s1 := if fl.hnd then s1.trapAll (([6, 7].filter fun k => (b.word k).isSome).map fun k => (0x1E, b.position k, k)) else s1
  let s2 := s1.trapAll (slices.filterMap fun e =>
    let k := issueCause s.here (s.ctx cid) s.tab fl.grp d e.2
    if k = 0 then none else some (k, b.position e.1, e.1))
  let tape := slices.filter fun e => (cWriteKeys s.tab e.2).any s.tab.inTape && !(s.here.members fl.grp d).isEmpty
  let s2 := s2.trapAll (tape.map fun e => (3, b.position e.1, e.1))
  let (hits, core) := s2.here.enterUses (s.ctx cid) s.tab d fl.grp s.accT slices
  let s3 := hits.foldl State.trapConflict (s2.setCore cid core)
  let s3 := s3.trapAll (s3.here.scoreFindings { fl with syl := slices, T := s.accT, hnd := false })
  s3.trapAll ((loggedSyllables s.tab slices).filterMap fun e =>
    if noAdjoint (s.ctx cid) s.tab fl.rt fl.wt e.2.1 then some (0x16, b.position e.1, e.1) else none)

/-- The walker and the next bundle (R20, R133); a handler bundle runs on the handler's side (R364). -/
def Die.advance (x : Die) (b : Bundle) (T : Nat) (hnd : Bool) : Die :=
  let next := T + 1 + b.hdr.stall.toNat
  if hnd then { x with hpc := b.addr + b.bytes, hnext := next }
  else
    let (t, back) := loopEnd b.addr 8 x.tab
    { x with tab := t, pc := back.getD (b.addr + b.bytes), next := next }

/-- Whether a bundle holds a BRK, which consumes the stop of its own issue itself (R153). -/
def Bundle.hasBrk (b : Bundle) : Bool := b.decoded.any fun e => match e.2 with | .brk _ => true | _ => false

/-- A die issues a bundle (R20, R94). -/
def State.issue (s : State) (cid p d : Nat) (b : Bundle) : State :=
  let c := s.core cid
  let fl := c.newFlight d b
  let s0 : State := { s with cur := { cid := cid, p := p, d := d, slot := 15, X := fl.T, fl := fl } }
  let padded := fl.tab.padded && !fl.hnd
  let brk := b.hasBrk && !padded
  let s1 := ((s0.onCore Core.pruneUses).trace cid d 1 b.addr c.acc.toNat none 0).onDie fun x =>
    if brk then x else { x with skip := false }
  let s2 := s1.debit (c.bundleCost d fl.tab padded b)
  match s.encodingFindings cid b with
  | f :: r => s2.trapAll (f :: r)
  | [] =>
    let dec := b.decoded
    let syl := if padded then dec.filter (fun e => isLoopForm e.2) else dec
    let s3 := s2.issueChecks cid b syl
    let s4 := if padded then s3 else s3.logIssue syl
    let fl' : Flight := { s4.cur.fl with syl := syl }
    let reach := bundleReach fl.tab fl.T (fl'.syl.filter fun e => e.1 != 0)
    let logs := fl.tab.amode == 1 && !(c.members fl.grp d).isEmpty
    let s5 := (s4.onCore fun c => { c with flights := c.flights ++ [fl'] }).onDie fun x =>
      let y := x.advance b fl.T fl.hnd
      if logs then { y with recEnd := max y.recEnd reach } else y
    match syl.find? fun e => e.1 == 0 with
    | some e => s5.runNext { s4.cur with slot := 0, X := fl.T, fl := fl' } e.2
    | none => s5

/-- The partition whose die is to issue runs, and the die's next bundle stands at T. -/
def State.issuing (s : State) (p d : Nat) : Option (Nat × Bundle) :=
  match (s.part p).running with
  | none => none
  | some cid =>
    if (s.ctx cid).state = .running then ((s.core cid).dueBundle d).map fun a => (cid, s.fetchBundle cid a) else none

/-- BUNDLE_ISSUE (R20, R94). -/
def execBundleIssue (p d : Nat) (s : State) : Res :=
  match s.issuing p d with
  | none => .fault .noSuchObject
  | some (cid, b) => if b.hdr.p = 0 then .fault .notInThisState else .next (s.issue cid p d b)

/-- DELAY_BUNDLE (R88): a header alone; it occupies 1 + STALL cycles and passes the same checks. -/
def execDelayBundle (p d : Nat) (s : State) : Res :=
  match s.issuing p d with
  | none => .fault .noSuchObject
  | some (cid, b) => if b.hdr.p = 0 then .next (s.issue cid p d b) else .fault .notInThisState

end Sys2Proof.Machine
end

