-- ==== Sys2Proof/Machine/Adjoint.lean ====
section
/-!
DEFINITION. ADJOINT_BUNDLE_ISSUE (R350 to R353): the issue of the adjoint bundle of a log record, and what the adjoint does in each
slice at X = t + c + 2. The adjoint file changes at X; bank words and cells at the cycles of R351.
-/
namespace Sys2Proof.Machine

/-! ### V and M records -/

/-- A view of a V record (R345): no input flushed, F32FR on F32 results, the mask that was saved. -/
def State.recView (s : State) (x : AdjRec) (f : VF) : View :=
  { ty := x.ty, scale := 0, rm := entryRm x.fmt, fi := false, fr := x.ty == 0 && s.tab.flush.getLsbD 1
    mask := if f.mask = 0 then BitVec.allOnes 128 else BitVec.ofNat 128 (s.savedRank x 2 0) }

/-- An operand of a V form (R348): saved, or a moment register as it stands; zero otherwise. -/
def State.recOperand (s : State) (x : AdjRec) (blk c : Nat) : Nat :=
  if x.keep ≥ blk + 2 then s.savedRank x blk 0 + (if specM c then s.savedRank x blk 1 <<< 512 else 0)
  else if specM c then s.mreg (c - 0x30) else 0

/-- Negative variances among the first n pairs of an operand that an adjoint computes from (R54): found at X, pair 0 being number
`base`; under NVCLAMP they are taken as +0 with IV. -/
def State.adjVariances (s : State) (mask : BitVec 128) (x n base : Nat) : State :=
  (List.range n).foldl (fun st j =>
    if mask.getLsbD j then (st.variance (pairVar x j) (base + j) s.X).2 else st) s

/-- Whether a V form is a moment form (R55). -/
def isMomentForm (i : Instr) : Bool :=
  match i with
  | .gadd _ | .gsub _ | .gmul _ | .gscl _ | .gofs _ | .grelu _ | .gexp _ | .gsig _ | .gsqr _ | .gcol _ | .gmake _ => true
  | _ => false

/-- The adjoint of a V form (R179, R226). -/
def State.vReverse (s : State) (x : AdjRec) (f : VF) : State :=
  let v := s.recView x f
  let a := s.recOperand x 0 f.a.toNat
  let b := s.recOperand x 1 f.b.toNat
  let src := entryType (bitsOf x.r 234 16)
  let used (st : State) (keep c : Nat) : State := if x.keep < keep && specM c then st.sample (.reg s.cur.s c 0) s.X else st
  let s1 := used (used s 2 f.a.toNat) 3 f.b.toNat
  let need := if x.indep then vNeeds x.i else (match x.i with | .gcol _ => (false, false) | _ => vNeeds x.i)
  let s1 := if isMomentForm x.i then
      let s2 := if need.1 && specM f.a.toNat then s1.adjVariances v.mask a 16 0 else s1
      if need.2 && specM f.b.toNat then s2.adjVariances v.mask b 16 0 else s2
    else s1
  let g : GView := ⟨0, entryRm x.fmt, false⟩
  (s1.adjRun s.X (match x.i with
    | .vunpk _ => vunpkAdjoint f v
    | .vmov _ => if specM f.a.toNat then vmovPairsAdjoint f v.mask else vAdjointForm x.i f v src false a b
    | .gadd _ | .gsub _ | .gmul _ | .gscl _ | .gofs _ | .grelu _ | .gexp _ | .gsig _ | .gsqr _ =>
      gAdjointForm x.i f g x.indep v.mask a b
    | .gmake _ => gmakeAdjoint f x.indep v.mask
    | .gcol _ => gcolAdjoint f x.indep v.mask a b
    | _ =>
      let two := f.ty == 15 || f.imm.toNat % 16 == 15
      vAdjointForm x.i f v src two a b)).2

/-- The A rows of a product (R348): saved, or tile rows and moment registers as they stand. -/
def State.recRows (s : State) (x : AdjRec) (f : MF) : List Nat :=
  (List.range (f.rows.toNat + 1)).map fun i =>
    if x.keep ≥ 2 then s.savedRank x 0 i
    else if specT f.a.toNat then (s.slice.tileRow (f.a.toNat - 0x40) (f.row0.toNat + i)).toNat % 2 ^ 512
    else if specM f.a.toNat then bitsOf (s.mreg (f.a.toNat - 0x30)) (512 * i) 512
    else 0

/-- The saved B of a product, n ranks. -/
def State.recCols (s : State) (x : AdjRec) (n : Nat) : List Nat := (List.range n).map (s.savedRank x 1)

/-- The B tiles of an MMG2: saved, or as they stand. -/
def State.recTiles (s : State) (x : AdjRec) (f : MF) : List Nat :=
  if x.keep = 3 then s.recCols x 64
  else (List.range 64).map fun j => (s.slice.tileRow (f.b.toNat - 0x40 + j / 32) (j % 32)).toNat % 2 ^ 512

/-- Whether the cell that a drain read is greater than zero, where the drain has relu (R225). -/
def Slice.passes (sl : Slice) (f : MF) (plane row col : Nat) : Bool :=
  let a := (f.a.toNat - 0x48) % 4
  let c := elemAt 32 col (sl.accRow a plane row).toNat
  !f.imm.getLsbD 2 ||
    (if sl.tag1 a then decide (signedOf 32 c > 0) else !(rd32 c).isNan && !(rd32 c).sign && !(rd32 c).isZero)

/-- The adjoint rows that a product half reads: those of its own accumulator, or for the west half of an MMAP those of the east
slice (R215, R225). -/
def State.recSums (s : State) (f : MF) (west : Bool) : List (List Nat) :=
  if west then ((adjRows f 0 false).run { file := (s.here.slice (s.cur.s + 1)).adj }).1 else []

/-- The registers that the adjoint of an M form reads at X, as (code, part) (R32, R348): A rows and B tiles that were not saved, the
metadata of a sparse B, and the cells that relu looks at. -/
def AdjRec.mReads (x : AdjRec) (f : MF) : List (Nat × Nat) :=
  let rows (c : Nat) : List (Nat × Nat) := (List.range (f.rows.toNat + 1)).map fun i => (c, f.row0.toNat + i)
  let a : List (Nat × Nat) := if x.keep ≥ 2 then [] else if specT f.a.toNat then rows f.a.toNat
    else if specM f.a.toNat then [(f.a.toNat, 0)] else []
  match x.i with
  | .mma _ | .mmaz _ | .mmap _ | .mmg _ => a
  | .mmas _ => a ++ [(0x7E, 0)]
  | .mmg2 _ => a ++ (if x.keep = 3 then [] else (List.range 64).map fun j => (f.b.toNat + j / 32, j % 32))
  | .mout _ | .mbyp _ =>
    if f.imm.getLsbD 2 then rows f.a.toNat ++ (if x.ty = 12 then rows (f.a.toNat + 4) else []) else []
  | _ => []

/-- The negative variances that the adjoint of an MMG or MMG2 computes from (R54, R225): in the A rows, and under COV.MODE 00 in
tile tB + 1. -/
def State.mVariances (s : State) (x : AdjRec) (f : MF) : State :=
  let all := BitVec.allOnes 128
  let rows (st : State) : State := ((s.recRows x f).zipIdx).foldl (fun st e =>
    st.adjVariances all e.1 8 (if specM f.a.toNat then 8 * e.2 else 0)) st
  match x.i with
  | .mmg _ => rows s
  | .mmg2 _ => (((s.recTiles x f).drop 32).zipIdx).foldl (fun st e => (List.range 8).foldl (fun st k =>
      (st.variance (elemAt 32 k e.1) (0x1000 + 8 * e.2 + k) s.X).2) st) (rows s)
  | _ => s

/-- The ranks that an MMAS took from B (R214), row by row: zero, or ranks that no saved block holds, which are free (log entry 52). -/
def State.recHigh (s : State) (x : AdjRec) (f : MF) : List Nat × State :=
  if x.ty ≠ 1 ∧ x.ty ≠ 2 then ([], s)
  else if f.b = 0x3A then (List.replicate (f.rows.toNat + 1) 0, s)
  else
    let (n, s1) := s.fresh
    ((List.range (f.rows.toNat + 1)).map fun i => Config.unsavedRank n i % 2 ^ 512, s1)

/-- The adjoint of an M form (R225); an MMAS takes the metadata of the stationary B as it stands (log entry 103). -/
def State.mReverse (s0 : State) (x : AdjRec) (f : MF) : State :=
  let s := ((x.mReads f).foldl (fun st e => st.sample (.reg s0.cur.s e.1 e.2) s0.X) s0).mVariances x f
  let scale := entryScale x.fmt
  let byp := f.imm.getLsbD 3
  let sh := SMap.get (0 : BitVec 16) s.tab.tsh (f.imm.toNat % 8)
  let hi := match x.i with | .mmas _ => s.recHigh x f | _ => ([], s)
  let product (byp clear : Bool) (terms : Nat → List (Nat × Nat)) : Adj Unit := do
    let dC ← adjRows f 0 clear
    productAdjoint f byp x.ty scale terms dC (s.recRows x f) hi.1 (s.recCols x 32)
  (hi.2.adjRun s.X (match x.i with
    | .mma _ => product byp false (denseTerms x.ty)
    | .mmaz _ => product byp true (denseTerms x.ty)
    | .mmas _ => product false false (sparseTerms s.slice.b.md)
    | .mmap _ =>
      if s.cur.s % 2 = 0 then
        productAdjoint f byp x.ty scale (denseTerms x.ty) (s.recSums f true) (s.recRows x f) [] (s.recCols x 32)
      else product byp false (denseTerms x.ty)
    | .mmg _ => mmgAdjoint f scale (s.recRows x f) (s.recCols x 32)
    | .mmg2 _ => mmg2Adjoint f x.indep scale (s.recRows x f) (s.recTiles x f)
    | .mldb _ => mldbAdjoint f
    | .mfill _ => mfillAdjoint f sh
    | .mdrn _ => mdrnAdjoint f sh
    | .mout _ => drainAdjoint f x.ty (fun _ g => adjDst f.dst.toNat g) (s.slice.passes f)
    | .mbyp _ =>
      drainAdjoint f x.ty (fun i g =>
        if byp then adjTake (800 + f.row0.toNat + i) g 512 else adjTake (adjTile (f.dst.toNat - 0x40) (f.row0.toNat + i) 0) g 512)
        (s.slice.passes f)
    | .mzero _ => mzeroAdjoint f
    | _ => return ())).2

/-! ### Bank accesses (R351) -/

/-- A rank of lanes. -/
def packLanes (l : List (Nat × Nat)) : Nat := l.foldl (fun a e => a + (e.2 % 2 ^ 32) <<< (32 * (e.1 % 16))) 0
/-- The lanes of a rank as an adjoint. -/
def rankVec (r : Nat) : AdjVec := (32, (List.range 16).map fun j => some (elemAt 32 j r))

/-- Claims the bank words and cells that an adjoint accesses at its X: ownership (R273), and the checking scoreboard (R32). -/
def State.adjClaim (s : State) (reads : List (Nat × Nat)) (writes : List (Nat × Nat)) : State :=
  let s1 := s.checkOwned s.X (reads.map Prod.fst ++ writes.map Prod.fst)
  let s2 := reads.foldl (fun st e => st.sample (.word s.cur.s e.1) e.2) s1
  writes.foldl (fun st e => st.mark (.word s.cur.s e.1) e.2) s2

/-- The words of a record with their cells, by word number. -/
def State.recCells (s : State) (x : AdjRec) : List (Nat × Nat) :=
  (s.tab.recWords x).filterMap fun e => (s.tab.cellOf e.2).map fun c => (e.1, c)

/-- Whether the adjoint of a record clears its cells: RECVADD leaves the sum's adjoint to the word (R318). -/
def AdjRec.clears (x : AdjRec) : Bool := match x.i with | .recvadd _ => false | _ => true

/-- The start of a restoring adjoint at X: its accesses are claimed, and `aux` keeps TP, which every turn moves on (R351). -/
def State.restoreStart (s : State) (x : AdjRec) : State :=
  let pops := s.slice.tapePops s.tab.tapeBase.toNat s.slice.tp.toNat (s.tab.recWords x).reverse
  let cells := s.recCells x
  let tape := (pops.1.map fun e => [e.2.2 / 4, e.2.2 / 4 + 1]).flatten
  let s1 := (s.checkOwned s.X tape).adjClaim (cells.map fun e => (e.2, s.X + x.turn e.1))
    ((if x.clears then cells.map fun e => (e.2, s.X + x.turn e.1 + 3) else []) ++ pops.1.map fun e => (e.2.1, s.X + x.turn e.1 + 3))
  let s2 := pops.1.foldl (fun st e => st.sample (.word s.cur.s (e.2.2 / 4)) (s.X + x.turn e.1)) s1
  { s2 with cur := { s2.cur with aux := s.slice.tp.toNat } }

/-- The turn of words of a record: each word popped is restored from the tape with its tag, each cell is cleared, and TP goes back by 8
for every entry popped so far, all at the end of the turn's cycle + 2; the answer lists the cells' values by word number (R351, R368,
R429). -/
def State.restoreTurn (s : State) (x : AdjRec) (n : Nat) : List (Nat × Nat) × State :=
  let old := s.cur.aux % 2 ^ 32
  let popped := (s.slice.tapePops s.tab.tapeBase.toNat old (s.tab.recWords x).reverse).1
  let pops := popped.filter fun e => x.turn e.1 == n
  let cells := (s.recCells x).filter fun e => x.turn e.1 == n
  let due := s.X + n + 2
  let s1 := if x.clears then cells.foldl (fun st e => st.owe due (.bank (e.2 % 16) (e.2 / 16) 0 0 none)) s else s
  let s2 := pops.foldl (fun st e =>
    st.owe due (.bank (e.2.1 % 16) (e.2.1 / 16) (s.slice.word (e.2.2 / 4)) (s.slice.poison (e.2.2 / 4)) none)) s1
  let s3 := if pops.isEmpty then s2
    else s2.owe due (.tp (BitVec.ofNat 19 (old - 8 * (popped.filter fun e => decide (x.turn e.1 ≤ n)).length)))
  (cells.map fun e => (e.1, (s.slice.word e.2).toNat), s3)

/-- LDR: the destination's adjoint, back through the read trellis, is added into the cells (R351). -/
def State.ldrReverse (s : State) (x : AdjRec) (f : CB) : State :=
  let (d, s1) := s.adjRun s.X (do
    let own ← adjDst f.spec.toNat 32
    let tl ← adjTake 777 32 512
    if tl.all (· == 0) then return own
    else if f.spec = 0x3A then return tl
    else (own.zip tl).mapM fun e => adjAdd e.1 e.2)
  let lanes := benesRank (benesRev (x.addr % 2 ^ 56)) (packLanes (d.zipIdx.map fun e => (e.2, e.1)))
  let cells := s.recCells x
  let s2 := s1.adjClaim (cells.map fun e => (e.2, s.X)) (cells.map fun e => (e.2, s.X + 3))
  cells.foldl (fun st e =>
    let (v, st1) := st.adjRun s.X (adjAdd (s.slice.word e.2).toNat (elemAt 32 (e.1 % 16) lanes))
    st1.owe (s.X + 2) (.bank (e.2 % 16) (e.2 / 16) (BitVec.ofNat 32 v) 0 none)) s2

/-- The source operand of a C form gives up its adjoint: integers pass none on, so a queue takes a zero rank (R349). -/
def State.zeroSource (s : State) (c : Nat) : State := (s.adjRun s.X (adjSrc c false (adjZero 32))).2

/-- STR: the cells, through rev of the write trellis, go to the source at X + 3 (R351); they wait in `aux`. -/
def State.strReverse (s : State) (x : AdjRec) (f : CB) : State :=
  if s.cur.row = 0 then
    let (cells, s1) := (s.restoreStart x).restoreTurn x 0
    let lanes := benesRank (benesRev (x.addr % 2 ^ 56)) (packLanes cells)
    ({ s1 with cur := { s1.cur with aux := lanes } } : State).later (s.X + 3) 1 (.adjointBundleIssue s.cur.p s.cur.d)
  else (s.adjRun (s.X + 3) (adjSrc f.spec.toNat false (rankVec s.cur.aux))).2

/-- RMW and a HATOM: restore and clear; integers pass nothing on (R351). -/
def State.dropReverse (s : State) (x : AdjRec) (dst : Option Nat) (src : Nat) : State :=
  let (_, s1) := (s.restoreStart x).restoreTurn x 0
  let s2 := match dst with | some d => (s1.adjRun s.X (do let _ ← adjDst d 32)).2 | none => s1
  s2.zeroSource src

/-! ### Timed copies (R351) -/

/-- The virtual addresses of the source words of a FILL-like record, by word number, where REVERSE can know them. -/
def State.sourceWords (s : State) (x : AdjRec) (n : Nat) : List (Nat × Nat) :=
  match x.i with
  | .fill f | .fillm f =>
    if f.spec = 0x3A ∨ f.spec = 0x3B then
      let dims := shapeDims (SMap.get 0 s.tab.shape f.shape.toNat)
      (List.range (shapeWords dims)).map fun k => (k, ((x.addr : Int) + shapeOffset dims k).toNat)
    else []
  | .fillx _ =>
    if x.keep ≥ 2 then
      let idx := ({ s with cur := { s.cur with s := n } } : State).savedRank x 0 0
      (List.range 16).map fun k => (k, x.addr + 4 * elemAt 32 k idx)
    else []
  | _ => []

/-- A source word in an HBM region: the word number, the handle and the virtual address of its adjoint cell (R334). -/
def Tables.hbmCells (t : Tables) (l : List (Nat × Nat)) : List (Nat × Nat × Nat) :=
  l.filterMap fun e => (t.hbmRegion e.2).map fun r => (e.1, drAdjh r, ((e.2 : Int) + drOffset r).toNat)

/-- The checks of the HBM cells that a FILL adjoint adds into (R334, R351): as of an atomic copy through the handle. -/
def State.checkCells (s : State) (l : List (Nat × Nat × Nat)) : State :=
  l.foldl (fun st e =>
    let h : Handle := SMap.get {} s.tab.handles e.2.1
    let off : Int := (e.2.2 : Int) - h.vbase.toNat
    let val := e.2.1 + wrapInt 56 off * 256
    if !h.v then st.trapS s.X 0x0D val
    else
      let st := st.trapWhen (decide (off < 0 ∨ off + 4 > 2 ^ pageBits h.size)) s.X 0x0E val
      let st := st.trapWhen (!h.r || !h.w) s.X 0x0F val
      let st := st.trapWhen h.revoked s.X 0x10 val
      st.trapWhen (h.watch && s.tab.watch.any fun w => watchHit w.2 true true e.2.2) s.X 0x11 e.2.2) s

/-- The copy fields of a FILL-like record. -/
def AdjRec.copy? (x : AdjRec) : Option CF := match x.i with | .fill f | .fillm f | .fillx f => some f | _ => none

/-- One rank of a FILL adjoint: the words restored, their cells cleared, and the cells' values added into HBM (R351). -/
def State.fillReverse (s : State) (x : AdjRec) (f : CF) : State :=
  let hbm := s.tab.hbmCells (s.sourceWords x s.cur.s)
  let ranks := match x.i with | .fillx _ => 1 | _ => (s.tab.copyWords f + 15) / 16
  let r := s.cur.row
  let s0 := if r = 0 then
      let cells := s.recCells x
      let s1 := ((s.restoreStart x).checkCells (hbm.filter fun e => cells.any fun c => c.1 == e.1)).zeroSource f.spec.toNat
      (List.range (ranks - 1)).foldl (fun st k => st.later (s.X + k + 1) (k + 1) (.adjointBundleIssue s.cur.p s.cur.d)) s1
    else s
  let (cells, s2) := s0.restoreTurn x r
  let adds := cells.filterMap fun e => (hbm.find? fun h => h.1 == e.1).map fun h => (e.1, h.2, e.2)
  if adds.isEmpty then s2
  else
    let pairs := adds.map fun e =>
      let h : Handle := SMap.get {} s.tab.handles e.2.1.1
      (e.1, h.pa ((e.2.1.2 : Int) - h.vbase.toNat), (BitVec.ofNat 32 e.2.2 : Word))
    let remote := adds.any fun e => (SMap.get ({} : Handle) s.tab.handles e.2.1.1).remote
    let s3 := pairs.foldl (fun st e => (st.markHbm e.2.1 (s.X + 400 + r) false).markHbm e.2.1 (s.X + 401 + r) true) s2
    let s4 := ({ s3 with cur := { s3.cur with X := s.X + r } } : State).sendHatom f 7 pairs [] remote
    { s4 with cur := s2.cur }

/-! ### The outer trellis (R318) -/

/-- The inverse of the plan of a record, with its number. -/
def Context.invPlan (c : Context) (n : Nat) : Option (Nat × Plan) :=
  ((c.plan? n).bind Plan.inv).bind fun m => (c.plan? m).map fun pl => (m, pl)

/-- The adjoint of a receive, word by word: the word's cell, and for XRECV the destination's lane as well, leave through the inverse
plan in cycle X + k (R318). -/
def State.recvReverse (s : State) (x : AdjRec) (f : CX) (dst : Bool) : State :=
  let k := s.cur.row
  let s0 := if k = 0 then s.restoreStart x else s
  let (cells, s2) := s0.restoreTurn x k
  let (lanes, s3) := if dst && k % 16 = 0 then
      let (l, st) := s2.adjRun (s.X + k) (adjDst f.spec.toNat 32)
      (packLanes (l.zipIdx.map fun e => (e.2, e.1)), st)
    else (s.cur.aux / 2 ^ 32, s2)
  let (v, s4) := match (cells.head?).map Prod.snd, dst with
    | some c, true => s3.adjRun (s.X + k) (adjAdd c (elemAt 32 (k % 16) lanes))
    | some c, false => (c, s3)
    | none, true => (elemAt 32 (k % 16) lanes, s3)
    | none, false => (0, s3)
  let s5 : State := { s4 with cur := { s4.cur with aux := s0.cur.aux % 2 ^ 32 + lanes * 2 ^ 32 } }
  let s6 := if k < f.words.toNat then s5.later (s.X + k + 1) (k + 1) (.adjointBundleIssue s.cur.p s.cur.d) else s5
  match (s.ctx s.cur.cid).invPlan f.plan.toNat with
  | none => s6
  | some (n, pl) => s6.inject n pl (s.X + k) (BitVec.ofNat 32 v)

/-- The adjoint of an XSEND: word k comes back in cycle X + latency + k, and each full rank goes to the source (R318). -/
def State.sendReverse (s : State) (f : CX) : State :=
  match (s.ctx s.cur.cid).invPlan f.plan.toNat with
  | none => s
  | some (n, pl) =>
    let go : Instr := .adjointBundleIssue s.cur.p s.cur.d
    if s.cur.row = 0 then s.later (s.X + pl.latency) 1 go
    else
      let k := s.cur.row - 1
      let hit := s.slice.arr.find? fun e => e.1 == n
      let w := (hit.map fun e => e.2.1.toNat).getD 0
      let s1 := match hit with
        | some e => s.onSlice fun sl => { sl with arr := sl.arr.erase e }
        | none => s
      let sofar := (if k % 16 = 0 then 0 else s.cur.aux) + w <<< (32 * (k % 16))
      let s2 := if k % 16 = 15 ∨ k = f.words.toNat then (s1.adjRun (s.X + pl.latency + k) (adjSrc f.spec.toNat false (rankVec sofar))).2 else s1
      let s3 : State := { s2 with cur := { s2.cur with aux := sofar } }
      if k < f.words.toNat then s3.later (s.X + pl.latency + k + 1) (k + 2) go else s3

/-! ### The slice's step -/

/-- The adjoint of a record in the running slice. -/
def State.reverseRecord (s : State) (x : AdjRec) : State :=
  match vForm? x.i with
  | some f => s.vReverse x f
  | none =>
    match mForm x.i with
    | some (_, f) => s.mReverse x f
    | none =>
      match x.i with
      | .ldr f => s.ldrReverse x f
      | .str f => s.strReverse x f
      | .rmw f => s.dropReverse x (some f.spec.toNat) f.spec2.toNat
      | .hatom f => s.dropReverse x none f.spec.toNat
      | .fill f | .fillm f | .fillx f => s.fillReverse x f
      | .xrecv f => s.recvReverse x f true
      | .recvadd f => s.recvReverse x f false
      | .xsend f => s.sendReverse f
      | _ => s

/-! ### Issue (R350, R352) -/

/-- The record that REVERSE takes next on a die: it ends at LOGPTR (R350). -/
def State.nextRecord (s : State) (cid d : Nat) : AdjRec :=
  let x := (s.core cid).die d
  let r := (s.revRecord cid d).toNat
  let i := match decodeSlot (bitsOf r 88 3 + 1) (dw (bitsOf r 0 64)) with | .ok i => i | .error _ => .mnop ⟨0, 0, 0, 0, 0, 0, 0, 0, 0, 0, 0⟩
  ⟨i, r, (SMap.get ({} : Handle) x.tab.handles (x.logbase >>> 60).toNat).frame.toNat⟩

/-- Whether a source word of a record lies in an HBM region: for FILLX in some member slice (R352). -/
def State.touchesHbm (s : State) (x : AdjRec) : Bool :=
  let slices := match x.i with | .fillx _ => s.here.members s.cur.fl.grp s.cur.d | _ => [512 * s.cur.d]
  slices.any fun n => !(s.tab.hbmCells (s.sourceWords x n)).isEmpty

/-- D(rec) (R352). -/
def State.reverseLength (s : State) (x : AdjRec) : Nat :=
  let copy (ranks : Nat) : Nat := ranks + 8 + (if s.touchesHbm x then 400 else 0)
  match vForm? x.i with
  | some _ =>
    match x.i with
    | .gadd _ | .gsub _ | .gmul _ | .gscl _ | .gofs _ | .grelu _ | .gexp _ | .gsig _ | .gsqr _ | .gcol _ | .gmake _ => 36
    | _ => 16
  | none =>
    match x.i with
    | .mfill f | .mdrn f | .mout f | .mbyp f => 2 * (f.rows.toNat + 1) + 8
    | .mma f | .mmaz f | .mmas f | .mmap f | .mmg f | .mmg2 f => 3 * (f.rows.toNat + 1) + 80
    | .mldb _ => 70
    | .mzero _ => 4
    | .fill f | .fillm f => copy ((s.tab.copyWords f + 15) / 16)
    | .fillx _ => copy 1
    | .spill _ => 1
    | .xsend f | .xrecv f | .recvadd f =>
      f.words.toNat + 1 + (match (s.ctx s.cur.cid).plan? f.plan.toNat with | some pl => pl.latency | none => 0) + 8
    | _ => 8

/-- The windows that an adjoint bundle occupies: a FILL's channel where it adds into HBM, and the inverse plan (R351, R316). -/
def State.adjointWindows (s : State) (x : AdjRec) : List Window × List Window :=
  let c := s.here
  let win (chan lo n : Nat) : List Window := c.windows chan lo n s.cur.d s.cur.fl.grp s.cur.fl.T (bitsOf x.r 88 3 + 1)
  let plan (f : CX) (back : Bool) : List Window :=
    match (s.ctx s.cur.cid).invPlan f.plan.toNat with
    | some (n, pl) =>
      if back then win n pl.latency (f.words.toNat + 1) else sendWindows pl (win n 0 (f.words.toNat + 1))
    | none => []
  match x.i with
  | .fill f | .fillm f => (if s.touchesHbm x then win f.chan.toNat 400 ((s.tab.copyWords f + 15) / 16) else [], [])
  | .fillx f => (if s.touchesHbm x then win f.chan.toNat 400 1 else [], [])
  | .xrecv f | .recvadd f => ([], plan f false)
  | .xsend f => ([], plan f true)
  | _ => ([], [])

/-- The adjoint bundle of the next record issues on a die (R350). -/
def State.adjointIssue (s : State) (cid p d : Nat) (rr : RevRun) : State :=
  let c := s.core cid
  let x := s.nextRecord cid d
  let t := c.acc.toNat
  let slot := bitsOf x.r 88 3 + 1
  let tab := (c.die d).tab
  let tab' : Tables := { tab with cov := (tab.cov &&& 4) ||| BitVec.ofNat 3 (bitsOf x.r 91 2) }
  let bad := match decodeSlot slot (dw (bitsOf x.r 0 64)) with | .ok _ => decide (slot > 5) | .error _ => true
  let fl : Flight :=
    { die := d, T := t, addr := rr.addr, len := rr.len, grp := bitsOf x.r 80 8, present := BitVec.ofNat 8 (2 ^ (7 - slot))
      chk := rr.chk || tab.check, tab := tab', inv := some (BitVec.ofNat 256 x.r, x.base)
      syl := if bad then [] else [(slot, x.i)] }
  let s0 : State := { s with cur := { cid := cid, p := p, d := d, slot := 15, X := t, fl := fl } }
  let s1 := ((s0.onCore Core.pruneUses).trace cid d 1 rr.addr t none 0).debit (c.adjointCost d tab (BitVec.ofNat 256 x.r))
  if x.data < rr.mark then s1.trapT 3 x.data
  else if bad then s1.trapT 2 1
  else
    let (chans, plans) := s1.adjointWindows x
    let hits := firstConflicts (windowConflicts s1.here.chanRule s1.here.chans chans ++ windowConflicts planRule s1.here.plans plans)
    let s2 := hits.foldl State.trapConflict (s1.onCore fun c => { c with chans := c.chans ++ chans, plans := c.plans ++ plans })
    let next := t + s0.reverseLength x
    (s2.onCore fun c => { c with flights := c.flights ++ [fl] }).onDie fun y =>
      let y := { y with logptr := dw (x.data / 32 * 32) }
      if x.data > rr.mark then { y with rev := some { rr with next := next } } else { y with rev := none, next := next + rr.stall }

/-- ADJOINT_BUNDLE_ISSUE (R350, R351): the sequencer issues the adjoint bundle of the next record; in a slice, the step is the
adjoint of the record in flight. -/
def execAdjointBundleIssue (p d : Nat) (s : State) : Res :=
  match s.cur.fl.inv with
  | some (r, base) =>
    match s.cur.fl.syl.head? with
    | some e => .next (s.reverseRecord ⟨e.2, r.toNat, base⟩)
    | none => .next s
  | none =>
    match (s.part p).running with
    | none => .fault .noSuchObject
    | some cid =>
      match ((s.core cid).die d).rev with
      | some rr =>
        if (s.ctx cid).state = .running ∧ (s.core cid).dueAdjoint d = true then .next (s.adjointIssue cid p d rr)
        else .fault .notInThisState
      | none => .fault .notInThisState

end Sys2Proof.Machine
end

