-- ==== Sys2Proof/Machine/Image.lean ====
section
/-!
DEFINITION. Kernel images as they stand in memory (R265), and their bank-mask sets (R266).
-/
namespace Sys2Proof.Machine

/-! ### The image (R265) -/

/-- A kernel image as it stands in memory: its header and the bytes of its 24 sections. -/
structure Image where
  header : BitVec 2048
  sects : List (List Byte)
  deriving DecidableEq, Repr

/-- A field of an image header. -/
def hdrField (h : BitVec 2048) (lo w : Nat) : Nat := bitsOf h.toNat lo w
/-- Offset of a section. -/
def sectOff (h : BitVec 2048) (n : Nat) : Nat := hdrField h (384 + 64 * n) 32
/-- Length of a section. -/
def sectLen (h : BitVec 2048) (n : Nat) : Nat := hdrField h (384 + 64 * n + 32) 32

/-- Reads an image, when its header and every section lie on mapped pages that carry R (R268). -/
def State.readImage (s : State) (ptbase base : Nat) : Option Image :=
  match s.readVa ptbase base 256 1 with
  | none => none
  | some hb =>
    let h : BitVec 2048 := BitVec.ofNat 2048 (ofLeBytes hb)
    let secs := (List.range 24).map fun n => s.readVa ptbase (base + sectOff h n) (sectLen h n) 1
    if secs.all Option.isSome then some ⟨h, secs.map fun b => b.getD []⟩ else none

/-- A section as bytes. -/
def Image.sect (i : Image) (n : Nat) : List Byte := i.sects.getD n []
/-- A section as a little-endian number. -/
def Image.num (i : Image) (n : Nat) : Nat := ofLeBytes (i.sect n)
/-- Number of bank-mask sets. -/
def Image.nsets (i : Image) : Nat := hdrField i.header 52 4 + 1

/-! ### Bank-mask sets (R266) -/

/-- Bytes of one bank-mask set. -/
def setBytes (n : Nat) : Nat := 8 + 16 * 512 * n
/-- Bank-mask set k for the partition of n dies from die p. -/
def Image.bankSet (i : Image) (p n k : Nat) : BitVec 8 × SMap (BitVec 128) :=
  let x := i.num 14 >>> (8 * setBytes n * k)
  (BitVec.ofNat 8 (bitsOf x 0 8), (List.range (512 * n)).filterMap fun j =>
    let m : BitVec 128 := BitVec.ofNat 128 (bitsOf x (64 + 128 * j) 128)
    if m = 0 then none else some (512 * p + j, m))

end Sys2Proof.Machine
end

