-- ==== Sys2Proof/Machine/Perform.lean ====
section
/-!
DEFINITION. OWED_WRITE_PERFORMS (R24, R29): what each pending write does when its cycle ends.
-/
namespace Sys2Proof.Machine

/-! ### Tables and control state -/

/-- The blocks and planes that the release of set n gives back: those in no other set still acquired (R266, R272). -/
def Core.releaseSet (c : Core) (cx : Context) (n : Nat) : Core :=
  let acq := c.acquired &&& ~~~(BitVec.ofNat 16 (2 ^ n))
  let kept := (cx.sets.zipIdx).filter fun e => e.2 == 0 || acq.getLsbD e.2
  let set := cx.set n
  let blocks := (set.2.map fun e =>
    let others := kept.foldl (fun a k => a ||| SMap.get 0 k.1.2 e.1) (0 : BitVec 128)
    (onesOf 128 (e.2 &&& ~~~others).toNat).map fun b => (e.1, b)).flatten
  let planes := onesOf 8 (set.1 &&& ~~~(kept.foldl (fun a k => a ||| k.1.1) 0)).toNat
  { c with acquired := acq, releasing := c.releasing ++ blocks ++ planes.map fun p => (4096, p) }

/-- Set n is acquired: what of it a RELB gave back, and was not given back yet, stays (R272). -/
def Core.acquireSet (c : Core) (cx : Context) (n : Nat) : Core :=
  let set := cx.set n
  let mine (r : Nat × Nat) : Bool := if r.1 = 4096 then set.1.getLsbD r.2 else (SMap.get 0 set.2 r.1).getLsbD r.2
  { c with acquired := c.acquired ||| BitVec.ofNat 16 (2 ^ n), releasing := c.releasing.filter fun r => !mine r }

/-- A write to a table or a control of die d. `dies` are the dies of the partition. -/
def Core.tabWrite (c : Core) (cx : Context) (dies : List Nat) (d : Nat) (w : TabWrite) : Core :=
  let tab (f : Tables → Tables) : Core := c.onDie d fun x => { x with tab := f x.tab }
  let column (col : Nat) (f : Slice → Slice) : Core :=
    (List.range 4).foldl (fun c r => c.onSlice (512 * d + 128 * r + col) f) c
  match w with
  | .it n v => tab fun t => { t with it := SMap.set 0 t.it n v }
  | .sk n v => tab fun t => { t with sk := SMap.set 0 t.sk n v }
  | .fslot n v => tab fun t => { t with fslot := SMap.set 0 t.fslot n v }
  | .tsh n v => tab fun t => { t with tsh := SMap.set 0 t.tsh n v }
  | .shape n v => tab fun t => { t with shape := SMap.set 0 t.shape n v }
  | .handle n v => tab fun t => { t with handles := SMap.put t.handles n v }
  | .dr n v => dies.foldl (fun c e => c.onDie e fun x => { x with tab := { x.tab with dr := SMap.set 0 x.tab.dr n v } }) c
  | .amode v => tab fun t => { t with amode := v }
  | .csr n v T => c.csrWrite dies d n v T
  | .arm a t => c.onDie d fun x => x.setSync a (swArm (x.syncAt a) t)
  | .lapped a => c.onDie d fun x => x.setSync a (swLapped (x.syncAt a))
  | .hinv n => tab fun t => { t with handles := SMap.put t.handles n { SMap.get {} t.handles n with v := false } }
  | .acquire n => c.acquireSet cx n
  | .release n => c.releaseSet cx n
  | .tp col v => column col fun sl => { sl with tp := v }
  | .clearAdj col => column col fun sl => { sl with adj := {} }

/-- Whether a handler's write outlives a later rewind: control registers and tables (R359). -/
def TabWrite.survives : TabWrite → Bool
  | .csr _ _ _ | .handle _ _ | .hinv _ => true
  | _ => false

/-- Performs a table write; what a handler changed stays through a rewind to an earlier bundle (R359). -/
def State.performTab (s : State) (o : Owed) (w : TabWrite) : State :=
  let cid := s.cur.cid
  let cx := s.ctx cid
  let dies := s.diesOf cx.p
  let s1 := s.setCore cid ((s.core cid).tabWrite cx dies o.die w)
  if o.hnd && w.survives then
    s1.onCtx cid fun c => { c with marks := c.marks.map fun m => (m.1, m.2.tabWrite cx dies o.die w) }
  else s1

/-! ### Slice registers -/

/-- Replaces `len` bytes of a 1,024-bit row from byte `lo`. -/
def putRow (old : TileRow) (lo len : Nat) (v : TileRow) : TileRow := BitVec.ofNat 1024 (putBits old.toNat (8 * lo) (8 * len) v.toNat)

/-- A rank reaches a destination specifier (R23, R75, R76); a push onto 4 entries traps with cause 0x05. -/
def State.performSpec (s : State) (o : Owed) (code : Nat) (v : Rank) : State :=
  if specQ code then
    let q := SMap.get [] s.slice.q code
    if q.length ≥ 4 then s.trapS (o.due + 1) 5 code
    else s.onSlice fun sl => { sl with q := SMap.set [] sl.q code (q ++ [v]) }
  else if specStream code then s.onCore fun c => { c with hops := SMap.set 0 c.hops (specHop s.cur.s code) v }
  else if code = 0x39 then s.onSlice fun sl => { sl with tw := v }
  else if specZ code then s.onSlice fun sl => { sl with z := SMap.set 0 sl.z (code - 0x54) (v.setWidth 56) }
  else if specK code ∧ code ≠ 0x58 then s.onSlice fun sl => { sl with k := SMap.set 0 sl.k (code - 0x58) (v.setWidth 128) }
  else s

/-- One plane of an accumulator row updated by sums: the new row, XFLAGS and NF (R58, R46). -/
def RowUpdate.plane (u : RowUpdate) (old : TileRow) (sums : List ExactSum) : Nat × Nat × Nat :=
  (sums.zipIdx).foldl (fun a e =>
    let cell := if u.fresh then 0 else elemAt 32 e.2 old.toNat
    let (v, fl) := if u.isInt then (cellI32 u.rm cell e.1, 0) else (cellF32 u.rm u.flush cell e.1).run 0
    (a.1 + v <<< (32 * e.2), a.2.1 ||| fl, a.2.2 ||| (if u.isInt then 0 else nfBit 0 v))) (0, 0, 0)

/-- The variances of an updated plane 1: a negative one traps with cause 0x14, or is clamped to +0 with IV (R54). -/
def RowUpdate.clampRow (u : RowUpdate) (row : Nat) : Nat × List Nat :=
  let bad := (List.range 32).filter fun j => negVar (elemAt 32 j row)
  (if u.clamp then bad.foldl (fun r j => putBits r (32 * j) 32 0) row else row, bad)

/-- An accumulator row is updated (R58, R207). -/
def State.performRow (s : State) (o : Owed) (u : RowUpdate) : State :=
  let cyc := o.due + 1
  let k0 := 64 * u.a + u.row
  let r0 := u.plane (SMap.get 0 s.slice.acc k0) u.s0
  let s1 := (s.event r0.2.1 r0.2.2 cyc).onSlice fun sl => { sl with acc := SMap.set 0 sl.acc k0 (BitVec.ofNat 1024 r0.1) }
  if u.s1.isEmpty then s1
  else
    let r1 := u.plane (SMap.get 0 s.slice.acc (k0 + 32)) u.s1
    let (row, bad) := u.clampRow r1.1
    let nf := (List.range 32).foldl (fun a j => a ||| nfBit 0 (elemAt 32 j row)) 0
    let s2 := match bad, u.clamp with
      | j :: _, false => (s1.event r1.2.1 nf cyc).trapS cyc 0x14 (32 * u.row + j)
      | _, _ => s1.event (r1.2.1 ||| (if bad.isEmpty then 0 else flagIV)) nf cyc
    s2.onSlice fun sl => { sl with acc := SMap.set 0 sl.acc (k0 + 32) (BitVec.ofNat 1024 row) }

/-! ### HBM -/

/-- A word of a timed copy performs in HBM; a HATOM's result on the same word stands against it (R230), and a poisoned word
marks its line, which the steward then completes (R306, R368). -/
def State.performHbm (s : State) (pa : Nat) (v : Word) (poisoned : Bool) : State :=
  let s1 := if s.here.homeWords.contains pa then s else s.hbmWriteTimed pa (leBytes 4 v.toNat)
  if poisoned then
    { s1 with inputs := s1.inputs ++ [⟨s.cur.p, none, .poisonMark (pa / 64)⟩]
              hub := { s1.hub with poison := (s1.hub.poison ++ [pa / 64]).eraseDups } }
  else s1

/-! ### The step -/

/-- What a pending write does when it performs. -/
def State.perform (s : State) (o : Owed) : State :=
  match o.dest with
  | .x n v => s.onDie fun d => { d with x := SMap.set 0 d.x n v }
  | .smem a n v => s.onDie fun d => d.smemWrite a (leBytes n v)
  | .tab w => s.performTab o w
  | .spec code v => s.performSpec o code v
  | .tl v => s.onSlice fun sl => { sl with tl := (o.due + 1, v) }
  | .bank b line v tag tape => s.onSlice fun sl => sl.writeWord (wordKey b line) v tag tape
  | .mom n v => s.onSlice fun sl => { sl with m := SMap.set 0 sl.m n v }
  | .tile t row lo len v => s.onSlice fun sl => { sl with t := SMap.set 0 sl.t (32 * t + row) (putRow (sl.tileRow t row) lo len v) }
  | .md n quarter v => s.onSlice fun sl =>
      { sl with d := SMap.set 0 sl.d n (BitVec.ofNat 2048 (putBits (SMap.get (0 : BitVec 2048) sl.d n).toNat (512 * quarter) 512 v.toNat)) }
  | .row u => s.performRow o u
  | .zeroRow a row => s.onSlice fun sl => { sl with acc := SMap.set 0 (SMap.set 0 sl.acc (64 * a + row) 0) (64 * a + 32 + row) 0 }
  | .statB b => s.onSlice fun sl => { sl with b := b }
  | .byp row v => s.onSlice fun sl => { sl with byp := SMap.set 0 sl.byp row v }
  | .tp v => s.onSlice fun sl => { sl with tp := v }
  | .hbm pa _ _ v bad => s.performHbm pa v bad
  | .hatom _ _ => s
  | .log pa bs => s.hbmWriteTimed pa bs

/-- The context in which a pending write performs: that of the syllable which owes it. -/
def Owed.ctx (o : Owed) (cid p : Nat) : Ctx :=
  { cid := cid, p := p, d := o.die, s := o.s, slot := o.slot, X := o.T + colOf o.s + 2, late := o.late
    fl := { die := o.die, T := o.T, hnd := o.hnd, inv := if o.rev then some (0, 0) else none } }

/-- OWED_WRITE_PERFORMS (R29): the pending write with this number performs. -/
def execOwedWritePerforms (id : Nat) (s : State) : Res :=
  match s.here.owed.find? fun o => o.id == id with
  | none => .fault .noSuchObject
  | some o => .next ((s.onCore fun c => { c with owed := c.owed.filter fun x => x.id != id }).perform o)

end Sys2Proof.Machine
end

