-- ==== Sys2Proof/Machine/Cycle.lean ====
section
/-!
DEFINITION. CYCLE_BOUNDARY (R18, R22, R25, R28): the column work of a cycle, the crossing into the next one, and what settles
at the new boundary. It runs in phases, which stand in the running context's `row`: 0 the syllables of cycle C, 1 the crossing,
2 what falls due at the new boundary, 3 the holds that begin there, 4 the return of the last handler.
-/
namespace Sys2Proof.Machine

/-- A phase of a partition's cycle, as a step. -/
def phase (cid p row : Nat) : Task := ⟨0, { cid := cid, p := p, row := row }, .cycleBoundary p⟩

/-! ### Phase 0: the columns (R3, R18) -/

/-- The slices of a die in one column. -/
def columnSlices (d col : Nat) : List Nat := (List.range 4).map fun r => 512 * d + 128 * r + col

/-- The slice steps of a bundle in cycle C: in the member slices of its column, every slice syllable but an M syllable that a
FILLM latches (R200, R280); the slice of an adjoint bundle takes its record's inverse. -/
def Core.flightTasks (c : Core) (cid p C : Nat) (f : Flight) : List Task :=
  if C < f.T + 2 ∨ f.T + 129 < C then []
  else
    let latched := (latchRanks f.tab f.syl).isSome
    let syl := f.syl.filter fun e => e.1 != 0 && !(e.1 == 3 && latched)
    (((columnSlices f.die (C - f.T - 2)).filter (c.member f.grp)).map fun n =>
      syl.map fun e => ⟨C, { cid := cid, p := p, d := f.die, s := n, slot := e.1, X := C, fl := f },
        if f.inv.isSome then .adjointBundleIssue p f.die else e.2⟩).flatten

/-- Whether a step is the arrival of a word: arrivals stand at their ports before any syllable takes them. -/
def Task.arrives (t : Task) : Bool := match t.instr with | .outerTrellisArrival _ _ _ => true | _ => false

/-- The order of the steps of one cycle: arrivals, then issue order, then slot order (R24). -/
def taskBefore (a b : Task) : Bool :=
  let key (t : Task) : List Nat := [1 - b2n t.arrives, t.ctx.fl.T, t.ctx.d, t.ctx.slot]
  listBefore (key a) (key b)

/-- The M syllable that a step executes, also where a FILLM latched it. -/
def Task.syllable (t : Task) : Instr := match t.instr with | .fillmLatchExecute m op => mInstr op m | i => i

/-- Notes the last M syllable and the last MLDB executed in each slice (R377). -/
def Core.noteM (c : Core) (ts : List Task) : Core :=
  ts.foldl (fun c t =>
    if t.ctx.slot = 3 ∧ t.ctx.row = 0 ∧ t.ctx.fl.inv.isNone then
      c.onSlice t.ctx.s fun sl =>
        { sl with lastM := t.ctx.fl.addr, lastB := match t.syllable with | .mldb _ => t.ctx.fl.addr | _ => sl.lastB }
    else c) c

/-! ### Profiling (R377, R378) -/

/-- The class of a slice's matrix unit in a cycle, with the bundle address it is charged to. The pair latch of a west half holds products
in the cycles in which the east half takes them. -/
def Core.matrixClass (c : Core) (C : Nat) (ts : List Task) (n : Nat) : Nat × Nat :=
  let first (s : Nat) (test : Instr → Bool) : Option Task := ts.find? fun t => t.ctx.s == s && t.ctx.slot == 3 && test t.syllable
  let product := first n fun i => match i with
    | .mma _ | .mmaz _ | .mmas _ | .mmap _ | .mmg _ | .mmg2 _ => true
    | _ => false
  let drains := first n fun i => match i with
    | .mout _ | .mbyp _ | .mdrn _ => true
    | _ => false
  let loads := c.ports.any fun u => u.port == 33 && u.die == dieOf n && c.member u.grp n
    && decide (u.lo + colOf n ≤ C ∧ C ≤ u.hi + colOf n)
  let started := first n fun i => match i with | .mldb _ => true | _ => false
  let latch := c.tasks.find? fun t => t.ctx.s == n && t.ctx.row == 0 && match t.instr with
    | .fillmLatchExecute _ _ => true
    | _ => false
  let pair := if n % 2 = 0 then first (n + 1) fun i => match i with | .mmap _ => true | _ => false else none
  let sl := c.slice n
  if let some t := product then (0, t.ctx.fl.addr)
  else if loads then (1, (started.map fun t => t.ctx.fl.addr).getD sl.lastB)
  else if let some t := drains then (2, t.ctx.fl.addr)
  else if let some t := latch then (3, t.ctx.fl.addr)
  else if let some t := pair then (3, t.ctx.fl.addr)
  else (4, sl.lastM)

/-- The key of a counter of a die's histogram: bucket 1,024 is the overflow bucket. -/
def profKey (die bucket cls : Nat) : Nat := (1025 * die + bucket) * 5 + cls

/-- Counts one cycle of every slice of the partition, once a window is set. -/
def State.profile (s : State) (cid p C : Nat) (ts : List Task) : State :=
  let cx := s.ctx cid
  if cx.profG = 0 then s
  else
    let c := s.core cid
    let bucket (a : Nat) : Nat := if a < cx.profBase then 1024 else min 1024 ((a - cx.profBase) >>> cx.profG)
    let prof := (s.diesOf p).foldl (fun m d =>
      (List.range 512).foldl (fun m k =>
        let r := c.matrixClass C ts (512 * d + k)
        let key := profKey d (bucket r.2) r.1
        SMap.set 0 m key (SMap.get 0 m key + 1)) m) cx.prof
    s.setCtx cid { cx with prof := prof }

/-- Whether an access was issued before another, by T, die and slot. -/
def Access.before (a b : Access) : Bool := listBefore [a.T, a.die, a.slot] [b.T, b.die, b.slot]

/-- Whether two accesses are of one syllable in one slice. -/
def Access.same (a b : Access) : Bool := a.T == b.T && a.die == b.die && a.slot == b.slot && a.s == b.s

/-- The log writes of a partition that have not performed, as scoreboard accesses of their words: first physical address, bytes, and
the access (R32, R343). Those still to be sampled are those of the later rows of the syllables under way. -/
def Core.logWrites (c : Core) : List (Nat × Nat × Access) :=
  let covered (d T : Nat) : Bool := c.flights.any fun f => f.die == d && f.T == T && !f.hnd && f.chk
  let owed := c.owed.filterMap fun o => match o.dest with
    | .log pa bs => some (pa, bs.length, ⟨.hbm pa, o.due + 1, true, o.issued, o.die, o.slot, o.s, covered o.die o.issued, o.hnd⟩)
    | _ => none
  let coming := c.tasks.map fun t =>
    match t.ctx.fl.logs.find? fun l => l.1 == t.ctx.slot with
    | none => []
    | some (_, off, keep) =>
      let i := match t.instr with | .fillmLatchExecute m op => mInstr op m | x => x
      let n := savedRanks i keep
      let rows := match t.instr with
        | .fillmLatchExecute _ _ => (List.range (n.1 + n.2.1)).map fun j => (j, if j < n.1 then j else 0)
        | _ => if t.ctx.row < n.1 then [(t.ctx.row, t.ctx.row)] else []
      rows.map fun e =>
        let pa := t.ctx.fl.logPa + off + 64 * (512 * e.1 + t.ctx.s % 512)
        (pa, 64, (⟨.hbm pa, t.ctx.X + e.2 + 401, true, t.ctx.fl.T, t.ctx.d, t.ctx.slot, t.ctx.s, t.ctx.fl.chk, t.ctx.fl.hnd⟩ : Access))
  owed ++ coming.flatten

/-- The HBM accesses of a partition's words as the scoreboard has them: first physical address, bytes, access. -/
abbrev HbmUse := Nat × Nat × Access

/-- The HBM writes that a core knows: its syllables' words, and its log's. -/
def Core.hbmWrites (c : Core) : List HbmUse :=
  (c.access.filterMap fun w => match w.loc with
    | .hbm pa => if w.write then some (pa, 4, w) else none
    | _ => none) ++ c.logWrites

/-- The findings of R32 for some HBM accesses against writes: a sampling before the result cycle of an earlier write, a write that an
earlier one outlasts, and a write in the cycle of another's, which traps the later-issued (R230). -/
def hbmHits (mine writes : List HbmUse) (hnd : Bool) : List Trap :=
  mine.filterMap fun m =>
    let a := m.2.2
    (writes.find? fun e => decide (e.1 < m.1 + m.2.1 ∧ m.1 < e.1 + e.2.1) &&
      ((e.2.2.before a && decide (e.2.2.cyc > a.cyc)) || (a.write && e.2.2.cyc == a.cyc && !a.before e.2.2 && !e.2.2.same a))).map fun e =>
        ⟨a.T, 0x19, (Loc.hbm (max m.1 e.1 / 4 * 4)).tval, a.die, none, a.slot, false, false, 0, 0, hnd⟩

/-- The findings on HBM words for the bundles issued at T, once every column has executed them (R32). -/
def Core.hbmFindings (c : Core) (T : Nat) : List Trap :=
  let own (a : Access) : Bool := a.chk && !a.hnd && a.T == T
  let mine := (c.access.filterMap fun a => match a.loc with
    | .hbm pa => if own a then some (pa, 4, a) else none
    | _ => none) ++ c.logWrites.filter fun e => own e.2.2
  if mine.isEmpty then [] else hbmHits mine c.hbmWrites false

/-- The page offsets of a timed copy that the sequencer can tell at T, once the S syllable has run: those of a zero or xs offset. -/
def State.staticOffs (s : State) (f : Flight) (i : Instr) : Option (CF × List Int) :=
  let at_ : State := { s with cur := { s.cur with d := f.die, fl := f } }
  let shaped (x : CF) : Option (CF × List Int) :=
    if x.spec = 0x3A then some (x, at_.shapeOffs x 0)
    else if x.spec = 0x3B then some (x, at_.shapeOffs x (f.xs.toNat % 2 ^ 32)) else none
  match i with
  | .fill x | .fillm x | .spill x => shaped x
  | .fillx x => if x.spec = 0x3A then some (x, indexOffs 0) else none
  | .hatom x => if x.spec = 0x3A then some (x, (List.range 8).map fun _ => 0) else none
  | _ => none

/-- The HBM accesses of a bundle that the sequencer can tell at its T: those of copies with a zero or xs offset, and its log's (R32,
R357). -/
def State.staticHbm (s : State) (cid : Nat) (f : Flight) : List HbmUse :=
  let T := if f.hnd then (s.core cid).acc.toNat else f.T
  let access (slot n pa after : Nat) (write : Bool) : Access :=
    ⟨.hbm pa, T + 2 + colOf n + after, write, T, f.die, slot, n, f.chk, false⟩
  let members := (s.core cid).members f.grp f.die
  let copies := f.syl.map fun e =>
    match s.staticOffs f e.2 with
    | none => []
    | some (x, offs) =>
      let h : Handle := SMap.get {} f.tab.handles x.h.toNat
      let uses (n : Nat) : List HbmUse := match e.2 with
        | .spill _ => (copyMasked x offs.length).map fun k =>
            let pa := h.pa (offs.getD k 0)
            (pa, 4, access e.1 n pa (401 + k / 16) true)
        | .hatom _ => (((List.range 8).filter fun j => x.bmask.getLsbD j).map fun _ =>
            [(h.pa 0, 4, access e.1 n (h.pa 0) 400 false), (h.pa 0, 4, access e.1 n (h.pa 0) 401 true)]).flatten
        | _ => offs.zipIdx.map fun o => (h.pa o.1, 4, access e.1 n (h.pa o.1) (400 + o.2 / 16) false)
      if h.v then (members.map uses).flatten else []
  let logs := f.logs.map fun l =>
    match (f.syl.find? fun e => e.1 == l.1).map Prod.snd with
    | none => []
    | some i =>
      let n := savedRanks i l.2.2
      let at_ := f.logPa + l.2.1
      (at_ + savedBytes n, 32, (⟨.hbm (at_ + savedBytes n), T + 401, true, T, f.die, 0, 0, f.chk, false⟩ : Access))
        :: ((List.range (n.1 + n.2.1 + n.2.2)).map fun j =>
          members.map fun k =>
            let pa := at_ + 64 * (512 * j + k % 512)
            (pa, 64, access l.1 k pa (401 + (if (mForm i).isSome && decide (j < n.1) then j else 0)) true)).flatten
  (copies ++ logs).flatten

/-- What a covered bundle's HBM accesses that are known at T meet of the writes known by then (R32, R357): cause 0x19 at its T. -/
def State.staticFindings (s : State) (cid : Nat) (f : Flight) : State :=
  if !f.chk then s
  else
    let c := s.core cid
    let mine := s.staticHbm cid f
    if mine.isEmpty then s
    else
      let others := ((c.flights.filter fun g => !g.hnd && g.inv.isNone).map (s.staticHbm cid)).flatten.filter fun e => e.2.2.write
      let own := if f.hnd then mine.filter fun e => e.2.2.write else []
      s.setCore cid { c with traps := c.traps ++ (hbmHits mine (c.hbmWrites ++ others ++ own) f.hnd).map fun t => { t with T := f.T } }

/-- What R342 forbids of a SPILL whose offset is known once the S syllable of its bundle has run: cause 0x16 at its T. -/
def State.spillFindings (s : State) (f : Flight) : State :=
  if f.tab.amode != 1 || (s.here.members f.grp f.die).isEmpty then s
  else f.syl.foldl (fun st e =>
    match e.2 with
    | .spill c =>
      let at_ : State := { st with cur := { st.cur with d := f.die, slot := e.1, X := f.T, fl := f } }
      let h := at_.handleT c
      let offs := at_.shapeOffs c (if c.spec = 0x3B then f.xs.toNat % 2 ^ 32 else 0)
      let bad := (c.spec == 0x3A || c.spec == 0x3B) && h.v
        && (copyMasked c offs.length).any fun k => (f.tab.hbmRegion (h.va (offs.getD k 0))).isSome
      { at_.trapTWhen bad 0x16 at_.position with cur := st.cur }
    | _ => st) s

/-- The slice syllables of a handler bundle, which no slice executes: the steps that find what they would raise outside the handler
(R366), in every column, on the handler's count. -/
def Core.handlerTasks (c : Core) (cid p : Nat) (f : Flight) : List Task :=
  let latched := (latchRanks f.tab f.syl).isSome
  let syl := f.syl.filter fun e => e.1 != 0 && !(e.1 == 3 && latched)
  if syl.isEmpty then []
  else ((c.members f.grp f.die).map fun n =>
    let x := f.T + 2 + colOf n
    syl.map fun e => ⟨x, { cid := cid, p := p, d := f.die, s := n, slot := e.1, X := x, fl := f }, e.2⟩).flatten

/-- Phase 0: what the sequencers find at T once the S syllables have run, the log records that form in this cycle, then the steps of its
columns, then the crossing. -/
def State.columnWork (s : State) (cid p : Nat) : State :=
  let c := s.core cid
  let C := c.now
  let isDue (t : Task) : Bool := t.cyc == C && t.ctx.fl.hnd == c.handler
  let issued := c.flights.filter fun f => f.hnd == c.handler && f.inv.isNone && f.T == C
  let new := if c.handler then [] else (c.flights.map (c.flightTasks cid p C)).flatten
  let all := sortBy taskBefore (c.tasks.filter isDue ++ new)
  let tried := if c.handler then (issued.map (c.handlerTasks cid p)).flatten else []
  let s1 := s.setCore cid ({ c with tasks := (c.tasks.filter fun t => !isDue t) ++ tried } : Core)
  let s1 := issued.foldl (fun st f => (st.spillFindings f).staticFindings cid f) s1
  let s2 := if c.handler then s1 else
    (c.flights.filter fun f => !f.hnd && f.inv.isNone && f.T + 2 == C).foldl (fun st f => st.formLog f) s1
  let s3 := if c.handler then s2 else s2.profile cid p C all
  (s3.setCore cid ((s3.core cid).noteM all)).runAll (all ++ [phase cid p 1])

/-! ### Phase 1: the crossing -/

/-- The hop registers one cycle on: each value moves to the next column of its channel (R22). -/
def shiftHops (hops : SMap Rank) : SMap Rank :=
  hops.filterMap fun e =>
    let col := e.1 % 128
    if e.1 / 128 % 32 < 16 then (if col = 127 then none else some (e.1 + 1, e.2))
    else if col = 0 then none else some (e.1 - 1, e.2)

/-- What enters the stream sinks: the values at column 0 of the westbound channels (R22, R148). -/
def sinksFrom (hops : SMap Rank) : SMap Rank :=
  hops.filterMap fun e =>
    let chan := e.1 / 128 % 32
    if e.1 % 128 = 0 ∧ chan ≥ 16 then some (e.1 / 4096 * 16 + (chan - 16), e.2) else none

/-- Whether the bundle of a window trapped at its own issue and so sends nothing (R94). -/
def Core.sendsNothing (c : Core) (w : Window) : Bool := c.traps.any fun t => t.cyc == 0 && t.T == w.T && t.die == w.die

/-- Whether a receive under a plan covers a cycle in a slice (R317). -/
def Core.covered (c : Core) (plan n cyc : Nat) : Bool :=
  c.plans.any fun v => v.out.isNone && v.chan == plan && v.s == n && decide (v.lo ≤ cyc ∧ cyc ≤ v.hi)

/-- The words of a send that the check of cycle C concerns: the one whose last possible receiving bundle issues in C, and in the
cycle in which the send itself issues those whose last receiving bundle issued before. -/
def Window.wordsAt (w : Window) (q lat C : Nat) : List Nat :=
  let k := C + colOf q + 2 - (w.lo + lat)
  if C + colOf q + 2 < w.lo + lat then []
  else if w.T = C then List.range (min (w.hi + 1 - w.lo) (k + 1))
  else if w.lo + k ≤ w.hi then [k] else []

/-- The orphans that the sequencers find in cycle C (R317, R357): a word that arrives in cycle A at column c with no receive that
covers A is charged to the bundle issued at A - c - 2. -/
def Core.orphans (c : Core) (C : Nat) : List Trap :=
  (c.plans.map fun w =>
    match w.out with
    | none => []
    | some (q, lat) =>
      if c.sendsNothing w then []
      else (w.wordsAt q lat C).filterMap fun k =>
        let A := w.lo + lat + k
        let T := A - colOf q - 2
        if c.covered w.chan q A then none
        else some ⟨T, 0xC, w.chan + A % 2 ^ 48 * 2 ^ 16, dieOf q, none, 15,
          c.flights.any (fun f => f.die == dieOf q && f.T == T && f.inv.isSome), false, q, C, false⟩).flatten

/-- The order in which writes due in one cycle perform: HATOMs at their homes by die and channel, HBM words with the one that
is to stand last (R230), the rest in issue order and slot order (R24), log bytes last (R343). -/
def owedBefore (a b : Owed) : Bool :=
  let key (o : Owed) : List Nat :=
    match o.dest with
    | .hatom chan tag => [0, o.die, chan, tag]
    | .hbm _ chan k _ _ => [1, 8 - o.die, 32 - chan, 65536 - k]
    | .log _ _ => [3, o.issued, o.die, o.slot, o.id]
    | _ => [2, o.issued, o.die, o.slot, o.id]
  listBefore (key a) (key b)

/-- The step in which a pending write performs; a HATOM performs at its home. -/
def Core.performTask (c : Core) (cid p : Nat) (o : Owed) : Option Task :=
  match o.dest with
  | .hatom _ tag => (c.hatom tag).map fun h => ⟨0, h.ctx, .hatomHomeOperation tag⟩
  | _ => some ⟨0, o.ctx cid p, .owedWritePerforms o.id⟩

/-- Whether a pending write is a HATOM on its way. -/
def Owed.isHatom (o : Owed) : Bool := match o.dest with | .hatom _ _ => true | _ => false

/-- The core after cycle C of the kernel, before the writes due at its end perform. -/
def Core.crossed (c : Core) (C : Nat) : Core :=
  { c with
    acc := c.acc + 1
    hops := shiftHops c.hops
    sinks := sinksFrom c.hops
    homeWords := []
    traps := c.traps ++ c.orphans C ++ (if C < 130 then [] else c.hbmFindings (C - 130))
    slices := c.slices.map fun e => (e.1, { e.2 with arr := [] })
    access := c.access.filter fun a => a.hnd || decide (a.cyc > C)
    flights := c.flights.filter fun f =>
      f.hnd || decide (f.T + 200 > C) || (f.inv.isNone && decide (bundleReach f.tab f.T (f.syl.filter fun e => e.1 != 0) + 128 > C)) }

/-- Wall time passes (R16, R33): how much is free. WAC runs at the rate to which the link engine has slewed it, in millionths, carries
the part below one nanosecond, and never decreases: at 2^64 - 1 it stays (log entry 3). -/
def State.passTime (s : State) : State :=
  let (n, s') := s.fresh
  s'.onHub fun h =>
    let t := h.wacPart + Config.wallStep n * (1000000 + s.link.slew).toNat
    { h with wac := dw (min (h.wac.toNat + t / 1000000) (2 ^ 64 - 1)), wacPart := t % 1000000 }

/-- Whether a pending write belongs to a handler bundle that trapped: it has no effect (R94, R366). -/
def Core.barred (c : Core) (o : Owed) : Bool := c.handler && c.traps.any fun t => t.cyc == 0 && t.T == o.T && t.die == o.die

/-- Phase 1. -/
def State.cross (s : State) (cid p : Nat) : State :=
  let c := s.core cid
  let C := c.now
  let due := sortBy owedBefore (c.owed.filter fun o => o.hnd == c.handler && o.due == C && !c.barred o)
  let c1 : Core := { c with owed := c.owed.filter fun o => !(o.isHatom && o.hnd == c.handler && o.due == C) }
  let c2 : Core := if c.handler then { c1 with hclk := c1.hclk + 1 } else c1.crossed C
  ((s.setCore cid c2).passTime).runAll (due.filterMap (c.performTask cid p) ++ [phase cid p 2])

/-! ### Phase 2: what falls due at the boundary -/

/-- Whether a bank word lies in a block. -/
def inBlock (b key : Nat) : Bool := key / 1024 == b

/-- Whether the tape entries from an address on, `n` of them, touch a block. -/
def tapeInBlock (b base n : Nat) : Bool := n != 0 && decide (base / 4096 ≤ b ∧ b ≤ (base + 8 * n - 1) / 4096)

/-- The step of a C syllable that writes its k-th word: step r + 1 of a FILL-like copy lands rank r, and a receive takes a word in each
step. -/
def writeStep (t : Tables) (i : Instr) (k : Nat) : Nat :=
  match i with
  | .fill f | .fillm f => (copyMasked f (t.copyWords f)).getD k 0 / 16 + 1
  | .fillx _ => 1
  | .xrecv _ | .recvadd _ => k
  | _ => 0

/-- The bank words that a syllable of a bundle writes in every slice that it concerns, each after the step that writes it; for an
adjoint bundle, those that the adjoint of its record may write. -/
def Flight.writeKeys (f : Flight) (i : Instr) : List (Nat × Nat) :=
  match f.inv with
  | some (r, base) => f.tab.recWrites ⟨(f.syl.head?.map Prod.snd).getD i, r.toNat, base⟩
  | none => ((cWriteKeys f.tab i).zipIdx).map fun e => (writeStep f.tab i e.2, e.1)

/-- Whether a write of a syllable from step `row` on goes to a block: its words, or their tape entries, whose first is at `base`
(R340). -/
def Flight.writesBlock (f : Flight) (i : Instr) (row base b : Nat) : Bool :=
  let keys := f.writeKeys i
  let taped (l : List (Nat × Nat)) : Nat := if f.inv.isSome then 0 else (l.filter fun e => f.tab.taped e.2).length
  (keys.any fun e => decide (row ≤ e.1) && inBlock b e.2)
  || tapeInBlock b (base + 8 * taped (keys.filter fun e => decide (e.1 < row))) (taped (keys.filter fun e => decide (row ≤ e.1)))

/-- Whether a write that a step still to run makes goes to a block of its slice (R272). -/
def Task.touches (t : Task) (b : Nat) : Bool :=
  t.ctx.fl.writesBlock t.instr t.ctx.row (match t.instr with | .xrecv _ | .recvadd _ => t.ctx.aux / 2 ^ 512 | _ => t.ctx.aux % 2 ^ 32) b

/-- Whether a bundle has still to execute in a slice that it concerns. -/
def Core.comes (c : Core) (f : Flight) (n : Nat) : Bool :=
  !f.hnd && f.die == dieOf n && decide (c.acc.toNat ≤ f.T + 2 + colOf n) && c.member f.grp n

/-- Tape entries that a syllable of a bundle reserves in a slice (R340). -/
def Flight.entries (f : Flight) (i : Instr) : Nat :=
  if f.inv.isSome then 0 else ((f.writeKeys i).filter fun e => f.tab.taped e.2).length

/-- Whether syllables still to execute in a slice write to a block, in issue order from a tape pointer on: each reserves its entries after
those of the ones before it (R340). -/
def comingWrites (b : Nat) : Nat → List (Flight × Instr) → Bool
  | _, [] => false
  | tp, (f, i) :: r => f.writesBlock i 0 tp b || comingWrites b (tp + 8 * f.entries i) r

/-- Whether a write that the context owes goes to block b of slice n (R272). -/
def Core.owesBlock (c : Core) (n b : Nat) : Bool :=
  c.owed.any (fun o => o.s == n && match o.dest with
    | .bank _ line _ _ tape => line / 64 == b || tape.any fun a => a / 4096 == b
    | _ => false)
  || c.tasks.any (fun t => t.ctx.s == n && t.touches b)
  || c.hatoms.any (fun h => !h.withdrawn && h.ctx.s == n && h.fetch.any fun e => inBlock b e.2.1)
  || comingWrites b (c.slice n).tp.toNat ((c.flights.filter fun f => c.comes f n).map fun f => f.syl.map fun e => (f, e.2)).flatten

/-- Whether an M syllable writes an accumulator plane. -/
def writesPlane (t : Tables) (i : Instr) (k : Nat) : Bool :=
  match i with
  | .mout _ | .mbyp _ => false
  | .mma f | .mmaz f | .mmas f | .mmap f | .mmg f | .mmg2 f | .mzero f => (accPlanes i (t.typeOf f.ty f.fs)).contains k
  | _ => false

/-- Whether a write that the context owes goes to accumulator plane k, as bit 2n + p. -/
def Core.owesPlane (c : Core) (k : Nat) : Bool :=
  c.owed.any (fun o => match o.dest with
    | .row u => 2 * u.a == k || (!u.s1.isEmpty && 2 * u.a + 1 == k)
    | .zeroRow a _ => a == k / 2
    | _ => false)
  || c.tasks.any (fun t => writesPlane t.ctx.fl.tab (match t.instr with | .fillmLatchExecute m op => mInstr op m | i => i) k)
  || c.flights.any (fun f => !f.hnd && decide (c.acc.toNat ≤ f.T + 129) && f.syl.any fun e => writesPlane f.tab e.2 k)

/-- Gives back the released blocks and planes to which nothing is owed any more (R272). -/
def Core.giveBack (c : Core) : Core :=
  let stays (r : Nat × Nat) : Bool := if r.1 = 4096 then c.owesPlane r.2 else c.owesBlock r.1 r.2
  (c.releasing.filter fun r => !stays r).foldl (fun c r =>
    if r.1 = 4096 then { c with planes := c.planes &&& ~~~(BitVec.ofNat 8 (2 ^ r.2)) }
    else { c with owned := SMap.set 0 c.owned r.1 (SMap.get 0 c.owned r.1 &&& ~~~(BitVec.ofNat 128 (2 ^ r.2))) })
    { c with releasing := c.releasing.filter stays }

/-- The plan on which a syllable of a bundle sends words: an XSEND's own, or the inverse plan of a receive's adjoint. -/
def sendPlan (cx : Context) (f : Flight) (i : Instr) : Option Plan :=
  match i, f.inv.isSome with
  | .xsend x, false => cx.plan? x.plan.toNat
  | .xrecv x, true | .recvadd x, true => ((cx.plan? x.plan.toNat).bind Plan.inv).bind cx.plan?
  | _, _ => none

/-- Whether a word that an XSEND of the partition will send, or has on its way, goes to a slice of a die (R274). -/
def Core.expects (c : Core) (cx : Context) (d : Nat) : Bool :=
  let goes (f : Flight) (i : Instr) (n : Nat) : Bool := match sendPlan cx f i with
    | some pl => dieOf (pl.dest n) == d
    | none => false
  c.tasks.any (fun t => t.ctx.d == d || goes t.ctx.fl t.instr t.ctx.s)
  || c.flights.any fun f => (List.range 512).any fun k => c.comes f (512 * f.die + k) && f.syl.any fun e => goes f e.2 (512 * f.die + k)

/-- Whether the die counter of the canopy reaches zero (R274). -/
def Core.dieZero (c : Core) (cx : Context) (d : Nat) : Bool :=
  let x := c.die d
  x.ended.isSome && !x.dieEnd
    && !(c.flights.any fun f => f.die == d && !f.hnd && decide (c.acc.toNat < f.T + 130))
    && !(c.owed.any fun o => o.die == d) && !(c.hatoms.any fun h => h.ctx.d == d && !h.parked) && !c.expects cx d

/-- Whether the canopy decrements the partition counter for a die: T_END + 176 has come, and its counter is zero (R274, R360). -/
def Core.dieDue (c : Core) (cx : Context) (d : Nat) : Bool :=
  let x := c.die d
  match x.ended with
  | some t => (x.dieEnd || c.dieZero cx d) && decide (t + 176 ≤ c.acc.toNat) && !cx.counters.getLsbD d
  | none => false

/-- Traps found by the boundary where a core stands: those of cycles that have completed; in a handler, the handler's. -/
def Core.foundTraps (c : Core) : List Trap :=
  c.traps.filter fun t => if c.handler then t.hnd else !t.hnd && decide (t.cyc < c.acc.toNat)

/-- Whether a pending write leaves the timed core. -/
def Owed.outward (o : Owed) : Bool := match o.dest with | .hbm _ _ _ _ _ | .hatom _ _ | .log _ _ => true | _ => false

/-- What handler bundles still owe in some slots, at once: the steps and then the writes of its earliest cycle, in the order of a cycle
(R24, R121); none when nothing is left. Nothing of it goes to HBM. -/
def State.drainHandler (s : State) (cid p : Nat) (slots : Nat → Bool) : Option State :=
  let c := s.core cid
  let tasks := c.tasks.filter fun t => t.ctx.fl.hnd && slots t.ctx.slot
  let owed := c.owed.filter fun o => o.hnd && slots o.slot
  (tasks.map Task.cyc ++ owed.map Owed.due).min?.map fun C =>
    let now (t : Task) : Bool := t.ctx.fl.hnd && slots t.ctx.slot && t.cyc == C
    if tasks.any now then
      (s.setCore cid { c with tasks := c.tasks.filter fun t => !now t }).runAll (sortBy taskBefore (tasks.filter now) ++ [phase cid p 2])
    else
      let due (o : Owed) : Bool := o.hnd && slots o.slot && o.due == C
      (s.setCore cid { c with owed := c.owed.filter fun o => !(due o && o.outward) }).runAll
        ((sortBy owedBefore (owed.filter fun o => due o && !o.outward)).filterMap (c.performTask cid p) ++ [phase cid p 2])

/-- Phase 2: a trap is taken, in a handler once what its bundle would raise besides is known (R366); or every die's handler has returned or
its program has ended, and what the handlers still owe is done at once, cycle by cycle (R121, R127, R365); or released blocks, collectives
and the canopy follow (R272, R274, R358, R360, R365). -/
def State.fallDue (s : State) (cid p : Nat) : State :=
  let c := s.core cid
  let cx := s.ctx cid
  let dies := s.diesOf p
  let taken := s.runAll [⟨0, { cid := cid, p := p }, .trapTaken cid⟩]
  if !c.foundTraps.isEmpty then (if c.handler then (s.drainHandler cid p (· != 0)).getD taken else taken)
  else if c.handler then
    if dies.any fun d => (c.die d).inS && (c.die d).ended.isNone then (s.setCore cid c.giveBack).runAll [phase cid p 3]
    else (s.drainHandler cid p fun _ => true).getD ((s.setCore cid c.giveBack).runAll [phase cid p 4])
  else
    let ctx : Ctx := { cid := cid, p := p }
    let posts := (c.posts.filter fun q => decide (q.T + 176 ≤ c.acc.toNat)).map fun q => (⟨0, ctx, .collHandoff cid q.die⟩ : Task)
    let zero := (dies.filter (c.dieZero cx)).map fun d => (⟨0, ctx, .dieCounterZero cid d⟩ : Task)
    let canopy := (dies.filter (c.dieDue cx)).map fun d => (⟨0, ctx, .canopyDecrement cid d⟩ : Task)
    (s.setCore cid c.giveBack).runAll (posts ++ zero ++ canopy ++ [phase cid p 3])

/-! ### Phases 3 and 4 -/

/-- Forgets what no rewind can reach any more. -/
def Context.forget (c : Context) (acc : Nat) : Context :=
  let oldest := (c.marks.getLast?.map fun m => m.2.seen).getD 0
  { c with
    undo := c.undo.filter (fun e => decide (e.1 + 600 > acc))
    stands := c.stands.filter (fun e => decide (e.1 + 600 > acc))
    applied := c.applied.filter fun e => decide (e.1 ≥ oldest) }

/-- Phase 3: the boundary becomes one that a rewind may return to; a STEP expires; the holds of the boundary begin (R26, R358,
R372). -/
def State.settle (s : State) (cid p : Nat) : State :=
  let c := s.core cid
  if c.handler then s.settleHolds cid
  else
    let s1 := (s.remark cid).onCtx cid fun x => x.forget c.acc.toNat
    if (s.ctx cid).stepTo = some c.acc.toNat then s1.runAll [⟨0, { cid := cid, p := p }, .debugStepExpiry cid⟩, phase cid p 3]
    else s1.settleHolds cid

/-- A die goes on after the handlers (R365): at TBUNDLE, the cycles after TACC that stood between the trap boundary and its
next issue. A REVERSE goes on from its next record when TBUNDLE still names it. -/
def Die.goOn (x : Die) (acc : Nat) : Die :=
  let at_ (next : Nat) : Nat := max acc (x.tacc.toNat + (next - acc))
  if x.ended.isSome then { x with inS := false }
  else
    match x.rev with
    | some r =>
      if x.tbundle.toNat = r.addr then { x with rev := some { r with next := at_ r.next } }
      else { x with rev := none, pc := x.tbundle.toNat, next := at_ r.next }
    | none => { x with pc := x.tbundle.toNat, next := at_ x.next }

/-- Phase 4: every handler has returned; the kernel goes on at the trap boundary (R365). -/
def State.handlerResume (s : State) (cid p : Nat) : State :=
  let c := s.core cid
  let acc := c.acc.toNat
  let c1 : Core :=
    { c with
      handler := false
      hclk := 0
      dies := c.dies.map fun e => if e.1 < p + (s.part p).n then (e.1, e.2.goOn acc) else e
      flights := c.flights.filter fun f => !f.hnd
      access := c.access.filter fun a => !a.hnd
      reqs := c.reqs.map fun r => if r.hnd then { r with hnd := false, cyc := acc } else r }
  (s.setCore cid c1).settle cid p

/-- CYCLE_BOUNDARY (R18): the phase that the running context names. -/
def execCycleBoundary (p : Nat) (s : State) : Res :=
  match (s.part p).running with
  | none => .fault .noSuchObject
  | some cid =>
    if (s.ctx cid).state ≠ .running then .fault .notInThisState
    else match s.cur.row with
      | 0 => .next (s.columnWork cid p)
      | 1 => .next (s.cross cid p)
      | 2 => .next (s.fallDue cid p)
      | 3 => .next (s.settle cid p)
      | _ => .next (s.handlerResume cid p)

end Sys2Proof.Machine
end

