-- ==== Sys2Proof/Machine/Launch.lean ====
section
/-!
DEFINITION. How a run ends (R29, R244, R270, R274, R275): the canopy, retirement, failure, termination, and the freeing of a
context's storage.
-/
namespace Sys2Proof.Machine

/-- A timed core whose context has ended: what it still owed is discarded, what it owned is given back (R29, R244, R275). -/
def Core.discarded (c : Core) : Core :=
  { c with
    owed := [], tasks := [], flights := [], ports := [], chans := [], plans := [], access := [], hatoms := [], homeWords := []
    reqs := [], forming := [], posts := [], traps := [], owned := [], planes := 0, releasing := [] }

/-- Whether an outside event waits for a HATOM of a context. -/
def Pending.hatomOf (e : Pending) (cid : Nat) : Bool :=
  match e.instr with
  | .hatomParkNotice c _ | .hatomFetchLanding c _ => c == cid
  | _ => false

/-- The arrival on the completion word of a launch, and its vector (R260, R275). -/
def State.complete (s : State) (r : BitVec 512) (err : Bool) : State :=
  let s1 := if recField r 271 1 = 1 then s.launchArrival (recField r 256 10) 1 err 0 else s
  if recField r 277 1 = 1 then s1.raiseVector (recField r 272 5) else s1

/-- A parked or saved launch that dispatch has selected is being restored once its partition is free (R244, R251, R261). -/
def State.beginRestore (s : State) (p : Nat) : State :=
  match (s.part p).running, (s.part p).next with
  | none, some cid => if (s.ctx cid).state = .parked ∨ (s.ctx cid).state = .saved then s.onCtx cid fun c => { c with state := .restoring } else s
  | _, _ => s

/-- A context ends as retired or failed: its partition is free of it, its completion is reported, and its queue goes on to the
next record (R260, R261, R275). -/
def State.endContext (s : State) (cid : Nat) (st : CtxState) (k : KernelState) : State :=
  let cx := s.ctx cid
  let s1 := (s.setCore cid (s.core cid).discarded).setCtx cid
    { cx with state := st, kernel := k, holds := [], stepTo := none, marks := [], undo := [], stands := [], applied := [] }
  let s2 : State :=
    { s1 with
      inputs := s1.inputs.filter fun e => !e.hatomOf cid
      hub := { s1.hub with hatoms := s1.hub.hatoms.filter fun h => !(h.cid == cid && !h.got.isEmpty) } }
  let s3 := s2.onPart cx.p fun q =>
    { q with
      running := if q.running = some cid then none else q.running
      next := if q.next = some cid then none else q.next
      pf := q.pf.filter fun e => !(e.posted && cx.holds.any (Hold.ofSeq e.seq)) }
  let s4 := s3.complete cx.launch (st == .failed)
  (if (s4.queue cx.p cx.queue).launch = some cid then s4.advanceHead cx.p cx.queue else s4).beginRestore cx.p

/-- A context fails (R244, R270): DONE.N arrives with its error mark. -/
def State.failContext (s : State) (cid : Nat) : State := s.endContext cid .failed .faulted

/-- Whether some partition of the package holds a context in loading, running, held or frozen (R275). -/
def State.busy (s : State) : Bool :=
  s.ctxs.any fun e => match e.2.state with | .loading | .running | .held | .frozen => true | _ => false

/-- CONTEXT_TERMINATE (R244, R270). -/
def execContextTerminate (cid : Nat) (s : State) : Res :=
  if (s.ctx cid).alive then .next (s.failContext cid) else .fault .notInThisState

/-- CONTEXT_FREE (R244): the storage of a retired or failed context is free, and the context is empty. -/
def execContextFree (cid : Nat) (s : State) : Res :=
  if (s.ctx cid).state = .retired ∨ (s.ctx cid).state = .failed then
    .next { s with ctxs := SMap.erase s.ctxs cid, cores := SMap.erase s.cores cid }
  else .fault .notInThisState

/-! ### The canopy (R274, R275, R360) -/

/-- DIE_COUNTER_ZERO (R274): the die records its end with the ACC of the following cycle. -/
def execDieCounterZero (cid die : Nat) (s : State) : Res :=
  let c := s.core cid
  if c.dieZero (s.ctx cid) die then
    .next ((s.setCore cid (c.onDie die fun x => { x with dieEnd := true })).trace cid die 5 (c.die die).pc c.acc.toNat none 0)
  else .fault .notInThisState

/-- CANOPY_DECREMENT (R274, R360). -/
def execCanopyDecrement (cid die : Nat) (s : State) : Res :=
  let cx := s.ctx cid
  if (s.core cid).dieDue cx die then
    .next (s.setCtx cid { cx with canopy := cx.canopy - 1, counters := cx.counters ||| BitVec.ofNat 8 (2 ^ die) })
  else .fault .notInThisState

/-- Whether a HATOM of a kernel is still parked at its home (R275). -/
def State.parkedHatom (s : State) (cid : Nat) : Bool :=
  s.hub.hatoms.any fun h => h.cid == cid && h.got.isEmpty && ((s.core cid).hatom h.tag).isSome

/-- Whether a kernel retires now (R275). -/
def State.retires (s : State) (cid : Nat) : Bool :=
  let cx := s.ctx cid
  cx.state == .running && cx.kernel == .ending && cx.canopy == 0 && !s.parkedHatom cid

/-- KERNEL_RETIRE (R275). -/
def execKernelRetire (cid : Nat) (s : State) : Res :=
  if s.retires cid then
    let s1 := s.endContext cid .retired .retired
    .next (if s1.busy then s1 else s1.steward 2 0)
  else .fault .notInThisState

end Sys2Proof.Machine
end

