-- ==== Sys2Proof/Machine/Barrier.lean ====
section
/-!
DEFINITION. Arrivals at sync words and the host's writes of their words (R286, R287, R290).
-/
namespace Sys2Proof.Machine

/-- An input for a sync word of a die, at a byte of it (R287): the context that holds it takes it, and its wait holds are looked at again; one whose
context is retired, failed or empty discards it and reports it to the steward. In replay only the log reaches the partition
(R380). -/
def State.wordInput (s : State) (cid cls d n at_ : Nat) (payload : List Byte) (i : CoreInput) : State :=
  let c := s.ctx cid
  if !c.alive then s.steward 5 (syncAddr n)
  else if c.replaying then s
  else (s.input cid cls d (leBytes 8 (syncAddr n + at_) ++ payload) [i]).recheck cid

/-- An arrival of `b` bytes at a sync word, of input class `cls` (R287). -/
def State.arrive (s : State) (r : SyncRef) (cls b : Nat) (err : Bool) (vref : Nat) : State :=
  match r with
  | .launch n => s.launchArrival (n % 1024) b err vref
  | .die cid d n => s.wordInput cid cls d (n % 4096) 0 (leBytes 8 b) (.arrival d (n % 4096) b err vref)

/-- A host write of word `w` of a sync word: what it does to a launch word, or to a die's word as an input of class 1 (R290). -/
def State.hostWord (s : State) (r : SyncRef) (w v : Nat) (f : BitVec 128 → BitVec 128) (i : Nat → Nat → CoreInput) : State :=
  match r with
  | .launch n => (s.onLaunchWord (n % 1024) f).wakeQueues
  | .die cid d n => s.wordInput cid 1 d (n % 4096) (4 * w) (leBytes 4 v) (i d (n % 4096))

/-- SYNC_ARRIVAL (R286, R287). -/
def execSyncArrival (r : SyncRef) (b : Nat) (err : Bool) (vref : Nat) (s : State) : Res := .next (s.arrive r 2 b err vref)

/-- SYNC_TARGET_WRITE (R290): as ARM with t = v. -/
def execSyncTargetWrite (r : SyncRef) (v : Nat) (s : State) : Res :=
  let t := v % 2 ^ 32
  .next (s.hostWord r 0 t (fun w => swArm w t) fun d n => .target d n t)

/-- SYNC_COUNT_WRITE (R290): an arrival with b = v; v = 0 does nothing. -/
def execSyncCountWrite (r : SyncRef) (v : Nat) (s : State) : Res :=
  let b := v % 2 ^ 32
  .next (if b = 0 then s else s.hostWord r 1 b (fun w => swArrival w b false 0) fun d n => .arrival d n b false 0)

/-- SYNC_STATUS_WRITE (R290): clears the bits that are one in v, and VREF when v [15:8] is all ones. -/
def execSyncStatusWrite (r : SyncRef) (v : Nat) (s : State) : Res :=
  let m := v % 2 ^ 32
  .next (s.hostWord r 3 m (fun w => swClear w m) fun d n => .status d n m)

end Sys2Proof.Machine
end

