-- ==== Sys2Proof/Machine/Pages.lean ====
section
/-!
DEFINITION. Changes of the page tables under running kernels: shootdowns (R301, R302), poison marks (R306), migration (R305), and
the host's answers to page faults (R300).
-/
namespace Sys2Proof.Machine

/-! ### The leaves of the page tables -/

/-- The valid entries of a table, as their indexes (an entry that nothing has written is not valid). -/
def State.validEntries (s : State) (table n : Nat) : List Nat :=
  s.hbm.filterMap fun c =>
    if table ≤ c.1 ∧ c.1 < table + 8 * n ∧ (c.1 - table) % 8 = 0 ∧ c.2.getLsbD 0 then some ((c.1 - table) / 8) else none

/-- A page-table entry in HBM. -/
def State.pte (s : State) (pa : Nat) : BitVec 64 := BitVec.ofNat 64 (s.hbmRead pa 8)
/-- Whether an entry points to a next-level table (R293). -/
def ptePointer (e : BitVec 64) : Bool := !(pteBit e 1 || pteBit e 2 || pteBit e 3)

/-- A leaf: its virtual base, its level, its own address. -/
structure Leaf where
  va : Nat
  level : Nat
  pa : Nat
  deriving DecidableEq, Repr

/-- The well-formed leaves at and below a table. -/
def State.leavesFrom (s : State) : Nat → Nat → Nat → List Leaf
  | 0, table, va =>
    (s.validEntries table 8192).filterMap fun i =>
      let e := s.pte (table + 8 * i)
      if pteMalformed e 0 then none else some ⟨va + i * 2 ^ 16, 0, table + 8 * i⟩
  | level + 1, table, va =>
    ((s.validEntries table (if level = 1 then 1024 else 8192)).map fun i =>
      let e := s.pte (table + 8 * i)
      let at_ := va + i * 2 ^ pageBits (level + 1)
      if pteMalformed e (level + 1) then []
      else if ptePointer e then s.leavesFrom level (pteBase e) at_
      else [⟨at_, level + 1, table + 8 * i⟩]).flatten

/-- The leaves of a page table. -/
def State.leaves (s : State) (ptbase : Nat) : List Leaf := s.leavesFrom 2 ptbase 0

/-- Whether a leaf's page overlaps a virtual range. -/
def Leaf.overlaps (l : Leaf) (va len : Nat) : Bool := decide (l.va < va + len ∧ va < l.va + 2 ^ pageBits l.level)
/-- Whether a leaf's frame holds a physical address. -/
def State.frameHolds (s : State) (l : Leaf) (pa : Nat) : Bool :=
  let base := pteBase (s.pte l.pa)
  !pteBit (s.pte l.pa) 11 && decide (base ≤ pa ∧ pa < base + 2 ^ pageBits l.level)

/-- The page tables of the package, each with its partition. -/
def State.tables (s : State) : List (Nat × Nat) :=
  ((s.parts.map fun e => (e.1, e.2.make.ptbase)) ++ ((s.ctxs.filter fun e => e.2.alive).map fun e => (e.2.p, e.2.ptbase))).eraseDups

/-- The leaves whose frame holds a physical address, each with its partition. -/
def State.leavesOf (s : State) (pa : Nat) : List (Nat × Leaf) :=
  (s.tables.map fun t => ((s.leaves t.2).filter fun l => s.frameHolds l pa).map fun l => (t.1, l)).flatten

/-- Sets and clears bits of a leaf, as one update of its word. -/
def State.setLeaf (s : State) (pa : Nat) (set clear : BitVec 64) : State :=
  s.hbmWrite pa (leBytes 8 ((s.pte pa &&& ~~~clear) ||| set).toNat)

/-! ### Shootdowns -/

/-- Whether a TLB entry lies in a virtual range. -/
def TlbEntry.inRange (e : TlbEntry) (va len : Nat) : Bool := decide (e.va < va + len ∧ va < e.va + 2 ^ pageBits e.size)

/-- Every TLB of a partition's dies drops its entries for a range (R302). -/
def State.dropTlbs (s : State) (p va len : Nat) : State :=
  let keep (l : List TlbEntry) : List TlbEntry := l.filter fun e => !e.inRange va len
  (s.diesOf p).foldl (fun s d => s.onHw d fun h =>
    { h with dtlb := keep h.dtlb, itlb := keep h.itlb, linkTlb := keep h.linkTlb, ltlb := keep h.ltlb }) s

/-- Whether a shootdown of a range concerns a context: its page tables map a page of it, or a TLB of its dies or one of its handles
still holds one. -/
def State.concerned (s : State) (cid va len : Nat) : Bool :=
  let c := s.ctx cid
  let tlb (d : Nat) : Bool := let h := s.dieHw d
    (h.dtlb ++ h.itlb ++ h.linkTlb ++ h.ltlb).any fun e => e.inRange va len
  let held (d : Nat) : Bool := ((s.core cid).die d).tab.handles.any fun x =>
    x.2.v && decide (x.2.vbase.toNat < va + len ∧ va < x.2.vbase.toNat + 2 ^ pageBits x.2.size)
  c.alive && ((s.leaves c.ptbase).any (fun l => l.overlaps va len) || (s.diesOf c.p).any fun d => tlb d || held d)

/-- The arrival that a shootdown makes once every partition has applied it (R392): bit 15 of `sync` asks for it. -/
def State.shootdownDone (s : State) (sync : Nat) : State :=
  if bitAt sync 15 then s.launchArrival (sync % 1024) 1 false 0 else s

/-- A shootdown is accepted (R301): it comes to each context concerned as an input; dies without one drop the range at once. -/
def State.startShootdown (s : State) (va len sync : Nat) : State :=
  let id := s.hub.nextId
  let left := (s.ctxs.map Prod.fst).filter fun c => s.concerned c va len
  let idle := (s.parts.map Prod.fst).filter fun p => !left.any fun c => (s.ctx c).p == p
  let s1 := s.onHub fun h => { h with nextId := (id + 1) % 2 ^ 32 }
  let s2 := idle.foldl (fun s p => s.dropTlbs p va len) s1
  if left.isEmpty then s2.shootdownDone sync
  else
    { s2 with
      inputs := s2.inputs ++ left.map fun c => ⟨(s.ctx c).p, none, .shootdownApply c id⟩
      hub := { s2.hub with shootdowns := s2.hub.shootdowns ++ [⟨id, va, len, left, sync⟩] } }

/-- One context fewer for a shootdown to reach. -/
def State.shootdownReached (s : State) (cid id : Nat) : State :=
  match s.hub.shootdowns.find? fun x => x.id == id with
  | none => s
  | some x =>
    let left := x.left.filter (· != cid)
    if left.isEmpty then (s.onHub fun h => { h with shootdowns := h.shootdowns.filter fun y => y.id != id }).shootdownDone x.sync
    else s.onHub fun h => { h with shootdowns := h.shootdowns.map fun y => if y.id = id then { y with left := left } else y }

/-! ### Poison marks (R306) -/

/-- A notice for the host driver: kind 5 or 6, with its address. -/
def State.notice (s : State) (p kind va : Nat) : State := (s.queueFault p va kind p 0 0 0).2

/-- Poison service takes effect on the contexts that a page's shootdown concerns: each that runs is held until it is shot down (R26,
kind 8; log entry 100). -/
def State.poisonHolds (s : State) (va len : Nat) : State :=
  (s.ctxs.map Prod.fst).foldl (fun s cid =>
    let c := s.ctx cid
    if s.concerned cid va len && (s.part c.p).running == some cid && (c.state == .running || c.state == .held || c.state == .frozen) then
      s.beginHolds cid [⟨8, c.p, .poison va len⟩]
    else s) s

/-- Marks a line poisoned in every page that holds it: POISON is set, the page is shot down, and an entry of kind 6 is posted. -/
def State.markLine (s : State) (line : Nat) : State :=
  let s1 := s.onHub fun h => { h with poison := (h.poison ++ [line]).eraseDups }
  (s1.leavesOf (64 * line)).foldl (fun s e =>
    let l := e.2
    let size := 2 ^ pageBits l.level
    let at_ := l.va + (64 * line - pteBase (s.pte l.pa))
    (((s.setLeaf l.pa 0x200 0).startShootdown l.va size 0).poisonHolds l.va size).notice e.1 6 at_) s1

/-- POISON_MARK (R306). A line that no SPILL has marked before holds an uncorrectable error, in every word of it. -/
def execPoisonMark (line : Nat) (s : State) : Res :=
  let s1 := if s.hub.poison.contains line then s
    else s.onHub fun h => { h with badWords := (h.badWords ++ (List.range 16).map (16 * line + ·)).eraseDups }
  .next (s1.markLine line)

/-- Whether a page has a marked line. -/
def State.pageMarked (s : State) (base size : Nat) : Bool := s.hub.poison.any fun l => decide (base ≤ 64 * l ∧ 64 * l < base + size)

/-- Clears a mark (R306): POISON goes from each page in which none remains. -/
def State.clearMark (s : State) (line : Nat) : State :=
  let s1 := s.onHub fun h =>
    { h with poison := h.poison.filter (· != line), badWords := h.badWords.filter fun w => w / 16 != line }
  (s1.leavesOf (64 * line)).foldl (fun s e =>
    let size := 2 ^ pageBits e.2.level
    if s.pageMarked (pteBase (s.pte e.2.pa)) size then s
    else (s.setLeaf e.2.pa 0 0x200).startShootdown e.2.va size 0) s1

/-! ### Answers to page faults (R300) -/

/-- A fault hold whose entry was answered with retry. -/
def Hold.answered (h : Hold) : Bool := match h.on with | .fault _ _ _ _ _ a => a | _ => false
/-- Whether a posted entry of a partition still waits for an answer. -/
def Part.unanswered (q : Part) : Bool := q.pf.any fun e => e.posted && !e.notice

/-- Ends the answered fault holds of the partition's context, once every posted entry is answered (R300). -/
def State.retryFaults (s : State) (p : Nat) : State :=
  match (s.part p).running with
  | none => s
  | some cid =>
    let c := s.ctx cid
    if (c.state = .held ∨ c.state = .frozen) ∧ (s.part p).unanswered = false then s.lookAfter cid Hold.answered else s

/-- The posted entry with a sequence number that takes an answer. -/
def Part.openEntry (q : Part) (seq : Nat) : Option FaultEntry := q.pf.find? fun e => e.seq == seq && e.posted && !e.notice
/-- An entry is answered: it leaves the partition's list. -/
def State.dropEntry (s : State) (p seq : Nat) : State := s.onPart p fun q => { q with pf := q.pf.filter fun e => e.seq != seq }

/-- Marks the hold of an entry as answered in the contexts of a partition; a parked one looks up again at its restore (R246). -/
def State.answerHolds (s : State) (p seq : Nat) : State :=
  { s with ctxs := s.ctxs.map fun e =>
      if e.2.p = p then
        (e.1, { e.2 with holds := e.2.holds.map fun h =>
          match h.on with
          | .fault va perm n why q _ => if q = seq then { h with on := .fault va perm n why q true } else h
          | _ => h })
      else e }

/-- FAULT_RESP_RETRY (R300): an answer to an entry that is not open is ignored. -/
def execFaultRespRetry (p seq : Nat) (s : State) : Res :=
  match (s.part p).openEntry seq with
  | none => .next s
  | some _ => .next (((s.dropEntry p seq).answerHolds p seq).retryFaults p)

/-- FAULT_RESP_TERMINATE (R300): the context that faulted fails. -/
def execFaultRespTerminate (p seq : Nat) (s : State) : Res :=
  match (s.part p).openEntry seq with
  | none => .next s
  | some _ =>
    let s1 := s.dropEntry p seq
    .next (match s1.ctxs.find? fun e => e.2.p == p && e.2.alive && e.2.holds.any (Hold.ofSeq seq) with
      | some e => (s1.failContext e.1).retryFaults p
      | none => s1.retryFaults p)

/-! ### Migration (R305) -/

/-- The page table in which a page of a partition stands: its running context's, or the partition's own. -/
def State.rootFor (s : State) (p va : Nat) : Nat :=
  match (s.part p).running with
  | some cid => if (s.translate (s.ctx cid).ptbase va).isSome then (s.ctx cid).ptbase else (s.part p).make.ptbase
  | none => (s.part p).make.ptbase

/-- MIGRATION_START (R305, step 1): MIG is set, and the page is shot down. -/
def execMigrationStart (p va frame : Nat) (s : State) : Res :=
  match s.walk (s.rootFor p va) va with
  | .leaf leaf level pa =>
    let size := 2 ^ pageBits level
    if pteBit leaf 10 || pteBit leaf 11 || decide (frame % size ≠ 0 ∨ frame ≥ 2 ^ 48 ∨ va ≥ 2 ^ 52) then .fault .notInThisState
    else
      let base := va / size * size
      let s1 := (s.setLeaf pa 0x400 0).startShootdown base size 0
      .next (s1.onHub fun h => { h with migrations := h.migrations ++ [⟨p, base, pa, frame⟩] })
  | _ => .fault .notInThisState

/-- The frame that a timed copy takes with its handle. -/
def Flight.copyFrame (f : Flight) (i : Instr) : Option Nat :=
  let frame (h : BitVec 4) : Option Nat := some (SMap.get ({} : Handle) f.tab.handles h.toNat).frame.toNat
  match i with
  | .fill x | .fillm x | .fillx x | .spill x | .hatom x => frame x.h
  | _ => none

/-- The frames into which the adjoint of a FILL-like record adds through ADJH (R334, R351). -/
def State.adjointFrames (s : State) (cid : Nat) (f : Flight) : List Nat :=
  match f.inv, f.syl.head? with
  | some (r, base), some (_, i) =>
    let st : State := { s with cur := { cid := cid, d := f.die, fl := f } }
    let slices := match i with | .fillx _ => st.here.members f.grp f.die | _ => [512 * f.die]
    (slices.map fun n => (f.tab.hbmCells (st.sourceWords ⟨i, r.toNat, base⟩ n)).map fun e =>
      (SMap.get ({} : Handle) f.tab.handles e.2.1).frame.toNat).flatten
  | _, _ => []

/-- Whether a context has still to read or write a frame, by what it issued before a shootdown (R305, step 2): owed writes, copies and
adjoints under way, HATOMs, and log records that a bundle under way will still owe. -/
def State.usesFrame (s : State) (cid base size : Nat) : Bool :=
  let c := s.core cid
  let inside (pa : Nat) : Bool := decide (base ≤ pa ∧ pa < base + size)
  let uses (f : Flight) (i : Instr) (slot : Nat) : Bool :=
    (f.copyFrame i).any inside || (f.logs.any (fun l => l.1 == slot) && inside f.logPa)
  c.owed.any (fun o => match o.dest with
    | .hbm pa _ _ _ _ | .log pa _ => inside pa
    | _ => false)
  || c.tasks.any (fun t => uses t.ctx.fl t.instr t.ctx.slot || (s.adjointFrames cid t.ctx.fl).any inside)
  || c.hatoms.any (fun h => h.pairs.any fun e => inside e.2.1)
  || c.flights.any fun f => decide (c.acc.toNat ≤ f.T + 129)
    && (f.syl.any (fun e => uses f e.2 e.1) || (s.adjointFrames cid f).any inside)

/-- Whether a frame is at rest: no shootdown of the page is pending, and nothing is owed to it (R305, step 2). -/
def State.frameRests (s : State) (va size base : Nat) : Bool :=
  !(s.hub.shootdowns.any fun x => decide (x.va < va + size ∧ va < x.va + x.len))
    && !(s.ctxs.any fun e => e.2.alive && s.usesFrame e.1 base size)
    && !(s.hub.hatoms.any fun h => h.got.isEmpty && h.pairs.any fun e => decide (base ≤ e.2.1 ∧ e.2.1 < base + size))

/-- Whether an uncorrectable word lies in a frame. -/
def State.badIn (s : State) (base size : Nat) : Bool := s.hub.badWords.any fun w => decide (base ≤ 4 * w ∧ 4 * w < base + size)

/-- Copies a frame to another, whose words and lines are then those of the first; the marks of its lines go with it. -/
def State.copyFrame (s : State) (src dst size : Nat) : State :=
  let cells := s.hbm.filter fun c => decide (src ≤ c.1 ∧ c.1 < src + size)
  let rest := s.hbm.filter fun c => !decide (dst ≤ c.1 ∧ c.1 < dst + size)
  let stays (a : Nat) : Bool := !decide (dst ≤ a ∧ a < dst + size)
  let move (l : Nat) : Nat := if src ≤ 64 * l ∧ 64 * l < src + size then l - src / 64 + dst / 64 else l
  { s with
    hbm := cells.foldl (fun m c => SMap.set 0 m (c.1 - src + dst) c.2) rest
    hub := { s.hub with
      poison := ((s.hub.poison.filter fun l => stays (64 * l)).map move).eraseDups
      badWords := s.hub.badWords.filter fun w => stays (4 * w) } }

/-- Whether a hold waits for the end of a page's migration that is over: it lies in a range just shot down, and the page tables no
longer have MIG there (R305). -/
def State.migrationOver (s : State) (ptbase va len : Nat) (h : Hold) : Bool :=
  match h.on with
  | .migrate a _ _ =>
    decide (va ≤ a ∧ a < va + len) && match s.walk ptbase a with
      | .leaf leaf _ _ => !pteBit leaf 10
      | _ => true
  | _ => false

/-- A shootdown that ends a migration ends the holds that wait for it: each TRANS looks up again (R299, R305), a parked one at its restore
(R246). -/
def State.afterMigration (s : State) (cid va len : Nat) : State :=
  let c := s.ctx cid
  let ends := s.migrationOver c.ptbase va len
  if !c.holds.any ends then s
  else if c.state = .held ∨ c.state = .frozen then s.lookAfter cid ends
  else s.onCtx cid fun c =>
    { c with holds := c.holds.map fun h =>
        match h.on with
        | .migrate a perm n => if ends h then { h with on := .fault a perm n 0 (2 ^ 32) true } else h
        | _ => h }

/-- SHOOTDOWN_APPLY (R301, R302): TLB entries go, HGEN rises, handles are revoked, as an input of class 4; then
what waited for a migration that it ends goes on (R305), and so does what poison service held (R26, R306). -/
def execShootdownApply (cid id : Nat) (s : State) : Res :=
  match s.hub.shootdowns.find? fun x => x.id == id && x.left.contains cid with
  | none => .fault .noSuchObject
  | some x =>
    let c := s.ctx cid
    let s1 := s.dropTlbs c.p x.va x.len
    let s2 := if c.alive && !c.replaying then
        s1.input cid 4 c.p (leBytes 8 x.va ++ leBytes 8 x.len) [.shootdown x.va x.len] else s1
    let served (h : Hold) : Bool := match h.on with
      | .poison va len => decide (x.va ≤ va ∧ va + len ≤ x.va + x.len)
      | _ => false
    .next (((s2.afterMigration cid x.va x.len).endHolds cid served).shootdownReached cid id)

/-- MIGRATION_COMPLETE (R305, steps 3 to 5): the page stands in its new frame; or the migration aborts, as it does when the copy
reads an uncorrectable word; those source lines are marked, and an entry of kind 5 is posted. -/
def execMigrationComplete (p va : Nat) (abort : Bool) (badLines : List Nat) (s : State) : Res :=
  match s.hub.migrations.find? fun m => m.p == p && m.va == va with
  | none => .fault .noSuchObject
  | some m =>
    match s.walk (s.rootFor p va) va with
    | .leaf leaf level pa =>
      let size := 2 ^ pageBits level
      let src := pteBase leaf
      if !s.frameRests va size src then .fault .notInThisState
      else
        let s0 := s.onHub fun h => { h with migrations := h.migrations.filter (· != m) }
        let s1 := if abort || s.badIn src size then
            let lines := (badLines ++ s.hub.badWords.map (· / 16)).eraseDups.filter fun l => decide (src ≤ 64 * l ∧ 64 * l < src + size)
            let s2 := lines.foldl (fun s l => s.markLine l) (s0.setLeaf pa 0 0x400)
            (s2.startShootdown va size 0).notice p 5 va
          else
            ((s0.copyFrame src m.frame size).setLeaf pa (BitVec.ofNat 64 m.frame) 0x0000FFFFFFFF0400).startShootdown va size 0
        .next s1
    | _ => .fault .notInThisState

/-- BANK_SCRUB (R367, R368): an ECC event of one word. An uncorrectable one gives a bank word tag 01, makes an SMEM word bad, or
drops an instruction-cache line, which is then fetched again (R356); otherwise the word is clean, or corrected and counted, which is
free. Slices 0 to 4095 name bank words, 4096 + d the SMEM of die d, 4104 + d its instruction cache (log entry 81). -/
def execBankScrub (cid slice bank line : Nat) (bad : Bool) (s : State) : Res :=
  if SMap.has s.cores cid = false then .fault .noSuchObject
  else
    let d := if slice < 4096 then dieOf slice else slice % 8
    let k := 16 * line + bank
    if bad then
      .next (if slice < 4096 then s.absorb cid (.bankError slice (16 * (line % 8192) + bank % 16))
        else if slice < 4104 then s.absorb cid (.smemError d (k % 65536))
        else s.onHw d fun h => { h with icache := h.icache.eraseIdx k })
    else
      let (n, s1) := s.fresh
      .next (if Config.correctable n then s1.onHw d fun h => { h with corrected := h.corrected + 1 } else s1)

end Sys2Proof.Machine
end

