-- ==== Sys2Proof/Machine/Mailbox.lean ====
section
/-!
DEFINITION. The mailbox engine (R238, R441): host writes of device memory, with what they do to launch queues, page-fault queues and
regions bound to sync words (R255, R256, R286, R300).
-/
namespace Sys2Proof.Machine

/-- The partition with a PARTN.ID (R14). -/
def State.partOf (s : State) (id : Nat) : Option Nat := (s.parts.find? fun e => e.2.n != 0 && e.1 / e.2.n == id).map Prod.fst

/-- The physical address that a mailbox-window access reaches (R441): a valid, well-formed leaf with REMOTE = 0 and the permission. -/
def State.hostPa (s : State) (part va perm : Nat) : Option Nat :=
  match s.partOf part with
  | none => none
  | some p =>
    match s.translate (s.part p).make.ptbase va with
    | some (leaf, pa) => if leafGrants leaf perm && !pteBit leaf 11 then some pa else none
    | none => none

/-- An access that reaches nothing is counted, its address kept, and a steward event raised (R441). -/
def State.dropAccess (s : State) (va : Nat) : State :=
  (s.onHub fun h => { h with dropped := h.dropped + 1, firstDrop := some (h.firstDrop.getD va) }).steward 4 va

/-! ### Control blocks -/

/-- The bytes of a write that stands at offset `lo`, laid over `n` old bytes from offset 0. -/
def overlay (old : List Byte) (lo : Nat) (bs : List Byte) : List Byte :=
  (old.zipIdx).map fun e => if lo ≤ e.2 ∧ e.2 < lo + bs.length then bs.getD (e.2 - lo) 0 else e.1
/-- Whether a write at offset `lo` covers some byte of a field. -/
def touchesField (lo len off n : Nat) : Bool := decide (lo < off + n ∧ off < lo + len)

/-- A host step of an event on the agenda. -/
def hostTask (i : Instr) : Task := ⟨0, {}, i⟩

/-- A host write into a queue control block (R256): RING, LOG2N and AGE are stored, TAIL and CMD act; the dispatcher's fields and the
reserved bits stand. TAIL acts before CMD where one write has both (log entry 38). -/
def State.writeQueueBlock (s : State) (p q lo : Nat) (bs : List Byte) : State :=
  let old := (List.range 64).map fun i => s.hbmByte (s.qBase p q + i)
  let new := overlay old lo bs
  let field (off n : Nat) : Nat := ofLeBytes ((new.drop off).take n)
  let kept := (new.take 8) ++ [BitVec.ofNat 8 (field 8 1 % 16), BitVec.ofNat 8 (field 9 1)]
  let s1 := s.hbmWrite (s.qBase p q) kept
  let tail := if touchesField lo bs.length 20 4 then [hostTask (.tailWrite p q (field 20 4))] else []
  let cmd := if touchesField lo bs.length 24 1 then
      match field 24 1 % 4 with
      | 1 => [hostTask (.queueSuspend p q)]
      | 2 => [hostTask (.queueResume p q)]
      | 3 => [hostTask (.queueClear p q)]
      | _ => []
    else []
  s1.runAll (tail ++ cmd)

/-- A host write into the control block of a page-fault queue (R300): HEAD, RESP, VEC and VEN are stored; RESP.ACTION answers. -/
def State.writeFaultBlock (s : State) (p lo : Nat) (bs : List Byte) : State :=
  let base := (s.part p).make.faultQueue
  let old := (List.range 64).map fun i => s.hbmByte (base + i)
  let new := overlay old lo bs
  let field (off n : Nat) : Nat := ofLeBytes ((new.drop off).take n)
  let action := field 12 1 % 4
  let acts := touchesField lo bs.length 12 1 && (action == 1 || action == 2)
  let s1 := (s.hbmWrite (base + 4) ((new.drop 4).take 8)).hbmWrite (base + 16) [BitVec.ofNat 8 (Nat.land (field 16 1) 0x9F)]
  let s2 := if acts then s1.hbmWrite (base + 12) [BitVec.ofNat 8 action] else s1
  let s3 := if touchesField lo bs.length 4 4 then s2.flushFaults p else s2
  if acts then s3.runAll [hostTask (if action = 1 then .faultRespRetry p (field 8 4) else .faultRespTerminate p (field 8 4))] else s3

/-! ### Device memory -/

/-- The bytes of a write at a physical address that lie in a region bound to a sync word (R233). -/
def State.bytesInRegion (s : State) (ptbase pa n : Nat) (r : Region) : Nat :=
  let page (v : Nat) : Option Nat :=
    match s.translate ptbase (65536 * v) with
    | some (_, f) => if f / 65536 = pa / 65536 then some (65536 * v + pa % 65536) else none
    | none => none
  match ((List.range ((r.va + r.len + 65535) / 65536 - r.va / 65536)).filterMap fun i => page (r.va / 65536 + i)).head? with
  | none => 0
  | some va => ((List.range n).filter fun i => decide (r.va ≤ va + i ∧ va + i < r.va + r.len)).length

/-- Whether a context's page table maps a physical address. -/
def State.maps (s : State) (cid pa : Nat) : Bool := (s.leaves (s.ctx cid).ptbase).any fun l => s.frameHolds l pa

/-- A mailbox write as a context meets it (R232, R286, R287): for every context whose partition it reaches, the window's or one that maps
the page, an input of class 1, with an arrival where it lies in a region bound to a sync word. One that is over discards its arrivals
and reports them; any other keeps the bytes only for a rewind. -/
def State.hostReaches (s : State) (cid part pa va : Nat) (bs : List Byte) : State :=
  let c := s.ctx cid
  let hits := c.regions.filterMap fun r =>
    let b := s.bytesInRegion c.ptbase pa bs.length r
    if b = 0 then none else some (r, b)
  let arrivals := hits.map fun e => CoreInput.arrival e.1.die e.1.n e.2 false 0
  if !c.alive then hits.foldl (fun s e => s.steward 5 (syncAddr e.1.n)) s
  else if c.replaying then s
  else if hits.isEmpty && some c.p != s.partOf part && !s.maps cid pa then s.applied cid (.hbm pa bs)
  else (s.input cid 1 c.p (leBytes 8 va ++ bs) (.hbm pa bs :: arrivals)).recheck cid

/-- A host write of device memory is applied whole, and cleans the words that it covers (R237, R306). -/
def State.hostStore (s : State) (part pa va : Nat) (bs : List Byte) : State :=
  let s1 := (s.hbmWrite pa bs).onHub fun h =>
    { h with badWords := h.badWords.filter fun w => !decide (pa ≤ 4 * w ∧ 4 * w + 4 ≤ pa + bs.length) }
  (s1.ctxs.map Prod.fst).foldl (fun s c => s.hostReaches c part pa va bs) s1

/-- The partition whose queue area holds a physical address, and the partition whose page-fault control block does. -/
def State.queueAt (s : State) (pa : Nat) : Option Nat :=
  (s.parts.find? fun e => decide (e.2.n ≠ 0 ∧ e.2.make.queueArea ≤ pa ∧ pa < e.2.make.queueArea + 512)).map Prod.fst
/-- The partition whose page-fault control block holds a physical address. -/
def State.faultBlockAt (s : State) (pa : Nat) : Option Nat :=
  (s.parts.find? fun e => decide (e.2.n ≠ 0 ∧ e.2.make.faultQueue ≤ pa ∧ pa < e.2.make.faultQueue + 64)).map Prod.fst

/-- Whether the window's partition runs a replay, to which no host write is applied (R380). -/
def State.inReplay (s : State) (part : Nat) : Bool :=
  match s.partOf part with
  | none => false
  | some p => match (s.part p).running with
    | some cid => (s.ctx cid).replaying
    | none => false

/-- A host write of 1 to 64 bytes within one aligned line (R237, R238, R441). -/
def State.hostWrite (s : State) (part va : Nat) (bs : List Byte) : State :=
  match s.hostPa part va 2 with
  | none => s.dropAccess va
  | some pa =>
    match s.queueAt pa, s.faultBlockAt pa with
    | some p, _ =>
      let o := pa - (s.part p).make.queueArea
      s.writeQueueBlock p (o / 64) (o % 64) bs
    | none, some p => s.writeFaultBlock p (pa - (s.part p).make.faultQueue) bs
    | none, none => if s.inReplay part then s else s.hostStore part pa va bs

end Sys2Proof.Machine
end

