-- ==== Sys2Proof/Machine/Bar.lean ====
section
/-!
DEFINITION. The host's accesses (R238, R290, R391, R393, R441): the mailbox window, the BAR by offset with the steward mailbox's
registers (R392), the MSI-X table and telemetry, and the sync words.
-/
namespace Sys2Proof.Machine

/-! ### What an access names -/

/-- The sync words that a mailbox event names: 9 the launch sync words, 16 + 8 * cid + d those of die d of a context (log entry 92). -/
def hostSync (place n : Nat) : SyncRef := if place = 9 then .launch n else .die ((place - 16) / 8) (place % 8) n

/-- A host access of device memory sets MBWIN (R391). -/
def State.aim (s : State) (part va : Nat) : State :=
  s.onHub fun h => { h with mbwin := dw (packLe [(52, va / 2 ^ 20 * 2 ^ 20), (3, part), (9, 0)]) }

/-- A number with some of its bytes replaced, from byte `lo` on. -/
def patch (old w lo : Nat) (bs : List Byte) : Nat := ofLeBytes (overlay (leBytes w old) lo bs)

/-! ### Steward mailbox registers (R392) -/

/-- A register of the steward mailbox, by its offset. -/
def Hub.mailReg (h : Hub) (off : Nat) : DWord :=
  if off = 0 then h.cmd
  else if off < 0x40 then h.args.getD ((off - 8) / 8) 0
  else if off = 0x40 then h.stat
  else if off < 0x80 then h.ret.getD ((off - 0x48) / 8) 0
  else if off = 0xFF8 then h.mbwin
  else 0

/-- The event that carries out a command of the steward mailbox, with the operands that stand in ARG0 to ARG6. -/
def Hub.commandEvent (h : Hub) (op part tag : Nat) : Option Instr :=
  let a (i : Nat) : Nat := (h.args.getD i 0).toNat
  match op with
  | 1 => some (.queryPartition part tag)
  | 2 => some (.shootdown (a 0) (a 1) (a 2) tag)
  | 3 => some (.clearPoisonMark part (a 0) tag)
  | 4 => some (.loadLinkKey (a 0 % 2 ^ 32) (packLe [(64, a 1), (64, a 2), (64, a 3), (64, a 4)]) tag)
  | 5 => some (.eraseLinkKey (a 0 % 2 ^ 32) tag)
  | 6 => some (.setTrace part (a 0 % 2 ^ 16) (a 1) (a 2) tag)
  | 7 => some (.setProfileWindow part (a 0) (a 1) tag)
  | 8 => some (.recordReplay part (a 0) tag)
  | _ => none

/-- A write of CMD (R392): BUSY until the command is done; an unknown OP is done at once with RESULT 3; while BUSY it is ignored and
counted. -/
def State.startCommand (s : State) (v : Nat) : State :=
  if bitAt s.hub.stat.toNat 0 then s.onHub fun h => { h with cmdIgnored := h.cmdIgnored + 1 }
  else
    let (op, part, tag) := (bitsOf v 0 8, bitsOf v 8 8, bitsOf v 16 16)
    let s1 := s.onHub fun h => { h with cmd := dw (v % 2 ^ 32) }
    match s.hub.commandEvent op part tag with
    | some i => { s1.onHub fun h => { h with stat := h.stat ||| 1 } with inputs := s1.inputs ++ [⟨0, none, i⟩] }
    | none => s1.onHub fun h => { h with stat := dw (packLe [(8, 0), (8, 3), (16, tag), (32, 0)]), ret := [0, 0, 0, 0, 0, 0, 0] }

/-- A write of a steward mailbox register; STAT and RET are read-only. -/
def State.writeMailReg (s : State) (off v : Nat) : State :=
  if off = 0 then s.startCommand v
  else if off < 0x40 then s.onHub fun h => { h with args := h.args.set ((off - 8) / 8) (dw v) }
  else if off = 0xFF8 then s.aim (bitsOf v 52 3) (v % 2 ^ 52)
  else s

/-! ### The BAR (R391) -/

/-- The bytes of the schedule that a port holds (R320). -/
def Port.scheduleBytes (x : Port) : List Byte :=
  leBytes 8 x.nslot ++ leBytes 8 x.slotLen ++ leBytes 8 x.guard ++ leBytes 8 x.start
    ++ (x.slots.map fun r => leBytes 4 r.peer ++ leBytes 4 (packLe [(5, r.pport), (1, b2n r.v)]) ++ leBytes 32 r.pid).flatten

/-- A byte of telemetry: the count of failed accesses and the address of the first stand where the part has them, and so do the reports
that the spec names; the rest is open (R376, R384, R386, R391, R392, R441; log entry 92). -/
def State.telemetryByte (s : State) (n t : Nat) : Byte :=
  let at_ := Config.dropCountAt
  let word (v i : Nat) : Byte := BitVec.ofNat 8 (v >>> (8 * i))
  if at_ ≤ t ∧ t < at_ + 8 then word s.hub.dropped (t - at_)
  else if at_ + 8 ≤ t ∧ t < at_ + 16 then word (s.hub.firstDrop.getD 0) (t - at_ - 8)
  else match Config.telemetryMap t with
    | .other => Config.telemetry n t
    | .ignored i => word s.hub.cmdIgnored i
    | .corrected d i => word (s.dieHw d).corrected i
    | .age d => word (s.dieHw d).age 0
    | .schedule port i => ((SMap.get {} s.link.ports port).scheduleBytes).getD i 0
    | .traceDropped p i => word (s.part p).traceDropped i
    | .costHeader d i => word (Config.costHeader d) i
    | .costPad d i => word (Config.costPad d) i
    | .costS d op i => word (Config.costS d op) i
    | .costSyllable d slot op ty i => word (Config.costSyllable d slot op ty) i

/-- A byte of the BAR behind the mailbox window: queue tails, MSI-X table and pending bits, steward mailbox, telemetry; zero elsewhere. -/
def State.barByte (s : State) (n off : Nat) : Byte :=
  let byte (v : Nat) (i : Nat) : Byte := BitVec.ofNat 8 (bitsOf v (8 * i) 8)
  if 0x1000000 ≤ off ∧ off < 0x1000200 then
    match s.partOf (off / 64 % 8) with
    | some p => if off % 8 < 4 then s.hbmByte (s.qBase p (off / 8 % 8) + 20 + off % 8) else 0
    | none => 0
  else if 0x1010000 ≤ off ∧ off < 0x1010200 then byte (SMap.get 0 s.hub.msixTable (off / 16 % 32)).toNat (off % 16)
  else if 0x1010200 ≤ off ∧ off < 0x1010208 then byte s.hub.msix.toNat (off % 8)
  else if 0x1020000 ≤ off ∧ off < 0x1021000 then byte (s.hub.mailReg (off % 4096 / 8 * 8)).toNat (off % 8)
  else if 0x1030000 ≤ off ∧ off < 0x1040000 then s.telemetryByte n (off % 65536)
  else 0

/-- Reads of the BAR behind the window. A read of the count of failed accesses lets the next one be the first again (R441). -/
def State.barRead (s : State) (off n : Nat) : State :=
  let (k, s1) := s.fresh
  let seen := (List.range n).any fun i => 0x1030000 + Config.dropCountAt == off + i
  s1.onHub fun h =>
    { h with
      readback := (List.range n).map fun i => s.barByte k (off + i)
      firstDrop := if seen then none else h.firstDrop }

/-- Writes of the BAR behind the window: a queue's TAIL (R257), the MSI-X table, the steward mailbox; ignored elsewhere. -/
def State.barWrite (s : State) (off : Nat) (bs : List Byte) : State :=
  if 0x1000000 ≤ off ∧ off < 0x1000200 then
    match s.partOf (off / 64 % 8) with
    | some p => if off % 8 = 0 ∧ bs.length = 4 then s.runAll [hostTask (.tailWrite p (off / 8 % 8) (ofLeBytes bs))] else s
    | none => s
  else if 0x1010000 ≤ off ∧ off < 0x1010200 then
    (List.range ((off % 16 + bs.length + 15) / 16)).foldl (fun s k =>
      s.onHub fun h =>
        let n := off / 16 % 32 + k
        let part := (bs.drop (16 * k - off % 16)).take (16 - (if k = 0 then off % 16 else 0))
        let new := patch (SMap.get 0 h.msixTable n).toNat 16 (if k = 0 then off % 16 else 0) part
        { h with msixTable := if n < 32 then SMap.set 0 h.msixTable n (BitVec.ofNat 128 new) else h.msixTable }) s
  else if 0x1020000 ≤ off ∧ off < 0x1021000 then
    (List.range ((off % 8 + bs.length + 7) / 8)).foldl (fun s k =>
      let r := off % 4096 / 8 * 8 + 8 * k
      let part := (bs.drop (8 * k - off % 8)).take (8 - (if k = 0 then off % 8 else 0))
      s.writeMailReg r (patch (s.hub.mailReg r).toNat 8 (if k = 0 then off % 8 else 0) part)) s
  else s

/-! ### Sync words (R235, R259, R290) -/

/-- A sync word as the host reads it; one whose context is over reads zero (log entry 92). -/
def State.hostSyncWord (s : State) (r : SyncRef) : BitVec 128 :=
  match r with
  | .launch n => s.launchWord (n % 1024)
  | .die cid d n => if (s.ctx cid).alive then ((s.core cid).die d).syncAt (syncAddr (n % 4096)) else 0

/-- What a host write of one 4-byte word of a sync word does (R290); GEN ignores it. -/
def syncWriteTask (r : SyncRef) (i v : Nat) : Option Task :=
  match i with
  | 0 => some (hostTask (.syncTargetWrite r v))
  | 1 => some (hostTask (.syncCountWrite r v))
  | 2 => none
  | _ => some (hostTask (.syncStatusWrite r v))

/-- The whole 4-byte words of a host write of sync words, in ascending order (R290). -/
def syncWriteTasks (place va : Nat) (bs : List Byte) : List Task :=
  (List.range (bs.length / 4)).filterMap fun j =>
    let w := va / 4 + j
    syncWriteTask (hostSync place (w / 4)) (w % 4) (ofLeBytes ((bs.drop (4 * j)).take 4))

/-! ### The two events -/

/-- A write through the mailbox window that crosses a line is applied line by line in ascending order (R237, R238). -/
def State.windowWrite (s : State) (part va : Nat) (bytes : List Byte) : State :=
  let n := 64 - va % 64
  if bytes.isEmpty then s
  else if bytes.length ≤ n then s.hostWrite part va bytes
  else (s.runAll [hostTask (.mailboxWrite part (va + n) (bytes.drop n))]).hostWrite part va (bytes.take n)

/-- A read through the mailbox window: the bytes as every access applied before leaves them, all ones where it reaches nothing (R441). -/
def State.windowRead (s : State) (part va n : Nat) : State :=
  let bytes := (List.range n).map fun i => (s.hostPa part (va + i) 1).map s.hbmByte
  let s1 := s.onHub fun h => { h with readback := bytes.map fun b => b.getD 0xFF }
  match (bytes.zipIdx).find? fun e => e.1.isNone with
  | some e => s1.dropAccess (va + e.2)
  | none => s1

/-- MAILBOX_WRITE (R238, R290, R391, R441): before the BAR opens nothing is written (R393). The place is a partition's window, 8 for the
BAR by offset, or sync words (log entry 92). -/
def execMailboxWrite (part va : Nat) (bytes : List Byte) (s : State) : Res :=
  let w := s.hub.mbwin.toNat
  .next (if !s.hub.barOpen then s
    else if part < 8 then (s.aim part va).windowWrite part va bytes
    else if part = 8 then
      (if va < 2 ^ 20 then s.windowWrite (bitsOf w 52 3) (bitsOf w 0 52 + va) bytes else s.barWrite va bytes)
    else if va % 4 = 0 then s.runAll (syncWriteTasks part va bytes)
    else s)

/-- MAILBOX_READ (R238, R290, R391, R441), of the same places; zero before the BAR opens, but for STAT (R393). -/
def execMailboxRead (part va n : Nat) (s : State) : Res :=
  let w := s.hub.mbwin.toNat
  let answer (f : Nat → Byte) : State := s.onHub fun h => { h with readback := (List.range n).map f }
  .next (if !s.hub.barOpen then
      answer fun i => if part = 8 ∧ 0x1020040 ≤ va + i ∧ va + i < 0x1020048 then s.barByte 0 (va + i) else 0
    else if part < 8 then (s.aim part va).windowRead part va n
    else if part = 8 then
      (if va < 2 ^ 20 then s.windowRead (bitsOf w 52 3) (bitsOf w 0 52 + va) n else s.barRead va n)
    else answer fun i =>
      let a := va + i
      BitVec.ofNat 8 (bitsOf (s.hostSyncWord (hostSync part (a / 16))).toNat (8 * (a % 16)) 8))

end Sys2Proof.Machine
end

