-- ==== Sys2Proof/Machine/Steward.lean ====
section
/-!
DEFINITION. The steward mailbox (R392): its registers, and the commands of the host.
-/
namespace Sys2Proof.Machine

/-- The number that names the whole package in a command's PART. -/
def wholePackage : Nat := 0xFF

/-- A command is done (R392): BUSY is clear, RESULT and TAG are written together, and its results. One that did not come through CMD
(R391) leaves CMD and the operands as if it had. -/
def State.reply (s : State) (op part tag : Nat) (args : List Nat) (result : Nat) (ret : List Nat) : State :=
  let seven (l : List Nat) : List DWord := (List.range 7).map fun i => dw (l.getD i 0)
  let busy := bitAt s.hub.stat.toNat 0
  s.onHub fun h =>
    { h with
      cmd := if busy then h.cmd else dw (packLe [(8, op), (8, part), (16, tag), (32, 0)])
      args := if busy then h.args else seven args
      stat := dw (packLe [(8, 0), (8, result), (16, tag), (32, 0)])
      ret := seven ret }

/-- A command before the BAR opens reaches nothing (R393); one while the steward is busy with another is ignored and counted. -/
def State.command (s : State) (op tag : Nat) (f : State → State) : Res :=
  let cmd := s.hub.cmd.toNat
  .next (if !s.hub.barOpen then s
    else if bitAt s.hub.stat.toNat 0 && !(bitsOf cmd 0 8 == op && bitsOf cmd 16 16 == tag % 2 ^ 16) then
      s.onHub fun h => { h with cmdIgnored := h.cmdIgnored + 1 }
    else f s)

/-- The partitions that a command's PART names. -/
def State.partsNamed (s : State) (part : Nat) : List Nat :=
  if part = wholePackage then (s.parts.filter fun e => e.2.n != 0).map Prod.fst else (s.partOf part).toList

/-- Changes every context of some partitions. -/
def State.onCtxsOf (s : State) (ps : List Nat) (f : Context → Context) : State :=
  let g (e : Nat × Context) : Nat × Context := if ps.contains e.2.p then (e.1, f e.2) else e
  { s with ctxs := s.ctxs.map g }

/-- QUERY_PARTITION (R392). -/
def execQueryPartition (part tag : Nat) (s : State) : Res :=
  s.command 1 tag fun s =>
    match s.partOf part with
    | none => s.reply 1 part tag [] 2 []
    | some p =>
      let t := s.part p
      s.reply 1 part tag [] 0
        [t.make.queueArea, t.make.faultQueue, t.make.traceRing, t.make.replayLog, (2 ^ t.n - 1) <<< p]

/-- SHOOTDOWN (R301, R392): the command completes when the request is accepted. -/
def execShootdown (va len sync tag : Nat) (s : State) : Res :=
  s.command 2 tag fun s =>
    if va % 65536 ≠ 0 ∨ len % 65536 ≠ 0 then s.reply 2 wholePackage tag [va, len, sync] 2 []
    else (s.startShootdown va len sync).reply 2 wholePackage tag [va, len, sync] 0 []

/-- CLEAR_POISON_MARK (R306, R392). -/
def execClearPoisonMark (part va tag : Nat) (s : State) : Res :=
  s.command 3 tag fun s =>
    match s.partOf part with
    | none => s.reply 3 part tag [va] 2 []
    | some p =>
      match if va % 64 = 0 then s.translate (s.rootFor p va) va else none with
      | none => s.reply 3 part tag [va] 2 []
      | some (_, pa) =>
        if s.hub.poison.contains (pa / 64) then (s.clearMark (pa / 64)).reply 3 part tag [va] 0 []
        else s.reply 3 part tag [va] 1 []

/-- The operands of a 256-bit key, ARG1 lowest. -/
def keyArgs (key : Nat) : List Nat := (List.range 4).map fun i => bitsOf key (64 * i) 64

/-- LOAD_LINK_KEY (R322, R392): replaces any key held for the peer in every port. 0xFFFF_FFFF names no package (R439). -/
def execLoadLinkKey (peer key tag : Nat) (s : State) : Res :=
  s.command 4 tag fun s =>
    if peer ≥ 0xFFFFFFFF then s.reply 4 wholePackage tag (peer :: keyArgs key) 2 []
    else (s.onLink fun l => { l with keys := SMap.put l.keys peer (key % 2 ^ 256) }).reply 4 wholePackage tag (peer :: keyArgs key) 0 []

/-- ERASE_LINK_KEY (R322, R392). -/
def execEraseLinkKey (peer tag : Nat) (s : State) : Res :=
  s.command 5 tag fun s =>
    (s.onLink fun l => { l with keys := if peer = 0xFFFFFFFF then [] else SMap.erase l.keys peer }).reply 5 wholePackage tag [peer] 0 []

/-- SET_TRACE (R376, R392): the kinds to record and the window of kind 1, on every die of the partition. -/
def execSetTrace (part kinds lo hi tag : Nat) (s : State) : Res :=
  s.command 6 tag fun s =>
    match s.partsNamed part with
    | [] => s.reply 6 part tag [kinds, lo, hi] 2 []
    | ps =>
      let dies := (ps.map s.diesOf).flatten
      (dies.foldl (fun s d => s.onHw d fun h => { h with trKinds := BitVec.ofNat 16 kinds, trLo := lo, trHi := hi }) s).reply
        6 part tag [kinds, lo, hi] 0 []

/-- SET_PROFILE_WINDOW (R378, R392): clears the histogram. -/
def execSetProfileWindow (part base g tag : Nat) (s : State) : Res :=
  s.command 7 tag fun s =>
    match s.partsNamed part with
    | [] => s.reply 7 part tag [base, g] 2 []
    | ps =>
      if g % 64 < 3 ∨ g % 64 > 32 then s.reply 7 part tag [base, g] 2 []
      else
        let s1 := ps.foldl (fun s p => s.onPart p fun q => { q with profBase := base, profG := g % 64 }) s
        (s1.onCtxsOf ps fun c => { c with profBase := base, profG := g % 64, prof := [] }).reply 7 part tag [base, g] 0 []

/-- RECORD_REPLAY (R379, R392): 1 records the next launch of the partition, 0 stops. -/
def execRecordReplay (part want tag : Nat) (s : State) : Res :=
  s.command 8 tag fun s =>
    match s.partsNamed part with
    | [] => s.reply 8 part tag [want] 2 []
    | ps =>
      let s1 := ps.foldl (fun s p => s.onPart p fun q => { q with record := want % 2 == 1 }) s
      (if want % 2 = 1 then s1 else s1.onCtxsOf ps fun c => { c with recording := false }).reply 8 part tag [want] 0 []

end Sys2Proof.Machine
end

