-- ==== Sys2Proof/Machine/Storage.lean ====
section
/-!
DEFINITION. Who holds which bank blocks and accumulator planes (R247 to R249, R266), pre-emption with parking (R245 to R247), and
the restore (R251, R252).
-/
namespace Sys2Proof.Machine

/-- The states in which a context keeps its storage against a claim. -/
def Context.active (c : Context) : Bool :=
  match c.state with
  | .loading | .running | .held | .frozen | .restoring => true
  | _ => false
/-- The states in which a context's storage may be written out (R249). -/
def Context.stored (c : Context) : Bool := c.state == .parked || c.state == .saved

/-- Whether two contexts stand on a common die. -/
def Context.meets (c e : Context) : Bool := c.dies.any e.dies.contains

/-- The blocks of a slice that other active contexts own: now, or at a boundary to which a trap may still take them back. -/
def State.heldBlocks (s : State) (cid n : Nat) : BitVec 128 :=
  (s.ctxs.filter fun e => e.1 != cid && e.2.active).foldl (fun a e =>
    e.2.marks.foldl (fun a m => a ||| SMap.get 0 m.2.owned n) (a ||| SMap.get 0 (s.core e.1).owned n)) 0
/-- The planes that other active contexts on the same dies own. -/
def State.heldPlanes (s : State) (cid : Nat) : BitVec 8 :=
  (s.ctxs.filter fun e => e.1 != cid && e.2.active && e.2.meets (s.ctx cid)).foldl (fun a e =>
    e.2.marks.foldl (fun a m => a ||| m.2.planes) (a ||| (s.core e.1).planes)) 0

/-! ### The spill map (R248) -/

/-- RANKS of a unit of a slice, in a context with these planes allocated; `k` draws the size of the slice's snapshot, 1 to 64. -/
def Slice.unitRanks (sl : Slice) (planes : BitVec 8) (k u : Nat) : Nat :=
  if u < 8 then 64
  else if u < 16 then (if planes.getLsbD (u - 8) then 64 else 0)
  else if u < 24 then 2
  else if u < 40 then (SMap.get [] sl.q (u - 24)).length
  else if u < 44 then 4
  else if u < 56 then 1
  else if u = 56 then 32
  else if u = 57 then 37
  else if u = 58 then 1 + Config.snapshotRanks k % 64
  else 0

/-- An entry: WHERE, RANKS, PLANE, LINE and OFF. -/
def spillEntry (w ranks plane line off : Nat) : BitVec 64 :=
  BitVec.ofNat 64 (packLe [(2, w), (7, ranks), (3, plane), (13, line), (22, off), (17, 0)])
/-- WHERE of a spill-map entry. -/
def spillWhere (e : BitVec 64) : Nat := bitsOf e.toNat 0 2
/-- RANKS of a spill-map entry. -/
def spillRanks (e : BitVec 64) : Nat := bitsOf e.toNat 2 7
/-- PLANE of a spill-map entry. -/
def spillPlane (e : BitVec 64) : Nat := bitsOf e.toNat 9 3
/-- LINE of a spill-map entry. -/
def spillLine (e : BitVec 64) : Nat := bitsOf e.toNat 12 13
/-- OFF of a spill-map entry. -/
def spillOff (e : BitVec 64) : Nat := bitsOf e.toNat 25 22

/-- Whether unit u stands in lines or in a plane that a claim takes; an accumulator plane that stays in place stands in itself. -/
def spillHit (u : Nat) (e : BitVec 64) (blocks : BitVec 128) (planes : BitVec 8) : Bool :=
  match spillWhere e with
  | 0 => decide (8 ≤ u ∧ u < 16) && planes.getLsbD (u - 8)
  | 1 => (List.range (spillRanks e)).any fun r => blocks.getLsbD ((spillLine e + r) % 8192 / 64)
  | 2 => planes.getLsbD (spillPlane e)
  | _ => false

/-- The first offset behind everything that a spill map has in the save area. -/
def spillEnd (m : SMap (BitVec 64)) : Nat :=
  m.foldl (fun a e => if spillWhere e.2 = 3 then max a (spillOff e.2 + spillRanks e.2) else a) 0

/-- The offset that the steward's plan gives a unit in the save area. -/
def planOff (moves : List ParkMove) (key : Nat) : Option Nat :=
  (moves.find? fun m => 64 * m.slice + m.unit == key && spillWhere m.entry == 3).map fun m => spillOff m.entry

/-- Writes the units that a test picks out to the save area: where the plan says, or behind what is there. -/
def spillOut (moves : List ParkMove) (hit : Nat → BitVec 64 → Bool) (m : SMap (BitVec 64)) : SMap (BitVec 64) :=
  (m.foldl (fun (acc : List (Nat × BitVec 64) × Nat) e =>
    if hit e.1 e.2 && spillWhere e.2 != 3 then
      let off := (planOff moves e.1).getD acc.2
      (acc.1 ++ [(e.1, spillEntry 3 (spillRanks e.2) 0 0 off)], max acc.2 (off + spillRanks e.2))
    else (acc.1 ++ [e], acc.2)) ([], spillEnd m)).1

/-- What the steward writes to a context's save area (R247, R249, R388): sequencer state, snapshot, units and lines. The spec gives its
layout only by offset, so the bytes are free (log entry 42). -/
def State.writeSave (s : State) (cid : Nat) : State :=
  let (n, s1) := s.fresh
  s1.hbmWrite (s.ctx cid).save (Config.saveArea n)

/-- A stored context gives up claimed storage: its lines and units there go to its save area; with nothing left on the dies it is
saved (R244, R249). -/
def State.writeOut (s : State) (cid : Nat) (blocks : SMap (BitVec 128)) (planes : BitVec 8) (moves : List ParkMove) : State :=
  let c := s.core cid
  let x := s.ctx cid
  let owned := c.owned.filterMap fun e =>
    let v := e.2 &&& ~~~(SMap.get 0 blocks e.1)
    if v = 0 then none else some (e.1, v)
  let spill := spillOut moves (fun k e => spillHit (k % 64) e (SMap.get 0 blocks (k / 64)) planes) x.spill
  let away := owned.isEmpty && spill.all fun e => spillWhere e.2 == 3
  let s1 := s.setCore cid { c with owned := owned, planes := c.planes &&& ~~~planes }
  let s2 := s1.setCtx cid { x with spill := spill, state := if away && x.state == .parked then .saved else x.state }
  if owned = c.owned ∧ spill = x.spill then s2 else s2.writeSave cid

/-- A context claims blocks and planes (R249): it gets what no other active context owns, and stored contexts give theirs up.
A block holds what this context last had in it, zeros at first (log entry 31). -/
def State.claim (s : State) (cid : Nat) (blocks : SMap (BitVec 128)) (planes : BitVec 8) (moves : List ParkMove) : State :=
  let got := blocks.map fun e => (e.1, e.2 &&& ~~~(s.heldBlocks cid e.1))
  let gotP := planes &&& ~~~(s.heldPlanes cid)
  let c := s.core cid
  let s1 := s.setCore cid
    { c with
      owned := got.foldl (fun m e => SMap.set 0 m e.1 (SMap.get 0 m e.1 ||| e.2)) c.owned
      planes := c.planes ||| gotP }
  ((s1.ctxs.filter fun e => e.1 != cid && e.2.stored && e.2.meets (s1.ctx cid)).map Prod.fst).foldl
    (fun s o => s.writeOut o got gotP moves) s1

/-- A context claims bank-mask set n. -/
def State.claimSet (s : State) (cid n : Nat) (moves : List ParkMove) : State :=
  let set := (s.ctx cid).set n
  s.claim cid set.2 set.1 moves

/-- STORAGE_CLAIM (R249, R272): the steward claims the set of an ACQB in force; its bank hold ends when all of it is owned. -/
def execStorageClaim (cid : Nat) (moves : List ParkMove) (s : State) : Res :=
  match (s.ctx cid).holds.findSome? fun h => match h.on with | .bank n => some n | _ => none with
  | none => .fault .noSuchObject
  | some n => .next ((s.claimSet cid n moves).recheck cid)

/-! ### Pre-emption (R245 to R247) -/

/-- What parking may still use of one slice: planes, runs of lines (first, length), and the next offset of the save area. -/
structure ParkRoom where
  planes : List Nat
  lines : List (Nat × Nat)
  off : Nat
  deriving DecidableEq, Repr

/-- Takes r lines from a run that holds them, the rest staying free. -/
def takeLines (line r : Nat) : List (Nat × Nat) → Option (List (Nat × Nat))
  | [] => none
  | (a, n) :: l =>
    if a ≤ line ∧ line + r ≤ a + n then some ((if a < line then [(a, line - a)] else []) ++ (if line + r < a + n then [(line + r, a + n - line - r)] else []) ++ l)
    else (takeLines line r l).map fun m => (a, n) :: m

/-- Where one unit of r ranks is parked (R247): where the steward's plan puts it, if it may stand there; else in the first free plane or
run of lines; in the save area when neither remains. -/
def ParkRoom.place (m : ParkRoom) (plan : Option (BitVec 64)) (r : Nat) : BitVec 64 × ParkRoom :=
  let first : BitVec 64 × ParkRoom :=
    match m.planes, m.lines.find? fun e => decide (r ≤ e.2) with
    | p :: ps, _ => (spillEntry 2 r p 0 0, { m with planes := ps })
    | [], some e => (spillEntry 1 r 0 e.1 0, { m with lines := (takeLines e.1 r m.lines).getD m.lines })
    | [], none =>
      let off := (plan.filter fun e => spillWhere e == 3).elim m.off spillOff
      (spillEntry 3 r 0 0 off, { m with off := max m.off (off + r) })
  match plan with
  | none => first
  | some e =>
    if spillWhere e = 2 ∧ m.planes.contains (spillPlane e) then
      (spillEntry 2 r (spillPlane e) 0 0, { m with planes := m.planes.filter (· != spillPlane e) })
    else if spillWhere e = 1 then
      (match takeLines (spillLine e) r m.lines with
      | some l => (spillEntry 1 r 0 (spillLine e) 0, { m with lines := l })
      | none => first)
    else first

/-- The runs of consecutive lines of free blocks. -/
def freeRuns (free : Nat → Bool) : List (Nat × Nat) :=
  (List.range 128).foldr (fun b l =>
    if !free b then l
    else match l with
      | (a, n) :: r => if a = 64 * (b + 1) then (64 * b, n + 64) :: r else (64 * b, 64) :: l
      | [] => [(64 * b, 64)]) []

/-- The storage that a context needs at its restore: set 0, the acquired sets, and the blocks and planes that a RELB still holds back. -/
def Core.needs (c : Core) (cx : Context) : SMap (BitVec 128) × BitVec 8 :=
  let sets := (cx.sets.zipIdx).filter fun e => e.2 == 0 || c.acquired.getLsbD e.2
  let add (m : SMap (BitVec 128)) (n : Nat) (v : BitVec 128) : SMap (BitVec 128) := SMap.set 0 m n (SMap.get 0 m n ||| v)
  let blocks := sets.foldl (fun m e => e.1.2.foldl (fun m b => add m b.1 b.2) m) []
  let planes := sets.foldl (fun a e => a ||| e.1.1) (0 : BitVec 8)
  c.releasing.foldl (fun a r =>
    if r.1 = 4096 then (a.1, a.2 ||| BitVec.ofNat 8 (2 ^ r.2)) else (add a.1 r.1 (BitVec.ofNat 128 (2 ^ r.2)), a.2)) (blocks, planes)

/-- The storage that the incoming context claims (R247): of the launch that is selected, else of the one that dispatch would select now,
whose context is parked or whose image gives set 0. -/
def State.incoming (s : State) (p : Nat) : SMap (BitVec 128) × BitVec 8 :=
  let pt := s.part p
  let fresh (q : Nat) : SMap (BitVec 128) × BitVec 8 :=
    match s.readImage pt.make.ptbase (recImage (s.queue p q).head) with
    | some i => let e := i.bankSet p pt.n 0; (e.2, e.1)
    | none => ([], 0)
  let launch (cid : Nat) : SMap (BitVec 128) × BitVec 8 := (s.core cid).needs (s.ctx cid)
  match pt.next, s.pickQueue p with
  | some n, _ => launch n
  | none, some q => match (s.queue p q).launch with | some n => launch n | none => fresh q
  | none, none => ([], 0)

/-- What a slice offers a context that is parked (R247): planes that the incoming context leaves unallocated and blocks that it does not
claim, in which no other context has anything; a plane of its own that the plan moves elsewhere too. -/
def State.parkRoom (s : State) (cid n : Nat) (coming : SMap (BitVec 128) × BitVec 8) (plan : List ParkMove) : ParkRoom :=
  let moved (k : Nat) : Bool := plan.any fun m => m.slice == n && m.unit == 8 + k && spillWhere m.entry != 0
  let others := s.ctxs.filter fun e => e.1 != cid && e.2.stored && e.2.meets (s.ctx cid)
  let mine (m : SMap (BitVec 64)) : List (BitVec 64) := (m.filter fun e => e.1 / 64 == n).map Prod.snd
  let parked := (others.map fun e => mine e.2.spill).flatten
  let planeFree (k : Nat) : Bool :=
    !coming.2.getLsbD k && (!(s.core cid).planes.getLsbD k || moved k) && !(others.any fun e => (s.core e.1).planes.getLsbD k)
      && !parked.any fun e => spillWhere e == 2 && spillPlane e == k
  let owned := s.cores.foldl (fun a e => a ||| SMap.get 0 e.2.owned n) (SMap.get 0 coming.1 n)
  let blockFree (b : Nat) : Bool :=
    !owned.getLsbD b && !parked.any fun e => spillWhere e == 1 && decide (spillLine e / 64 ≤ b ∧ 64 * b < spillLine e + spillRanks e)
  ⟨(List.range 8).filter planeFree, freeRuns blockFree, 0⟩

/-- The units of one slice, parked in order (R247, R248): an accumulator plane that the incoming context leaves unallocated may stay in
place, and does unless the plan moves it. -/
def State.parkSlice (s : State) (cid n k : Nat) (coming : SMap (BitVec 128) × BitVec 8) (plan : List ParkMove) (off : Nat) :
    List (Nat × BitVec 64) × Nat :=
  let want (u : Nat) : Option (BitVec 64) := (plan.find? fun m => m.slice == n && m.unit == u).map ParkMove.entry
  let r := (List.range 59).foldl (fun (acc : List (Nat × BitVec 64) × ParkRoom) u =>
    let ranks := ((s.core cid).slice n).unitRanks (s.core cid).planes k u
    let stays := decide (8 ≤ u ∧ u < 16) && !coming.2.getLsbD (u - 8) && (want u).all fun e => spillWhere e == 0
    if ranks = 0 then acc
    else if stays then (acc.1 ++ [(64 * n + u, spillEntry 0 ranks 0 0 0)], acc.2)
    else
      let (e, m) := acc.2.place (want u) ranks
      (acc.1 ++ [(64 * n + u, e)], m)) ([], { s.parkRoom cid n coming plan with off := off })
  (r.1, r.2.off)

/-- The spill map that a parking gives every slice of the partition, within the steward's plan. -/
def State.parkMap (s : State) (cid k : Nat) (plan : List ParkMove) : SMap (BitVec 64) :=
  let slices := ((s.ctx cid).dies.map fun d => (List.range 512).map (512 * d + ·)).flatten
  let coming := s.incoming (s.ctx cid).p
  (slices.foldl (fun (acc : List (Nat × BitVec 64) × Nat) n =>
    let (l, off) := s.parkSlice cid n (k + n) coming plan acc.2
    (acc.1 ++ l, off)) ([], 0)).1

/-- A context is frozen at the boundary where it stands, its snapshot is its timed core, and it is parked (R28, R245, R247). Its
queue becomes ready (R261), and a launch that waits for the partition comes back (R251). -/
def State.parkContext (s : State) (cid : Nat) (plan : List ParkMove) : State :=
  let p := (s.ctx cid).p
  let (k, s0) := s.fresh
  let s1 := ((s0.beginHolds cid [⟨9, p, .preempt⟩]).onCtx cid fun c =>
    { c with kernel := .suspended, preempted := true, quantumOut := false, spill := s.parkMap cid k plan }).writeSave cid
  let s2 := s1.onPart p fun q => { q with running := none }
  (s2.qFollow p (s2.ctx cid).queue .ready).beginRestore p

/-- Whether a context is frozen by a debug stop. -/
def Context.debugged (c : Context) : Bool := c.holds.any fun h => h.kind == 10

/-- PREEMPT_REQUEST (R245, R246, R263): from the dispatcher when a higher queue must run, or from the steward; a debug stop is
pre-empted only by a power failure. -/
def execPreemptRequest (p : Nat) (force : Bool) (plan : List ParkMove) (s : State) : Res :=
  match (s.part p).running with
  | none => .fault .noSuchObject
  | some cid =>
    if (force || s.mustPreempt p) && !(s.ctx cid).debugged then .next (s.parkContext cid plan) else .fault .notInThisState

/-! ### Restore (R251, R252) -/

/-- The preempt hold ends; holds still in force go on, and what they wait for is looked at again (R246, R250, R252). -/
def State.resumeParked (s : State) (cid : Nat) : State :=
  let c := s.ctx cid
  let rest := c.holds.filter fun h => h.kind != 9
  let s1 := s.setCtx cid
    { c with
      holds := rest, preempted := false, quantumOut := false, spill := [], started := s.hub.wac.toNat
      state := if rest.isEmpty then .held else heldState rest
      kernel := .held }
  let s2 := s1.trace cid c.p 4 ((s.core cid).nextAddr c.p) (s.core cid).acc.toNat none 9
  if rest.isEmpty then s2.release cid else (s2.retryFaults c.p).recheck cid

/-- RESTORE_COMPLETE (R251): storage is claimed again, every unit is back, and the context stands at its frozen ACC. -/
def execRestoreComplete (cid : Nat) (s : State) : Res :=
  let c := s.ctx cid
  let pt := s.part c.p
  if pt.next ≠ some cid ∨ pt.running.isSome ∨ c.state ≠ .restoring then .fault .notInThisState
  else
    let need := (s.core cid).needs c
    let s1 := s.claim cid need.1 need.2 []
    let s2 := s1.onPart c.p fun q => { q with running := some cid, next := none }
    .next ((s2.qFollow c.p c.queue .dispatching).resumeParked cid)

end Sys2Proof.Machine
end

