-- ==== Sys2Proof/Machine/Admit.lean ====
section
/-!
DEFINITION. Kernel images (R265 to R267), admission (R268, R277, R312), dispatch (R261, R262), the prologue (R269) and the start of a
kernel (R271).
-/
namespace Sys2Proof.Machine

/-! ### The checks of an image (R268) -/

/-- The header checks of R268: MAGIC, VERSION, NDIE, and the reserved fields. -/
def Image.headerOk (i : Image) (n : Nat) : Bool :=
  let f := hdrField i.header
  decide (f 0 32 = 0x4854524C ∧ f 32 16 = 0x0100 ∧ f 48 4 = n ∧ f 84 44 = 0 ∧ f 1920 128 = 0)
    && (List.range 8).all (fun d => decide (d < n ∨ f (128 + 32 * d) 32 = 0))
    && (List.range 5).all fun k => f (384 + 64 * (19 + k)) 64 == 0

/-- The checks of section 14 (R268): its length, its reserved bits, and MASKDIG. -/
def Image.setsOk (i : Image) (n : Nat) (r : BitVec 512) : Bool :=
  (i.sect 14).length == setBytes n * i.nsets
    && (List.range i.nsets).all (fun k => bitsOf (i.num 14) (8 * setBytes n * k + 8) 56 == 0)
    && (Config.sha3 (i.sect 14)).extractLsb' 0 128 == r.extractLsb' 384 128

/-! ### The prologue (R267) -/

/-- Prologue entry k; DIE counts within the partition. -/
def Image.prologueEntry (i : Image) (p k : Nat) : Prologue :=
  let x := i.num 15 >>> (256 * k)
  { src := bitsOf x 0 64, words := bitsOf x 64 17 + 1, die := p + bitsOf x 81 3, row := bitsOf x 84 2, col0 := bitsOf x 86 7
    col1 := bitsOf x 93 7, line := bitsOf x 100 13, bmask := BitVec.ofNat 16 (bitsOf x 128 16), after := bitAt x 144
    cstride := signedOf 64 (bitsOf x 192 64), stage := 0, chan := 0 }
/-- Number of prologue entries. -/
def Image.prologues (i : Image) : Nat := (i.sect 15).length / 32
/-- The slices that an entry fills. -/
def Prologue.slices (e : Prologue) : List Nat :=
  (List.range (e.col1 + 1 - e.col0)).map fun c => 512 * e.die + 128 * e.row + e.col0 + c
/-- The blocks that an entry writes in each of its slices. -/
def Prologue.blocks (e : Prologue) : BitVec 128 :=
  (List.range ((e.words + 15) / 16)).foldl (fun a l => a ||| BitVec.ofNat 128 (2 ^ ((e.line + l) % 8192 / 64))) 0
/-- The checks of section 15 (R268): within the partition and within set 0. -/
def Image.prologueOk (i : Image) (p n : Nat) : Bool :=
  let set0 := (i.bankSet p n 0).2
  (i.sect 15).length % 32 == 0 && (List.range i.prologues).all fun k =>
    let x := i.num 15 >>> (256 * k)
    let e := i.prologueEntry p k
    bitsOf x 113 15 == 0 && bitsOf x 145 47 == 0 && decide (e.src % 4 = 0 ∧ e.die < p + n ∧ e.col0 ≤ e.col1)
      && e.slices.all fun m => e.blocks &&& ~~~(SMap.get 0 set0 m) == 0

/-! ### Groups (R276, R277) -/

/-- Group entry g of section 10; entries beyond the section are all zero. -/
def Image.groupBits (i : Image) (g : Nat) : Nat := bitsOf (i.num 10) (8192 * g) 8192
/-- The fields of a group entry. -/
def groupOf (x : Nat) : GroupEntry :=
  { members := BitVec.ofNat 4096 (bitsOf x 0 4096), dies := BitVec.ofNat 8 (bitsOf x 4096 8)
    remote := (List.range (bitsOf x 4104 7)).map fun k => bitsOf x (4160 + 32 * k) 32, v := bitAt x 4111 }
/-- Whether an entry keeps the rules of R277 in the partition of n dies from die p. -/
def groupOk (p n x : Nat) : Bool :=
  let nrem := bitsOf x 4104 7
  let e := groupOf x
  if !e.v then x == 0
  else
    let members := (List.range 4096).filter fun m => bitAt x m
    members.all (fun m => decide (512 * p ≤ m ∧ m < 512 * (p + n)))
      && (List.range 8).all (fun d => !e.dies.getLsbD d || decide (p ≤ d ∧ d < p + n))
      && members.all (fun m => e.dies.getLsbD (m / 512))
      && decide (nrem ≤ 64) && decide e.remote.Nodup && bitsOf x 4112 48 == 0
      && bitsOf x (4160 + 32 * nrem) (2048 - 32 * nrem) == 0 && bitsOf x 6208 1984 == 0
/-- The group table of an image (R276). -/
def Image.groups (i : Image) : SMap GroupEntry :=
  (List.range 254).filterMap fun k => if i.groupBits (k + 1) = 0 then none else some (k + 1, groupOf (i.groupBits (k + 1)))
/-- The entries g1 to g254 that hold a slice, ascending (R278). -/
def Image.gids (i : Image) (n : Nat) : List Nat := (i.groups.filter fun e => e.2.members.getLsbD n).map Prod.fst
/-- The checks of section 10 (R277). -/
def Image.groupsOk (i : Image) (p n : Nat) : Bool :=
  decide ((i.sect 10).length ≤ 262144 ∧ (i.sect 10).length % 1024 = 0) && i.groupBits 0 == 0 && i.groupBits 255 == 0
    && (List.range 254).all (fun k => groupOk p n (i.groupBits (k + 1)))
    && (List.range (512 * n)).all fun m => decide ((i.gids (512 * p + m)).length ≤ 4)

/-! ### Route plans (R312) -/

/-- The 8 KiB of plan k. -/
def Image.planBits (i : Image) (k : Nat) : Nat := bitsOf (i.num 9) (65536 * k) 65536
/-- The plan in 8 KiB of section 9; all zero where the image has none. -/
def planOf (x : Nat) : Option Plan :=
  if x = 0 then none
  else some ⟨bitsOf x 0 2, if bitAt x 14 then some (bitsOf x 8 6) else none,
    bitsOf x 512 (if bitsOf x 0 2 = 1 then 34816 else 47104)⟩
/-- The plans of an image. -/
def Image.plans (i : Image) : SMap Plan := (List.range 64).filterMap fun k => (planOf (i.planBits k)).map fun pl => (k, pl)
/-- Whether a plan keeps the rules of R312 in the partition of n dies from die p. -/
def Image.planOk (i : Image) (p n k : Nat) : Bool :=
  let x := i.planBits k
  match planOf x with
  | none => true
  | some pl =>
    let kind := bitsOf x 0 2
    let last := if kind = 1 then 512 + 34816 else 512 + 47104
    decide (kind = 1 ∨ kind = 2) && bitsOf x 2 6 == 0 && bitsOf x 15 497 == 0 && bitsOf x last (65536 - last) == 0
      && pl.inv.all (fun m => SMap.has i.plans m)
      && (kind == 1 || (List.range (512 * n)).all fun m =>
        decide (512 * p ≤ pl.dest (512 * p + m) ∧ pl.dest (512 * p + m) < 512 * (p + n)))
/-- The checks of section 9. -/
def Image.plansOk (i : Image) (p n : Nat) : Bool :=
  decide ((i.sect 9).length ≤ 524288) && (List.range 64).all fun k => i.planOk p n k

/-! ### Regions and tables -/

/-- The regions of an image (R233); dies count within the partition. -/
def Image.regions (i : Image) (p : Nat) : List Region :=
  (if (i.sect 16).isEmpty then [] else Config.imageRegions (i.sect 16)).map fun r => ⟨r.1, r.2.1, p + r.2.2.1, r.2.2.2⟩
/-- Regions do not overlap (R233). -/
def regionsOk : List Region → Bool
  | [] => true
  | r :: rest => rest.all (fun q => !decide (r.va < q.va + q.len ∧ q.va < r.va + r.len) && r != q) && regionsOk rest

/-- Reserved bits of the tables of sections 11 to 13 are zero (R60, R71), and the tables fit. -/
def Image.tablesOk (i : Image) : Bool :=
  decide ((i.sect 11).length ≤ 128 ∧ (i.sect 12).length ≤ 8704 ∧ (i.sect 13).length ≤ 128)
    && (List.range 64).all fun k => bitsOf (i.num 11) (16 * k + 15) 1 == 0 && bitsOf (i.num 12) (1088 * k + 5) 59 == 0

/-- The tables that a launch gives every die (R67). -/
def Image.tables (i : Image) : Tables :=
  let nz {w : Nat} (n : Nat) (f : Nat → BitVec w) : SMap (BitVec w) :=
    (List.range n).filterMap fun k => if f k = 0 then none else some (k, f k)
  { fmt := nz 64 fun k => BitVec.ofNat 16 (bitsOf (i.num 11) (16 * k) 16)
    shape := nz 64 fun k => BitVec.ofNat 1088 (bitsOf (i.num 12) (1088 * k) 1088)
    sk := nz 4 fun k => BitVec.ofNat 224 (packLe ((List.range 16).map fun e => (14, bitsOf (i.num 13) (256 * k + 16 * e) 14))) }

/-! ### Admission (R268) -/

/-- The checks of R268. -/
def Image.admits (i : Image) (p n : Nat) (r : BitVec 512) : Bool :=
  i.headerOk n && i.setsOk n r && i.prologueOk p n && i.groupsOk p n && i.plansOk p n && i.tablesOk && regionsOk (i.regions p)

/-- A die as a launch leaves it (R67, R271). -/
def Image.die (i : Image) (base param p d : Nat) : Die :=
  let h := i.header
  let tab := i.tables
  let blank : Die :=
    { x := SMap.set 0 [] 1 (dw param), tab := tab, pc := base + hdrField h (128 + 32 * (d - p)) 32
      tvec := if sectLen h 8 = 0 then 0 else dw (base + sectOff h 8) }
  let smem := if (i.sect 17).isEmpty then [] else Config.imageSmem (i.sect 17)
  let syncs := if (i.sect 16).isEmpty then [] else Config.imageSyncs (i.sect 16)
  let mem := (smem.filter fun e => p + e.1 == d).foldl (fun x e => x.smemWrite e.2.1 e.2.2) blank
  (syncs.filter fun e => p + e.1 == d).foldl (fun x e =>
    x.setSync (syncAddr (e.2.1 % 4096)) (swMake e.2.2 0 0 0)) mem

/-- The timed core of a launch (R67, R73, R271); its banks are its own, and read zero until it writes them (log entry 31). -/
def Image.core (i : Image) (base param p n : Nat) : Core :=
  { dies := (List.range n).map fun d => (p + d, i.die base param p (p + d))
    slices := (List.range (512 * n)).filterMap fun m =>
      let g := (i.gids (512 * p + m)).map fun k => (BitVec.ofNat 8 k)
      if g.isEmpty then none else some (512 * p + m, { gid := g })
    planes := 0 }

/-- The bytes of an image from its base to the end of its last section. -/
def State.imageBytes (s : State) (ptbase base : Nat) (h : BitVec 2048) : List Byte :=
  let last := (List.range 24).foldl (fun a n => if sectLen h n = 0 then a else max a (sectOff h n + sectLen h n)) 256
  (List.range last).map fun i => ((s.translate ptbase (base + i)).map fun e => s.hbmByte e.2).getD 0

/-- The Rootstock extends the measurement register (R390). -/
def State.extend (s : State) (d : BitVec 256) : State :=
  s.onHub fun h => { h with measure := Config.sha3 (leBytes 32 h.measure.toNat ++ leBytes 32 d.toNat) }

/-- The steward pins the pages of a context's handler and program that carry X (R295). -/
def State.pinText (s : State) (cid : Nat) : State :=
  let c := s.ctx cid
  (s.diesOf c.p).foldl (fun s d =>
    let s1 := s.onHw d fun h => { h with itlb := h.itlb.map fun e => { e with pinned := false } }
    (s.pinPages cid d).foldl (fun s page =>
      match s.walk c.ptbase (65536 * page) with
      | .leaf leaf level pa =>
        if pteBit leaf 3 then
          let s2 := s.fillTlb d c.asn (65536 * page) leaf level pa 0 true
          s2.onHw d fun h => { h with itlb := h.itlb.map fun e => if e.hits c.asn (65536 * page) then { e with pinned := true } else e }
        else s
      | _ => s) s1) s

/-- The steward loads an admitted launch (R244, R268): tables, groups and plans, and the claim of set 0. -/
def State.enroll (s : State) (p q : Nat) (adm : Admit) (i : Image) (r : BitVec 512) : State :=
  let pt := s.part p
  let base := recImage r
  let sets := (List.range i.nsets).map fun k => i.bankSet p pt.n k
  let text := (List.range 9).filterMap fun n => if sectLen i.header n = 0 then none else some (base + sectOff i.header n, i.sect n)
  let cx : Context :=
    { state := .loading, kernel := .admitted, p := p, dies := s.diesOf p, queue := q, launch := r, img := base, header := i.header
      asn := adm.asn, ptbase := adm.ptbase, save := adm.save, text := text, groups := i.groups, plans := i.plans
      regions := i.regions p, sets := sets, prologue := (List.range i.prologues).map fun k => i.prologueEntry p k
      after := pt.running, canopy := pt.n, profBase := pt.profBase, profG := pt.profG, recording := pt.record }
  let s1 := (s.setCtx adm.cid cx).setCore adm.cid (i.core base (recField r 64 64) p pt.n)
  let s2 := s1.onPart p fun t =>
    { t with next := some adm.cid, record := false, traceBy := t.traceBy.map fun o => if o = adm.cid + 1 then 0 else o, replayAt := if pt.record then 0 else t.replayAt
             log := if pt.record then [] else t.log, logEnd := if pt.record then none else t.logEnd }
  let s3 := ((s2.onQueue p q fun x => { x with launch := some adm.cid }).claimSet adm.cid 0 adm.moves).pinText adm.cid
  if s3.hub.measureImages then s3.extend (Config.sha3 (s3.imageBytes adm.ptbase base i.header)) else s3

/-- DISPATCH (R261, R262, R268): the selected queue's launch is admitted, or its parked launch comes back; it loads beside a launch that
still runs (R244; log entry 104). -/
def execDispatch (p q : Nat) (adm : Admit) (s : State) : Res :=
  let pt := s.part p
  if s.pickQueue p ≠ some q ∨ pt.next.isSome ∨ ((s.queue p q).launch = none ∧ (s.ctx adm.cid).state ≠ .empty) then
    .fault .notInThisState
  else
    let s1 := (s.onPart p fun t => { t with served := SMap.put t.served (s.effective p q) q }).onQueue p q fun x => { x with boost := 0 }
    let after : QueueState := if pt.running.isSome then .blocked else .dispatching
    let x := s.queue p q
    match x.launch with
    | some cid =>
      let s2 := (s1.onPart p fun t => { t with next := some cid }).qState p q after
      .next (s2.beginRestore p)
    | none =>
      match s.readImage adm.ptbase (recImage x.head) with
      | none => .next (s1.qError p q 5)
      | some i =>
        if i.admits p pt.n x.head then .next ((s1.enroll p q adm i x.head).qState p q after) else .next (s1.qError p q 5)

/-! ### The prologue (R269) -/

/-- The prologue entry of a loading context, with what may be issued or landed. -/
def State.prologueEntry (s : State) (cid n : Nat) : Option Prologue :=
  if (s.ctx cid).state = .loading then (s.ctx cid).prologue[n]? else none

/-- Changes a prologue entry. -/
def State.onPrologue (s : State) (cid n : Nat) (f : Prologue → Prologue) : State :=
  s.onCtx cid fun c => { c with prologue := (c.prologue.zipIdx).map fun e => if e.2 = n then f e.1 else e.1 }

/-- The physical address of word k for a column of an entry; none where the page is not mapped with R. -/
def State.prologueSource (s : State) (ptbase : Nat) (e : Prologue) (col k : Nat) : Option Nat :=
  let va := (e.src : Int) + e.cstride * ((col : Int) - e.col0) + 4 * k
  match if va < 0 then none else s.translate ptbase va.toNat with
  | some (leaf, pa) => if pteBit leaf 1 && !pteBit leaf 11 then some pa else none
  | none => none

/-- The words of an entry in one column, by index. -/
def Prologue.ks (e : Prologue) : List Nat := (List.range e.words).filter fun k => e.bmask.getLsbD (k % 16)

/-- Whether the new context owns every destination block of an entry. -/
def State.prologueOwned (s : State) (cid : Nat) (e : Prologue) : Bool :=
  e.slices.all fun m => e.blocks &&& ~~~(SMap.get 0 (s.core cid).owned m) == 0

/-- Whether the kernel that preceded a launch in its partition has still to retire (R269). -/
def State.precedes (s : State) (cid : Nat) : Bool :=
  match (s.ctx cid).after with
  | some r => (s.ctx r).alive
  | none => false

/-- PROLOGUE_ENTRY_ISSUE (R269): on a channel that the running kernel does not use, once the destination blocks are owned. -/
def execPrologueEntryIssue (cid n ch : Nat) (s : State) : Res :=
  match s.prologueEntry cid n with
  | none => .fault .noSuchObject
  | some e =>
    let s1 := s.claimSet cid 0 []
    let running := (s.part (s.ctx cid).p).running
    let used : Bool := match running with
      | some r => bitAt (hdrField (s.ctx r).header 64 20) ch
      | none => false
    let busy := (s.ctx cid).prologue.any fun f => f.stage == 1 && f.chan == ch && f.die == e.die
    if e.stage ≠ 0 ∨ ch ≥ 20 ∨ used ∨ busy ∨ (e.after ∧ s.precedes cid) ∨ s1.prologueOwned cid e = false then .fault .notInThisState
    else .next ((s1.onPrologue cid n fun f => { f with stage := 1, chan := ch }).onCtx cid fun c => { c with kernel := .prologue })

/-- PROLOGUE_ENTRY_LANDING (R267, R269): every word lands; an uncorrectable one poisoned. An unmapped source page waits. -/
def execPrologueEntryLanding (cid n : Nat) (s : State) : Res :=
  match s.prologueEntry cid n with
  | none => .fault .noSuchObject
  | some e =>
    let pt := (s.ctx cid).ptbase
    let words := (e.slices.map fun m => e.ks.map fun k => (m, k, s.prologueSource pt e (colOf m) k)).flatten
    if e.stage ≠ 1 ∨ words.any (fun w => w.2.2.isNone) then .fault .notInThisState
    else
      let core := words.foldl (fun c w =>
        let pa := w.2.2.getD 0
        let key := 16 * ((e.line + w.2.1 / 16) % 8192) + w.2.1 % 16
        c.onSlice w.1 fun sl =>
          { sl with
            bank := SMap.set 0 sl.bank key (BitVec.ofNat 32 (s.hbmRead pa 4))
            tag := SMap.set 0 sl.tag key (if s.hub.badWords.contains (pa / 4) then 2 else 0) }) (s.core cid)
      .next ((s.setCore cid core).onPrologue cid n fun f => { f with stage := 2 })

/-- The COLLs of a launch on a group with other packages are counted apart from those of the launches before it on the same die, so that a
match number is not used again while a set of that launch may be open (R329, R415; log entry 95). -/
def State.beginColls (s : State) (cid : Nat) : State :=
  let c := s.ctx cid
  let keys := ((c.groups.filter fun e => e.2.v && !e.2.remote.isEmpty).map fun e =>
    (c.dies.filter e.2.dies.getLsbD).map fun d => 8 * e.1 + d).flatten
  let n (k : Nat) : Nat := SMap.get 0 s.link.launches k
  let core := s.core cid
  (s.setCore cid { core with postCount := keys.foldl (fun m k => SMap.set 0 m k (2 ^ 13 * (n k % 256))) core.postCount }).onLink fun l =>
    { l with launches := keys.foldl (fun m k => SMap.set 0 m k (n k + 1)) l.launches }

/-- KERNEL_START (R270, R271): the prologue has landed, no other context runs, the dies are aligned; ACC = 0. -/
def execKernelStart (cid : Nat) (s : State) : Res :=
  let c := s.ctx cid
  let pt := s.part c.p
  let s1 := s.claimSet cid 0 []
  if pt.next ≠ some cid ∨ pt.running.isSome ∨ c.state ≠ .loading ∨ c.prologue.any (fun e => e.stage != 2) ∨ s1.ownsSet cid 0 = false then
    .fault .notInThisState
  else
    let s2 := s1.onPart c.p fun t => { t with running := some cid, next := none, allow := dw (t.cap.toNat * 65536), refill := 0 }
    let s3 := s2.onCtx cid fun c => { c with state := .running, kernel := .running, quantumOut := false, started := s.hub.wac.toNat }
    let s4 := s3.qFollow c.p c.queue .dispatching
    .next (((s4.beginColls cid).remark cid).settleHolds cid)

end Sys2Proof.Machine
end

