-- ==== Sys2Proof/Machine/Debug.lean ====
section
/-!
DEFINITION. The debug port (R371 to R375, R381, R382), replay (R379, R380), and attestation (R390).
-/
namespace Sys2Proof.Machine

/-- A command of the debug port is done (R392): BUSY is clear, and RESULT stands with the TAG that CMD has (log entry 93). -/
def State.replyDebug (s : State) (result : Nat) : State :=
  s.onHub fun h => { h with stat := dw (packLe [(8, 0), (8, result), (16, bitsOf h.cmd.toNat 16 16), (32, 0)]) }
/-- A command of the debug port that comes while the steward is busy with another is ignored and counted (R392). -/
def State.debugCommand (s : State) (f : State → State) : Res :=
  .next (if bitAt s.hub.stat.toNat 0 then s.onHub fun h => { h with cmdIgnored := h.cmdIgnored + 1 } else f s)
/-- A debug command while the port is closed, or one that finds nothing to act on, completes with RESULT 1 (R392). -/
def State.refuseDebug (s : State) : State := s.replyDebug 1
/-- A debug command that is done. -/
def State.acceptDebug (s : State) : State := s.replyDebug 0

/-- The context that a partition runs, while the debug port is open. -/
def State.debugged (s : State) (p : Nat) : Option Nat := if s.hub.debugOpen then (s.part p).running else none

/-- DEBUG_STOP (R372). -/
def execDebugStop (p : Nat) (s : State) : Res :=
  s.debugCommand fun s => match s.debugged p with
    | none => s.refuseDebug
    | some cid => (s.stopContext cid).acceptDebug

/-- The debug hold ends, and the bundles that a breakpoint kept back issue once without a match (R372, R373). -/
def State.unstop (s : State) (cid : Nat) (stepTo : Option Nat) : State :=
  let dies := (s.diesOf (s.ctx cid).p).filter (s.stopsHere cid)
  let c := dies.foldl (fun c d => c.onDie d fun x => { x with skip := true }) (s.core cid)
  (((s.setCore cid c).remark cid).onCtx cid fun x => { x with stepTo := stepTo }).endHolds cid fun h => h.kind == 10

/-- Deliveries that waited for the end of a debug stop come again, in their order of arrival (R326). -/
def State.deliverAgain (s : State) : State :=
  match s.link.waiting with
  | [] => s
  | k :: _ => s.linkSoon 0 (.packetDelivery k.src)

/-- DEBUG_RESUME (R372): ignored where the partition is not stopped. -/
def execDebugResume (p : Nat) (s : State) : Res :=
  s.debugCommand fun s => match s.debugged p with
    | none => s.refuseDebug
    | some cid => if (s.ctx cid).debugged then (s.unstop cid none).deliverAgain.acceptDebug else s.acceptDebug

/-- DEBUG_STEP (R372): n cycles run, then a new debug hold begins. -/
def execDebugStep (p n : Nat) (s : State) : Res :=
  s.debugCommand fun s => match s.debugged p with
    | none => s.refuseDebug
    | some cid =>
      if (s.ctx cid).debugged && decide (1 ≤ n ∧ n < 2 ^ 32) then
        (s.unstop cid (some ((s.core cid).acc.toNat + n))).deliverAgain.acceptDebug
      else s.acceptDebug

/-- DEBUG_STEP_EXPIRY (R372): the debug hold is asked for at the boundary that is about to settle. -/
def execDebugStepExpiry (cid : Nat) (s : State) : Res :=
  let c := s.core cid
  let x := s.ctx cid
  if x.stepTo = some c.acc.toNat ∧ x.state = .running then
    .next ((s.setCore cid { c with reqs := c.reqs ++ [⟨c.now, c.handler, ⟨10, x.p, .debug⟩⟩] }).setCtx cid { x with stepTo := none })
  else .fault .notInThisState

/-! ### Debugger writes (R375) -/

/-- The place of a debugger's write, as the payload of its log entry has it: kind, then two numbers of 24 bits or an address. -/
def targetAddr (t : DbgTarget) : Nat :=
  let two (k a b : Nat) : Nat := packLe [(8, k), (24, a), (24, b)]
  match t with
  | .x d n => two 0 d n
  | .csr d n => two 1 d n
  | .smem d a => two 2 d a
  | .bank n b l => two 3 n (16 * l + b)
  | .q n k i => two 4 n (4 * k + i)
  | .k n i => two 5 n i
  | .m n i => two 6 n i
  | .t n i row => two 7 n (32 * i + row)
  | .a n i plane row => two 8 n (64 * i + 32 * plane + row)
  | .d n i => two 9 n i
  | .z n i => two 10 n i
  | .tw n => two 11 n 0
  | .tp n => two 12 n 0
  | .int n i => two 13 n i
  | .hbm pa => packLe [(8, 14), (48, pa)]
  | .dbp d n => two 15 d n

/-- Bytes of the value that a debugger's write carries. -/
def targetBytes (t : DbgTarget) : Nat :=
  match t with
  | .smem _ _ | .bank _ _ _ | .hbm _ => 4
  | .q _ _ _ | .tw _ => 64
  | .k _ _ => 16
  | .m _ _ | .t _ _ _ | .a _ _ _ _ => 128
  | .d _ _ => 256
  | _ => 8

/-- The mark that a debugger's write leaves in the replay log, address and data (R375, R379). -/
def State.noteWrite (s : State) (cid : Nat) (t : DbgTarget) (v : Nat) : State :=
  s.record cid (s.core cid).acc.toNat 6 (s.ctx cid).p (leBytes 8 (targetAddr t) ++ leBytes (targetBytes t) v) []

/-- DEBUG_STATE_WRITE (R373, R375): a breakpoint register through the open port; anything else while the partition is stopped. A later
rewind to a boundary before the write leaves it. -/
def execDebugStateWrite (p : Nat) (t : DbgTarget) (v : Nat) (s : State) : Res :=
  s.debugCommand fun s => if !s.hub.debugOpen then s.refuseDebug
    else match t with
    | .dbp d n =>
      if n < 8 then (s.onHw d fun h => { h with dbp := SMap.set 0 h.dbp n (BitVec.ofNat 64 v &&& 0xFFFFFFFFFFFFF) }).acceptDebug
      else s.refuseDebug
    | t =>
      match (s.part p).running with
      | none => s.refuseDebug
      | some cid =>
        if !(s.ctx cid).debugged then s.refuseDebug
        else if ((s.core cid).debugWrite (s.diesOf p) t v).isNone then s.refuseDebug
        else
          let s1 := (s.absorb cid (match t with | .hbm pa => .hbm pa (leBytes 4 v) | _ => .debug t v)).remark cid
          let s2 := match t with | .hbm pa => s1.hbmWrite pa (leBytes 4 v) | _ => s1
          (s2.noteWrite cid t v).acceptDebug

/-! ### Opening the port (R381, R382) and attestation (R390) -/

/-- DEBUG_NONCE_REQUEST (R382, step 1): the nonce goes back in RET0 to RET3 (log entry 93). -/
def execDebugNonceRequest (s : State) : Res :=
  s.debugCommand fun s =>
    let (n, s1) := s.fresh
    let v := (Config.nonce n).toNat
    (s1.onHub fun h =>
      { h with nonce := some (Config.nonce n), ret := [dw v, dw (v >>> 64), dw (v >>> 128), dw (v >>> 192), 0, 0, 0] }).acceptDebug

/-- The bytes of "debug open" (R382). -/
def debugOpenText : List Byte := [100, 101, 98, 117, 103, 32, 111, 112, 101, 110]

/-- Whether a token passes the checks of R382, step 3, for a nonce. -/
def tokenOk (nonce : BitVec 256) (token : List Byte) : Bool :=
  let part (off n : Nat) : List Byte := (token.drop off).take n
  let key := part 96 1312
  decide (token.length = 3828 ∧ ofLeBytes (part 0 32) = Config.deviceId.toNat ∧ ofLeBytes (part 32 1) = Config.lifecycle
      ∧ ofLeBytes (part 64 32) = nonce.toNat)
    && Config.sha3 key == Config.debugKeyDigest && Config.mldsaVerify key (part 1408 2420) (Config.sha3 (part 0 1408))

/-- DEBUG_UNLOCK (R382): on any failure the nonce is spent; after 16 failures every token is refused; an opening wipes every link
key and extends the measurement. -/
def execDebugUnlock (token : List Byte) (brkStops : Bool) (s : State) : Res :=
  s.debugCommand fun s =>
    let fail := (s.onHub fun h => { h with nonce := none, tokenFails := h.tokenFails + 1 }).refuseDebug
    if s.hub.tokenFails ≥ 16 then s.refuseDebug
    else match s.hub.nonce with
    | none => fail
    | some nonce =>
      if tokenOk nonce token then
        let s1 := (s.onLink fun l => { l with keys := [] }).extend (Config.sha3 (debugOpenText ++ leBytes 32 nonce.toNat))
        (s1.onHub fun h => { h with nonce := none, debugOpen := true, brkStops := brkStops }).acceptDebug
      else fail

/-- DEBUG_PORT_CLOSE (R382): no key comes back, and M stays. -/
def execDebugPortClose (s : State) : Res :=
  s.debugCommand fun s => (s.onHub fun h => { h with debugOpen := false, brkStops := false }).acceptDebug

/-- ATTESTATION_REPORT (R390): DEVID, LCS, M, the host's nonce and the device's public key, signed. -/
def execAttestationReport (nonce : BitVec 256) (s : State) : Res :=
  let body := leBytes 32 Config.deviceId.toNat ++ leBytes 1 Config.lifecycle ++ leBytes 32 s.hub.measure.toNat
    ++ leBytes 32 nonce.toNat ++ Config.devicePublicKey
  .next (s.onHub fun h => { h with report := body ++ Config.mldsaSign (Config.sha3 body) })

/-! ### Replay (R380) -/

/-- The next entry that the steward applies: every class but readings, which the run itself makes. -/
def Context.nextEntry (c : Context) : Option ReplayEntry := c.replayLog.find? fun e => e.cls != 3

/-- The home of a parked HATOM performs it in replay, at the boundary of its logged landing, from the logged old values (R240, R380). -/
def State.replayHome (s : State) (h : Option Hatom) (got : List (Nat × Word × Bool)) : State :=
  match h with
  | none => s
  | some h =>
    if h.remote then s
    else h.pairs.foldl (fun s e => match got.find? fun g => g.1 == e.1 with
      | some (_, old, false) => s.hbmWrite e.2.1 (leBytes 4 (hatomValue h.op old e.2.2).toNat)
      | _ => s) s

/-- A logged input takes effect. -/
def State.applyLogged (s : State) (cid : Nat) (i : CoreInput) : State :=
  let s1 := s.absorb cid i
  match i with
  | .hbm pa bs => s1.hbmWrite pa bs
  | .landing h => s1.replayHome ((s.core cid).hatoms.find? fun x => x.key == h.key) h.got
  | .shootdown va len => s1.dropTlbs (s.ctx cid).p va len
  | _ => s1

/-- Whether the steward has something to do for a replayed context at the boundary where it stands. -/
def State.replayDue (s : State) (cid : Nat) : Bool :=
  let c := s.ctx cid
  let acc := (s.core cid).acc.toNat
  c.replaying && !(s.core cid).handler && match c.nextEntry with
    | some e => e.acc == acc
    | none => c.truncated == some acc

/-- Applies the next entry of a replay log, or stops at its end (R380). -/
def State.replayNext (s : State) (cid : Nat) : State :=
  let c := s.ctx cid
  match c.nextEntry with
  | some e =>
    let s1 := s.onCtx cid fun x => { x with replayLog := x.replayLog.erase e }
    if e.cls = 6 then s1.replayStop cid
    else ((e.inputs.foldl (fun s i => s.applyLogged cid i) s1).noteInput cid e.cls e.die e.payload e.inputs).recheck cid
  | none => (s.onCtx cid fun x => { x with truncated := none }).replayStop cid

/-- REPLAY_INPUT_APPLY (R380): the first one puts a context into replay of its partition's log, from the ACC at which it stands. -/
def execReplayInputApply (cid : Nat) (s : State) : Res :=
  let c := s.ctx cid
  if !c.alive then .fault .noSuchObject
  else
    let s1 := if c.replaying then s
      else s.onCtx cid fun x =>
        { x with
          replaying := true, recording := false, truncated := (s.part c.p).logEnd
          replayLog := (s.part c.p).log.filter fun e => decide ((s.core cid).acc.toNat ≤ e.acc) }
    if s1.replayDue cid then .next (s1.replayNext cid)
    else if c.replaying then .fault .notInThisState
    else .next s1

end Sys2Proof.Machine
end

