-- ==== Sys2Proof/Machine/Coll.lean ====
section
/-!
DEFINITION. Collectives (R328 to R332, R415): the hand-over to the link engine, packets for remote members, reductions, the pieces
written without crossing a port, deliveries, and failure. CID of a packet holds the match number, which this model composes of the
group, the destination's die and the count of COLLs on the group (log).
-/
namespace Sys2Proof.Machine

/-- The identifier of this package (R439). -/
def State.me (s : State) : Nat := s.hub.pkg.toNat

/-- The match number of the k-th COLL on group g, for a member on die d; k counts the launches too (R329, R415). -/
def matchNumber (g d k : Nat) : Nat := g + 256 * d + 2048 * ((k + 1) % 2 ^ 21)

/-! ### The link TLB (R295, R296) -/

/-- Fills the link TLB: with 256 entries held, one picked at random goes. -/
def linkFill (l : List TlbEntry) (e : TlbEntry) (n : Nat) : List TlbEntry :=
  if l.length < 256 then e :: l else e :: l.eraseIdx (Config.linkVictim n % 256)

/-- The physical address of a link-engine access for a die through a context's page table: link TLB, last level, walk; none on a fault
of the link TLB or the page. -/
def State.linkLookup (s : State) (cid d va perm : Nat) : Option Nat × State :=
  let c := s.ctx cid
  let use (leaf : BitVec 64) (size : Nat) : Option Nat :=
    if leafGrants leaf perm && !pteBit leaf 11 then some (pteBase leaf + va % 2 ^ pageBits size) else none
  if va ≥ 2 ^ 52 then (none, s)
  else match tlbFind (s.dieHw d).linkTlb c.asn va with
    | some e => (use e.leaf e.size, s)
    | none =>
      let (n, s1) := s.fresh
      match tlbFind (s.dieHw d).ltlb c.asn va with
      | some e =>
        (use e.leaf e.size, s1.onHw d fun h => { h with linkTlb := linkFill h.linkTlb e n, ltlb := tlbTouchSet h.ltlb e })
      | none =>
        match s.walk c.ptbase va with
        | .leaf leaf level pa =>
          let leaf' := leaf ||| 0x20
          let e : TlbEntry := ⟨va / 2 ^ pageBits level * 2 ^ pageBits level, level, c.asn, leaf', false⟩
          (use leaf' level, (s1.hbmWrite pa (leBytes 8 leaf'.toNat)).onHw d fun h =>
            { h with linkTlb := linkFill h.linkTlb e n, ltlb := tlbTouchSet h.ltlb e })
        | _ => (none, s)

/-- The parts of a virtual range, page by page: virtual address and bytes. -/
def pageParts (va n : Nat) : List (Nat × Nat) :=
  if n = 0 then []
  else (List.range ((va + n - 1) / 65536 - va / 65536 + 1)).map fun i =>
    let lo := max va (65536 * (va / 65536 + i))
    let hi := min (va + n) (65536 * (va / 65536 + i + 1))
    (lo, hi - lo)

/-- The physical parts of a virtual range; none where a page faults. -/
def State.linkParts (s : State) (cid d perm : Nat) : List (Nat × Nat) → Option (List (Nat × Nat)) × State
  | [] => (some [], s)
  | (va, n) :: r =>
    match s.linkLookup cid d va perm with
    | (none, s1) => (none, s1)
    | (some pa, s1) =>
      let (l, s2) := s1.linkParts cid d perm r
      (l.map fun x => (pa, n) :: x, s2)

/-- The link engine reads bytes of a context for a die. -/
def State.linkRead (s : State) (cid d va n : Nat) : Option (List Byte) × State :=
  match s.linkParts cid d 1 (pageParts va n) with
  | (none, s1) => (none, s1)
  | (some l, s1) => (some ((l.map fun e => (List.range e.2).map fun i => s1.hbmByte (e.1 + i)).flatten), s1)

/-! ### What a collective computes (R329, R330) -/

/-- A field of the descriptor. -/
def Coll.field (c : Coll) (lo w : Nat) : Nat := bitsOf c.post.desc.toNat lo w
/-- GROUP. -/
def Coll.group (c : Coll) : Nat := c.field 0 8
/-- OP. -/
def Coll.op (c : Coll) : Nat := c.field 8 3
/-- Bytes of an element. -/
def Coll.size (c : Coll) : Nat := typeWidth (c.field 16 4) / 8
/-- Bytes of n elements. -/
def Coll.seg (c : Coll) : Nat := c.field 192 32 * c.size
/-- Bytes of a chunk. -/
def Coll.chunk (c : Coll) : Nat := 2 ^ c.field 32 5
/-- Number of members. -/
def Coll.count (c : Coll) : Nat := c.members.length
/-- The index of the member on a die of this package. -/
def Coll.index (c : Coll) (me : Nat) : Nat := (c.members.findIdx? fun m => m == (me, c.die)).getD 0
/-- The match number of this member. -/
def Coll.number (c : Coll) : Nat := matchNumber c.group c.die c.post.k
/-- The match numbers of its set's members, whatever their dies. -/
def Coll.numbers (c : Coll) : List Nat := (List.range 8).map fun d => matchNumber c.group d c.post.k
/-- Whether two parts, of one context, belong to one matched set. -/
def Coll.matches (c e : Coll) : Bool := c.cid == e.cid && c.group == e.group && c.post.k % 2 ^ 21 == e.post.k % 2 ^ 21
/-- The completion word of the member. -/
def Coll.word (c : Coll) : Nat := (c.post.sync - 0x30000) / 16
/-- Bytes of a member's source (R329). -/
def Coll.sourceLen (c : Coll) (me : Nat) : Nat :=
  if c.op = 3 then c.count * c.seg else if c.op = 4 then (if c.index me = c.field 24 8 then c.seg else 0) else c.seg
/-- Bytes that arrive at the member's sync word (R329). -/
def Coll.total (c : Coll) : Nat :=
  if c.op = 1 ∨ c.op = 3 then c.count * c.seg else if c.op = 2 then c.seg / c.count else c.seg

/-- Where a byte of member m's destination comes from: a member whose source it copies, or none for a reduction; the offset in the
source; and the offset that counts chunks. -/
def Coll.origin (c : Coll) (m off : Nat) : Option Nat × Nat × Nat :=
  match c.op with
  | 0 => (none, off, off)
  | 1 => (some (off / c.seg), off % c.seg, off % c.seg)
  | 2 => (none, m * (c.seg / c.count) + off, m * (c.seg / c.count) + off)
  | 3 => (some (off / c.seg), m * c.seg + off % c.seg, off % c.seg)
  | _ => (some (c.field 24 8), off, off)

/-- The member whose engine reduces the element at a source offset (R330). -/
def Coll.engine (c : Coll) (src : Nat) : Nat := src / c.chunk % c.count
/-- The package of a member. -/
def Coll.package (c : Coll) (m : Nat) : Nat := ((c.members[m]?).map Prod.fst).getD 0
/-- The match number of the member whose engine reduces the element at a source offset: contributions to it carry it. -/
def Coll.engineNumber (c : Coll) (src : Nat) : Nat := matchNumber c.group (((c.members[c.engine src]?).map Prod.snd).getD 0) c.post.k

/-- Bytes from a destination offset to the end of its run: of the chunk, of the member's segment, of 16 KiB, of the destination. -/
def Coll.run (c : Coll) (m off : Nat) : Nat :=
  let pos := (c.origin m off).2.2
  let seg := if c.op = 1 ∨ c.op = 3 then c.seg - off % c.seg else c.total - off
  min (min 16384 seg) (min (c.chunk - pos % c.chunk) (c.total - off))

/-- The package whose link engine supplies a byte of member m's destination. -/
def Coll.supplier (c : Coll) (m off : Nat) : Nat :=
  let o := c.origin m off
  c.package (o.1.getD (c.engine o.2.1))

/-- The next run of a destination that this package supplies, from an offset on. -/
def Coll.nextRun (c : Coll) (me m : Nat) : Nat → Nat → Option Nat
  | 0, _ => none
  | fuel + 1, off =>
    if off ≥ c.total then none
    else if c.supplier m off = me then some off
    else c.nextRun me m fuel (off + max 1 (c.run m off))

/-- Runs in a destination, at most. -/
def Coll.runs (c : Coll) : Nat := c.total / 4096 + c.count + 1

/-- Bytes of a member's source, where this package has them: of a member here that has posted, or of chunks received. -/
def State.contribution (s : State) (c : Coll) (k off n : Nat) : Option (List Byte) :=
  match c.members[k]? with
  | none => none
  | some (pkg, die) =>
    if pkg = s.me then
      (s.link.colls.find? fun e => e.matches c && e.die == die).map fun e => (e.source.drop off).take n
    else
      let bytes := (List.range n).map fun i =>
        ((s.link.chunks.find? fun x =>
          x.key == c.engineNumber (off + i) && x.member == k && decide (x.off ≤ off + i ∧ off + i < x.off + x.bytes.length)).map
            fun x => x.bytes.getD (off + i - x.off) 0)
      if bytes.all Option.isSome then some (bytes.map fun b => b.getD 0) else none

/-- One element of a reduction (R330): a fold in member order, each step rounded RNE; no flag is set. -/
def Coll.fold (c : Coll) (vals : List Nat) : Nat :=
  let v : View := { ty := c.field 16 4, scale := 0, rm := 1, fi := false, fr := false, mask := 0 }
  let op : ElemOp := if c.field 11 2 = 0 then opAdd else if c.field 11 2 = 1 then opMin else opMax
  match vals with
  | [] => 0
  | x :: r => r.foldl (fun a b => ((op v a b 0).run 0).1) x

/-- The reduction of a run of the source, where every member's part is here. -/
def State.reduced (s : State) (c : Coll) (off n : Nat) : Option (List Byte) :=
  let parts := (List.range c.count).map fun k => s.contribution c k off n
  if parts.all Option.isSome then
    let rows := parts.map fun p => ofLeBytes (p.getD [])
    some (((List.range (n / c.size)).map fun e =>
      leBytes c.size (c.fold (rows.map fun r => bitsOf r (8 * c.size * e) (8 * c.size)))).flatten)
  else none

/-- The bytes of a run that this package supplies. -/
def State.supply (s : State) (c : Coll) (m off n : Nat) : Option (List Byte) :=
  let o := c.origin m off
  match o.1 with
  | some k => s.contribution c k o.2.1 n
  | none => s.reduced c o.2.1 n

/-! ### Packets (R415) -/

/-- Puts a data packet into a send queue with the next SEQ of its pair. -/
def State.enqueueData (s : State) (dst daddr cid : Nat) (payload : List Byte) (coll : Option Nat) (word : Option SyncRef) (ind : Bool) : State :=
  let seq := SMap.get 0 s.link.seqOut dst
  let k : Sent := ⟨⟨s.me, dst, seq, s.link.vint, 0, daddr, cid, 0, 0, payload⟩, coll, word, ind, 0⟩
  s.onLink fun l =>
    { l with
      seqOut := SMap.set 0 l.seqOut dst ((seq + 1) % 2 ^ 32)
      sendQ := SMap.set [] l.sendQ dst (SMap.get [] l.sendQ dst ++ [k]) }

/-- Puts a packet of a member into a send queue. -/
def State.enqueue (s : State) (c : Coll) (dst daddr cid : Nat) (payload : List Byte) : State :=
  s.enqueueData dst daddr cid payload (some c.id) (some (.die c.cid c.die c.word)) (c.field 37 1 == 1)

/-- Bytes of a source as packets of at most 16 KiB, chunk by chunk: offset and bytes. -/
def packetRuns (chunk pos n : Nat) : Nat → List (Nat × Nat)
  | 0 => []
  | fuel + 1 =>
    if n = 0 then []
    else
      let len := min (min n 16384) (chunk - pos % chunk)
      (pos, len) :: packetRuns chunk (pos + len) (n - len) fuel

/-- Sends a range of a member's source: `at_` is DADDR of its first byte, `pos` the offset that counts chunks. -/
def State.sendRange (s : State) (c : Coll) (dst cid at_ src pos n : Nat) : State :=
  (packetRuns c.chunk pos n (n / 4096 + 2)).foldl (fun s r =>
    s.enqueue c dst (at_ + (r.1 - pos)) cid ((c.source.drop (src + (r.1 - pos))).take r.2)) s

/-- DADDR of a contribution to a reduction: bit 63, the member's index in [62:52], the offset in its source. -/
def contributionAddr (m off : Nat) : Nat := 2 ^ 63 + m * 2 ^ 52 + off

/-- The member index that marks the notice of a failed set. -/
def failureIndex : Nat := 0x7FF

/-- The pieces of member m's destination that come in packets, by this member's own descriptor (R329, R330, R415): offset in the
destination, bytes, and the package that sends them. -/
def Coll.pieces (c : Coll) (m : Nat) : List (Nat × Nat × Nat) :=
  let runs (lo n : Nat) : List (Nat × Nat) := packetRuns c.chunk lo n (n / 4096 + 2)
  if c.op = 0 ∨ c.op = 2 then
    let share := if c.op = 0 then c.seg else c.seg / c.count
    let lo := if c.op = 0 then 0 else m * share
    (runs lo share).map fun r => (r.1 - lo, r.2, c.package (c.engine r.1))
  else if c.op = 4 then (runs 0 c.seg).map fun r => (r.1, r.2, c.package (c.field 24 8))
  else (c.members.zipIdx.map fun e => (runs 0 c.seg).map fun r => (e.2 * c.seg + r.1, r.2, e.1.1)).flatten

/-- Whether a contribution, of n bytes from an offset of member j's source on, is one of those that this member's engine reduces by its own
descriptor (R330). -/
def Coll.takesPart (c : Coll) (me j off n : Nat) : Bool :=
  (c.op == 0 || c.op == 2) && decide (j < c.count) && c.engine off == c.index me
    && (packetRuns c.chunk 0 c.seg (c.seg / 4096 + 2)).contains (off, n)

/-- The packets of a member at the hand-over (R415): what it owes each remote member, in ascending element order. -/
def State.sendSource (s : State) (c : Coll) : State :=
  let m := c.index s.me
  if c.op = 0 ∨ c.op = 2 then
    (packetRuns c.chunk 0 c.seg (c.seg / 4096 + 2)).foldl (fun s r =>
      let pkg := c.package (c.engine r.1)
      if pkg = s.me then s
      else s.enqueue c pkg (contributionAddr m r.1) (c.engineNumber r.1) ((c.source.drop r.1).take r.2)) s
  else if c.op = 4 ∧ m ≠ c.field 24 8 then s
  else
    (c.members.zipIdx).foldl (fun s e =>
      if e.1.1 = s.me then s
      else
        let number := matchNumber c.group e.1.2 c.post.k
        if c.op = 3 then s.sendRange c e.1.1 number (m * c.seg) (e.2 * c.seg) 0 c.seg
        else s.sendRange c e.1.1 number (if c.op = 1 then m * c.seg else 0) 0 0 c.seg) s

/-- The members that take a reduced run: all of them, or the one whose share it is (R329). -/
def Coll.takers (c : Coll) (src : Nat) : List Nat :=
  if c.op = 0 then List.range c.count else [src / max 1 (c.seg / c.count)]

/-- What the engine of a member owes members of other packages (R330): member, offset in its destination, offset in the source, bytes. -/
def Coll.results (c : Coll) (me : Nat) : List (Nat × Nat × Nat × Nat) :=
  if c.op ≠ 0 ∧ c.op ≠ 2 then []
  else
    let share := if c.op = 0 then c.seg else c.seg / c.count
    let shares := if c.op = 0 then [0] else List.range c.count
    let runs := ((shares.map fun m => packetRuns c.chunk (m * share) share (share / 4096 + 2)).flatten).filter fun r =>
      c.engine r.1 == c.index me
    (runs.map fun r =>
      ((c.takers r.1).filter fun m => c.package m != me).map fun m => (m, if c.op = 0 then r.1 else r.1 - m * share, r.1, r.2)).flatten

/-- Changes a collective. -/
def State.onColl (s : State) (id : Nat) (f : Coll → Coll) : State :=
  s.onLink fun l => { l with colls := l.colls.map fun c => if c.id = id then f c else c }

/-- Sends the reduction results of a member's engine that are ready (R330). -/
def State.sendResults (s : State) (c : Coll) : State :=
  ((c.results s.me).filter fun r => !c.sent.contains (r.1, r.2.1)).foldl (fun s r =>
    match s.reduced c r.2.2.1 r.2.2.2, c.members[r.1]? with
    | some bs, some (pkg, die) =>
      (s.enqueue c pkg r.2.1 (matchNumber c.group die c.post.k) bs).onColl c.id fun x => { x with sent := x.sent ++ [(r.1, r.2.1)] }
    | _, _ => s) s

/-! ### Steps that the link engine owes itself -/

/-- A set is forgotten once all its members here are over, with the chunks that were kept for it; one that has failed is kept while its
context lasts, for packets that still come. -/
def State.forgetColls (s : State) : State :=
  let l := s.link.colls.map fun c => { c with finished := c.finished || (c.done && (c.results s.me).all fun r => c.sent.contains (r.1, r.2.1)) }
  let gone (c : Coll) : Bool :=
    ((c.members.filter fun m => m.1 == s.me).all fun m => l.any fun e => e.matches c && e.die == m.2 && e.finished)
      && !(c.failed && (s.ctx c.cid).alive)
  s.onLink fun k =>
    { k with
      colls := l.filter fun c => !gone c
      chunks := k.chunks.filter fun x => !l.any fun c => gone c && c.number == x.key
      failedSets := k.failedSets.filter fun x => !l.any fun c => gone c && c.numbers.contains x }

/-- Results that are ready go out, and every collective whose next piece here is ready is to write it. -/
def State.collWake (s : State) : State :=
  ((s.link.colls.filter fun c => !c.finished).foldl (fun s c =>
    let s1 := s.sendResults c
    let m := c.index s.me
    match if c.done then none else c.nextRun s.me m c.runs c.cursor with
    | none => s1
    | some off => if (s1.supply c m off (c.run m off)).isSome then s1.linkSoon (s1.ctx c.cid).p (.collLocalWrite c.id) else s1) s).forgetColls

/-! ### Deliveries (R324, R331) -/

/-- Bytes that the link engine writes for a context, with what arrives on a sync word of a die of it: one input of class 2 (R286, R331). -/
def State.linkWrite (s : State) (cid die sync : Nat) (parts : List (Nat × Nat)) (bs : List Byte) (arrivals : List CoreInput) : State :=
  let cut := (parts.foldl (fun a e => (a.1 ++ [(e.1, (bs.drop a.2).take e.2)], a.2 + e.2)) (([] : List (Nat × List Byte)), 0)).1
  let x := s.ctx cid
  if x.alive && x.replaying then s
  else
    let s1 := cut.foldl (fun s e => s.hbmWrite e.1 e.2) s
    if !x.alive then s1.steward 5 sync
    else (s1.input cid 2 die (leBytes 8 sync ++ (cut.map fun e => leBytes 8 e.1 ++ leBytes 8 e.2.length ++ e.2).flatten)
      ((cut.map fun e => CoreInput.hbm e.1 e.2) ++ arrivals)).recheck cid

/-- A piece of a member's destination is written; a fault of the link TLB or a page fails the collective. -/
def State.writePiece (s : State) (c : Coll) (off : Nat) (bs : List Byte) : State :=
  match s.linkParts c.cid c.die 2 (pageParts (c.field 128 64 + off) bs.length) with
  | (none, s1) => s1.linkSoon (s1.ctx c.cid).p (.collFail c.id)
  | (some parts, s1) =>
    (s1.linkWrite c.cid c.die c.post.sync parts bs [.arrival c.die c.word bs.length false 0]).onColl c.id fun x =>
      { x with written := x.written + bs.length, done := decide (x.written + bs.length ≥ x.total) }

/-- COLL_HANDOFF (R360): the link engine receives a COLL at T + 176; a mismatch with another member's post, or with a contribution that came
before, fails the set, and a set that has failed already fails here too (R329, R331). -/
def execCollHandoff (cid die : Nat) (s : State) : Res :=
  let core := s.core cid
  match core.posts.find? fun q => q.die == die && decide (q.T + 176 ≤ core.acc.toNat) with
  | none => .fault .noSuchObject
  | some q =>
    let s1 := s.setCore cid { core with posts := core.posts.erase q }
    let g := s.group cid (bitsOf q.desc.toNat 0 8)
    let pkgs := sortBy (fun a b => decide (a < b)) ((s.me :: g.remote).eraseDups)
    let members := (pkgs.map fun p => ((List.range 8).filter g.dies.getLsbD).map fun d => (p, d)).flatten
    let c0 : Coll := { id := s.link.nextColl, cid, die, post := q, members, source := [], cursor := 0, written := 0, done := false }
    let (src, s2) := s1.linkRead cid die (c0.field 64 64) (c0.sourceLen s.me)
    let c : Coll := { c0 with source := src.getD [] }
    let same (e : Coll) : Bool :=
      let eq (lo w : Nat) : Bool := e.field lo w == c.field lo w
      eq 8 3 && eq 16 4 && eq 192 32 && (!(c.op == 0 || c.op == 2) || eq 11 2) && (c.op != 4 || eq 24 8)
    let set := s2.link.colls.filter (·.matches c)
    let strays := s2.link.chunks.any fun x => x.key == c.number && !c.takesPart s.me x.member x.off x.bytes.length
    let bad := src.isNone || set.any (fun e => e.failed || !same e) || c.numbers.any s2.link.failedSets.contains || strays || (c.op == 2 && c.field 192 32 % c.count != 0)
      || (c.op == 4 && decide (c.field 24 8 ≥ c.count))
    let c : Coll := { c with failed := set.any Coll.failed }
    let s3 := s2.onLink fun l => { l with colls := l.colls ++ [c], nextColl := l.nextColl + 1 }
    let p := (s.ctx cid).p
    if bad then .next (s3.linkSoon p (.collFail c.id))
    else
      let s4 := (s3.sendSource c).collWake
      .next (match s4.link.waiting.find? fun k => k.cid == c.number with
        | some k => s4.linkSoon p (.packetDelivery k.src)
        | none => s4)

/-- What waits for a collective that is over finds nothing to do. -/
def State.noColl (s : State) (id : Nat) : Res := if id < s.link.nextColl then .next s else .fault .noSuchObject

/-- COLL_LOCAL_WRITE (R331): the next piece of a destination that crosses no port, when its bytes are here. -/
def execCollLocalWrite (id : Nat) (s : State) : Res :=
  match s.link.colls.find? fun c => c.id == id with
  | none => s.noColl id
  | some c =>
    let m := c.index s.me
    match if c.done then none else c.nextRun s.me m c.runs c.cursor with
    | none => .next s
    | some off =>
      match s.supply c m off (c.run m off) with
      | none => .next s
      | some bs => .next (((s.onColl id fun x => { x with cursor := off + bs.length }).writePiece c off bs).collWake)

/-- The destination of a failed collective is undefined (R331): free bytes wherever its pages can be written, an input like any other that
the link engine writes. -/
def State.scramble (s : State) (c : Coll) : State :=
  (pageParts (c.field 128 64) c.total).foldl (fun s e =>
    match s.linkLookup c.cid c.die e.1 2 with
    | (none, s1) => s1
    | (some pa, s1) =>
      let n := s1.free
      let bs := (List.range e.2).map fun i => Config.failedByte (n + i)
      let s2 : State := { s1 with free := n + e.2 }
      if (s2.ctx c.cid).alive then s2.linkWrite c.cid c.die c.post.sync [(pa, e.2)] bs [] else s2.hbmWrite pa bs) s

/-- A member's phase completes after a failure: arrivals with the error mark for every byte not yet written (R331). -/
def State.failMember (s : State) (c : Coll) : State :=
  let rest := c.total - c.written
  let most := 2 ^ 32 - 1
  let sizes := List.replicate (rest / most) most ++ (if rest % most = 0 then [] else [rest % most])
  let s1 := s.scramble c
  (sizes.foldl (fun s b => s.arrive (.die c.cid c.die c.word) 2 b true 0) s1).onColl c.id fun x => { x with written := x.total, done := true, finished := true }

/-- A set fails: the mark stays for members that post later, and the other packages of the set are told, each by a packet without data whose
DADDR no piece has (R331; log entry 95). -/
def State.failSet (s : State) (c : Coll) : State :=
  let s1 := s.onLink fun l => { l with colls := l.colls.map fun e => if e.matches c then { e with failed := true } else e }
  ((c.members.map Prod.fst).eraseDups.filter (· != s.me)).foldl (fun s q =>
    match c.members.find? fun m => m.1 == q with
    | some (_, d) => s.enqueueData q (contributionAddr failureIndex 0) (matchNumber c.group d c.post.k) [] none none (c.field 37 1 == 1)
    | none => s) s1

/-- COLL_FAIL (R331): the matched set fails in every member; it neither traps nor holds the partition. -/
def execCollFail (id : Nat) (s : State) : Res :=
  match s.link.colls.find? fun c => c.id == id with
  | none => s.noColl id
  | some c =>
    let s1 := if c.failed then s else s.failSet c
    .next ((s1.link.colls.filter fun e => e.matches c && !e.done).foldl (fun s e => s.failMember e) s1).forgetColls

/-! ### A packet for this package -/

/-- The collective that a packet is for, by its match number; a contribution goes to the link engine whatever has been posted. -/
def State.collOf (s : State) (k : Packet) : Option Coll := s.link.colls.find? fun c => c.number == k.cid && !c.done
/-- Whether a packet is a contribution to a reduction. -/
def contributes (k : Packet) : Bool := bitAt k.daddr 63

/-- The context that a packet of no collective is for (CID = 0): its header names none, so the first running one whose page table lets
the link engine write every page of it, else the first of all contexts (log entry 95). -/
def State.plainContext (s : State) (k : Packet) : Option Nat :=
  let takes (cid : Nat) : Bool :=
    (s.ctx cid).alive && (pageParts k.daddr k.payload.length).all fun e => match s.translate (s.ctx cid).ptbase e.1 with
      | some (leaf, _) => leafGrants leaf 2 && !pteBit leaf 11
      | none => false
  ((s.parts.filterMap fun e => e.2.running) ++ s.ctxs.map Prod.fst).find? takes

/-- The context that a packet is delivered into, once it is known (R324, R329). -/
def State.contextOf (s : State) (k : Packet) : Option Nat := if k.cid = 0 then s.plainContext k else (s.collOf k).map Coll.cid

/-- Whether a context is stopped by the debugger: deliveries into it wait (R326). -/
def State.stoppedFor (s : State) (cid : Nat) : Bool := (s.ctx cid).debugged && (s.part (s.ctx cid).p).running == some cid

/-- The die of a context whose sync word a delivery to `va` arrives on: the one that binds a region there to the word (R233, R286), else
the lowest. -/
def State.boundDie (s : State) (cid va n : Nat) : Nat :=
  let c := s.ctx cid
  ((c.regions.find? fun r => r.n == n && decide (r.va ≤ va ∧ va < r.va + r.len)).map Region.die).getD (c.dies.headD c.p)

/-- A packet of no collective: its bytes go to DADDR through the link TLB and the context's page table, and arrive on SYNC, a sync word
address or the number of a launch sync word (R319, R324). -/
def State.deliverPlain (s : State) (cid : Nat) (k : Packet) : State :=
  let n := k.payload.length
  let word := (k.sync - 0x30000) / 16
  let d := s.boundDie cid k.daddr word
  match s.linkParts cid d 2 (pageParts k.daddr n) with
  | (none, s1) => s1.steward 13 k.daddr
  | (some parts, s1) =>
    if syncBad k.sync then
      let s2 := s1.linkWrite cid d k.sync parts k.payload []
      if k.sync < 1024 then s2.launchArrival k.sync n false 0 else s2.steward 13 k.sync
    else s1.linkWrite cid d k.sync parts k.payload [.arrival d word n false 0]

/-- The set that a packet names fails here: by the collective of its number, or for the member that has still to post (R331). -/
def State.failNumber (s : State) (number : Nat) (told : Bool) : State :=
  match s.link.colls.find? fun c => c.number == number with
  | none => s.onLink fun l => { l with failedSets := (l.failedSets ++ [number]).eraseDups }
  | some c =>
    let s1 := if told then s.onLink fun l => { l with colls := l.colls.map fun e => if e.matches c then { e with failed := true } else e } else s
    s1.linkSoon (s.ctx c.cid).p (.collFail c.id)

/-- A contribution to a reduction: it is kept for the engine of the member that it names; one that this member's own descriptor does not
have shows a mismatch, and one of the index that no member has tells that the set has failed (R329, R331). -/
def State.deliverPart (s : State) (k : Packet) : State :=
  let (m, off) := (bitsOf k.daddr 52 11, bitsOf k.daddr 0 52)
  let bad := (s.link.colls.find? fun c => c.number == k.cid).any fun c => !c.takesPart s.me m off k.payload.length
  if m = failureIndex then s.failNumber k.cid true
  else if bad then s.failNumber k.cid false
  else (s.onLink fun l => { l with chunks := l.chunks ++ [⟨k.cid, m, off, k.payload⟩] }).collWake

/-- Whether a packet comes for a set that has failed: it has no effect any more (R331). -/
def State.forFailed (s : State) (k : Packet) : Bool :=
  s.link.failedSets.contains k.cid || s.link.colls.any fun c => c.number == k.cid && c.failed && c.done

/-- Delivers a packet, or says that it still waits: for a post, or for a debug stop to end (R326, R329, R415). A piece that the member's
own descriptor does not have shows a mismatch, and fails the set (R329, R422). -/
def State.deliver (s : State) (k : Packet) : Option State :=
  if contributes k then some (s.deliverPart k)
  else if k.cid = 0 then
    match s.plainContext k with
    | none => some (s.steward 13 k.daddr)
    | some cid => if s.stoppedFor cid then none else some (s.deliverPlain cid k)
  else match s.collOf k with
    | none => if s.forFailed k then some s else none
    | some c =>
      if s.stoppedFor c.cid then none
      else if (c.pieces (c.index s.me)).contains (k.daddr, k.payload.length, k.src) then some ((s.writePiece c k.daddr k.payload).forgetColls)
      else some (s.linkSoon (s.ctx c.cid).p (.collFail c.id))

end Sys2Proof.Machine
end

