-- ==== Sys2Proof/Machine/Link.lean ====
section
/-!
DEFINITION. Optical ports (R319 to R322, R327), packets between packages (R323 to R326), and vintages (R325). What a port hands to
the fibre stands in `out`.
-/
namespace Sys2Proof.Machine

/-! ### Ports -/

/-- A port. -/
def State.port (s : State) (n : Nat) : Port := SMap.get {} s.link.ports n
/-- Changes a port. -/
def State.onPort (s : State) (n : Nat) (f : Port → Port) : State := s.onLink fun l => { l with ports := SMap.put l.ports n (f (s.port n)) }
/-- The number of the slot that WAC stands in, counted from START over all rotations (R320). -/
def State.slotNow (s : State) (x : Port) : Nat := (s.hub.wac.toNat - x.start) / max 1 x.slotLen
/-- The slot register of a port's present slot. -/
def Port.reg (x : Port) : SlotReg := x.slots.getD (x.slot % (x.nslot + 1)) ⟨0, 0, false, 0⟩
/-- The states in which a port carries data. -/
def Port.open (x : Port) : Bool := x.state == .live || x.state == .draining
/-- Whether a port has a valid slot facing a package. -/
def slotsFace (nslot : Nat) (slots : List SlotReg) (q : Nat) : Bool := (slots.take (nslot + 1)).any fun r => r.v && r.peer == q
/-- Whether a port in use has a valid slot facing a package, in the registers or in the tables of another vintage (R323, R325). -/
def State.faces (s : State) (v q : Nat) : Bool :=
  if v = s.link.vint then s.link.ports.any fun e => e.2.en && slotsFace e.2.nslot e.2.slots q
  else (SMap.get ⟨[], []⟩ s.link.tables v).ports.any fun e => (s.port e.1).en && slotsFace e.2.nslot e.2.slots q
/-- Whether a packet of an older vintage is still outstanding (R327). -/
def Link.oldOut (l : Link) : Bool :=
  l.unacked.any (fun u => u.pkt.vint != l.vint) || l.sendQ.any fun e => e.2.any fun u => u.pkt.vint != l.vint

/-- Draining ports are live again once no packet of an old vintage is outstanding (R327). -/
def State.settleDraining (s : State) : State :=
  if s.link.oldOut then s
  else s.onLink fun l =>
    { l with ports := l.ports.map fun e => (e.1, if e.2.state = .draining then { e.2 with state := .live } else e.2) }

/-- A port in a state that an event needs. -/
def State.portEvent (s : State) (n : Nat) (ok : Port → Bool) (f : State → State) : Res :=
  if n ≥ 32 then .fault .noSuchObject else if ok (s.port n) then .next (f s) else .fault .notInThisState

/-- PORT_ENABLE (R327). -/
def execPortEnable (port : Nat) (s : State) : Res :=
  s.portEvent port (fun x => x.state == .down) fun s => s.onPort port fun x => { x with en := true, state := .training, noSlotYet := true }

/-- PORT_TRAINED (R327): identity check, or down with a steward event where no lane set is usable. -/
def execPortTrained (port : Nat) (ok : Bool) (s : State) : Res :=
  s.portEvent port (fun x => x.state == .training) fun s =>
    if ok then s.onPort port fun x => { x with state := .identityCheck } else (s.onPort port fun x => { x with state := .down }).steward 11 port

/-- PORT_DISABLE (R327): what is queued stays queued for other ports. -/
def execPortDisable (port : Nat) (s : State) : Res :=
  s.portEvent port (fun _ => true) fun s => s.onPort port fun x => { x with en := false, state := .down }

/-- A port stops for quarantine (R322, R327). -/
def State.quarantine (s : State) (port : Nat) : State := (s.onPort port fun x => { x with state := .quarantined }).steward 12 port

/-- PORT_QUARANTINE_CLEAR (R327). The number of a port plus 32 is the steward's command that quarantines it (log entry 95). -/
def execPortQuarantineClear (port : Nat) (s : State) : Res :=
  if 32 ≤ port then s.portEvent (port - 32) (fun _ => true) fun s => s.quarantine (port - 32)
  else s.portEvent port (fun x => x.state == .quarantined) fun s => s.onPort port fun x => { x with state := .training, noSlotYet := true }

/-- A schedule as the registers hold it, every field in its width (R320). -/
def heldSchedule (c : PortSchedule) : PortSchedule :=
  { c with
    nslot := c.nslot % 64, slotLen := c.slotLen % 2 ^ 24, guard := c.guard % 2 ^ 16, start := c.start % 2 ^ 64, vint := c.vint % 2 ^ 16
    slots := (c.slots.take 64).map fun r => { r with peer := r.peer % 2 ^ 32, pport := r.pport % 32, pid := r.pid % 2 ^ 256 } }

/-- A schedule in the registers of a port. -/
def Port.take (x : Port) (c : PortSchedule) : Port :=
  { x with nslot := c.nslot, slotLen := c.slotLen, guard := c.guard, start := c.start, slots := c.slots }

/-! ### Packets that wait -/

/-- Puts a packet back at the head of its send queue. -/
def State.requeue (s : State) (u : Sent) : State :=
  s.onLink fun l => { l with sendQ := SMap.put l.sendQ u.pkt.dst (u :: SMap.get [] l.sendQ u.pkt.dst) }

/-- A packet whose destination has left the topology is dropped and reported to the sending member's sync word, and its collective fails
(R286, R325, R331). -/
def State.departed (s : State) (u : Sent) : State :=
  let s1 := match u.word with
    | some w => s.arrive w 2 u.pkt.payload.length false 1
    | none => s
  match u.coll with
  | some id => s1.linkSoon 0 (.collFail id)
  | none => s1

/-- A packet under a named vintage (R325): stamped again and sent again where the destination is in its topology. -/
def State.reroute (s : State) (u : Sent) (v : Nat) : State :=
  if SMap.has s.link.tables v && !(SMap.get ⟨[], []⟩ s.link.tables v).members.contains u.pkt.dst then s.departed u
  else s.requeue { u with pkt := { u.pkt with vint := v } }

/-- Packets that waited for the tables of a vintage, in which their destination turns out to be absent (R325). -/
def State.dropDeparted (s : State) (v : Nat) : State :=
  let absent (u : Sent) : Bool := u.pkt.vint == v && !(SMap.get ⟨[], []⟩ s.link.tables v).members.contains u.pkt.dst
  let gone := (s.link.sendQ.map fun e => e.2.filter absent).flatten
  gone.foldl State.departed (s.onLink fun l => { l with sendQ := l.sendQ.map fun e => (e.1, e.2.filter fun u => !absent u) })

/-- PORT_SCHEDULE_LOAD (R320, R325): a schedule of the present vintage goes into the registers; one of another vintage is kept for
its adoption. -/
def execPortScheduleLoad (port : Nat) (sch : PortSchedule) (s : State) : Res :=
  let c := heldSchedule sch
  s.portEvent port (fun _ => decide (c.guard < c.slotLen)) fun s =>
    let old := SMap.get ⟨[], []⟩ s.link.tables c.vint
    let s1 := s.onLink fun l => { l with tables := SMap.put l.tables c.vint ⟨c.members, SMap.put old.ports port c⟩ }
    (if c.vint = s.link.vint then s1.onPort port fun x => x.take c else s1).dropDeparted c.vint

/-! ### Packets on the fibre (R319, R322) -/

/-- Data flits of a packet. -/
def dataFlits (k : Packet) : Nat := max 1 ((k.payload.length + 255) / 256)
/-- The 96-bit nonce (R322). -/
def packetNonce (k : Packet) : Nat := packLe [(32, k.src), (32, k.seq), (16, k.vint), (16, 0)]
/-- The header fields under the tag (R319). -/
def packetHeader (k : Packet) : List Byte :=
  leBytes 32 (packLe [(32, k.src), (32, k.dst), (32, k.seq), (16, k.vint), (6, dataFlits k - 1), (2, k.kind), (8, 0), (64, k.daddr),
    (32, k.cid), (32, k.sync)])
/-- A packet as a port with a key puts it on the fibre. -/
def sealed (key : Nat) (k : Packet) : Packet :=
  { k with tag := Config.gcmTag key (packetNonce k) (packetHeader k ++ k.payload) % 2 ^ 128
           payload := Config.gcmCrypt key (packetNonce k) k.payload }
/-- A packet from the fibre, decrypted. -/
def unsealed (key : Nat) (k : Packet) : Packet := { k with payload := Config.gcmCrypt key (packetNonce k) k.payload }
/-- Whether a decrypted packet passes authentication. -/
def authentic (key : Nat) (k : Packet) : Bool :=
  k.tag == Config.gcmTag key (packetNonce k) (packetHeader k ++ k.payload) % 2 ^ 128

/-! ### Slots (R320, R321, R416) -/

/-- Whether the slot in which WAC stands is a new one for a port. -/
def State.slotDue (s : State) (x : Port) : Bool :=
  (x.open || x.state == .locked || x.state == .identityCheck) && decide (x.start ≤ s.hub.wac.toNat)
    && (x.noSlotYet || decide (x.slot < s.slotNow x))

/-- The identity flit that a port sends in the guard interval (R321): KIND 11 with the fused digest, none without a key. -/
def State.identityFlit (s : State) (port : Nat) : List (Nat × Packet) :=
  let r := (s.port port).reg
  if r.v && SMap.has s.link.keys r.peer then
    [(port, sealed (SMap.get 0 s.link.keys r.peer) ⟨s.me, r.peer, 0, s.link.vint, 3, 0, 0, 0, 0, leBytes 32 Config.deviceId.toNat⟩)]
  else []

/-- ROTOR_SLOT_START (R320, R321, R327): the slot in which WAC stands begins, with a new guard interval and the port's identity flit. -/
def execRotorSlotStart (port : Nat) (s : State) : Res :=
  s.portEvent port s.slotDue fun s =>
    let s1 := s.onPort port fun x => { x with state := .identityCheck, slot := s.slotNow x, fails := [], noSlotYet := false, used := 0 }
    s1.onLink fun l => { l with turn := SMap.erase l.turn (s1.port port).reg.peer, out := l.out ++ s1.identityFlit port }

/-- Lists of at most 64 SEQ values. -/
def ackLists (l : List Nat) : List (List Nat) := (List.range ((l.length + 63) / 64)).map fun i => (l.drop (64 * i)).take 64

/-- The acknowledgements and refusals that a port owes go out when its slot is unlocked (R324, R416): up to 16 acknowledgement packets in
the guard interval, the rest at the head of the data window while it has room. What is owed to a package that no slot faces takes
the two-hop path (R323). -/
def State.sendOwed (s : State) (port peer : Nat) : State :=
  let x := s.port port
  let key := SMap.get 0 s.link.keys peer
  let mine (q : Nat) : Bool := q == peer || (q != s.me && !s.faces s.link.vint q)
  let room := 100 * (x.slotLen - x.guard) / 256
  let lists := ((s.link.acks.filter fun e => mine e.1).map fun e => (ackLists e.2).map fun l => (e.1, l)).flatten
  let acks := lists.take (16 + room)
  let refused := ((s.link.refusals.filter fun e => mine e.1).map Prod.snd).flatten
  let refusals := refused.take (room - (acks.length - 16))
  let packets := (acks.map fun e => (⟨s.me, e.1, 0, s.link.vint, 1, 0, 0, 0, 0, (e.2.map (leBytes 4)).flatten⟩ : Packet)) ++ refusals
  let s1 := s.onPort port fun x => { x with used := 100 * x.guard + 256 * (acks.length - 16 + refusals.length) }
  s1.onLink fun l =>
    { l with
      out := l.out ++ packets.map fun k => (port, sealed key k)
      acks := (lists.drop (16 + room)).foldl (fun m e => SMap.set [] m e.1 (SMap.get [] m e.1 ++ e.2)) (l.acks.filter fun e => !mine e.1)
      refusals := (refused.drop (room - (acks.length - 16))).foldl (fun m k => SMap.set [] m k.dst (SMap.get [] m k.dst ++ [k]))
        (l.refusals.filter fun e => !mine e.1) }

/-- The event of a port that found another identity than its slot's: port, slot, and the identity received (R321). -/
def identityReport (port slot : Nat) (f : IdFlit) : Nat :=
  packLe ([(5, port), (59, slot), (1, b2n f.present)] ++ if f.present then [(32, f.src), (256, f.pid)] else [])

/-- IDENTITY_FLIT_RECEIVE (R321, R327): the port unlocks for the slot only for the expected, authenticated peer. -/
def execIdentityFlitReceive (port : Nat) (f : IdFlit) (s : State) : Res :=
  s.portEvent port (fun x => x.state == .identityCheck && !x.noSlotYet) fun s =>
    let r := (s.port port).reg
    let ok := r.v && f.present && f.authentic && f.src == r.peer && f.pid == r.pid && SMap.has s.link.keys r.peer
    if ok then
      let st : PortState := if s.link.oldOut then .draining else .live
      (s.onPort port fun x => { x with state := st }).sendOwed port r.peer
    else
      let s1 := s.onPort port fun x => { x with state := .locked }
      if r.v then s1.steward 10 (identityReport port (s.port port).slot f) else s1

/-! ### Packets on a port -/

/-- A packet that fails authentication is discarded; the fourth of one peer in a slot quarantines the port (R322). -/
def State.authFail (s : State) (port peer : Nat) : State :=
  let n := SMap.get 0 (s.port port).fails peer + 1
  let s1 := s.onPort port fun x => { x with fails := SMap.put x.fails peer n }
  if n ≥ 4 then s1.quarantine port else s1

/-- A delivery that is refused for lack of a key fails its collective, also for a member that has still to post (R331). -/
def State.refusedForKey (s : State) (k : Packet) : State :=
  if k.kind = 0 ∧ k.dst = s.me ∧ k.cid ≠ 0 then s.failNumber k.cid false else s

/-- What a port does with a packet of its slot's peer: without a key, or unauthenticated, it is discarded (R322). -/
def State.takeIn (s : State) (port : Nat) (k : Packet) (f : Packet → State → State) : Res :=
  s.portEvent port Port.open fun s =>
    let peer := (s.port port).reg.peer
    if !s.link.accepting then s
    else if !SMap.has s.link.keys peer then s.refusedForKey k
    else
      let key := SMap.get 0 s.link.keys peer
      let k1 := unsealed key k
      if authentic key k1 then f k1 s else s.authFail port peer

/-- A packet for another package goes to the forward queue of its destination (R323). -/
def State.relay (s : State) (k : Packet) : State :=
  s.onLink fun l => { l with fwdQ := SMap.set [] l.fwdQ k.dst (SMap.get [] l.fwdQ k.dst ++ [k]) }

/-- The refusal of a packet, which names this package's vintage (R325, R326). -/
def State.refusal (s : State) (k : Packet) : Packet := ⟨s.me, k.src, k.seq, s.link.vint, 2, k.dst, k.cid, 0, 0, []⟩
/-- A refusal that is owed to a packet's sender. -/
def State.refuse (s : State) (k : Packet) : State :=
  s.onLink fun l => { l with refusals := SMap.put l.refusals k.src (SMap.get [] l.refusals k.src ++ [s.refusal k]) }

/-- v is newer than u (R325). -/
def newer (v u : Nat) : Bool := decide (1 ≤ (v + 65536 - u) % 65536 ∧ (v + 65536 - u) % 65536 ≤ 32767)

/-- An acknowledgement that is owed to a sender (R324). -/
def State.oweAck (s : State) (src seq : Nat) : State := s.onLink fun l => { l with acks := SMap.put l.acks src (SMap.get [] l.acks src ++ [seq]) }

/-- The receive buffer of a partition that the debugger has stopped has no room for a packet (R326). -/
def State.bufferFull (s : State) (k : Packet) : Bool :=
  match s.contextOf k with
  | none => false
  | some cid =>
    let mine := (s.link.waiting ++ s.link.early).filter fun w => (s.contextOf w).any fun e => (s.ctx e).p == (s.ctx cid).p
    s.stoppedFor cid && decide ((mine.map fun w => w.payload.length).sum + k.payload.length > 8388608)

/-- A packet for this package: held until its turn in SEQ order; one delivered before is acknowledged again (R324); one that finds the
buffer full is refused busy (R326). -/
def State.acceptLocal (s : State) (k : Packet) : State :=
  let d := (k.seq + 2 ^ 32 - SMap.get 0 s.link.seqIn k.src) % 2 ^ 32
  if d ≥ 2 ^ 31 then s.oweAck k.src k.seq
  else if s.link.early.any fun e => e.src == k.src && e.seq == k.seq then s
  else if s.bufferFull k then s.refuse k
  else
    let s1 := s.onLink fun l => { l with early := l.early ++ [k] }
    if d = 0 then s1.linkSoon 0 (.packetDelivery k.src) else s1

/-- PACKET_RECEIVE (R322 to R325): authenticated, checked by its vintage, then relayed or accepted. -/
def execPacketReceive (port : Nat) (k : Packet) (s : State) : Res :=
  s.takeIn port k fun k s =>
    if k.vint = s.link.vint then (if k.dst = s.me then s.acceptLocal k else s.relay k)
    else if newer k.vint s.link.vint then (s.refuse k).onPort port fun x => { x with state := .draining }
    else s.refuse k

/-- The packet that comes next of those that wait in the link engine: in order of arrival, the first that can be delivered (R326). -/
def State.nextWaiting (s : State) : Option Packet := s.link.waiting.find? fun k => (s.deliver k).isSome

/-- A further packet is to be delivered: one that waits, or the next of a source. -/
def State.deliverMore (s : State) (src : Nat) : State :=
  let s1 := match s.nextWaiting with
    | some k => s.linkSoon 0 (.packetDelivery k.src)
    | none => s
  if s1.link.early.any fun e => e.src == src && e.seq == SMap.get 0 s1.link.seqIn src then s1.linkSoon 0 (.packetDelivery src) else s1

/-- PACKET_DELIVERY (R324, R326): what waits in the link engine comes first, in its order of arrival; else the next packet of a source in SEQ
order is delivered and acknowledged, or waits. Without power no delivery is accepted (R388): it comes again. -/
def execPacketDelivery (src : Nat) (s : State) : Res :=
  if !s.link.accepting then .next (s.linkSoon 0 (.packetDelivery src))
  else match s.nextWaiting with
  | some k => .next ((((s.onLink fun l => { l with waiting := l.waiting.erase k }).deliver k).getD s).deliverMore src)
  | none =>
    let seq := SMap.get 0 s.link.seqIn src
    match s.link.early.find? fun k => k.src == src && k.seq == seq with
    | none => if s.link.waiting.any fun k => k.src == src then .next s else .fault .noSuchObject
    | some k =>
      let s1 := (s.onLink fun l => { l with early := l.early.erase k, seqIn := SMap.set 0 l.seqIn src ((seq + 1) % 2 ^ 32) }).oweAck src seq
      .next (((s1.deliver k).getD (s1.onLink fun l => { l with waiting := l.waiting ++ [k] })).deliverMore src)

/-- Whether a packet of a send queue takes the two-hop path (R323). -/
def State.indirect (s : State) (u : Sent) : Bool := u.ind || !s.faces u.pkt.vint u.pkt.dst

/-- Hundredths of a nanosecond that WAC stands into a port's present slot. -/
def State.slotTime (s : State) (x : Port) : Nat := 100 * (s.hub.wac.toNat - x.start - x.slot * x.slotLen)
/-- Whether a packet that starts as soon as the port can ends before the slot does (R320). -/
def fits (x : Port) (now : Nat) (k : Packet) : Bool :=
  decide (max now (max x.used (100 * x.guard)) + 128 * (1 + dataFlits k) ≤ 100 * x.slotLen)
/-- Whether a port can start a packet within this nanosecond: in the data window, with no packet under way. -/
def Port.ready (x : Port) (now : Nat) : Bool := decide (max x.used (100 * x.guard) < now + 100)
/-- Whether a port is unlocked for its slot's peer. -/
def State.unlocked (s : State) (port : Nat) : Bool :=
  let x := s.port port
  x.open && x.reg.v && SMap.has s.link.keys x.reg.peer
/-- The unlocked ports on which a packet still fits, for the peers it may go to. -/
def State.portsFor (s : State) (k : Packet) (peer : Nat → Bool) : List Nat :=
  (s.link.ports.map Prod.fst).filter fun n => s.unlocked n && peer (s.port n).reg.peer && fits (s.port n) (s.slotTime (s.port n)) k

/-- The port that takes the next packet for a peer: those that face it take packets in turn in ascending number (R323). -/
def State.turnPort (s : State) (q : Nat) (k : Packet) : Option Nat :=
  let l := s.portsFor k (· == q)
  if SMap.has s.link.turn q then (l.find? fun n => decide (SMap.get 0 s.link.turn q < n)).orElse fun _ => l.head? else l.head?

/-- The port by which an indirect packet leaves: of those unlocked for a package that is neither its sender nor its destination, the one
whose slot began first (R323). -/
def State.relayPort (s : State) (k : Packet) : Option Nat :=
  let began (n : Nat) : Nat := (s.port n).start + (s.port n).slot * (s.port n).slotLen
  (s.portsFor k fun q => q != k.src && q != k.dst).foldl (fun b n => match b with
    | some m => if began n < began m then some n else some m
    | none => some n) none

/-- Whether a port sends its next packet for a package now: the peer's forward queue comes before the send queues (R323). -/
def State.canSend (s : State) (port dst : Nat) : Bool :=
  let x := s.port port
  let peer := x.reg.peer
  x.ready (s.slotTime x) && match SMap.get [] s.link.fwdQ peer, SMap.get [] s.link.sendQ dst with
    | k :: _, _ => dst == peer && s.turnPort peer k == some port
    | [], u :: _ =>
      (if s.indirect u then s.relayPort u.pkt == some port else dst == peer && s.turnPort peer u.pkt == some port)
        && (u.pkt.vint == s.link.vint || SMap.has s.link.tables u.pkt.vint)
    | [], [] => false

/-- A port puts a packet on the fibre: it is busy for its flits, and the next port that faces the peer comes next. -/
def State.putOut (s : State) (port : Nat) (k : Packet) : State :=
  let x := s.port port
  let peer := x.reg.peer
  let s1 := s.onPort port fun x => { x with used := max (s.slotTime x) (max x.used (100 * x.guard)) + 128 * (1 + dataFlits k) }
  s1.onLink fun l => { l with turn := SMap.put l.turn peer port, out := l.out ++ [(port, sealed (SMap.get 0 l.keys peer) k)] }

/-- PACKET_SEND (R320, R322, R323): what goes from a send queue waits for its acknowledgement, for one full rotation. -/
def execPacketSend (port dst : Nat) (s : State) : Res :=
  s.portEvent port (fun _ => s.canSend port dst) fun s =>
    let x := s.port port
    match SMap.get [] s.link.fwdQ x.reg.peer, SMap.get [] s.link.sendQ dst with
    | k :: r, _ => (s.onLink fun l => { l with fwdQ := SMap.set [] l.fwdQ x.reg.peer r }).putOut port k
    | [], u :: r =>
      (s.onLink fun l =>
        { l with
          sendQ := SMap.set [] l.sendQ dst r
          unacked := l.unacked ++ [{ u with due := s.hub.wac.toNat + (x.nslot + 1) * x.slotLen }] }).putOut port u.pkt
    | [], [] => s

/-- The SEQ values that an acknowledgement lists (R416). -/
def ackList (k : Packet) : List Nat := (List.range (k.payload.length / 4)).map fun i => ofLeBytes ((k.payload.drop (4 * i)).take 4)

/-- ACK_RECEIVE (R324): the acknowledged packets of the pair are done. -/
def execAckReceive (port : Nat) (k : Packet) (s : State) : Res :=
  s.takeIn port k fun k s =>
    if k.dst ≠ s.me then s.relay k
    else (s.onLink fun l => { l with unacked := l.unacked.filter fun u => !(u.pkt.dst == k.src && (ackList k).contains u.pkt.seq) }).settleDraining

/-- RETRANSMIT_TIMEOUT (R324): a packet without an acknowledgement after one full rotation is sent again. -/
def execRetransmitTimeout (dst seq : Nat) (s : State) : Res :=
  match s.link.unacked.find? fun u => u.pkt.dst == dst && u.pkt.seq == seq with
  | none => .fault .noSuchObject
  | some u =>
    if s.hub.wac.toNat < u.due then .fault .notInThisState
    else .next ((s.onLink fun l => { l with unacked := l.unacked.erase u }).requeue u)

/-- REFUSAL_RECEIVE (R325, R326): a packet refused for a newer vintage is routed again under it, one refused busy is sent again; it keeps
its SEQ. -/
def execRefusalReceive (port : Nat) (k : Packet) (s : State) : Res :=
  s.takeIn port k fun k s =>
    if k.dst ≠ s.me then s.relay k
    else match s.link.unacked.find? fun u => u.pkt.seq == k.seq && u.pkt.cid == k.cid && u.pkt.dst == k.daddr with
      | none => s
      | some u =>
        let s1 := s.onLink fun l => { l with unacked := l.unacked.erase u }
        (if newer k.vint u.pkt.vint then s1.reroute u k.vint else s1.requeue u).settleDraining

/-- VINTAGE_ADOPT (R325, R327): the tables of the vintage go into the ports, live ports drain, queued packets are routed again. -/
def execVintageAdopt (v : Nat) (s : State) : Res :=
  if !SMap.has s.link.tables v ∨ !newer v s.link.vint then .fault .notInThisState
  else
    let t := SMap.get ⟨[], []⟩ s.link.tables v
    let queued := (s.link.sendQ.map Prod.snd).flatten
    let held := t.ports.foldl (fun m e => SMap.put m e.1 ((SMap.get {} m e.1).take e.2)) s.link.ports
    let drain (e : Nat × Port) : Nat × Port := (e.1, if e.2.state = .live then { e.2 with state := .draining } else e.2)
    let old := (s.link.fwdQ.map Prod.snd).flatten.filter fun k => k.kind == 0
    let s1 := s.onLink fun l =>
      { l with
        vint := v, ports := held.map drain, sendQ := []
        fwdQ := (l.fwdQ.map fun e => (e.1, e.2.filter fun k => k.kind != 0)).filter fun e => !e.2.isEmpty }
    .next ((queued.reverse.foldl (fun s u => s.reroute u v) (old.foldl State.refuse s1)).settleDraining)

/-- What the link engine does of itself now: a slot begins, a packet is sent, or one is to be sent again (R320, R323, R324). -/
def State.linkDue (s : State) : Option Instr :=
  let ports := s.link.ports.map Prod.fst
  let sends (n : Nat) : Option Instr :=
    (((s.port n).reg.peer :: s.link.sendQ.map Prod.fst).find? (s.canSend n)).map (.packetSend n)
  ((ports.find? fun n => s.slotDue (s.port n)).map .rotorSlotStart).orElse fun _ =>
    (ports.findSome? sends).orElse fun _ =>
      (s.link.unacked.find? fun u => decide (u.due ≤ s.hub.wac.toNat)).map fun u => .retransmitTimeout u.pkt.dst u.pkt.seq

/-- WAC_SYNC_EXCHANGE (R33): WAC is slewed by at most 50 parts per million; it never steps. -/
def execWacSyncExchange (ppm : Int) (s : State) : Res := .next (s.onLink fun l => { l with slew := max (-50) (min 50 ppm) })

end Sys2Proof.Machine
end

