-- ==== Sys2Proof/Machine/Device.lean ====
section
/-!
DEFINITION. The device: partitions (R14, R15), spares and margins (R13, R386, R387), power failure and return (R388, R389), reset and
bring-up (R393, R439).
-/
namespace Sys2Proof.Machine

/-! ### Partitions -/

/-- Whether a context in some state stands on a die. -/
def State.onDies (s : State) (dies : List Nat) (st : CtxState → Bool) : Bool := s.ctxs.any fun e => st e.2.state && e.2.dies.any dies.contains
/-- The states that keep a die's division as it is (R15). -/
def CtxState.keepsDivision : CtxState → Bool
  | .empty | .saved | .retired | .failed => false
  | _ => true
/-- The states in which a die is not idle (R386). -/
def CtxState.keepsDie : CtxState → Bool
  | .running | .held | .frozen => true
  | _ => false

/-- A partition as the steward creates it: its queue area and page-fault block with every field zero (R255, R300), its allowance at CAP
(R383). No queue of it names a context that an earlier partition of these dies left stored (log entry 104). -/
def State.createPart (s : State) (p n : Nat) (mk : PartMake) : State :=
  let t : Part := { n := n, make := mk, rate := BitVec.ofNat 32 mk.rate, cap := BitVec.ofNat 32 mk.cap, allow := dw (mk.cap % 2 ^ 32 * 65536) }
  let s1 : State := { s with parts := SMap.put s.parts p t }
  (s1.hbmWrite mk.queueArea (List.replicate 512 0)).hbmWrite mk.faultQueue (List.replicate 64 0)

/-- Whether n dies from die p make a partition (R13, R14). -/
def State.partOk (s : State) (p n : Nat) : Bool :=
  (n == 1 || n == 2 || n == 4 || n == 8) && p % n == 0 && decide (p + n ≤ 8)
    && !((List.range n).any fun d => (s.dieHw (p + d)).degraded)

/-- PARTITION_CHANGE (R14, R15): n = 0 dissolves the partition of die p; partitions that the new one cuts are dissolved. -/
def execPartitionChange (p n : Nat) (mk : PartMake) (s : State) : Res :=
  let dies := (List.range (max 1 n)).map (p + ·)
  let cut := s.parts.filter fun e => (s.diesOf e.1).any dies.contains
  let affected := dies ++ (cut.map fun e => s.diesOf e.1).flatten
  if s.onDies affected CtxState.keepsDivision || (n != 0 && !s.partOk p n) then .fault .notInThisState
  else
    let s1 : State := { s with parts := s.parts.filter fun e => !cut.any fun c => c.1 == e.1 }
    .next (if n = 0 then s1 else s1.createPart p n mk)

/-! ### Spares and margins -/

/-- Whether the slices mapped out of a row can be covered (R13): between two places where neighbours are out together, which no
architectural neighbours can span, 128 good ones remain. -/
def rowCovered (out : List Nat) : Bool :=
  let r := (List.range 132).foldl (fun (a : Nat × Nat × Bool) k =>
    if out.contains k then (a.1, if a.2.2 then 0 else a.2.1, true) else (max a.1 (a.2.1 + 1), a.2.1 + 1, false)) (0, 0, false)
  decide (128 ≤ r.1)

/-- The slices mapped out of a die, and whether its faults cannot be covered: rows, or more HBM channels than there are spares (R13,
R387). A die that is degraded is admitted to no partition; what becomes of the partition that it stands in the spec does not say, and
this model leaves that as it is (log entry 96). -/
def State.coverDie (s : State) (die : Nat) (out : List (Nat × Nat)) (chans : List Nat) : State :=
  let bad := !((List.range 4).all fun r => rowCovered ((out.filter fun e => e.1 == r).map Prod.snd)) || decide (Config.spareChannels < chans.length)
  let s1 := s.onHw die fun h => { h with out := out, chanOut := chans, degraded := bad }
  if bad then s1.steward 9 die else s1

/-- A list of places mapped out, with one more or one less. -/
def mapOut {α : Type} [BEq α] (l : List α) (a : α) (out : Bool) : List α := (l.filter (· != a)) ++ (if out then [a] else [])

/-- SPARE_MAP (R13, R387). Row 4 stands for a die's HBM channels, and row 5 for the lanes of a port in training, which goes down when its
spares do not reach (R327; log entry 96). -/
def execSpareMap (die row phys : Nat) (out : Bool) (s : State) : Res :=
  if row = 5 then
    s.portEvent die (fun x => x.state == .training) fun s =>
      let l := mapOut (s.port die).lanesOut phys out
      let s1 := s.onPort die fun x => { x with lanesOut := l }
      if l.length ≤ Config.spareLanes then s1 else (s1.onPort die fun x => { x with state := .down }).steward 11 die
  else if die ≥ 8 ∨ row ≥ 5 ∨ phys ≥ (if row = 4 then 20 else 132) then .fault .noSuchObject
  else if s.onDies [die] CtxState.keepsDie then .fault .notInThisState
  else
    let h := s.dieHw die
    .next (if row = 4 then s.coverDie die h.out (mapOut h.chanOut phys out) else s.coverDie die (mapOut h.out (row, phys) out) h.chanOut)

/-- MARGIN_REPLAN (R16, R386): the steward reads the path monitors of an idle die, and gives it an ageing state and a wall-clock rate not
above the nominal one, for later runs. -/
def execMarginReplan (die age mhz : Nat) (s : State) : Res :=
  if die ≥ 8 ∨ age > 2 ∨ mhz = 0 ∨ mhz > 1800 ∨ s.onDies [die] CtxState.keepsDie then .fault .notInThisState
  else
    let (n, s1) := s.fresh
    .next (s1.onHw die fun h => { h with age := age, mhz := mhz, monitors := (List.range 64).map (Config.pathMonitor die · n) })

/-! ### Power (R388, R389) -/

/-- The contexts that a checkpoint holds, each with the ACC at which it stands. -/
def State.checkpointAccs (s : State) : List (Nat × Nat) :=
  (s.ctxs.filter fun e => e.2.state == .saved).map fun e => (e.1, (s.core e.1).acc.toNat)

/-- The timed cores that a checkpoint holds: slice state and snapshot of every saved context. -/
def State.checkpointCores (s : State) : SMap Core := s.cores.filter fun e => (s.ctx e.1).state == .saved

/-- What the commit record digests: everything written (R388). -/
def Checkpoint.bytes (k : Checkpoint) : List Byte :=
  (k.pages.map fun c => leBytes 8 c.1 ++ [c.2]).flatten ++ (k.cores.map fun e => leBytes 8 e.1 ++ Config.stateBytes e.2).flatten
    ++ (k.accs.map fun e => leBytes 8 e.1 ++ leBytes 8 e.2).flatten
/-- Whether the commit record matches what a checkpoint holds. -/
def Checkpoint.matches (k : Checkpoint) : Bool := k.digest == Config.sha3 k.bytes
/-- The checkpoint of a state, its commit record last. -/
def State.checkpointNow (s : State) : Checkpoint :=
  let k : Checkpoint := ⟨0, s.hbm, s.checkpointCores, s.checkpointAccs⟩
  { k with digest := Config.sha3 k.bytes }

/-- Every context is saved (R254): running ones are frozen where they stand, whatever holds them, and no dispatch or restore goes on; what
a loading one had is lost (log entry 66). -/
def State.saveAll (s : State) : State :=
  (s.ctxs.map Prod.fst).foldl (fun s cid =>
    let c := s.ctx cid
    if c.state = .loading then s.failContext cid
    else if c.alive then
      let s1 := if (s.part c.p).running = some cid then s.parkContext cid [] else s
      let s2 := (s1.onCtx cid fun x => { x with state := .saved, spill := spillOut [] (fun _ _ => true) x.spill }).writeSave cid
      s2.setCore cid { s2.core cid with owned := [], planes := 0 }
    else s) { s with parts := s.parts.map fun e => (e.1, { e.2 with next := none }) }

/-- A queue whose launch was selected for a restore that power failure broke off is ready again. -/
def State.requeueSaved (s : State) : State :=
  s.ctxs.foldl (fun s e =>
    let q := s.queue e.2.p e.2.queue
    if e.2.state = .saved ∧ (q.state = .dispatching ∨ q.state = .blocked) ∧ q.launch = some e.1 then s.qState e.2.p e.2.queue .ready else s) s

/-- POWER_FAIL (R388): no delivery is accepted any more, every context is saved, and the checkpoint goes to the cellar tier, the commit
record last. -/
def execPowerFail (s : State) : Res :=
  if !s.hub.powered then .fault .notInThisState
  else
    let s1 := ((s.onLink fun l => { l with accepting := false }).saveAll).requeueSaved
    .next (s1.onHub fun h => { h with powered := false, checkpoint := some s1.checkpointNow })

/-- What a die loses with its power: TLBs and instruction cache. -/
def DieHw.cold (h : DieHw) : DieHw := { h with dtlb := [], itlb := [], linkTlb := [], ltlb := [], icache := [] }

/-- HBM and contexts as a checkpoint holds them. -/
def State.fromCheckpoint (s : State) (k : Checkpoint) : State :=
  { s with hbm := k.pages, cores := k.cores.foldl (fun m e => SMap.put m e.1 e.2) s.cores }

/-- POWER_RETURN (R389): from a checkpoint whose commit record is present and matches what the cellar tier holds (`valid`: it reads back
whole) the contexts wait for their restore; without one, they fail. -/
def execPowerReturn (valid : Bool) (s : State) : Res :=
  if s.hub.powered then .fault .notInThisState
  else
    let s1 : State := { s with hw := s.hw.map fun e => (e.1, e.2.cold) }
    let s2 := (s1.onLink fun l => { l with accepting := true }).onHub fun h => { h with powered := true, checkpoint := none }
    .next (match s.hub.checkpoint.filter fun k => valid && k.matches with
      | some k => s2.fromCheckpoint k
      | none =>
        let s3 : State := { s2 with hbm := [] }
        ((s3.ctxs.filter fun e => e.2.alive).map Prod.fst).foldl (fun s c => s.failContext c) s3)

/-! ### Reset (R393) -/

/-- The state in which the Rootstock starts (R393): spares, margins and the fabric clock stay, and so does HBM. -/
def State.rootstock (s : State) (policy : BootPolicy) : State :=
  let hw : SMap DieHw := s.hw.map fun e =>
    (e.1, { out := e.2.out, chanOut := e.2.chanOut, degraded := e.2.degraded, age := e.2.age, mhz := e.2.mhz, monitors := e.2.monitors
            corrected := e.2.corrected })
  { State.reset with
    hw := hw, hbm := s.hbm, free := s.free
    hub := { wac := s.hub.wac, wacPart := s.hub.wacPart, nextId := s.hub.nextId, measureImages := policy.measureImages } }

/-- An optical port trains and takes its schedule (R320, R327, R393): identity check, or down where no lane set is usable. -/
def State.trainPort (s : State) (port : Nat) (sch : PortSchedule) (ok : Bool) : State :=
  let s1 := s.onPort port fun x => { (x.take (heldSchedule sch)) with en := true, state := if ok then .identityCheck else .down }
  let s2 := s1.onLink fun l =>
    let old := SMap.get ⟨[], []⟩ l.tables l.vint
    { l with tables := SMap.put l.tables l.vint ⟨sch.members, SMap.put old.ports port (heldSchedule sch)⟩ }
  if ok then s2 else s2.steward 11 port

/-- Bring-up after a device reset (R393, R439): firmware that verifies is measured and started; then the package identifier, the optical
ports and the vintage, the partitions, and the open BAR. Firmware that does not verify starts nothing. -/
def State.bringUp (s : State) (policy : BootPolicy) : State :=
  let s0 := s.rootstock policy
  let digest := Config.sha3 policy.firmware
  if !Config.mldsaVerify Config.firmwareKey policy.signature digest then s0
  else
    let s1 := (digest :: policy.measure).foldl (fun s d => s.extend d) s0
    let s2 := (s1.onHub fun h => { h with pkg := BitVec.ofNat 32 policy.pkg }).onLink fun l => { l with vint := policy.vint % 65536 }
    let s3 := (policy.ports.filter fun e => decide (e.1 < 32)).foldl (fun s e => s.trainPort e.1 e.2.1 e.2.2) s2
    let free (s : State) (p n : Nat) : Bool := !s.parts.any fun q => decide (p < q.1 + q.2.n ∧ q.1 < p + n)
    let s4 := policy.parts.foldl (fun s e => if s.partOk e.1 e.2.1 && free s e.1 e.2.1 then s.createPart e.1 e.2.1 e.2.2 else s) s3
    s4.onHub fun h => { h with barOpen := true }

/-- DEVICE_RESET (R7, R393). -/
def execDeviceReset (policy : BootPolicy) (s : State) : Res := .next (s.bringUp policy)

end Sys2Proof.Machine
end

