-- ==== Sys2Proof/Machine/Scan.lean ====
section
/-!
DEFINITION. The scan unit and the route solver as V1 forms (R185, R188 to R191).
-/
namespace Sys2Proof.Machine

/-- One fold step of R189 on the fold value and an element; FI is of the element alone. -/
def foldOp (op : Nat) : View → Nat → Nat → Flagged Nat := fun v a b =>
  match op with
  | 0 => if isF v.ty then (do v.round (← numAdd v.rd (v.lay.decode false a) (v.num b))) else opAdd v a b 0
  | 1 => opMin v a b 0
  | 2 => opMax v a b 0
  | 3 => return Nat.land a b
  | 4 => return Nat.lor a b
  | _ => return Nat.xor a b

/-- The first contributing element as a fold value (R189). -/
def foldFirst (op : Nat) (v : View) (x : Nat) : Flagged Nat :=
  if isF v.ty && decide (op < 3) then (if op = 0 then v.round (v.num x) else v.exact (v.num x)) else pure x

/-- ident(op) (R189). -/
def foldIdent (op : Nat) (v : View) : Nat :=
  let maxI := if isF v.ty then v.lay.infBits else if isI v.ty then 2 ^ (v.w - 1) - 1 else 2 ^ v.w - 1
  let minI := if isF v.ty then v.lay.infBits + v.lay.signBit else if isI v.ty then 2 ^ (v.w - 1) else 0
  match op with
  | 1 => maxI
  | 2 => minI
  | 3 => 2 ^ v.w - 1
  | _ => 0

/-- The fold of the elements of A from element i on: for each element, the value before it and after it. -/
def scanFold (op : Nat) (v : View) (a : Nat) : List Nat → Option Nat → Flagged (List (Option Nat × Option Nat))
  | [], _ => return []
  | i :: is, acc => do
    let x := elemAt v.w i a
    let nxt ← if v.mask.getLsbD i then
        (match acc with
         | none => some <$> foldFirst op v x
         | some y => some <$> foldOp op v y x)
      else pure acc
    return (acc, nxt) :: (← scanFold op v a is nxt)

/-- NF of a scanned element: an identity sets nothing (R46). -/
def scanNf (v : View) (x : Option Nat) : Nat :=
  match x with
  | none => 0
  | some y => nfBit v.ty y

/-- VSCAN (R189). -/
def execVscan (f : VF) (s : State) : Res :=
  let (v, s0) := s.view f
  let (a, s1) := s0.vA f
  let op := f.imm.toNat % 8
  let (l, fl) := (scanFold op v a (List.range v.n) none).run 0
  let xs := l.map fun e => if f.imm.getLsbD 3 then e.1 else e.2
  let r := packLe (xs.map fun x => (v.w, x.getD (foldIdent op v)))
  .next (s1.vDone f.dst 6 (r, fl) (xs.foldl (fun m x => m ||| scanNf v x) 0))

/-- VRED (R189). -/
def execVred (f : VF) (s : State) : Res :=
  let (v, s0) := s.view f
  let (a, s1) := s0.vA f
  let op := f.imm.toNat % 8
  let (l, fl) := (scanFold op v a (List.range v.n) none).run 0
  let x := (l.getLast?.map Prod.snd).getD none
  .next (s1.vDone f.dst 6 (x.getD (foldIdent op v), fl) (scanNf v x))

/-- VCOMPACT (R190). -/
def execVcompact (f : VF) (s : State) : Res :=
  let (v, s0) := s.view f
  let (a, s1) := s0.vA f
  let (b, s2) := s1.vB f
  let sel := ((List.range v.n).filter fun i => v.mask.getLsbD i).map fun i => elemAt v.w i a
  let r := packLe ((List.range v.n).map fun i => (v.w, sel.getD i (elemAt v.w i b)))
  .next (s2.vDone f.dst 6 (r, 0) 0)

/-- Whether an element counts as nonzero (R191). -/
def countsNonzero (v : View) (x : Nat) : Bool := if isF v.ty then !(v.num x).isZero else x != 0

/-- VCOUNT (R191). -/
def execVcount (f : VF) (s : State) : Res :=
  let (v, s0) := s.view f
  let (a, s1) := s0.vA f
  let c := ((List.range v.n).filter fun i => v.mask.getLsbD i && countsNonzero v (elemAt v.w i a)).length
  .next (s1.vDone f.dst 6 (c, 0) 0)

/-- VROUTE (R185): the setting to zN and the miss mask to kM at X + 12. -/
def execVroute (f : VF) (s : State) : Res :=
  let (v, s0) := s.view f
  let (a, s1) := s0.vA f
  let (target, miss) := resolveRoutes (fun i => elemAt 32 i a % 16) (fun i => v.mask.getLsbD i)
  let sig := if f.imm.getLsbD 0 then target else inversePerm target
  .next ((s1.vDone f.dst 12 (routeSetting sig, 0) 0).writeRank (0x58 + (f.imm.extractLsb' 1 3).toNat) (s.X + 12) (BitVec.ofNat 512 miss))

end Sys2Proof.Machine
end

