-- ==== Sys2Proof/Machine/SeqAlu.lean ====
section
/-!
DEFINITION. The S-slot integer forms (R119 to R126): each samples x registers at T and owes xd; no flag is set.
-/
namespace Sys2Proof.Machine

/-- A form of two registers, with its result at T + `lat`. -/
def State.ret2 (s : State) (f : SR) (lat : Nat) (op : DWord → DWord → DWord) : State :=
  ((s.useX f.xa).useX f.xb).retX f.xd (op (s.xreg f.xa) (s.xreg f.xb)) lat
/-- A form of one register. -/
def State.ret1 (s : State) (f : SR) (op : DWord → DWord) : State := (s.useX f.xa).retX f.xd (op (s.xreg f.xa)) 1
/-- A form of a register and imm45 sign-extended to 64 bits (R125). -/
def State.retI (s : State) (f : SI) (lat : Nat) (op : DWord → DWord → DWord) : State :=
  (s.useX f.xa).retX f.xd (op (s.xreg f.xa) (f.imm.signExtend 64)) lat
/-- SNOP (R123): no effect. -/
def execSnop (_f : SR) (s : State) : Res := .next s
/-- ADD (R123). -/
def execAdd (f : SR) (s : State) : Res := .next (s.ret2 f 1 (· + ·))
/-- SUB (R123). -/
def execSub (f : SR) (s : State) : Res := .next (s.ret2 f 1 (· - ·))
/-- MUL (R123): the low 64 bits of the product, at T + 3. -/
def execMul (f : SR) (s : State) : Res := .next (s.ret2 f 3 (· * ·))
/-- MULHS (R123): bits [127:64] of the signed product. -/
def execMulhs (f : SR) (s : State) : Res :=
  .next (s.ret2 f 3 fun a b => (a.signExtend 128 * b.signExtend 128).extractLsb' 64 64)
/-- MULHU (R123): bits [127:64] of the unsigned product. -/
def execMulhu (f : SR) (s : State) : Res :=
  .next (s.ret2 f 3 fun a b => (a.setWidth 128 * b.setWidth 128).extractLsb' 64 64)
/-- DIVS (R124): toward zero; all ones for a zero divisor, the dividend for -2^63 / -1. -/
def execDivs (f : SR) (s : State) : Res :=
  .next (s.ret2 f 20 fun a b => if b = 0 then BitVec.allOnes 64 else a.sdiv b)
/-- DIVU (R124). -/
def execDivu (f : SR) (s : State) : Res :=
  .next (s.ret2 f 20 fun a b => if b = 0 then BitVec.allOnes 64 else a.udiv b)
/-- REMS (R124): the sign of the dividend; the dividend for a zero divisor. -/
def execRems (f : SR) (s : State) : Res := .next (s.ret2 f 20 fun a b => if b = 0 then a else a.srem b)
/-- REMU (R124). -/
def execRemu (f : SR) (s : State) : Res := .next (s.ret2 f 20 fun a b => if b = 0 then a else a.umod b)
/-- AND (R123). -/
def execAnd (f : SR) (s : State) : Res := .next (s.ret2 f 1 (· &&& ·))
/-- OR (R123). -/
def execOr (f : SR) (s : State) : Res := .next (s.ret2 f 1 (· ||| ·))
/-- XOR (R123). -/
def execXor (f : SR) (s : State) : Res := .next (s.ret2 f 1 (· ^^^ ·))
/-- ANDN (R123). -/
def execAndn (f : SR) (s : State) : Res := .next (s.ret2 f 1 fun a b => a &&& ~~~b)
/-- SHL (R123): the count is b mod 64. -/
def execShl (f : SR) (s : State) : Res := .next (s.ret2 f 1 fun a b => a <<< (b.toNat % 64))
/-- SHRL (R123). -/
def execShrl (f : SR) (s : State) : Res := .next (s.ret2 f 1 fun a b => a >>> (b.toNat % 64))
/-- SHRA (R123): toward minus infinity. -/
def execShra (f : SR) (s : State) : Res := .next (s.ret2 f 1 fun a b => a.sshiftRight (b.toNat % 64))
/-- ROTR (R123). -/
def execRotr (f : SR) (s : State) : Res := .next (s.ret2 f 1 fun a b => a.rotateRight (b.toNat % 64))
/-- MIN (R123), signed. -/
def execMin (f : SR) (s : State) : Res := .next (s.ret2 f 1 fun a b => if b.slt a then b else a)
/-- MAX (R123), signed. -/
def execMax (f : SR) (s : State) : Res := .next (s.ret2 f 1 fun a b => if a.slt b then b else a)
/-- MINU (R123). -/
def execMinu (f : SR) (s : State) : Res := .next (s.ret2 f 1 fun a b => if b.ult a then b else a)
/-- MAXU (R123). -/
def execMaxu (f : SR) (s : State) : Res := .next (s.ret2 f 1 fun a b => if a.ult b then b else a)
/-- SLT (R123). -/
def execSlt (f : SR) (s : State) : Res := .next (s.ret2 f 1 fun a b => boolW (a.slt b))
/-- SLTU (R123). -/
def execSltu (f : SR) (s : State) : Res := .next (s.ret2 f 1 fun a b => boolW (a.ult b))
/-- SEQ (R123). -/
def execSeq (f : SR) (s : State) : Res := .next (s.ret2 f 1 fun a b => boolW (a == b))
/-- SEL (R123): a when xc is not zero, else b. -/
def execSel (f : SR) (s : State) : Res :=
  .next (((((s.useX f.xa).useX f.xb).useX f.xc).retX f.xd (if s.xreg f.xc ≠ 0 then s.xreg f.xa else s.xreg f.xb)) 1)
/-- CLZ (R123): 64 for zero. -/
def execClz (f : SR) (s : State) : Res :=
  .next (s.ret1 f fun a => dw (if a = 0 then 64 else 63 - Nat.log2 a.toNat))
/-- POPC (R123). -/
def execPopc (f : SR) (s : State) : Res := .next (s.ret1 f fun a => dw (popCount 64 a.toNat))

/-- ADDI (R125). -/
def execAddi (f : SI) (s : State) : Res := .next (s.retI f 1 (· + ·))
/-- ANDI (R125). -/
def execAndi (f : SI) (s : State) : Res := .next (s.retI f 1 (· &&& ·))
/-- ORI (R125). -/
def execOri (f : SI) (s : State) : Res := .next (s.retI f 1 (· ||| ·))
/-- XORI (R125). -/
def execXori (f : SI) (s : State) : Res := .next (s.retI f 1 (· ^^^ ·))
/-- SHLI (R125): imm45 is 0 to 63. -/
def execShli (f : SI) (s : State) : Res := .next (s.retI f 1 fun a _ => a <<< (f.imm.toNat % 64))
/-- SHRLI (R125). -/
def execShrli (f : SI) (s : State) : Res := .next (s.retI f 1 fun a _ => a >>> (f.imm.toNat % 64))
/-- SHRAI (R125). -/
def execShrai (f : SI) (s : State) : Res := .next (s.retI f 1 fun a _ => a.sshiftRight (f.imm.toNat % 64))
/-- SLTI (R125). -/
def execSlti (f : SI) (s : State) : Res := .next (s.retI f 1 fun a i => boolW (a.slt i))
/-- MULI (R125): at T + 3. -/
def execMuli (f : SI) (s : State) : Res := .next (s.retI f 3 (· * ·))
/-- LIT (R126): the header literal sign-extended, plus imm45. -/
def execLit (f : SI) (s : State) : Res :=
  .next (s.retX f.xd (s.cur.fl.lit.signExtend 64 + f.imm.signExtend 64) 1)
/-- LITH (R126): the header literal above the low half of xa. -/
def execLith (f : SI) (s : State) : Res :=
  .next ((s.useX f.xa).retX f.xd (s.cur.fl.lit ++ (s.xreg f.xa).extractLsb' 0 32) 1)

end Sys2Proof.Machine
end

