-- ==== Sys2Proof/Machine/Trap.lean ====
section
/-!
DEFINITION. Taking a trap (R358 to R366): which trap is charged, the rewind to the boundary before its bundle, the trap registers
of every die, and the entry into the handlers; the failure of the context when no handler can run.
-/
namespace Sys2Proof.Machine

/-! ### Selection (R359) -/

/-- The order in which traps are charged: bundle, code, sequencer before slice, die, slice, value. -/
def trapBefore (a b : Trap) : Bool :=
  let key (t : Trap) : List Nat := [t.T, t.code, b2n t.slice.isSome, t.die, t.slice.getD 0, t.val]
  listBefore (key a) (key b)

/-- More than one cause or slice was found (R359). -/
def trapMulti (ts : List Trap) : Bool :=
  match ts with
  | [] => false
  | t :: r => r.any fun u => u.code != t.code || u.slice != t.slice

/-! ### The rewind (R358, R360) -/

/-- Undoes one HBM write, unless something else has reached the word since: then the write keeps its place in the order of arrival,
and is not made again (R240). -/
def State.undoWrite (s : State) (cid : Nat) (e : Nat × Nat × List Byte × List Byte) : State :=
  let (cyc, pa, old, new) := e
  if s.hbmBytes pa new.length = new then s.hbmWrite pa old
  else s.onCtx cid fun c => { c with stands := (cyc, pa, old) :: c.stands }

/-- HBM as it stood at the boundary before T: what writes of cycle T or later replaced comes back, newest first. -/
def State.undoHbm (s : State) (cid T : Nat) : State :=
  let cx := s.ctx cid
  let gone := cx.undo.filter fun e => decide (e.1 > T)
  gone.foldl (fun s e => s.undoWrite cid e) (s.setCtx cid { cx with undo := cx.undo.filter fun e => !decide (e.1 > T) })

/-- The trace records of a context that stay after a rewind to the boundary before T: those of earlier cycles, the holds of that boundary,
and the inputs, which are applied again; each carries the new stamp, and the next bundle of that boundary, and stands at its place there
(R360, R376). Records of other contexts stay. -/
def State.rewindTrace (s : State) (cid p T : Nat) : State :=
  let pt := s.part p
  let own := cid + 1
  let all := (List.range pt.traceAt).map fun i => (pt.traceBy.getD i 0, s.hbmRead (pt.make.traceRing + 32 * i) 32)
  let kind (r : Nat) : Nat := bitsOf r 144 8
  let acc (r : Nat) : Nat := bitsOf r 0 64
  let keep := all.filter fun e => e.1 != own || decide (acc e.2 < T) || (acc e.2 == T && (kind e.2 == 3 || kind e.2 == 4))
  let again := all.filter fun e => e.1 == own && decide (T ≤ acc e.2) && kind e.2 == 8
  let s1 := (s.hbmWrite pt.make.traceRing ((keep.map fun e => leBytes 32 e.2).flatten)).onPart p fun q =>
    { q with traceAt := keep.length, traceBy := keep.map Prod.fst }
  again.foldl (fun s e =>
    let r := putBits (putBits e.2 0 64 T) 64 64 ((s.core cid).nextAddr (bitsOf e.2 141 3))
    s.traceInsert p own T (traceKey r) (leBytes 32 r)) s1

/-- The replay log after a rewind: readings of the rewound span are made again, inputs carry the new stamp (R360, R379); so it is with what
a log holds that has stopped recording, and with the ACC at which it was truncated. -/
def State.rewindReplay (s : State) (cid T logged : Nat) : State :=
  let cx := s.ctx cid
  if cx.replaying || cx.replayLog.isEmpty then s
  else
    let l := cx.replayLog.take logged ++
      ((cx.replayLog.drop logged).filter fun e => e.cls != 3).map fun e => { e with acc := T }
    let s1 := s.setCtx cid { cx with replayLog := l }
    if cx.recording then s1.storeReplay cid
    else
      let stop := cx.truncated.map (min T)
      ((s1.hbmWrite (s.part cx.p).make.replayLog (l.map ReplayEntry.bytes).flatten).onCtx cid fun x => { x with truncated := stop }).onPart
        cx.p fun q => { q with replayAt := (l.map ReplayEntry.bytes).flatten.length, log := l, logEnd := stop }

/-- Applies again the inputs of the rewound span, in their arrival order (R360). -/
def State.applyAgain (s : State) (cid seen : Nat) : State :=
  ((s.ctx cid).applied.filter fun e => decide (e.1 ≥ seen)).foldl (fun s e =>
    match e.2 with
    | .hbm pa bs => s.hbmWrite pa bs
    | i => s.setCore cid ((s.core cid).applyInput i)) s

/-- Undoes every effect of the bundles issued at T or later (R358): the partition stands at the boundary before T. -/
def State.rewind (s : State) (cid T : Nat) : State :=
  let cx := s.ctx cid
  let c := s.core cid
  let base := ((cx.marks.find? fun m => m.1 == T).map Prod.snd).getD c
  let s1 := s.undoHbm cid T
  let s2 := (s1.onPart cx.p fun q => { q with allow := dw (min (q.allow.toNat + (c.debit - base.debit)) (q.cap.toNat * 65536)) }).setCore cid { base with seen := c.seen }
  let s3 := s2.onCtx cid fun x =>
    { x with
      marks := x.marks.filter fun m => decide (m.1 ≤ T)
      kernel := base.kernelState }
  ((s3.rewindTrace cid cx.p T).rewindReplay cid T base.logged).applyAgain cid base.seen

/-! ### The trap registers (R361 to R363) -/

/-- TSTAT.DLY of a die: the cycles from the trap boundary to the issue that its next bundle would have (R361, R363). -/
def Die.delay (x : Die) (T : Nat) : Nat :=
  if x.ended.isSome then 0
  else match x.rev with
    | some r => r.next - T
    | none => x.next - T

/-- Where TRET resumes a die: REVERSE goes on at its own bundle (R363). -/
def Die.resumeAt (x : Die) : Nat := match x.rev with | some r => r.addr | none => x.pc

/-- A die enters its handler with its trap registers written (R363). A trap of an adjoint bundle has REVERSE issued again from the
record that trapped (R350, R361). -/
def Die.enterHandler (x : Die) (t : Trap) (multi own : Bool) : Die :=
  let y : Die := match x.rev with
    | some r => if own && t.rev then { x with rev := none, pc := r.addr, next := t.T } else x
    | none => x
  let dly := y.delay t.T
  let z : Die :=
    { y with
      tbundle := dw y.resumeAt, tacc := dw t.T, inS := true, skip := false, hpc := x.tvec.toNat, hnext := 0 }
  if own then
    { z with
      tcause := dw t.code
      tval := dw t.val
      tslice := dw (t.tslice + b2n t.slice.isSome * 2 ^ 63)
      tstat := dw (packLe [(1, b2n multi), (1, 0), (1, b2n t.rev), (1, b2n t.late), (4, t.slot), (16, dly)]) }
  else { z with tcause := 0, tstat := dw (packLe [(1, 0), (1, 1), (6, 0), (16, dly)]) }

/-- The trap registers of a die, as the steward records them (R362). -/
def Die.trapSet (x : Die) : Nat :=
  packLe ([x.tcause, x.tbundle, x.tacc, x.tval, x.tslice, x.tvec, x.tstat, x.tscratch].map fun v => (64, v.toNat))

/-- The trap registers of every die of a partition. -/
def State.trapSets (s : State) (cid p : Nat) : Nat := packLe ((s.diesOf p).map fun d => (512, ((s.core cid).die d).trapSet))

/-- The second set of a double trap (R366): the trap registers as the handler's trap gives them, with the handler bundle that each
die was at. -/
def State.secondSets (s : State) (cid p : Nat) (t : Trap) (multi : Bool) : Nat :=
  let c := s.core cid
  packLe ((s.diesOf p).map fun d =>
    let x := c.die d
    let y : Die := ({ x with rev := none } : Die).enterHandler { t with T := c.acc.toNat } multi (d == t.die)
    let at_ := ((c.flights.find? fun f => f.hnd && f.die == d && f.T == t.T).map Flight.addr).getD x.hpc
    let dly (v : DWord) : DWord := v &&& 0xFF
    (512, ({ y with tbundle := dw at_, tstat := dly y.tstat } : Die).trapSet))

/-- A double trap (R366): the steward records both sets, and the context fails. -/
def State.doubleTrap (s : State) (cid p : Nat) (t : Trap) (multi : Bool) : State :=
  let n := (s.part p).n
  ((s.steward 1 (s.trapSets cid p + s.secondSets cid p t multi <<< (512 * n))).failContext cid)

/-- TBUNDLE is the bundle behind END where a die has just passed over a loop of no passes (R132, R362): the walker reads the
header for it at the trap boundary, without a hold. -/
def State.settleEnd (s : State) (cid d : Nat) : State :=
  match ((s.core cid).die d).probe with
  | some stop => s.passEnd cid d stop
  | none => s

/-- Every die of the partition enters its handler (R363), with the trace records of the trap (R376). -/
def State.enterHandlers (s0 : State) (cid p : Nat) (t : Trap) (multi : Bool) : State :=
  let dies := s0.diesOf p
  let s := dies.foldl (fun st d => st.settleEnd cid d) s0
  let s1 := s.setCore cid
    ({ dies.foldl (fun c d => c.onDie d fun x => x.enterHandler t multi (d == t.die)) (s.core cid) with handler := true, hclk := 0 } : Core)
  let at_ (d : Nat) : Nat := (((s1.core cid).die d).tbundle).toNat
  let s2 := s1.trace cid t.die 2 (at_ t.die) t.T t.slice (t.code + t.val % 2 ^ 32 * 2 ^ 64)
  if dies.any fun d => ((s2.core cid).die d).tvec == 0 then (s2.steward 1 (s2.trapSets cid p)).failContext cid
  else (dies.foldl (fun s d => s.trace cid d 6 ((s2.core cid).die d).tvec.toNat t.T none 0) s2).runAll [phase cid p 3]

/-- TRAP_TAKEN (R358, R359, R363, R366). -/
def execTrapTaken (cid : Nat) (s : State) : Res :=
  let c := s.core cid
  let p := (s.ctx cid).p
  match sortBy trapBefore c.foundTraps with
  | [] => .fault .noSuchObject
  | t :: r =>
    .next (if c.handler then s.doubleTrap cid p t (trapMulti (t :: r))
      else (s.rewind cid t.T).enterHandlers cid p t (trapMulti (t :: r)))

end Sys2Proof.Machine
end

