-- ==== Sys2Proof/Machine/Dispatch.lean ====
section
/-!
DEFINITION. The dispatch: one arm per instruction, each a direct call of its meaning.
-/
namespace Sys2Proof.Machine

/-- One step of an instruction. -/
def exec (i : Instr) (s : State) : Host.Outcome State Fault Refusal :=
  match i with
  | .bundleIssue p d => Sys2Proof.Machine.execBundleIssue p d s
  | .delayBundle p d => Sys2Proof.Machine.execDelayBundle p d s
  | .cycleBoundary p => Sys2Proof.Machine.execCycleBoundary p s
  | .owedWritePerforms id => Sys2Proof.Machine.execOwedWritePerforms id s
  | .fillmLatchExecute m op => Sys2Proof.Machine.execFillmLatchExecute m op s
  | .outerTrellisArrival plan w poisoned => Sys2Proof.Machine.execOuterTrellisArrival plan w poisoned s
  | .hatomHomeOperation id => Sys2Proof.Machine.execHatomHomeOperation id s
  | .hatomParkNotice cid tag => Sys2Proof.Machine.execHatomParkNotice cid tag s
  | .hatomReplay home tag old bad => Sys2Proof.Machine.execHatomReplay home tag old bad s
  | .hatomFetchLanding cid tag => Sys2Proof.Machine.execHatomFetchLanding cid tag s
  | .snop f => Sys2Proof.Machine.execSnop f s
  | .add f => Sys2Proof.Machine.execAdd f s
  | .sub f => Sys2Proof.Machine.execSub f s
  | .mul f => Sys2Proof.Machine.execMul f s
  | .mulhs f => Sys2Proof.Machine.execMulhs f s
  | .mulhu f => Sys2Proof.Machine.execMulhu f s
  | .divs f => Sys2Proof.Machine.execDivs f s
  | .divu f => Sys2Proof.Machine.execDivu f s
  | .rems f => Sys2Proof.Machine.execRems f s
  | .remu f => Sys2Proof.Machine.execRemu f s
  | .and f => Sys2Proof.Machine.execAnd f s
  | .or f => Sys2Proof.Machine.execOr f s
  | .xor f => Sys2Proof.Machine.execXor f s
  | .andn f => Sys2Proof.Machine.execAndn f s
  | .shl f => Sys2Proof.Machine.execShl f s
  | .shrl f => Sys2Proof.Machine.execShrl f s
  | .shra f => Sys2Proof.Machine.execShra f s
  | .rotr f => Sys2Proof.Machine.execRotr f s
  | .min f => Sys2Proof.Machine.execMin f s
  | .max f => Sys2Proof.Machine.execMax f s
  | .minu f => Sys2Proof.Machine.execMinu f s
  | .maxu f => Sys2Proof.Machine.execMaxu f s
  | .slt f => Sys2Proof.Machine.execSlt f s
  | .sltu f => Sys2Proof.Machine.execSltu f s
  | .seq f => Sys2Proof.Machine.execSeq f s
  | .sel f => Sys2Proof.Machine.execSel f s
  | .clz f => Sys2Proof.Machine.execClz f s
  | .popc f => Sys2Proof.Machine.execPopc f s
  | .addi f => Sys2Proof.Machine.execAddi f s
  | .andi f => Sys2Proof.Machine.execAndi f s
  | .ori f => Sys2Proof.Machine.execOri f s
  | .xori f => Sys2Proof.Machine.execXori f s
  | .shli f => Sys2Proof.Machine.execShli f s
  | .shrli f => Sys2Proof.Machine.execShrli f s
  | .shrai f => Sys2Proof.Machine.execShrai f s
  | .slti f => Sys2Proof.Machine.execSlti f s
  | .muli f => Sys2Proof.Machine.execMuli f s
  | .lit f => Sys2Proof.Machine.execLit f s
  | .lith f => Sys2Proof.Machine.execLith f s
  | .ldb f => Sys2Proof.Machine.execLdb f s
  | .ldh f => Sys2Proof.Machine.execLdh f s
  | .ldw f => Sys2Proof.Machine.execLdw f s
  | .ldd f => Sys2Proof.Machine.execLdd f s
  | .stb f => Sys2Proof.Machine.execStb f s
  | .sth f => Sys2Proof.Machine.execSth f s
  | .stw f => Sys2Proof.Machine.execStw f s
  | .std f => Sys2Proof.Machine.execStd f s
  | .br f => Sys2Proof.Machine.execBr f s
  | .beq f => Sys2Proof.Machine.execBeq f s
  | .bne f => Sys2Proof.Machine.execBne f s
  | .blt f => Sys2Proof.Machine.execBlt f s
  | .bge f => Sys2Proof.Machine.execBge f s
  | .bltu f => Sys2Proof.Machine.execBltu f s
  | .bgeu f => Sys2Proof.Machine.execBgeu f s
  | .call f => Sys2Proof.Machine.execCall f s
  | .ret f => Sys2Proof.Machine.execRet f s
  | .jr f => Sys2Proof.Machine.execJr f s
  | .loop f => Sys2Proof.Machine.execLoop f s
  | .loopl f => Sys2Proof.Machine.execLoopl f s
  | .loopb f => Sys2Proof.Machine.execLoopb f s
  | .itset f => Sys2Proof.Machine.execItset f s
  | .itrev f => Sys2Proof.Machine.execItrev f s
  | .skset f => Sys2Proof.Machine.execSkset f s
  | .itrd f => Sys2Proof.Machine.execItrd f s
  | .fmtset f => Sys2Proof.Machine.execFmtset f s
  | .tshape f => Sys2Proof.Machine.execTshape f s
  | .sink f => Sys2Proof.Machine.execSink f s
  | .cshape f => Sys2Proof.Machine.execCshape f s
  | .trans f => Sys2Proof.Machine.execTrans f s
  | .hinv f => Sys2Proof.Machine.execHinv f s
  | .hget f => Sys2Proof.Machine.execHget f s
  | .waitg f => Sys2Proof.Machine.execWaitg f s
  | .arm f => Sys2Proof.Machine.execArm f s
  | .genrd f => Sys2Proof.Machine.execGenrd f s
  | .acqb f => Sys2Proof.Machine.execAcqb f s
  | .relb f => Sys2Proof.Machine.execRelb f s
  | .endDie f => Sys2Proof.Machine.execEndDie f s
  | .align f => Sys2Proof.Machine.execAlign f s
  | .coll f => Sys2Proof.Machine.execColl f s
  | .amode f => Sys2Proof.Machine.execAmode f s
  | .reverse f => Sys2Proof.Machine.execReverse f s
  | .adjointBundleIssue p d => Sys2Proof.Machine.execAdjointBundleIssue p d s
  | .dregset f => Sys2Proof.Machine.execDregset f s
  | .logmark f => Sys2Proof.Machine.execLogmark f s
  | .trap f => Sys2Proof.Machine.execTrap f s
  | .tret f => Sys2Proof.Machine.execTret f s
  | .cfgr f => Sys2Proof.Machine.execCfgr f s
  | .cfgw f => Sys2Proof.Machine.execCfgw f s
  | .cfgwXflags f => Sys2Proof.Machine.execCfgwXflags f s
  | .cfgwNf f => Sys2Proof.Machine.execCfgwNf f s
  | .cfgwFmt f => Sys2Proof.Machine.execCfgwFmt f s
  | .cfgwTapebase f => Sys2Proof.Machine.execCfgwTapebase f s
  | .cfgwLogbase f => Sys2Proof.Machine.execCfgwLogbase f s
  | .brk f => Sys2Proof.Machine.execBrk f s
  | .enrd f => Sys2Proof.Machine.execEnrd f s
  | .vnop f => Sys2Proof.Machine.execVnop f s
  | .vadd f => Sys2Proof.Machine.execVadd f s
  | .vsub f => Sys2Proof.Machine.execVsub f s
  | .vmul f => Sys2Proof.Machine.execVmul f s
  | .vfma f => Sys2Proof.Machine.execVfma f s
  | .vmin f => Sys2Proof.Machine.execVmin f s
  | .vmax f => Sys2Proof.Machine.execVmax f s
  | .vabs f => Sys2Proof.Machine.execVabs f s
  | .vneg f => Sys2Proof.Machine.execVneg f s
  | .vadds f => Sys2Proof.Machine.execVadds f s
  | .vsubs f => Sys2Proof.Machine.execVsubs f s
  | .vmulh f => Sys2Proof.Machine.execVmulh f s
  | .vshl f => Sys2Proof.Machine.execVshl f s
  | .vshr f => Sys2Proof.Machine.execVshr f s
  | .vand f => Sys2Proof.Machine.execVand f s
  | .vor f => Sys2Proof.Machine.execVor f s
  | .vxor f => Sys2Proof.Machine.execVxor f s
  | .vnot f => Sys2Proof.Machine.execVnot f s
  | .vcmp f => Sys2Proof.Machine.execVcmp f s
  | .vsel f => Sys2Proof.Machine.execVsel f s
  | .vround f => Sys2Proof.Machine.execVround f s
  | .vclass f => Sys2Proof.Machine.execVclass f s
  | .vexp f => Sys2Proof.Machine.execVexp f s
  | .vlog f => Sys2Proof.Machine.execVlog f s
  | .vrcp f => Sys2Proof.Machine.execVrcp f s
  | .vrsq f => Sys2Proof.Machine.execVrsq f s
  | .vsqrt f => Sys2Proof.Machine.execVsqrt f s
  | .vtanh f => Sys2Proof.Machine.execVtanh f s
  | .vsig f => Sys2Proof.Machine.execVsig f s
  | .vrelu f => Sys2Proof.Machine.execVrelu f s
  | .vcvt f => Sys2Proof.Machine.execVcvt f s
  | .vpack f => Sys2Proof.Machine.execVpack f s
  | .vunpk f => Sys2Proof.Machine.execVunpk f s
  | .vmov f => Sys2Proof.Machine.execVmov f s
  | .vsplat f => Sys2Proof.Machine.execVsplat f s
  | .vrot f => Sys2Proof.Machine.execVrot f s
  | .kop f => Sys2Proof.Machine.execKop f s
  | .vscan f => Sys2Proof.Machine.execVscan f s
  | .vred f => Sys2Proof.Machine.execVred f s
  | .vcompact f => Sys2Proof.Machine.execVcompact f s
  | .vcount f => Sys2Proof.Machine.execVcount f s
  | .vroute f => Sys2Proof.Machine.execVroute f s
  | .gadd f => Sys2Proof.Machine.execGadd f s
  | .gsub f => Sys2Proof.Machine.execGsub f s
  | .gmul f => Sys2Proof.Machine.execGmul f s
  | .gscl f => Sys2Proof.Machine.execGscl f s
  | .gofs f => Sys2Proof.Machine.execGofs f s
  | .grelu f => Sys2Proof.Machine.execGrelu f s
  | .gexp f => Sys2Proof.Machine.execGexp f s
  | .gsig f => Sys2Proof.Machine.execGsig f s
  | .gsqr f => Sys2Proof.Machine.execGsqr f s
  | .gcol f => Sys2Proof.Machine.execGcol f s
  | .gmake f => Sys2Proof.Machine.execGmake f s
  | .mnop f => Sys2Proof.Machine.execMnop f s
  | .mfill f => Sys2Proof.Machine.execMfill f s
  | .mdrn f => Sys2Proof.Machine.execMdrn f s
  | .mldb f => Sys2Proof.Machine.execMldb f s
  | .mldmd f => Sys2Proof.Machine.execMldmd f s
  | .mma f => Sys2Proof.Machine.execMma f s
  | .mmaz f => Sys2Proof.Machine.execMmaz f s
  | .mmas f => Sys2Proof.Machine.execMmas f s
  | .mmap f => Sys2Proof.Machine.execMmap f s
  | .mmg f => Sys2Proof.Machine.execMmg f s
  | .mmg2 f => Sys2Proof.Machine.execMmg2 f s
  | .mout f => Sys2Proof.Machine.execMout f s
  | .mbyp f => Sys2Proof.Machine.execMbyp f s
  | .mzero f => Sys2Proof.Machine.execMzero f s
  | .cnop f => Sys2Proof.Machine.execCnop f s
  | .ldr f => Sys2Proof.Machine.execLdr f s
  | .str f => Sys2Proof.Machine.execStr f s
  | .rmw f => Sys2Proof.Machine.execRmw f s
  | .fill f => Sys2Proof.Machine.execFill f s
  | .fillm f => Sys2Proof.Machine.execFillm f s
  | .spill f => Sys2Proof.Machine.execSpill f s
  | .fillx f => Sys2Proof.Machine.execFillx f s
  | .hatom f => Sys2Proof.Machine.execHatom f s
  | .xsend f => Sys2Proof.Machine.execXsend f s
  | .xrecv f => Sys2Proof.Machine.execXrecv f s
  | .recvadd f => Sys2Proof.Machine.execRecvadd f s
  | .trapTaken cid => Sys2Proof.Machine.execTrapTaken cid s
  | .walkComplete cid die => Sys2Proof.Machine.execWalkComplete cid die s
  | .icacheFillComplete cid die => Sys2Proof.Machine.execIcacheFillComplete cid die s
  | .fillLateClear cid => Sys2Proof.Machine.execFillLateClear cid s
  | .alignRelease cid die => Sys2Proof.Machine.execAlignRelease cid die s
  | .syncArrival r b err vref => Sys2Proof.Machine.execSyncArrival r b err vref s
  | .mailboxWrite part va bytes => Sys2Proof.Machine.execMailboxWrite part va bytes s
  | .mailboxRead part va n => Sys2Proof.Machine.execMailboxRead part va n s
  | .syncTargetWrite r v => Sys2Proof.Machine.execSyncTargetWrite r v s
  | .syncCountWrite r v => Sys2Proof.Machine.execSyncCountWrite r v s
  | .syncStatusWrite r v => Sys2Proof.Machine.execSyncStatusWrite r v s
  | .tailWrite p q v => Sys2Proof.Machine.execTailWrite p q v s
  | .queueSuspend p q => Sys2Proof.Machine.execQueueSuspend p q s
  | .queueResume p q => Sys2Proof.Machine.execQueueResume p q s
  | .queueClear p q => Sys2Proof.Machine.execQueueClear p q s
  | .faultRespRetry p seq => Sys2Proof.Machine.execFaultRespRetry p seq s
  | .faultRespTerminate p seq => Sys2Proof.Machine.execFaultRespTerminate p seq s
  | .queryPartition part tag => Sys2Proof.Machine.execQueryPartition part tag s
  | .shootdown va len sync tag => Sys2Proof.Machine.execShootdown va len sync tag s
  | .shootdownApply cid id => Sys2Proof.Machine.execShootdownApply cid id s
  | .clearPoisonMark part va tag => Sys2Proof.Machine.execClearPoisonMark part va tag s
  | .loadLinkKey peer key tag => Sys2Proof.Machine.execLoadLinkKey peer key tag s
  | .eraseLinkKey peer tag => Sys2Proof.Machine.execEraseLinkKey peer tag s
  | .setTrace part kinds lo hi tag => Sys2Proof.Machine.execSetTrace part kinds lo hi tag s
  | .setProfileWindow part base g tag => Sys2Proof.Machine.execSetProfileWindow part base g tag s
  | .recordReplay part on tag => Sys2Proof.Machine.execRecordReplay part on tag s
  | .dispatch p q adm => Sys2Proof.Machine.execDispatch p q adm s
  | .agingStep p q => Sys2Proof.Machine.execAgingStep p q s
  | .quantumExpiry p => Sys2Proof.Machine.execQuantumExpiry p s
  | .prologueEntryIssue cid n ch => Sys2Proof.Machine.execPrologueEntryIssue cid n ch s
  | .kernelStart cid => Sys2Proof.Machine.execKernelStart cid s
  | .preemptRequest p force plan => Sys2Proof.Machine.execPreemptRequest p force plan s
  | .storageClaim cid moves => Sys2Proof.Machine.execStorageClaim cid moves s
  | .restoreComplete cid => Sys2Proof.Machine.execRestoreComplete cid s
  | .contextTerminate cid => Sys2Proof.Machine.execContextTerminate cid s
  | .contextFree cid => Sys2Proof.Machine.execContextFree cid s
  | .dieCounterZero cid die => Sys2Proof.Machine.execDieCounterZero cid die s
  | .canopyDecrement cid die => Sys2Proof.Machine.execCanopyDecrement cid die s
  | .kernelRetire cid => Sys2Proof.Machine.execKernelRetire cid s
  | .energyRefill p => Sys2Proof.Machine.execEnergyRefill p s
  | .poisonMark line => Sys2Proof.Machine.execPoisonMark line s
  | .migrationStart p va frame => Sys2Proof.Machine.execMigrationStart p va frame s
  | .migrationComplete p va abort badLines => Sys2Proof.Machine.execMigrationComplete p va abort badLines s
  | .debugStop p => Sys2Proof.Machine.execDebugStop p s
  | .debugResume p => Sys2Proof.Machine.execDebugResume p s
  | .debugStep p n => Sys2Proof.Machine.execDebugStep p n s
  | .debugStepExpiry cid => Sys2Proof.Machine.execDebugStepExpiry cid s
  | .debugNonceRequest => Sys2Proof.Machine.execDebugNonceRequest s
  | .debugPortClose => Sys2Proof.Machine.execDebugPortClose s
  | .replayInputApply cid => Sys2Proof.Machine.execReplayInputApply cid s
  | .rotorSlotStart port => Sys2Proof.Machine.execRotorSlotStart port s
  | .packetDelivery src => Sys2Proof.Machine.execPacketDelivery src s
  | .retransmitTimeout dst seq => Sys2Proof.Machine.execRetransmitTimeout dst seq s
  | .collHandoff cid die => Sys2Proof.Machine.execCollHandoff cid die s
  | .collLocalWrite id => Sys2Proof.Machine.execCollLocalWrite id s
  | .collFail id => Sys2Proof.Machine.execCollFail id s
  | .packetSend port dst => Sys2Proof.Machine.execPacketSend port dst s
  | .prologueEntryLanding cid n => Sys2Proof.Machine.execPrologueEntryLanding cid n s
  | .spareMap die row phys out => Sys2Proof.Machine.execSpareMap die row phys out s
  | .marginReplan die age mhz => Sys2Proof.Machine.execMarginReplan die age mhz s
  | .powerFail => Sys2Proof.Machine.execPowerFail s
  | .powerReturn valid => Sys2Proof.Machine.execPowerReturn valid s
  | .deviceReset policy => Sys2Proof.Machine.execDeviceReset policy s
  | .vintageAdopt v => Sys2Proof.Machine.execVintageAdopt v s
  | .wacSyncExchange ppm => Sys2Proof.Machine.execWacSyncExchange ppm s
  | .identityFlitReceive port f => Sys2Proof.Machine.execIdentityFlitReceive port f s
  | .debugStateWrite p t v => Sys2Proof.Machine.execDebugStateWrite p t v s
  | .bankScrub cid slice bank line bad => Sys2Proof.Machine.execBankScrub cid slice bank line bad s
  | .attestationReport nonce => Sys2Proof.Machine.execAttestationReport nonce s
  | .debugUnlock token brkStops => Sys2Proof.Machine.execDebugUnlock token brkStops s
  | .portEnable port => Sys2Proof.Machine.execPortEnable port s
  | .portTrained port ok => Sys2Proof.Machine.execPortTrained port ok s
  | .portDisable port => Sys2Proof.Machine.execPortDisable port s
  | .portQuarantineClear port => Sys2Proof.Machine.execPortQuarantineClear port s
  | .portScheduleLoad port sch => Sys2Proof.Machine.execPortScheduleLoad port sch s
  | .partitionChange p n mk => Sys2Proof.Machine.execPartitionChange p n mk s
  | .packetReceive port k => Sys2Proof.Machine.execPacketReceive port k s
  | .ackReceive port k => Sys2Proof.Machine.execAckReceive port k s
  | .refusalReceive port k => Sys2Proof.Machine.execRefusalReceive port k s

end Sys2Proof.Machine
end

