-- ==== Sys2Proof/Machine/Sched.lean ====
section
/-!
DEFINITION. What runs next: the head of the agenda; else the first outside event that is due; else what a partition owes its next
cycle or its hold; else wall time passes.
-/
namespace Sys2Proof.Machine

/-! ### Outside events -/

/-- Whether an outside event is due: at any settled boundary, or when its partition stands at its ACC; none while the package is without
power (R388). -/
def State.due (s : State) (e : Pending) : Bool :=
  s.hub.powered && match e.acc with
  | none => true
  | some a =>
    match (s.part e.p).running with
    | none => false
    | some cid => (s.core cid).acc.toNat == a && !(s.core cid).handler

/-- Removes the first due event from a list. -/
def State.takeDue (s : State) : List Pending → Option (Instr × List Pending)
  | [] => none
  | e :: es => if s.due e then some (e.instr, es) else (s.takeDue es).map fun r => (r.1, e :: r.2)

/-! ### Partitions -/

/-- The issue that a die owes the cycle about to run (R20, R350). -/
def State.issueTask (s : State) (cid p d : Nat) : Option Task :=
  let c := s.core cid
  let ctx : Ctx := { cid := cid, p := p, d := d }
  if c.dueAdjoint d then some ⟨0, ctx, .adjointBundleIssue p d⟩
  else (c.dueBundle d).map fun a =>
    if (Header.ofWord (s.fetchWord cid a)).p = 0 then ⟨0, ctx, .delayBundle p d⟩ else ⟨0, ctx, .bundleIssue p d⟩

/-- One cycle of a running partition: every die issues, then the cycle's columns and its crossing (R18, R20). -/
def State.cycleTasks (s : State) (cid p : Nat) : List Task := (s.diesOf p).filterMap (s.issueTask cid p) ++ [phase cid p 0]

/-- The service that a hold waits for, when it can be given now (R26). -/
def State.service (s : State) (cid p : Nat) (h : Hold) : Option Instr :=
  match h.on with
  | .walk _ _ _ => some (.walkComplete cid h.die)
  | .imiss _ => some (.icacheFillComplete cid h.die)
  | .late _ => if (s.homeFull cid).isSome then none else some (.fillLateClear cid)
  | .align target _ => if target ≤ s.hub.wac.toNat then some (.alignRelease cid h.die) else none
  | .energy _ => some (.energyRefill p)
  | .bank n => if (s.claimSet cid n []).ownsSet cid n then some (.storageClaim cid []) else none
  | _ => none

/-- What the steward does for a launch that waits to run: its prologue, its start, or its restore (R251, R269, R271). -/
def State.bringOn (s : State) (p cid : Nat) : Option Instr :=
  let c := s.ctx cid
  let free := (s.part p).running.isNone
  if c.state ≠ .loading then (if free && c.state == .restoring then some (.restoreComplete cid) else none)
  else
    let ready (n : Nat) : Option Instr :=
      match c.prologue[n]? with
      | none => none
      | some e =>
        if e.stage = 1 then
          (match execPrologueEntryLanding cid n s with | .next _ => some (.prologueEntryLanding cid n) | _ => none)
        else if e.stage = 0 then
          (List.range 20).findSome? fun ch =>
            match execPrologueEntryIssue cid n ch s with | .next _ => some (.prologueEntryIssue cid n ch) | _ => none
        else none
    match (List.range c.prologue.length).findSome? ready with
    | some i => some i
    | none => match execKernelStart cid s with | .next _ => some (.kernelStart cid) | _ => none

/-- What the steward chooses for a launch that it admits of itself (R262, R268): an empty context, its number as its address space, the
partition's page table, a free save area (log entry 94). -/
def State.stewardAdmit (s : State) (p : Nat) : Admit :=
  let cid := (s.ctxs.map Prod.fst).foldl max 0 + 1
  ⟨cid, cid, (s.part p).make.ptbase, Config.saveBase s.free, []⟩

/-- What the dispatcher does of itself in a partition (R262, R263): a queue ages, a quantum expires, a launch is pre-empted; the next is
selected when the partition is free, or for the hand-over while a launch runs that no ready queue outranks, where whether it is already
time for it is free (log entry 94). -/
def State.dispatcher (s : State) (p : Nat) : Option Instr :=
  let pt := s.part p
  let select (q : Nat) : Instr := .dispatch p q (s.stewardAdmit p)
  match s.agingFirst p with
  | some q => some (.agingStep p q)
  | none =>
    match pt.running with
    | some cid =>
      if s.quantumDue cid then some (.quantumExpiry p)
      else if s.mustPreempt p && !(s.ctx cid).debugged then some (.preemptRequest p false [])
      else if pt.next.isSome then none
      else match s.pickQueue p with
        | some q => if !s.outranked p cid && Config.handOver s.free then some (select q) else none
        | none => none
    | none => if pt.next.isSome then none else (s.pickQueue p).map select

/-- What a partition does next, if anything: its steps, and the context whose cycle they begin. -/
def State.work (s : State) (p : Nat) : Option (Option Nat × List Task) :=
  let pt := s.part p
  let one (i : Instr) : Option (Option Nat × List Task) := some (none, [⟨0, {}, i⟩])
  let next : Option (Option Nat × List Task) := match pt.next with
    | none => none
    | some cid => (s.bringOn p cid).bind one
  match s.dispatcher p with
  | some i => one i
  | none =>
  match pt.running with
  | none => next
  | some cid =>
    let c := s.ctx cid
    if s.replayDue cid then one (.replayInputApply cid)
    else if c.state = .running then
      if s.retires cid then one (.kernelRetire cid)
      else if c.canopy = 0 then next
      else if (s.core cid).forming.any fun r => (s.formHold cid r).isSome then some (none, [phase cid p 3])
      else some (some cid, s.cycleTasks cid p)
    else match c.holds.findSome? (s.service cid p) with
      | some i => one i
      | none => next

/-- The work of the partitions and of the link engine that can go on, while the package has power. -/
def State.works (s : State) : List (Option Nat × List Task) :=
  if s.hub.powered then (s.linkDue.map fun i => (none, [⟨0, {}, i⟩])).toList ++ (s.parts.map Prod.fst).filterMap s.work else []

/-- Which of several partitions goes on: free, and wall time passes meanwhile (R15, R16). At the start of a cycle the results of its
last hold form (R440). -/
def State.pickWork (s : State) (l : List (Option Nat × List Task)) : List Task × State :=
  let (w, s1) := match l with
    | [w] => (w, s)
    | l => let (n, s1) := s.fresh; (l.getD (Config.interleave n % l.length) (none, []), s1)
  match w with
  | (some cid, ts) => (ts, s1.passTime.formResults cid)
  | (none, ts) => (ts, s1.passTime)

/-- The step that runs next, with the state it runs in. A slice step saves what its log record keeps first (R343). -/
def State.choose (s : State) : Option (Instr × State) :=
  match s.agenda with
  | t :: ts => some (t.instr, ({ s with agenda := ts, cur := t.ctx } : State).saveOperands t.instr)
  | [] =>
    match s.takeDue s.inputs with
    | some (i, rest) => some (i, { s with inputs := rest, cur := {} })
    | none =>
      match s.pickWork s.works with
      | (t :: ts, s1) => some (t.instr, { s1 with agenda := ts, cur := t.ctx })
      | ([], _) => none

/-- Wall time passes while nothing else can happen (R16, R25). -/
def State.idle (s : State) : State := s.passTime

end Sys2Proof.Machine
end

