-- ==== Sys2Proof/Machine/Step.lean ====
section
/-!
DEFINITION. One step of the whole machine, and the state in which a given instruction word is the next to run.
-/
namespace Sys2Proof.Machine

/-- One step: the instruction that runs next, or the passing of wall time. -/
def step (s : State) : Host.Outcome State Fault Refusal :=
  match s.choose with
  | some (i, s') => exec i s'
  | none => .next s.idle

/-- `s` with an instruction word placed where `step` takes its next instruction: the head of the agenda, which is where
BUNDLE_ISSUE puts the syllables it decodes (log entry 13). -/
def State.withFetchWord (s : State) (nbits w : Nat) : State :=
  match decodeTableWord nbits w with
  | some i => { s with agenda := ⟨0, s.cur, i⟩ :: s.agenda }
  | none => s

end Sys2Proof.Machine
end

