-- ==== Sys2Proof/Safety.lean ====
section
/-!
DEFINITION. The terms in which claims are made: the safe states, what "the instruction completes" means, and the frames: what a
step may change, and that it changes nothing else.
-/
namespace Sys2Proof.Machine

/-- HBM is in canonical form: addresses strictly rising, no entry equal to what an unlisted address reads as. -/
def State.Safe (s : State) : Prop := s.hbmWf = true

/-- The instruction completes: `exec` answers a next state. -/
def Completes (i : Instr) (s : State) : Prop := ∃ t, exec i s = .next t

/-- The instruction completes, and of the next state `P` holds. -/
def Runs (i : Instr) (s : State) (P : State → Prop) : Prop := ∃ t, exec i s = .next t ∧ P t

/-- Nothing outside the timed core of the running context changes: no byte of HBM, no other context, no partition, no hub, link or
die hardware, no event that waits. -/
structure State.CoreOnly (s t : State) : Prop where
  hbm : ∀ a, t.hbmByte a = s.hbmByte a
  others : ∀ cid, cid ≠ s.cur.cid → t.core cid = s.core cid
  ctxs : t.ctxs = s.ctxs
  parts : t.parts = s.parts
  hw : t.hw = s.hw
  hub : t.hub = s.hub
  link : t.link = s.link
  inputs : t.inputs = s.inputs
  agenda : t.agenda = s.agenda
  free : t.free = s.free

/-- A write that the running step owes, with the cycle at whose end it performs. -/
def Ctx.owes (c : Ctx) (e : Nat × Dest) (o : Owed) : Prop :=
  o.due = e.1 ∧ o.dest = e.2 ∧ o.T = c.issueT ∧ o.die = c.d ∧ o.slot = c.slot ∧ o.s = c.s ∧ o.hnd = c.fl.hnd ∧ o.issued = c.fl.T

/-- Traps that the checking scoreboard alone adds (R32): cause 0x19, and none where the bundle is not covered. -/
def Ctx.Unsettled (c : Ctx) (l : List Trap) : Prop := (∀ x ∈ l, x.code = 0x19) ∧ (c.fl.chk = false → l = [])

/-- The timed core after an S syllable that traps on nothing but the scoreboard: it owes exactly the writes of `l`, in order, and every
register, memory and control of the core is as it was. Its access records and the xs value of its own bundle may change. -/
def State.OwesHere (s t : State) (l : List (Nat × Dest)) : Prop :=
  ∃ os tr ac fl n, s.cur.Unsettled tr ∧ List.Forall₂ s.cur.owes l os
    ∧ fl.map (fun f => { f with xs := 0 }) = s.here.flights.map (fun f => { f with xs := 0 })
    ∧ t.here = { s.here with owed := s.here.owed ++ os, traps := s.here.traps ++ tr, access := s.here.access ++ ac
                             flights := fl, nextId := n }

/-- `OwesHere`, and nothing else of the machine changes. -/
def State.Owes (s t : State) (l : List (Nat × Dest)) : Prop := s.CoreOnly t ∧ s.OwesHere t l

/-- Whether a bundle in the rows is the running one. -/
def State.isMine (s : State) (f : Flight) : Prop := f.die = s.cur.d ∧ f.T = s.cur.fl.T ∧ f.hnd = s.cur.fl.hnd

/-- The write that a value for xd = `n` owes (R119): one to x0 is discarded. -/
def xdWrite (n : BitVec 5) (v : DWord) (due : Nat) : List (Nat × Dest) := if n = 0 then [] else [(due, .x n.toNat v)]

/-- xs of the running bundle is `v` (R101). -/
def State.XsIs (s t : State) (v : DWord) : Prop := ∀ f ∈ t.here.flights, s.isMine f → f.xs = v

/-- An S syllable gives `v` for xd = `n` (R119, R101): xs of its bundle takes it, and the register is owed it at the end of cycle
`due`; a write of x0 is discarded. -/
def State.Gives (s t : State) (n : BitVec 5) (v : DWord) (due : Nat) : Prop := s.Owes t (xdWrite n v due) ∧ s.XsIs t v

/-- An S syllable completes and gives xd = `n` a value of which `P` holds, `lat` cycles after T. -/
def State.Computes (s : State) (i : Instr) (n : BitVec 5) (lat : Nat) (P : DWord → Prop) : Prop :=
  ∃ v, P v ∧ Runs i s fun t => s.Gives t n v (s.cur.fl.T + lat - 1)

/-- The timed core is `s`'s with the running die changed by `f`, and nothing else but records of the checking scoreboard. -/
def State.DieHere (s t : State) (f : Die → Die) : Prop :=
  ∃ tr ac, s.cur.Unsettled tr ∧ t.here = { s.here.onDie s.cur.d f with traps := s.here.traps ++ tr, access := s.here.access ++ ac }

/-- `DieHere`, and nothing else of the machine changes. -/
def State.DieBecomes (s t : State) (f : Die → Die) : Prop := s.CoreOnly t ∧ s.DieHere t f

/-- A die whose next bundle stands at an address: the handler's side while it runs (R364). -/
def Die.goTo (hnd : Bool) (a : Nat) (d : Die) : Die := if hnd then { d with hpc := a } else { d with pc := a }

/-- A hold of a kind is asked for, to begin at the boundary before cycle `cyc`, and nothing else happens. -/
def State.Asks (s t : State) (cyc kind : Nat) (what : HoldOn) : Prop :=
  ∃ tr ac, s.cur.Unsettled tr ∧
    t.here = { s.here with traps := s.here.traps ++ tr, access := s.here.access ++ ac
                           reqs := s.here.reqs ++ [⟨cyc, s.cur.fl.hnd, ⟨kind, s.cur.d, what⟩⟩] }

/-- The sequencer has recorded a trap of the running bundle with its code and value. -/
def State.Trapped (s t : State) (code val : Nat) : Prop :=
  ∃ tr, t.here.traps = s.here.traps ++ tr ∧
    ∃ x ∈ tr, x.code = code ∧ x.val = val ∧ x.T = s.cur.fl.T ∧ x.die = s.cur.d ∧ x.slot = s.cur.slot ∧ x.slice = none

/-- The bundle is the last of the body of a live level (R136). -/
def State.EndsBody (s : State) : Prop := ∃ l < 8, (s.tab.level l).live = true ∧ (s.tab.level l).stop = s.cur.fl.addr

/-- A word of HBM. -/
def State.hbmWord (s : State) (pa : Nat) : Word := BitVec.ofNat 32 (s.hbmRead pa 4)
/-- Byte `k` of a number. -/
def byteOf (v k : Nat) : Nat := v / 2 ^ (8 * k) % 256

/-- The registers of a slice that no V, M or C syllable writes in its own step: they change only when an owed write performs. -/
def Slice.registers (sl : Slice) : Slice :=
  { sl with q := [], int := 0, tp := 0, pair := [], bl := {}, mmg2 := [], arr := [] }

/-- What a slice syllable may change in its own step: its slice's queues lose what it pops, its INT tags, its tape pointer and its
latches change, and writes are added to those owed, each one that `writes` allows with the cycle at whose end it performs. Every
register of every slice and die stands, and so does every byte of HBM and of SMEM. XFLAGS and NF events may be added. `near` names the
slices whose queues and latches may change. -/
structure State.SliceFrame (s t : State) (near : List Nat) (writes : Nat → Dest → Prop) : Prop where
  hbm : ∀ a, t.hbmByte a = s.hbmByte a
  others : ∀ cid, cid ≠ s.cur.cid → t.core cid = s.core cid
  ctxs : t.ctxs = s.ctxs
  parts : t.parts = s.parts
  hw : t.hw = s.hw
  link : t.link = s.link
  inputs : t.inputs = s.inputs
  agenda : t.agenda = s.agenda
  hub : { t.hub with nextId := 0 } = { s.hub with nextId := 0 }
  slices : ∀ n, n ∉ near → t.here.slice n = s.here.slice n
  registers : ∀ n, (t.here.slice n).registers = (s.here.slice n).registers
  pops : ∀ n k, ∃ m, SMap.get [] (t.here.slice n).q k = (SMap.get [] (s.here.slice n).q k).drop m
  dies : ∀ d, { t.here.die d with evts := [] } = { s.here.die d with evts := [] }
  otherDies : ∀ d, d ≠ s.cur.d → t.here.die d = s.here.die d
  owed : ∃ os, t.here.owed = s.here.owed ++ os ∧
    ∀ o ∈ os, writes o.due o.dest ∧ o.T = s.cur.issueT ∧ o.issued = s.cur.fl.T ∧ o.hnd = s.cur.fl.hnd ∧ o.die = s.cur.d ∧ o.s = s.cur.s
  traps : ∃ tr, t.here.traps = s.here.traps ++ tr
  tasks : ∃ ts, t.here.tasks = s.here.tasks ++ ts
  acc : t.here.acc = s.here.acc
  handler : t.here.handler = s.here.handler
  hops : t.here.hops = s.here.hops
  sinks : t.here.sinks = s.here.sinks
  owned : t.here.owned = s.here.owned
  planes : t.here.planes = s.here.planes
  acquired : t.here.acquired = s.here.acquired
  ereserve : t.here.ereserve = s.here.ereserve

/-! ### Reset, fetching and decoding -/

/-- What a step prepares before a slice syllable that records runs: it owes the operands that the record saves (R343, R346), and changes
nothing else of the machine but what is owed. -/
def State.Saves (s t : State) : Prop :=
  s.CoreOnly t ∧ t.cur = s.cur ∧ ∃ os n, t.here = { s.here with owed := s.here.owed ++ os, nextId := n } ∧
    ∀ o ∈ os, ∃ pa bs, o.dest = .log pa bs

/-- The word of a bundle that stands in slot n at an address (R85): the header's present slots stand behind it in ascending order. -/
def slotWord (s : State) (cid a n : Nat) : DWord :=
  let h := (s.fetchWord cid a).toNat
  s.fetchWord cid (a + 8 * (1 + (List.range n).countP fun k => h / 2 ^ (63 - k) % 2 = 1))

/-- The machine as the sequencer of a die issues a bundle of a group on it. -/
def State.onRow (s : State) (cid p d grp : Nat) : State :=
  { s with cur := { cid := cid, p := p, d := d, fl := { s.cur.fl with tab := ((s.core cid).die d).tab, grp := grp } } }

/-- A source word of a FILL-like record lies in an HBM region (R352): a FILLX's in some member slice. -/
def State.fromRegion (s : State) (x : AdjRec) (slices : List Nat) : Prop :=
  ∃ n ∈ slices, ∃ w ∈ s.sourceWords x n, (s.tab.hbmRegion w.2).isSome = true

/-- The table of R352: D(rec) of a record is n. -/
def State.turn (s : State) (x : AdjRec) (n : Nat) : Prop :=
  let copy := fun (ranks : Nat) (l : List Nat) => (s.fromRegion x l → n = ranks + 8 + 400) ∧ (¬s.fromRegion x l → n = ranks + 8)
  match x.i with
  | .gadd _ | .gsub _ | .gmul _ | .gscl _ | .gofs _ | .grelu _ | .gexp _ | .gsig _ | .gsqr _ | .gcol _ | .gmake _ => n = 36
  | .mfill f | .mdrn f | .mout f | .mbyp f => n = 2 * (f.rows.toNat + 1) + 8
  | .mma f | .mmaz f | .mmas f | .mmap f | .mmg f | .mmg2 f => n = 3 * (f.rows.toNat + 1) + 80
  | .mldb _ => n = 70
  | .mzero _ => n = 4
  | .ldr _ | .str _ | .rmw _ | .hatom _ => n = 8
  | .fill f | .fillm f => copy ((s.tab.copyWords f + 15) / 16) [512 * s.cur.d]
  | .fillx _ => copy 1 (s.here.members s.cur.fl.grp s.cur.d)
  | .spill _ => n = 1
  | .xsend f | .xrecv f | .recvadd f => ∃ pl, (s.ctx s.cur.cid).plan? f.plan.toNat = some pl ∧ n = f.words.toNat + 1 + pl.latency + 8
  | i => 1 ∈ i.slots ∧ n = 16

/-! ### S: SMEM (R127) -/

/-- The loads of R127 with their sizes. -/
def loadForms (f : SI) : List (Nat × Instr) := [(1, .ldb f), (2, .ldh f), (4, .ldw f), (8, .ldd f)]

/-- The stores of R127 with their sizes. -/
def storeForms (f : SI) : List (Nat × Instr) := [(1, .stb f), (2, .sth f), (4, .stw f), (8, .std f)]

/-- A is a multiple of the size and below 0x4_0000 (R127). -/
def smemFits (a n : Nat) : Prop := a % n = 0 ∧ a < 0x40000

/-! ### S: the flow of bundles (R128 to R136) -/

/-- The branches of R128 with their conditions. -/
def branchForms (f : SB) (a b : DWord) : List (Instr × Prop) :=
  [(.br f, True), (.beq f, a.toNat = b.toNat), (.bne f, a.toNat ≠ b.toNat), (.blt f, a.toInt < b.toInt), (.bge f, a.toInt ≥ b.toInt),
   (.bltu f, a.toNat < b.toNat), (.bgeu f, a.toNat ≥ b.toNat)]

/-- Where an SB form goes: its bundle's address + 8 × off45 (R93). -/
def State.branchTarget (s : State) (f : SB) : Nat := (((s.cur.fl.addr : Int) + 8 * f.off.toInt) % 2 ^ 64).toNat

/-- Level L as a loop form starts it, as R131 lays it out (R132). -/
def State.started (s : State) (f : SL) (n bound : Nat) : LoopLevel :=
  { count := n, bound := bound, index := 0, start := s.cur.fl.addr + s.cur.fl.len, stop := s.cur.fl.addr + 8 * f.endOff.toNat
    dir := false, live := true, depth := ((List.range 8).filter fun l => (s.tab.level l).live).length }

/-- What starting level L does to the die (R132): the level, and the next bundle at START. -/
def State.starts (s : State) (f : SL) (n bound : Nat) (d : Die) : Die :=
  Die.goTo s.cur.fl.hnd ((s.cur.fl.addr + s.cur.fl.len) % 2 ^ 64)
    { d with
      tab := { d.tab with lc := SMap.set {} d.tab.lc f.level.toNat (s.started f n bound) } }

/-- The live passes that LOOPL reads: rp1 - rp0 of two words of SMEM, modulo 2^32 (R134). -/
def State.rowSpan (s : State) (a : Nat) : Nat := (((s.die.smemRead (a + 4) 4 : Int) - s.die.smemRead a 4) % 2 ^ 32).toNat

/-- Some live level is in a padded pass (R131, R135). -/
def State.InPaddedPass (s : State) : Prop :=
  ∃ l < 8, (s.tab.level l).live = true ∧ (s.tab.level l).bound ≠ 0 ∧ (s.tab.level l).index ≥ (s.tab.level l).count

/-! ### S: tables and the sink (R138 to R148) -/

/-- Whether bit `i` of an iterator is one that R69 defines: WRAP and the base, and four strides with their REV bits. -/
def itDefined (i : Nat) : Bool := decide (i < 13) || decide (16 ≤ i ∧ i < 112 ∧ (i - 16) % 24 < 19)

/-! ### S: control registers and the system forms (R149 to R154) -/

/-- The values of R81's registers with a number of their own, but the flags, as a bundle at T finds them: EALLOW once every die's bundle of
T is debited (R384). -/
def State.csrTable (s : State) : List (Nat × DWord) :=
  let d := s.die
  let pt := s.part s.cur.p
  [(0x000, s.here.acc), (0x002, dw (s.cur.p / pt.n + 256 * ((2 ^ pt.n - 1) * 2 ^ s.cur.p))), (0x003, dw (s.cur.d + s.hub.pkg.toNat * 2 ^ 32)),
   (0x004, dw (if d.inS then 1 else 0)), (0x010, s.tab.rmode.setWidth 64), (0x011, s.tab.flush.setWidth 64), (0x012, s.tab.cov.setWidth 64),
   (0x014, dw (if s.tab.check then 1 else 0)), (0x020, d.tcause), (0x021, d.tbundle), (0x022, d.tacc), (0x023, d.tval), (0x024, d.tslice),
   (0x025, d.tvec), (0x026, d.tstat), (0x027, d.tscratch), (0x030, s.tab.amode.setWidth 64), (0x031, d.logbase), (0x032, d.loglim),
   (0x033, d.logptr), (0x034, s.tab.tapeBase), (0x035, s.tab.tapeLim), (0x040, dw (pt.allow.toNat - s.cycleCost s.cur.cid)), (0x041, dw (pt.rate.toNat + pt.cap.toNat * 2 ^ 32)),
   (0x042, s.here.ereserve.setWidth 64)]
  ++ (List.range 8).map (fun n => (0x060 + n, SMap.get 0 s.tab.watch n))
  ++ (List.range 64).map fun n => (0x100 + n, (SMap.get (0 : BitVec 16) s.tab.fmt n).setWidth 64)

/-- The registers whose reading is a wall reading (R34), with their values. -/
def State.wallTable (s : State) : List (Nat × DWord) :=
  [(0x001, s.hub.wac), (0x050, (s.ctx s.cur.cid).holdr), (0x051, (s.ctx s.cur.cid).holdcnt)]

/-- The numbers that only S code may name (R81). -/
def csrOfS : List Nat := [0x20, 0x21, 0x22, 0x23, 0x24, 0x25, 0x26, 0x27, 0x60, 0x61, 0x62, 0x63, 0x64, 0x65, 0x66, 0x67]

/-- The read-only numbers (R81). -/
def csrFixed : List Nat := [0, 1, 2, 3, 4, 0x30, 0x40, 0x41, 0x50, 0x51]

/-- Every number that R81 lists. -/
def csrListed : List Nat :=
  csrOfS ++ csrFixed ++ [0x10, 0x11, 0x12, 0x13, 0x14, 0x15, 0x31, 0x32, 0x33, 0x34, 0x35, 0x42] ++ (List.range 64).map (0x100 + ·)

/-- A logged wall reading of a register by the running die at its ACC (R380): class 3, the register and the value as payload. -/
def State.Logged (s : State) (reg : Nat) (e : ReplayEntry) : Prop :=
  e ∈ (s.ctx s.cur.cid).replayLog ∧ e.cls = 3 ∧ e.acc = s.here.acc.toNat ∧ e.die = s.cur.d ∧ e.payload.take 8 = leBytes 8 reg

/-- A context neither records nor replays (R379, R380). -/
def Context.Plain (c : Context) : Prop := c.recording = false ∧ c.replaying = false

/-- A die traces no external input (R376, kind 8). -/
def State.Untraced (s : State) (d : Nat) : Prop := (s.dieHw d).trKinds.getLsbD 8 = false

/-- The CFGW rows but that of TAPEBASE (R150). -/
def cfgwForms (f : SC) : List Instr := [.cfgw f, .cfgwXflags f, .cfgwNf f, .cfgwFmt f, .cfgwLogbase f]

/-- The value of a CFGW: xa, or the immediate zero-extended when xa is x0 (R150). -/
def State.cfgwTakes (s : State) (f : SC) : DWord := if f.xa = 0 then dw f.imm.toNat else s.xreg f.xa

/-- The writes that a form owes on the kernel's count, one for each column (R339, R349). -/
def State.OwesColumns (s t : State) (l : List (Nat × Dest)) (w : Nat → TabWrite) : Prop :=
  ∃ os cols tr ac n, s.cur.Unsettled tr ∧ List.Forall₂ s.cur.owes l os
    ∧ cols.map (fun o : Owed => (o.due, o.hnd, o.T, o.die, o.dest)) = (List.range 128).map (fun c =>
        ((if s.cur.fl.hnd then s.here.acc.toNat + 1 else s.cur.fl.T + 2) + c, false, s.cur.fl.T, s.cur.d, .tab (w c)))
    ∧ t.here = { s.here with owed := s.here.owed ++ os ++ cols, traps := s.here.traps ++ tr, access := s.here.access ++ ac, nextId := n }

/-! ### S: sync words, bank sets, END, ALIGN, COLL (R272, R274, R285 to R291, R328, R333) -/

/-- d of R289: the generations that the word at an address has passed beyond a token, modulo 2^32. -/
def State.passed (s : State) (a token : Nat) : Nat := (((swGen (s.die.syncAt a) : Int) - token) % 2 ^ 32).toNat

/-- An address names a sync word of the die (R288). -/
def namesSync (a : Nat) : Prop := a % 16 = 0 ∧ 0x30000 ≤ a ∧ a < 0x40000

/-- The context owns every block and plane of bank-mask set n (R272). -/
def State.OwnsSet (s : State) (n : Nat) : Prop :=
  let set := (s.ctx s.cur.cid).set n
  (∀ e ∈ set.2, ∀ i, e.2.getLsbD i = true → (SMap.get (0 : BitVec 128) s.here.owned e.1).getLsbD i = true)
  ∧ ∀ i, set.1.getLsbD i = true → s.here.planes.getLsbD i = true

/-- What R328 asks of a COLL descriptor and of the die that posts it. -/
def State.CollLegal (s : State) (d : Nat) : Prop :=
  let g := s.group s.cur.cid (d % 256)
  let op := bitsOf d 8 3
  d % 256 ≠ 255 ∧ op ≤ 4 ∧ (op = 0 ∨ op = 2 → bitsOf d 11 2 ≠ 3) ∧ bitsOf d 13 3 = 0 ∧ bitsOf d 16 4 ∈ [0, 1, 2, 3, 6] ∧ bitsOf d 20 4 = 0
  ∧ 12 ≤ bitsOf d 32 5 ∧ bitsOf d 32 5 ≤ 20 ∧ bitsOf d 38 26 = 0 ∧ bitsOf d 64 64 % 64 = 0 ∧ bitsOf d 128 64 % 64 = 0
  ∧ bitsOf d 192 32 ≠ 0 ∧ bitsOf d 224 288 = 0 ∧ g.v = true ∧ g.dies.getLsbD s.cur.d = true

/-! ### S: handles and differentiable regions (R297 to R304, R334 to R350) -/

/-- The leaf that a die's data TLB or last level holds for an address (R295). -/
def State.cached (s : State) (va : Nat) : Option TlbEntry :=
  let asn := (s.ctx s.cur.cid).asn
  match tlbFind (s.dieHw s.cur.d).dtlb asn va with
  | some e => some e
  | none => tlbFind (s.dieHw s.cur.d).ltlb asn va

/-- No HATOM of the die is parked with a tape entry to write (R337). -/
def State.NoParkedTape (s : State) : Prop :=
  ∀ h ∈ s.here.hatoms, h.parked = true → h.ctx.d = s.cur.d → h.ctx.fl.tab.amode = 1 → ∀ e ∈ h.fetch, e.2.2 = none

/-! ### Exact numbers (R38 to R66) -/

/-- The rational value of a finite number. -/
def numRat : Num → ℚ
  | .fin n m e => (if n then -1 else 1) * (m : ℚ) * (2 : ℚ) ^ e
  | _ => 0

/-- A number that is neither NaN nor an infinity. -/
def numFinite (x : Num) : Prop := ∃ n m e, x = .fin n m e

/-- The integer that a mode makes of a rational: 1 to nearest, ties to even, 2 toward zero, 3 up, 4 down (R43). -/
def roundQ (rm : Nat) (x : ℚ) : Int :=
  if rm = 1 then (if x - ⌊x⌋ < 1 / 2 ∨ (x - ⌊x⌋ = 1 / 2 ∧ ⌊x⌋ % 2 = 0) then ⌊x⌋ else ⌊x⌋ + 1)
  else if rm = 2 then (if x < 0 then ⌈x⌉ else ⌊x⌋)
  else if rm = 3 then ⌈x⌉ else ⌊x⌋

/-- The exact sum, product, root and quotient of the model before any rounding; `IsSum`, `IsProduct`, `IsRoot` and `IsQuotient` say what
they are. -/
def sumOf (rd : Bool) (a b : Num) : Num := ((numAdd rd a b).run 0).1

/-- The exact product. -/
def prodOf (a b : Num) : Num := ((numMul a b).run 0).1

/-- The square root. -/
def rootOf (a : Num) : Num := ((numSqrt a).run 0).1

/-- A number rounded once to a layout (R44, R48); `fr` flushes a tiny result. -/
def roundTo (lay : Layout) (rm : Nat) (fr : Bool) (x : Num) : Nat := ((lay.round rm fr x).run 0).1

/-- One step of R57 and R63: rounded to nearest F32. -/
def stepOf (x : Num) : Num := rd32 (roundTo f32 1 false x)

/-- An F32 algorithm of R63 on a number that stands in F32. -/
def algOf (alg : Nat → Flagged Nat) (x : Num) : Num := rd32 ((alg (roundTo f32 1 false x)).run 0).1

/-- `r` is a + b (R42, R59, R163): exact for finite operands, a zero sum with the sign of two zeros of one sign, else minus only where `rd`. -/
def IsSum (rd : Bool) (a b r : Num) : Prop :=
  match a, b with
  | .fin n m _, .fin k l _ =>
    numFinite r ∧ numRat r = numRat a + numRat b ∧ (numRat r = 0 → r.sign = if m = 0 ∧ l = 0 ∧ n = k then n else rd)
  | .nan _, _ | _, .nan _ => r = .nan false
  | .inf n, .inf k => r = if n = k then .inf n else .nan false
  | .inf n, _ | _, .inf n => r = .inf n

/-- `r` is a × b (R42, R163): exact for finite operands, with the sign of both; 0 × ∞ is NaN. -/
def IsProduct (a b r : Num) : Prop :=
  match a, b with
  | .fin n _ _, .fin k _ _ => numFinite r ∧ numRat r = numRat a * numRat b ∧ r.sign = (n != k)
  | .nan _, _ | _, .nan _ => r = .nan false
  | .inf n, x | x, .inf n => r = if x.isZero then .nan false else .inf (n != x.sign)

/-- `r` stands for √a (R66): a zero for a zero, NaN below zero, and otherwise a number of more than 64 bits that lies where the root lies:
its last bit says whether the root goes on, so one rounding of it to 24 bits or fewer is one rounding of the root. -/
def IsRoot (a r : Num) : Prop :=
  match a with
  | .nan _ => r = .nan false
  | .inf n => r = if n then .nan false else .inf false
  | .fin n m _ =>
    if m = 0 then r = a
    else if n then r = .nan false
    else ∃ (x : Nat) (k : Int) (more : Bool), r = .fin false (2 * x + if more then 1 else 0) (k - 1) ∧ 2 ^ 64 ≤ x
      ∧ (x * (2 : ℚ) ^ k) ^ 2 ≤ numRat a ∧ numRat a < ((x + 1) * (2 : ℚ) ^ k) ^ 2 ∧ (more = false ↔ (x * (2 : ℚ) ^ k) ^ 2 = numRat a)

/-- `r` stands in the same way for the quotient of finite numbers, the divisor not zero (R57). -/
def IsQuotient (a b r : Num) : Prop :=
  r.sign = (a.sign != b.sign) ∧ ((a.isZero = true ∧ r.isZero = true) ∨ ∃ (x : Nat) (k : Int) (more : Bool),
    r = .fin (a.sign != b.sign) (2 * x + if more then 1 else 0) (k - 1) ∧ 2 ^ 63 ≤ x
      ∧ x * (2 : ℚ) ^ k ≤ |numRat a / numRat b| ∧ |numRat a / numRat b| < (x + 1) * (2 : ℚ) ^ k
      ∧ (more = false ↔ x * (2 : ℚ) ^ k = |numRat a / numRat b|))

/-- a ≤ b of numbers that are not NaN, where -0 lies below +0 (R164). -/
def numLe (a b : Num) : Bool :=
  match a, b with
  | .inf n, _ => n || decide (b = .inf false)
  | _, .inf n => !n
  | _, _ => decide (numRat a < numRat b) || (decide (numRat a = numRat b) && (a.sign || !b.sign))

/-- The smaller or, with `mx`, the larger of two numbers; NaN where one is NaN (R164). -/
def extremeOf (mx : Bool) (a b : Num) : Num :=
  if a.isNan || b.isNan then .nan false else if numLe a b then (if mx then b else a) else if mx then a else b

/-- a = b of numbers, where the two zeros are equal and a NaN equals nothing (R165). -/
def numEq (a b : Num) : Bool :=
  match a, b with
  | .fin _ _ _, .fin _ _ _ => decide (numRat a = numRat b)
  | .inf n, .inf k => n == k
  | _, _ => false

/-- a < b of numbers; false beside a NaN (R165). -/
def numLt (a b : Num) : Bool := !a.isNan && !b.isNan && numLe a b && !numEq a b

/-! ### V (R156 to R178, R185 to R191, R222 to R224) -/

/-- The type of a V syllable's elements as it stands at T (R62, R70). -/
def State.vType (s : State) (f : VF) : Nat := entryType (s.tab.entry f.ty.toNat f.fs.toNat)

/-- The V forms with their latencies (R37): `fp` is 4 on floating types and 2 on integers. VNOP and VROUTE stand apart. -/
def vForms (f : VF) (fp : Nat) : List (Instr × Nat) :=
  [(.vadd f, fp), (.vsub f, fp), (.vmul f, fp), (.vfma f, fp), (.vmin f, fp), (.vmax f, fp), (.vabs f, fp), (.vneg f, fp), (.vcmp f, fp),
   (.vadds f, 2), (.vsubs f, 2), (.vmulh f, 2), (.vshl f, 2), (.vshr f, 2), (.vand f, 2), (.vor f, 2), (.vxor f, 2), (.vnot f, 2),
   (.vsel f, 2), (.vclass f, 2), (.vrelu f, 2), (.vrot f, 2), (.vround f, 4),
   (.vexp f, 10), (.vlog f, 10), (.vrcp f, 10), (.vrsq f, 10), (.vsqrt f, 10), (.vtanh f, 10), (.vsig f, 10),
   (.vcvt f, 3), (.vpack f, 5), (.vunpk f, 5), (.vmov f, 1), (.vsplat f, 1), (.kop f, 1),
   (.vscan f, 6), (.vred f, 6), (.vcompact f, 6), (.vcount f, 6),
   (.gadd f, 4), (.gsub f, 4), (.gscl f, 4), (.gofs f, 4), (.gcol f, 4), (.gmake f, 4), (.gmul f, 6),
   (.grelu f, 14), (.gexp f, 14), (.gsig f, 14), (.gsqr f, 14)]

/-- A write of a V form: its destination's rank or moment register. -/
def vWrites (f : VF) (e : Dest) : Prop := (∃ v, e = .spec f.dst.toNat v) ∨ ∃ v, e = .mom (f.dst.toNat - 0x30) v

/-- The rank that a V form reads as source A at X. -/
def State.srcA (s : State) (f : VF) : Nat := ((s.view f).2.vA f).1

/-- The rank that it reads as source B, after A. -/
def State.srcB (s : State) (f : VF) : Nat := (((s.view f).2.vA f).2.vB f).1

/-- The rank that it reads as source C, after A and B. -/
def State.srcC (s : State) (f : VF) : Nat := ((((s.view f).2.vA f).2.vB f).2.vC f).1

/-- Element `i` of width `w` of a rank. -/
def elemOf (w i x : Nat) : Nat := x / 2 ^ (w * i) % 2 ^ w

/-- An element as the integer that its type reads: signed for I types, codes 3 to 5 (R38). -/
def intOf (ty x : Nat) : Int :=
  let w := typeWidth ty
  if ty < 6 ∧ 2 ^ (w - 1) ≤ x % 2 ^ w then (x % 2 ^ w : Nat) - (2 ^ w : Nat) else (x % 2 ^ w : Nat)

/-- The nearest value of an integer type (sat_w of R40). -/
def satOf (ty : Nat) (x : Int) : Int :=
  let w := typeWidth ty
  let lo : Int := if ty < 6 then -(2 ^ (w - 1) : Nat) else 0
  let hi : Int := if ty < 6 then (2 ^ (w - 1) : Nat) - 1 else (2 ^ w : Nat) - 1
  max lo (min hi x)

/-- A V form owes its destination a rank at the end of a cycle, or discards it (R100). -/
def State.OwesRank (s t : State) (dst due : Nat) (r : Rank) : Prop :=
  ∃ os, t.here.owed = s.here.owed ++ os
    ∧ List.Forall₂ s.cur.owes (if dst = 0x3A ∨ dst = 0x58 then [] else [(due, .spec dst r)]) os

/-- A V form gives a result element by element, of width `w`: under its mask the value, elsewhere zero bits (R159). -/
def State.GivesElemsOf (s : State) (i : Instr) (f : VF) (w lat : Nat) (val : Nat → Int) : Prop :=
  ∃ r : Rank, (∀ e < 512 / w, (elemOf w e r.toNat : Int) = if (s.slice.mask f.mask.toNat).getLsbD e then val e % 2 ^ w else 0)
    ∧ Runs i s fun t => s.OwesRank t f.dst.toNat (s.cur.X + lat - 1) r

/-- `GivesElemsOf` at the width of its type. -/
def State.GivesElems (s : State) (i : Instr) (f : VF) (lat : Nat) (val : Nat → Int) : Prop := s.GivesElemsOf i f (typeWidth (s.vType f)) lat val

/-- The target of input `i` in a VROUTE (R186): its request where it is the first valid one for it; the inputs without one take the free
targets, both in ascending order. -/
def targetOf (valid : Nat → Bool) (req : Nat → Nat) (i : Nat) : Nat :=
  let served := fun i => valid i && (List.range i).all fun j => !(valid j && req j == req i)
  let free := (List.range 16).filter fun t => (List.range 16).all fun j => !(served j && req j == t)
  if served i then req i else free.getD ((List.range i).filter fun j => !served j).length 0

/-- RM in force for a V syllable (R43): its own, that of its format entry, or RMODE. -/
def State.vMode (s : State) (f : VF) : Nat :=
  let e := entryRm (s.tab.entry f.ty.toNat f.fs.toNat)
  if f.rm ≠ 0 then f.rm.toNat else if f.ty = 15 ∧ e ≠ 0 then e else s.tab.rmode.toNat + 1

/-- The FI (`k` = 0) or FR bit (`k` = 1) of a floating type (R47). -/
def State.flushBit (s : State) (ty k : Nat) : Bool := s.tab.flush.getLsbD (if ty = 0 then k else 2 + k)

/-- A floating element as a V syllable reads it. -/
def State.vNum (s : State) (f : VF) (x : Nat) : Num := (layoutOf (s.vType f)).decode (s.flushBit (s.vType f) 0) x

/-- A number as a V syllable writes it: rounded once. -/
def State.vOut (s : State) (f : VF) (x : Num) : Nat := roundTo (layoutOf (s.vType f)) (s.vMode f) (s.flushBit (s.vType f) 1) x

/-- A number that a V syllable writes without rounding: its bits in its type, or the canonical NaN. -/
def State.vBits (s : State) (f : VF) (x : Num) : Nat := roundTo (layoutOf (s.vType f)) 1 false x

/-- Element `e` of source A, B or C of a floating V syllable. -/
def State.fA (s : State) (f : VF) (e : Nat) : Num := s.vNum f (elemOf (typeWidth (s.vType f)) e (s.srcA f))

/-- Element `e` of source B. -/
def State.fB (s : State) (f : VF) (e : Nat) : Num := s.vNum f (elemOf (typeWidth (s.vType f)) e (s.srcB f))

/-- Element `e` of source C. -/
def State.fC (s : State) (f : VF) (e : Nat) : Num := s.vNum f (elemOf (typeWidth (s.vType f)) e (s.srcC f))

/-- A V form gives the rank of which `P` holds, whole, `lat` cycles after X. -/
def State.GivesRank (s : State) (i : Instr) (f : VF) (lat : Nat) (P : Nat → Prop) : Prop :=
  ∃ r : Rank, P r.toNat ∧ Runs i s fun t => s.OwesRank t f.dst.toNat (s.cur.X + lat - 1) r

/-- A number as an integer of a type (R40): rounded by the mode and kept within the type; 0 for a NaN, the limit for an infinity. -/
def intFrom (ty rm : Nat) (x : Num) : Int :=
  match x with
  | .nan _ => 0
  | .inf n => satOf ty (if n then -2 ^ 64 else 2 ^ 64)
  | y => satOf ty (roundQ rm (numRat y))

/-- An integer as a number. -/
def intNum (v k : Int) : Num := .fin (decide (v < 0)) v.natAbs k

/-- cvt of R171 of the bits of one element: to the same exact value, scaled, in the destination type. -/
def State.cvtOf (s : State) (c : Cvt) (sat : Bool) (x : Nat) : Int :=
  let float := fun y => (roundTo (layoutOf c.dst) c.rm (s.flushBit c.dst 1) y : Int)
  if c.src < 3 then
    let y := ((layoutOf c.src).decode (s.flushBit c.src 0) x).scale c.scale
    if c.dst < 3 then float y else intFrom c.dst c.rm y
  else
    let v := intOf c.src x
    if c.dst < 3 then float (intNum v c.scale)
    else
      let q := roundQ c.rm (v * (2 : ℚ) ^ c.scale)
      if sat then satOf c.dst q else q

/-- What VCVT resolves (R43, R60, R171): the side that takes its type from the format slot brings its SCALE and its RM. -/
def State.Resolves (s : State) (f : VF) (c : Cvt) : Prop :=
  let src := f.imm.toNat % 16
  let e := s.tab.entry 15 f.fs.toNat
  let slot := src = 15 ∨ f.ty = 15
  (src = 15 → c.src = entryType e ∧ c.dst = f.ty.toNat ∧ c.scale = entryScale e)
  ∧ (src ≠ 15 → c.src = src ∧ c.dst = (if f.ty = 15 then entryType e else f.ty.toNat) ∧ c.scale = if f.ty = 15 then -entryScale e else 0)
  ∧ (f.rm ≠ 0 → c.rm = f.rm.toNat)
  ∧ (f.rm = 0 → slot → entryRm e ≠ 0 → c.rm = entryRm e)
  ∧ (f.rm = 0 → ¬(slot ∧ entryRm e ≠ 0) → c.rm = s.tab.rmode.toNat + 1)

/-- `blk` is the block of R51 for sixteen finite numbers: E is the least exponent from 0 to 254 at which all fit, or 254; a pair takes its
micro-exponent where both fit at half the quantum; each element is its number divided by its quantum, rounded by the mode and kept within the magnitude
bits, with the number's sign. -/
def IsBlock (rm m : Nat) (xs : List Num) (blk : Nat) : Prop :=
  let x := fun i => xs.getD i (.fin false 0 0)
  let q := fun e : Nat => (2 : ℚ) ^ ((e : Int) - 127 - (m - 1))
  let top : Int := 2 ^ m - 1
  let fits := fun (i : Nat) (u : ℚ) => |roundQ rm (numRat (x i) / u)| ≤ top
  let e := blk % 256
  e ≤ 254 ∧ (∀ k < e, ¬∀ i < 16, fits i (q k)) ∧ ((∀ i < 16, fits i (q e)) ∨ e = 254)
  ∧ ∀ i < 16,
    let mu := blk / 2 ^ (8 + i / 2) % 2
    let u := q e / 2 ^ mu
    (mu = 1 ↔ fits (i / 2 * 2) (q e / 2) ∧ fits (i / 2 * 2 + 1) (q e / 2))
    ∧ (bqElem m blk i).sign = (x i).sign
    ∧ numRat (bqElem m blk i) = (max (-top) (min top (roundQ rm (numRat (x i) / u))) : Int) * u

/-- The numbers that VPACK encodes: the F32 elements under the mask, flushed by BQFI and scaled (R172). -/
def State.packed (s : State) (f : VF) : List Num :=
  let sc : Int := if f.ty = 15 then entryScale (s.tab.entry f.ty.toNat f.fs.toNat) else 0
  (List.range 16).map fun i =>
    if (s.slice.mask f.mask.toNat).getLsbD i then (f32.decode (s.tab.flush.getLsbD 4) (elemOf 32 i (s.srcA f))).scale (-sc) else .fin false 0 0

/-- The operation of a fold on integers, or on bits, and its identity (R189). -/
def foldInt (ty op : Nat) : (Int → Int → Int) × Int :=
  let w := typeWidth ty
  let bits := fun (g : Nat → Nat → Nat) (x y : Int) => (g x.toNat y.toNat : Int)
  match op with
  | 0 => (fun x y => x + y, 0)
  | 1 => (fun x y => min x y, satOf ty (2 ^ w))
  | 2 => (fun x y => max x y, satOf ty (-2 ^ w))
  | 3 => (bits (· &&& ·), 2 ^ w - 1)
  | 4 => (bits (· ||| ·), 0)
  | _ => (bits (· ^^^ ·), 0)

/-- The fold of the floating elements with these numbers (R189): the first becomes the fold value through the same step as every later one,
and every step writes the fold value; with no element the identity. -/
def State.foldFloat (s : State) (f : VF) (op : Nat) (es : List Nat) : Nat :=
  let lay := layoutOf (s.vType f)
  let first := fun e => if op = 0 then s.vOut f (s.fA f e) else s.vBits f (s.fA f e)
  let next := fun acc e => if op = 0 then s.vOut f (sumOf (s.vMode f == 4) (lay.decode false acc) (s.fA f e))
    else s.vBits f (extremeOf (op == 2) (s.vNum f acc) (s.fA f e))
  match es with
  | [] => if op = 0 then 0 else lay.infBits + if op = 2 then lay.signBit else 0
  | e :: r => r.foldl next (first e)

/-- The fold of a list of elements of A by type and operation. -/
def State.foldOf (s : State) (f : VF) (op : Nat) (es : List Nat) : Int :=
  let ty := s.vType f
  let bits := fun e => elemOf (typeWidth ty) e (s.srcA f)
  if op < 3 ∧ ty < 3 then s.foldFloat f op es
  else
    let g := foldInt ty op
    (es.map fun e => if op < 3 then intOf ty (bits e) else (bits e : Int)).foldl g.1 g.2

/-- The class of the bits of a floating element (R168). -/
def classOf (lay : Layout) (x : Nat) : Nat :=
  let n := x.testBit (lay.eb + lay.fb)
  let ex := x / 2 ^ lay.fb % 2 ^ lay.eb
  let fr := x % 2 ^ lay.fb
  if ex = 2 ^ lay.eb - 1 then (if fr = 0 then (if n then 2 else 9) else if x.testBit (lay.fb - 1) then 1 else 0)
  else if ex ≠ 0 then (if n then 3 else 8)
  else if fr ≠ 0 then (if n then 4 else 7)
  else if n then 5 else 6

/-- The special cases of the algorithms of R65, as F32 bits: the algorithm, the input, the result, the flags. -/
def specialCases : List ((Nat → Flagged Nat) × List (Nat × Nat × Nat)) :=
  let nan := 0x7FC00000
  let inf := 0x7F800000
  let ninf := 0xFF800000
  let one := 0x3F800000
  [(expAlg, [(inf, inf, 0), (ninf, 0, 0), (0, one, 0), (0x80000000, one, 0)]),
   (logAlg, [(inf, inf, 0), (ninf, nan, 1), (0, ninf, 2), (0x80000000, ninf, 2), (0xBF800000, nan, 1), (one, 0, 0)]),
   (rcpAlg, [(inf, 0, 0), (ninf, 0x80000000, 0), (0, inf, 2), (0x80000000, ninf, 2)]),
   (rsqAlg, [(inf, 0, 0), (ninf, nan, 1), (0, inf, 2), (0x80000000, ninf, 2), (0xBF800000, nan, 1)]),
   (tanhAlg, [(inf, one, 0), (ninf, 0xBF800000, 0), (0, 0, 0), (0x80000000, 0x80000000, 0), (0x41100000, one, 0), (0xC1100000, 0xBF800000, 0),
     (0x397FFFFF, 0x397FFFFF, 0)]),
   (sigAlg, [(inf, one, 0), (ninf, 0, 0), (0, 0x3F000000, 0), (0x80000000, 0x3F000000, 0)]),
   (capPhi, [(inf, one, 0), (ninf, 0, 0), (0, 0x3F000000, 0), (0x80000000, 0x3F000000, 0), (0x41000000, one, 0), (0xC1000000, 0, 0)]),
   (lowPhi, [(inf, 0, 0), (ninf, 0, 0), (0, 0x3ECC422A, 0), (0x80000000, 0x3ECC422A, 0), (0x41000000, 0, 0), (0xC1000000, 0, 0)])]

/-- A number made an integer by a mode, with its sign; a NaN and an infinity stay (R167). -/
def wholeOf (rm : Nat) (x : Num) : Num :=
  match x with
  | .fin n _ _ => .fin n (roundQ rm (numRat x)).natAbs 0
  | y => y

/-- What a transcendental makes of an element (R63): its algorithm on the element as F32, rounded once more. -/
def State.through (s : State) (f : VF) (alg : Nat → Flagged Nat) (x : Num) : Nat :=
  match algOf alg x with
  | .nan _ => (layoutOf (s.vType f)).nanBits
  | z => s.vOut f z

/-- The floating forms with their latencies (R37) and the bits of each element (R161 to R170). -/
def State.floatForms (s : State) (f : VF) : List (Instr × Nat × (Nat → Nat)) :=
  let rm := s.vMode f
  let a := s.fA f
  let b := s.fB f
  let stored := fun e => elemOf (typeWidth (s.vType f)) e (s.srcA f)
  let lay := layoutOf (s.vType f)
  [(.vadd f, 4, fun e => s.vOut f (sumOf (rm == 4) (a e) (b e))), (.vsub f, 4, fun e => s.vOut f (sumOf (rm == 4) (a e) (b e).neg)),
   (.vmul f, 4, fun e => s.vOut f (prodOf (a e) (b e))), (.vfma f, 4, fun e => s.vOut f (sumOf (rm == 4) (prodOf (a e) (b e)) (s.fC f e))),
   (.vsqrt f, 10, fun e => s.vOut f (rootOf (a e))), (.vround f, 4, fun e => s.vBits f (wholeOf rm (a e))),
   (.vmin f, 4, fun e => s.vBits f (extremeOf false (a e) (b e))), (.vmax f, 4, fun e => s.vBits f (extremeOf true (a e) (b e))),
   (.vabs f, 4, fun e => s.vBits f (a e).abs), (.vneg f, 4, fun e => s.vBits f (a e).neg),
   (.vrelu f, 2, fun e => if (a e).isNan then lay.nanBits else if (a e).isZero || (a e).sign then 0 else stored e),
   (.vclass f, 2, fun e => 2 ^ classOf lay (stored e)),
   (.vexp f, 10, fun e => s.through f expAlg (a e)), (.vlog f, 10, fun e => s.through f logAlg (a e)),
   (.vrcp f, 10, fun e => s.through f rcpAlg (a e)), (.vrsq f, 10, fun e => s.through f rsqAlg (a e)),
   (.vtanh f, 10, fun e => s.through f tanhAlg (a e)), (.vsig f, 10, fun e => s.through f sigAlg (a e))]

/-- A floating comparison under a condition (R165). -/
def condOf (c : Nat) (x y : Num) : Bool :=
  match c with
  | 0 => numEq x y
  | 1 => !numEq x y
  | 2 => numLt x y
  | 3 => numLt x y || numEq x y
  | 4 => numLt y x
  | 5 => numLt y x || numEq x y
  | 6 => x.isNan || y.isNan
  | _ => !x.isNan && !y.isNan

/-- A variance as it is written (R54): a negative one +0 under NVCLAMP; other bits stay. -/
def State.varOut (s : State) (v : Nat) : Nat := if negVar v && s.tab.cov.getLsbD 2 then 0 else v

/-- A variance as it is read (R53, R54): besides, -0 as +0. -/
def State.varIn (s : State) (v : Nat) : Nat := posZero (s.varOut v)

/-- F32 bits with a subnormal as zero, where FI says so (R47). -/
def flushed (fi : Bool) (x : Nat) : Nat := if fi ∧ x / 2 ^ 23 % 2 ^ 8 = 0 then x / 2 ^ 31 * 2 ^ 31 else x

/-- ρ of COV.MODE (R55). -/
def State.rho (s : State) : Int := match s.tab.cov.toNat % 4 with | 1 => 1 | 2 => -1 | _ => 0

/-- c of R57. -/
def covOf (rho : Int) (va vb : Num) : Num :=
  if rho = 0 then .fin false 0 0
  else
    let c := stepOf (rootOf (stepOf (prodOf va vb)))
    if rho < 0 then c.neg else c

/-- A quotient as R57 takes it: ∞ / ∞ is NaN. -/
def quotOf (a b : Num) : Num :=
  match a, b with
  | .inf _, .inf _ => .nan false
  | x, y => numDiv x y

/-- The moment forms of R57 on one pair (ua, va), with (ub, vb) or the scalar k: latency, whether B is a moment register, and the bits of
the mean and of the variance, each step rounded to nearest F32 and the last of each half in the mode, with MPFR. -/
def State.momentForms (s : State) (f : VF) :
    List (Instr × Nat × Bool × (Num → Num → Num → Num → Num → Nat × Nat)) :=
  let rm := if f.rm ≠ 0 then f.rm.toNat else s.tab.rmode.toNat + 1
  let out := roundTo f32 rm (s.tab.flush.getLsbD 7)
  let add := fun a b => stepOf (sumOf false a b)
  let mul := fun a b => stepOf (prodOf a b)
  let fma := fun a b c => sumOf (rm == 4) (prodOf a b) c
  let cov := covOf s.rho
  let one : Num := .fin false 1 0
  let two : Num → Num := fun x => x.scale 1
  [(.gadd f, 4, true, fun ua va ub vb _ => (out (sumOf (rm == 4) ua ub), out (sumOf (rm == 4) (add va vb) (two (cov va vb))))),
   (.gsub f, 4, true, fun ua va ub vb _ => (out (sumOf (rm == 4) ua ub.neg), out (sumOf (rm == 4) (add va vb) (two (cov va vb)).neg))),
   (.gmul f, 6, true, fun ua va ub vb _ =>
      let c := cov va vb
      let t1 := mul (mul ua ua) vb
      let t2 := mul (mul ub ub) va
      let t3 := mul (two ua) (mul ub c)
      (out (fma ua ub c), out (sumOf (rm == 4) (add (add t1 t2) t3) (add (mul va vb) (mul c c))))),
   (.gscl f, 4, false, fun u v _ _ k => (out (prodOf k u), out (prodOf (mul k k) v))),
   (.gofs f, 4, false, fun u v _ _ k => (out (sumOf (rm == 4) u k), roundTo f32 1 false v)),
   (.gsqr f, 14, false, fun u v _ _ _ => (out (fma u u v), out (fma (two v) v ((mul (mul u u) v).scale 2)))),
   (.gexp f, 14, false, fun u v _ _ _ => (out (algOf expAlg (add u (v.scale (-1)))),
      out (prodOf (add (algOf expAlg v) one.neg) (algOf expAlg (add (two u) v))))),
   (.gsig f, 14, false, fun u v _ _ _ =>
      let g := algOf rcpAlg (stepOf (rootOf (add one (mul v (rd32 0x3EC90FDB)))))
      let sg := algOf sigAlg (mul u g)
      (out sg, out (prodOf (mul sg (add one sg.neg)) (add one g.neg)))),
   (.grelu f, 14, false, fun u v _ _ _ =>
      if v.isZero then (out (if u.sign || u.isZero then .fin false 0 0 else u), 0)
      else
        let sg := stepOf (rootOf v)
        let a := stepOf (quotOf u sg)
        let P := algOf capPhi a
        let D := algOf lowPhi a
        let mean := out (fma u P (mul sg D))
        let e := stepOf (sumOf false (prodOf (stepOf (sumOf false (prodOf u u) v)) P) (mul (mul u sg) D))
        (mean, out (sumOf (rm == 4) e (stepOf (prodOf (rd32 mean) (rd32 mean))).neg)))]

/-- A V form gives a moment register, pair by pair: under its mask mean and variance, elsewhere zero bits (R222). -/
def State.GivesPairs (s : State) (i : Instr) (f : VF) (lat : Nat) (val : Nat → Nat × Nat) : Prop :=
  ∃ r : BitVec 1024, (∀ j < 16, elemOf 64 j r.toNat = if (s.slice.mask f.mask.toNat).getLsbD j then (val j).1 + (val j).2 * 2 ^ 32 else 0)
    ∧ Runs i s fun t => ∃ o, t.here.owed = s.here.owed ++ [o] ∧ s.cur.owes (s.cur.X + lat - 1, .mom (f.dst.toNat - 0x30) r) o

/-- Pair `j` of a moment register that a V form reads: its halves as numbers, flushed by MPFI, the variance as read. -/
def State.pairIn (s : State) (c j : Nat) : Num × Num :=
  let x := (SMap.get (0 : BitVec 1024) s.slice.m (c - 0x30)).toNat
  let fi := s.tab.flush.getLsbD 6
  (f32.decode fi (elemOf 32 (2 * j) x), rd32 (s.varIn (flushed fi (elemOf 32 (2 * j + 1) x))))

/-! ### M (R205 to R221) -/

/-- The row of an M syllable that runs now (R207). -/
def State.rowOf (s : State) (f : MF) : Nat := f.row0.toNat + s.cur.row

/-- The bytes of a row under the tile shape that IMM6 names (R210). -/
def State.tileBytes (s : State) (f : MF) : Nat := shapeBytes (SMap.get 0 s.tab.tsh (f.imm.toNat % 8))

/-- The M forms with what the row that runs now may owe, and at the end of which cycle (R37, R207 to R220). -/
def State.mForms (s : State) (f : MF) : List (Instr × (Nat → Dest → Prop)) :=
  let c := s.cur.X + s.cur.row
  let r := s.rowOf f
  let acc := f.acc.toNat - 0x48
  let cells := fun (lat due : Nat) (d : Dest) => due = c + lat ∧ ∃ u, d = .row u ∧ u.a = acc ∧ u.row = r
  [(.mfill f, fun due d => due = c ∧ ∃ v, d = .tile (f.dst.toNat - 0x40) r (64 * (f.imm.toNat / 8 % 2)) (s.tileBytes f) v),
   (.mdrn f, fun due d => due = c + 1 ∧ ∃ v, d = .spec f.dst.toNat v),
   (.mldb f, fun due d => due = s.cur.X + 33 ∧ s.cur.row = 31 ∧ ∃ b, d = .statB b),
   (.mldmd f, fun due d => due = s.cur.X + 3 ∧ ∃ v, d = .md (f.dst.toNat - 0x50) (f.row0.toNat % 4) v),
   (.mma f, cells 7), (.mmaz f, cells 7), (.mmas f, cells 7), (.mmap f, cells 7), (.mmg f, cells 11), (.mmg2 f, cells 11),
   (.mout f, fun due d => due = c + 3 ∧ ∃ v, d = .spec f.dst.toNat v),
   (.mbyp f, fun due d => due = c + 1 ∧ ((∃ v, d = .byp r v) ∨ ∃ v, d = .tile (f.dst.toNat - 0x40) r 0 64 v)),
   (.mzero f, fun due d => due = s.cur.X ∧ ∃ k ≤ f.rows.toNat, d = .zeroRow acc (f.row0.toNat + k))]

/-- The format entry, the type, SCALE and the mode of an M syllable (R43, R60, R209). -/
def State.mType (s : State) (f : MF) : Nat := entryType (s.tab.entry f.ty.toNat f.fs.toNat)

/-- SCALE; 0 for a type that stands in the encoding. -/
def State.mSc (s : State) (f : MF) : Int := if f.ty = 15 then entryScale (s.tab.entry f.ty.toNat f.fs.toNat) else 0

/-- The mode. -/
def State.mRm (s : State) (f : MF) : Nat :=
  let e := entryRm (s.tab.entry f.ty.toNat f.fs.toNat)
  if f.ty = 15 ∧ e ≠ 0 then e else s.tab.rmode.toNat + 1

/-- What a drain makes of one cell (R218): `whole` says that cells are integers. -/
def State.outOf (s : State) (f : MF) (whole : Bool) (cell : Nat) : Int :=
  let ty := s.mType f
  let relu := f.imm.getLsbD 2
  let float := fun x => (roundTo (layoutOf ty) (s.mRm f) (s.flushBit ty 1) x : Int)
  if whole then
    let v := if relu then max 0 (intOf 3 cell) else intOf 3 cell
    if ty = 3 then v else if ty < 3 then float (intNum v (-s.mSc f)) else satOf ty (roundQ (s.mRm f) (v * (2 : ℚ) ^ (-s.mSc f)))
  else
    let x := f32.decode (s.tab.flush.getLsbD 0) cell
    let kept := x.isNan || !(x.isZero || x.sign)
    let y := if relu && !kept then .fin false 0 0 else x.scale (-s.mSc f)
    if ty = 0 then (if relu && !kept then 0 else if relu && x.isNan then 0x7FC00000 else cell)
    else if ty < 3 then float y else intFrom ty (s.mRm f) y

/-- The rank that a drain makes of a row of cells (R218): element `e` from cell e, or from 16 p + e for types of 32 bits; zero beyond the 32 cells. -/
def State.drains (s : State) (f : MF) (whole : Bool) (r : Nat) : Prop :=
  let n := f.a.toNat - 0x48
  let w := typeWidth (s.mType f)
  let cells := (SMap.get (0 : TileRow) s.slice.acc (64 * (n % 4) + 32 * (n / 4) + s.rowOf f)).toNat
  ∀ e < 512 / w, (elemOf w e r : Int)
    = if e < 32 then s.outOf f whole (elemOf 32 (if w = 32 then 16 * (f.imm.toNat % 4) + e else e) cells) % 2 ^ w else 0

/-- S of R58 and R59 for the products of a cell: NaN beside a NaN or infinities of both signs, an infinity of one sign, and otherwise the
exact sum of the products, each truncated toward zero to a multiple of 2^(t - 64) where 2^t is the power of two of the largest. A zero
sum is minus where all products are, or where nonzero products cancel under RD. -/
def WindowSum (rd : Bool) (ps : List Num) (S : ExactSum) : Prop :=
  ((∃ p ∈ ps, p.isNan = true) ∨ (.inf true ∈ ps ∧ .inf false ∈ ps) → S.num = .nan false)
  ∧ (∀ n, (∀ p ∈ ps, p.isNan = false) → .inf n ∈ ps → .inf (!n) ∉ ps → S.num = .inf n)
  ∧ ((∀ p ∈ ps, numFinite p) →
    ((∀ p ∈ ps, numRat p = 0) → S.num = .fin (!ps.isEmpty && ps.all Num.sign) 0 0)
    ∧ ∀ t : Int, (∀ p ∈ ps, |numRat p| < (2 : ℚ) ^ (t + 1)) → (∃ p ∈ ps, (2 : ℚ) ^ t ≤ |numRat p|) →
      let v := (ps.map fun p => roundQ 2 (numRat p / (2 : ℚ) ^ (t - 64))).sum
      numFinite S.num ∧ numRat S.num = v * (2 : ℚ) ^ (t - 64) ∧ (v = 0 → S.num = .fin rd 0 0))

/-- Element `k` of an A row or a B column of a type (R50, R205). -/
def State.mElem (s : State) (ty x k : Nat) : Num :=
  if ty < 3 then (layoutOf ty).decode (s.flushBit ty 0) (elemOf (typeWidth ty) k x)
  else if 9 ≤ ty ∧ ty ≤ 11 then bqElem (bqM ty) (x / 2 ^ (8 * bqBytes ty * (k / 16)) % 2 ^ (8 * bqBytes ty)) (k % 16)
  else intNum (intOf ty (elemOf (typeWidth ty) k x)) 0

/-- The products of cell `j` of a dense row (R58 step 1, R61, R205). -/
def State.mDense (s : State) (f : MF) (row j : Nat) : List Num :=
  let ty := s.mType f
  let col := (SMap.get (0 : TileRow) s.slice.b.cols j).toNat
  (List.range (depthOf ty)).map fun k => (prodOf (s.mElem ty row k) (s.mElem ty col k)).scale (s.mSc f)

/-- The products of cell `j` of a sparse row (R212, R214): stored value n against the logical element that the metadata name; `two` holds elements
32 to 63 for the half types. -/
def State.mSparse (s : State) (f : MF) (row two j : Nat) : List Num :=
  let ty := s.mType f
  let col := (SMap.get (0 : TileRow) s.slice.b.cols j).toNat
  let pos := fun n => 4 * (n / 2) + s.slice.b.md.toNat / 2 ^ (64 * j + 2 * n) % 4
  let a := fun k => if ty < 3 ∧ 32 ≤ k then s.mElem ty two (k - 32) else s.mElem ty row k
  (List.range 32).map fun n => (prodOf (a (pos n)) (s.mElem ty col n)).scale (s.mSc f)

/-- The eight pairs of a row of MMG or MMG2 (R216): the rank, or pairs 8i to 8i + 7 of a moment register. -/
def State.mPair (s : State) (f : MF) (k : Nat) : Num × Num :=
  let x := if specM f.a.toNat then (SMap.get (0 : BitVec 1024) s.slice.m (f.a.toNat - 0x30)).toNat / 2 ^ (512 * s.cur.row)
    else (s.readRank f.a.toNat (s.cur.X + s.cur.row) (f.pka == 1)).1.toNat
  let fi := s.tab.flush.getLsbD 6
  (f32.decode fi (elemOf 32 (2 * k) x), rd32 (s.varIn (flushed fi (elemOf 32 (2 * k + 1) x))))

/-- The addends of a cell of MMG for both planes (R216). -/
def State.mMean (s : State) (f : MF) (j : Nat) : List Num × List Num :=
  let b := fun k => s.mElem 0 (SMap.get (0 : TileRow) s.slice.b.cols j).toNat k
  let lost := fun k => (s.mPair f k).1.isNan || (s.mPair f k).2.isNan
  let both := fun (g : Nat → Num) => (List.range 8).map fun k => if lost k then .nan false else (g k).scale (s.mSc f)
  (both fun k => prodOf (s.mPair f k).1 (b k), both fun k => prodOf (s.mPair f k).2 (prodOf (b k) (b k)))

/-- The addends of a cell of MMG2 for both planes (R217), against means of rows `rows` 0 to 31 and variances of 32 to 63. -/
def State.mBoth (s : State) (f : MF) (rows : List TileRow) (j : Nat) : List Num × List Num :=
  let fi := s.tab.flush.getLsbD 0
  let word := fun n k => flushed fi (elemOf 32 k (rows.getD n 0).toNat)
  let one := fun k =>
    let a := s.mPair f k
    let b := (rd32 (word j k), rd32 (s.varIn (word (32 + j) k)))
    let c := covOf s.rho a.2 b.2
    if a.1.isNan || a.2.isNan || b.1.isNan || b.2.isNan then ([.nan false], [.nan false])
    else
      ([prodOf a.1 b.1, c].map (·.scale (s.mSc f)),
       [prodOf (prodOf a.1 a.1) b.2, prodOf (prodOf b.1 b.1) a.2, (prodOf (prodOf a.1 b.1) c).scale 1, prodOf a.2 b.2, prodOf c c].map (·.scale (s.mSc f)))
  (((List.range 8).map fun k => (one k).1).flatten, ((List.range 8).map fun k => (one k).2).flatten)

/-- A product row owes the update of its accumulator row at the end of a cycle (R58, R207): under the mode, flush bits and clamp of T, by
32 sums for plane 0, and for plane 1 where there are any. -/
def State.OwesUpdate (s t : State) (f : MF) (due : Nat) (whole fresh : Bool) (sums : Nat → ExactSum → ExactSum → Prop) (two : Bool) : Prop :=
  ∃ u os, t.here.owed = s.here.owed ++ os ∧ List.Forall₂ s.cur.owes [(due, .row u)] os ∧ u.a = f.acc.toNat - 0x48 ∧ u.row = s.rowOf f
    ∧ u.isInt = whole ∧ u.fresh = fresh ∧ u.rm = s.mRm f ∧ u.flush = s.tab.flush ∧ u.clamp = s.tab.cov.getLsbD 2
    ∧ u.s0.length = 32 ∧ u.s1.length = (if two then 32 else 0) ∧ ∀ j < 32, sums j (u.s0.getD j .nan) (u.s1.getD j .nan)

/-! ### C (R192 to R204, R315) -/

/-- The line of bank b that a syllable addresses (R192): line(it) + offset + skew, modulo 8192. -/
def State.lineFor (s : State) (it skew b : Nat) (off : Int) : Nat :=
  let sk : Int := if skew = 0 then 0 else signedOf 14 (bitsOf (SMap.get (0 : BitVec 224) s.tab.sk (skew - 1)).toNat (14 * b) 14)
  (((s.tab.line it : Int) + off + sk) % 8192).toNat

/-- The masked words of a copy of n words, in order (R199). -/
def copyWords (f : CF) (n : Nat) : List Nat := (List.range n).filter fun k => f.bmask.getLsbD (k % 16)

/-- The bank key of word k of a copy: bank k mod 16, at the line of its rank (R199). -/
def State.keyFor (s : State) (f : CF) (k : Nat) : Nat := 16 * s.lineFor f.it.toNat f.skew.toNat (k % 16) (k / 16 : Nat) + k % 16

/-- What rank r of a FILL-like copy owes (R199, R204, R340): its masked words in order, as HBM holds them at their page offsets, poisoned where
the word has an uncorrectable error, with the tape entries that the copy reserved; its first step owes nothing. -/
def State.landing (s : State) (f : CF) (offs : List Int) : List (Nat × Dest) :=
  let r := s.cur.row
  let all := copyWords f offs.length
  if r = 0 then [] else (all.zipIdx.filter fun e => decide (e.1 / 16 = r - 1)).map fun e =>
    let pa := (s.handleT f).pa (offs.getD e.1 0)
    (s.cur.X + 400 + (r - 1), .bank (e.1 % 16) (s.keyFor f e.1 / 16) (s.hbmWord pa) (if pa / 4 ∈ s.hub.badWords then 2 else 0)
      (s.tab.tapeAt (s.cur.aux % 2 ^ 32) (all.map (s.keyFor f)) e.2))

/-- OFF of a SPILL: as its first step reads it, then as it carries it (R199). -/
def State.spillOff (s : State) (f : CF) : Nat := if s.cur.row = 0 then (s.copyOff f).1 else s.cur.aux / 2 ^ 32

/-- What rank r of a SPILL owes: its masked bank words in order, at their physical addresses (R199, R368). -/
def State.spilling (s : State) (f : CF) : List (Nat × Dest) :=
  let offs := s.shapeOffs f (s.spillOff f)
  ((copyWords f offs.length).filter fun k => decide (k / 16 = s.cur.row)).map fun k =>
    (s.cur.X + 400 + s.cur.row, .hbm ((s.handleT f).pa (offs.getD k 0)) f.chan.toNat k (SMap.get 0 s.slice.bank (s.keyFor f k))
      (SMap.get 0 s.slice.tag (s.keyFor f k) != 0))

/-- The bank key of word k of a receive (R315). -/
def State.keyIn (s : State) (g : CX) (k : Nat) : Nat := 16 * s.lineFor g.it.toNat 0 (k % 16) (k / 16 : Nat) + k % 16

/-- The tape address of the word of a receive that comes now: from TP at its X on (R340, R341). -/
def State.tapeIn (s : State) (g : CX) : Option Nat :=
  s.tab.tapeAt (if s.cur.row = 0 then s.slice.tp.toNat else s.cur.aux / 2 ^ 512) ((List.range (g.words.toNat + 1)).map (s.keyIn g)) s.cur.row

/-- The word that stands at the slice's delivery port for a plan. -/
def State.arrived (s : State) (g : CX) : Option Word := (s.slice.arr.find? fun e => e.1 == g.plan.toNat).map fun e => e.2.1

/-- What a word of XRECV owes: the word that arrived, zero where none did, and after each sixteenth and the last one the rank. -/
def State.receiving (s : State) (g : CX) : List (Nat × Dest) :=
  let r := s.cur.row
  let w := (s.arrived g).getD 0
  (s.cur.X + r, .bank (r % 16) (s.keyIn g r / 16) w 0 (s.tapeIn g)) ::
    if (r % 16 = 15 ∨ r = g.words.toNat) ∧ g.spec ≠ 0x3A ∧ g.spec ≠ 0x58 then [(s.cur.X + 16 * (r / 16) + 15,
      .spec g.spec.toNat (BitVec.ofNat 512 ((if r % 16 = 0 then 0 else s.cur.aux % 2 ^ 512) + w.toNat * 2 ^ (32 * (r % 16)))))] else []

/-- What a word of RECVADD owes: the sum with the bank word; where none arrived, the old value if it has a tape entry. -/
def State.adding (s : State) (g : CX) : List (Nat × Dest) :=
  let r := s.cur.row
  let old : Word := SMap.get 0 s.slice.bank (s.keyIn g r)
  match s.arrived g with
  | some w =>
    let fl := s.tab.flush
    let sum := sumOf false (f32.decode (fl.getLsbD 0) old.toNat) (f32.decode (fl.getLsbD 0) w.toNat)
    [(s.cur.X + r, .bank (r % 16) (s.keyIn g r / 16)
      (if g.spec = 0 then BitVec.ofNat 32 (roundTo f32 1 (fl.getLsbD 1) sum) else old + w) 0 (s.tapeIn g))]
  | none =>
    if (s.tapeIn g).isSome then [(s.cur.X + r, .bank (r % 16) (s.keyIn g r / 16) old (SMap.get 0 s.slice.tag (s.keyIn g r)) (s.tapeIn g))] else []

/-- The C forms with what their step owes, in order, and at the end of which cycle (R37, R192 to R204, R315). -/
def State.cForms (s : State) (f : CF) (g : CX) : List (Instr × List (Nat × Dest)) :=
  let shaped := s.shapeOffs f (s.cur.aux / 2 ^ 32)
  [(.fill f, s.landing f shaped), (.fillm f, s.landing f shaped), (.fillx f, s.landing f (indexOffs (s.cur.aux / 2 ^ 32))),
   (.spill f, s.spilling f), (.hatom f, [(s.cur.X + 400, .hatom f.chan.toNat s.hub.nextId)]),
   (.xsend g, []), (.xrecv g, s.receiving g), (.recvadd g, s.adding g)]

/-! ### Pending writes (R24, R28, R29) -/

/-- A pending write of the running step's context, alone under its number. -/
def State.pays (s : State) (o : Owed) : Prop :=
  o ∈ s.here.owed ∧ (∀ x ∈ s.here.owed, x.id = o.id → x = o) ∧ s.cur.d = o.die ∧ s.cur.s = o.s

/-- A core with a pending write taken from those owed. -/
def Core.without (c : Core) (o : Owed) : Core := { c with owed := c.owed.filter fun x => x.id != o.id }

/-- Two cores that differ on one die alone. -/
def Core.DieOnly (c t : Core) (d : Nat) : Prop := { t with dies := [] } = { c with dies := [] } ∧ ∀ k, k ≠ d → t.die k = c.die k

/-- Two cores that differ in one slice alone. -/
def Core.SliceOnly (c t : Core) (n : Nat) : Prop :=
  { t with slices := [] } = { c with slices := [] } ∧ ∀ k, k ≠ n → t.slice k = c.slice k

/-- Nothing outside the timed core of the running context changes, but that what a handler writes into a table or a control register also
reaches the boundaries to which a rewind may return (R359). -/
def State.PaysHere (s t : State) (o : Owed) : Prop :=
  s.CoreOnly { t with ctxs := s.ctxs } ∧ (∀ cid, { t.ctx cid with marks := [] } = { s.ctx cid with marks := [] })
    ∧ ((∀ w, o.dest = .tab w → o.hnd = false) → t.ctxs = s.ctxs)

/-- A pending write performs: it is owed no longer, the timed core becomes one of which `P` holds, and nothing else changes. -/
def State.CorePays (s : State) (o : Owed) (P : Core → Prop) : Prop := Runs (.owedWritePerforms o.id) s fun t => s.PaysHere t o ∧ P t.here

/-- A pending write performs on its die, which becomes what `P` says, and nothing else changes. -/
def State.DiePays (s : State) (o : Owed) (P : Die → Prop) : Prop :=
  s.CorePays o fun c => (s.here.without o).DieOnly c o.die ∧ P (c.die o.die)

/-- A pending write performs on every die of the partition, and nothing else changes. -/
def State.DiesPay (s : State) (o : Owed) (P : Die → Die → Prop) : Prop :=
  let dies := s.diesOf (s.ctx s.cur.cid).p
  s.CorePays o fun c => { c with dies := [] } = { s.here.without o with dies := [] }
    ∧ ∀ k, if k ∈ dies then P (s.here.die k) (c.die k) else c.die k = s.here.die k

/-- A pending write performs in the four slices of one column of its die, and nothing else changes. -/
def State.ColumnPays (s : State) (o : Owed) (col : Nat) (f : Slice → Slice) : Prop :=
  s.CorePays o fun c => { c with slices := [] } = { s.here.without o with slices := [] }
    ∧ ∀ k, c.slice k = if dieOf k = o.die ∧ colOf k = col then f (s.here.slice k) else s.here.slice k

/-- A pending write performs in its slice, and nothing else changes. -/
def State.SlicePays (s : State) (o : Owed) (P : Slice → Prop) : Prop :=
  Runs (.owedWritePerforms o.id) s fun t =>
    s.CoreOnly t ∧ (s.here.without o).SliceOnly t.here o.s ∧ P (t.here.slice o.s)

/-- Two maps that agree but for one key, which holds `v`. -/
def Sets {α : Type} (d : α) (new old : SMap α) (n : Nat) (v : α) : Prop := ∀ k, SMap.get d new k = if k = n then v else SMap.get d old k

/-- The control registers of a die that CFGW writes: number, the bits that they keep, how they read, and the die without the register
(R67, R70, R81, R337, R339). LOGBASE stands for LOGPTR as well, which its write sets (R343). -/
def csrTable : List (Nat × Nat × (Die → DWord) × (Die → Die)) :=
  [(0x10, 3, fun d => d.tab.rmode.setWidth 64, fun d => { d with tab := { d.tab with rmode := 0 } }),
   (0x11, 0xFF, fun d => d.tab.flush.setWidth 64, fun d => { d with tab := { d.tab with flush := 0 } }),
   (0x12, 7, fun d => d.tab.cov.setWidth 64, fun d => { d with tab := { d.tab with cov := 0 } }),
   (0x14, 1, fun d => boolW d.tab.check, fun d => { d with tab := { d.tab with check := false } }),
   (0x20, 0xFF, Die.tcause, fun d => { d with tcause := 0 }),
   (0x21, 2 ^ 64 - 1, Die.tbundle, fun d => { d with tbundle := 0 }),
   (0x22, 2 ^ 64 - 1, Die.tacc, fun d => { d with tacc := 0 }),
   (0x23, 2 ^ 64 - 1, Die.tval, fun d => { d with tval := 0 }),
   (0x24, 0x8000000000000FFF, Die.tslice, fun d => { d with tslice := 0 }),
   (0x25, 2 ^ 64 - 1, Die.tvec, fun d => { d with tvec := 0 }),
   (0x26, 0xFFFFFF, Die.tstat, fun d => { d with tstat := 0 }),
   (0x27, 2 ^ 64 - 1, Die.tscratch, fun d => { d with tscratch := 0 }),
   (0x31, 0xF00003FFFFFFFFE0, Die.logbase, fun d => { d with logbase := 0, logptr := 0 }),
   (0x32, 0x3FFFFFFFFE0, Die.loglim, fun d => { d with loglim := 0 }),
   (0x33, 0x3FFFFFFFFE0, Die.logptr, fun d => { d with logptr := 0 }),
   (0x34, 0x7FFF8, fun d => d.tab.tapeBase, fun d => { d with tab := { d.tab with tapeBase := 0 } }),
   (0x35, 0x7FFF8, fun d => d.tab.tapeLim, fun d => { d with tab := { d.tab with tapeLim := 0 } })]
  ++ (List.range 8).map fun k => (0x60 + k, 0x3FFFFFFFFFFFFFFF, fun d => SMap.get 0 d.tab.watch k, fun d => { d with tab := { d.tab with watch := [] } })

/-- The result of a HATOM operation on a home word (R202); `fadd` is the model's F32 add. -/
def hatomOp (op : Nat) (m v : Word) : Word :=
  match op with
  | 0 => m + v
  | 1 => if m.toInt < v.toInt then m else v
  | 2 => if m.toInt < v.toInt then v else m
  | 3 => m &&& v
  | 4 => m ||| v
  | 5 => m ^^^ v
  | 6 => v
  | _ => hatomValue 7 m v

/-- Two words of HBM that share no byte. -/
def apart (a b : Nat) : Prop := a + 4 ≤ b ∨ b + 4 ≤ a

/-- No write of the running cycle stands at a word from before a rewind (R240). -/
def State.Anew (s : State) (pa : Nat) : Prop := ∀ e ∈ (s.ctx s.cur.cid).stands, ¬(e.1 = s.here.acc.toNat ∧ e.2.1 = pa)

/-- A HATOM has performed: each word of its pairs, which share no byte, holds the result of the operation, and every other byte of HBM
stands. -/
def State.HomeDone (s t : State) (h : Hatom) : Prop :=
  h.pairs.Pairwise (fun a b => apart a.2.1 b.2.1) → (∀ e ∈ h.pairs, t.hbmWord e.2.1 = hatomOp h.op (s.hbmWord e.2.1) e.2.2)
    ∧ ∀ a, (∀ e ∈ h.pairs, a < e.2.1 ∨ e.2.1 + 4 ≤ a) → t.hbmByte a = s.hbmByte a

/-- A context leaves no record of an input: its dies trace none, and its launch is not recorded (R376, R379). -/
def State.Unrecorded (s : State) (cid : Nat) : Prop := (s.ctx cid).recording = false ∧ ∀ d, s.Untraced d

/-! ### The cycle (R3, R18, R20, R22, R28) -/

/-- The running context of a partition, while it runs. -/
def State.runs (s : State) (p cid : Nat) : Prop := (s.part p).running = some cid ∧ (s.ctx cid).state = .running

/-- The steps of a boundary are those of `l`, in some order, and then one more. -/
def State.Then (s t : State) (p cid row : Nat) (l : Task → Prop) : Prop :=
  ∃ ts, t.agenda = ts ++ [⟨0, { cid := cid, p := p, row := row }, .cycleBoundary p⟩] ++ s.agenda ∧ ∀ e, e ∈ ts ↔ l e

/-! ### Traps are taken (R358 to R366) -/

/-- What a handler finds in the trap registers of its die, and where it starts (R361 to R363). `own`: the die raised the trap. -/
def Die.Entered (x y : Die) (t : Trap) (multi own : Bool) : Prop :=
  let dly := if x.ended.isSome then 0 else x.next - t.T
  y.inS = true ∧ y.hpc = x.tvec.toNat ∧ y.hnext = 0 ∧ y.tacc.toNat = t.T % 2 ^ 64 ∧ y.tbundle.toNat = x.pc % 2 ^ 64
    ∧ (own = true → y.tcause.toNat = t.code % 2 ^ 64 ∧ y.tval.toNat = t.val % 2 ^ 64
        ∧ y.tslice.toNat = (t.tslice + (if t.slice.isSome then 2 ^ 63 else 0)) % 2 ^ 64
        ∧ y.tstat.toNat = b2n multi + 4 * b2n t.rev + 8 * b2n t.late + 16 * (t.slot % 16) + 256 * (dly % 65536))
    ∧ (own = false → y.tcause = 0 ∧ y.tval = x.tval ∧ y.tslice = x.tslice ∧ y.tstat.toNat = 2 + 256 * (dly % 65536))
    ∧ y.x = x.x ∧ y.smem = x.smem ∧ y.tab = x.tab ∧ y.tvec = x.tvec ∧ y.link = x.link ∧ y.pc = x.pc ∧ y.next = x.next ∧ y.ended = x.ended

/-- The die of a context with the address of its next bundle read out where it has just passed over a loop of no passes: the bundle
behind END (R132). -/
def State.behindEnd (s : State) (cid : Nat) (x : Die) : Die :=
  match x.probe with
  | none => x
  | some e => { x with probe := none, pc := e + (Header.ofWord (s.fetchWord cid e)).bytes }

/-- Handler bundles owe a step or a write of cycle C in the slots of `P`. -/
def Core.HandlerOwes (c : Core) (P : Nat → Prop) (C : Nat) : Prop :=
  (∃ e ∈ c.tasks, e.ctx.fl.hnd = true ∧ P e.ctx.slot ∧ e.cyc = C) ∨ ∃ o ∈ c.owed, o.hnd = true ∧ P o.slot ∧ o.due = C

/-- What handler bundles still owe in the slots of `P` comes first, a cycle at a time from the earliest: its steps, and then its writes, of
which none leaves the timed core (R121, R366). -/
def State.Drains (s : State) (p cid : Nat) (P : Nat → Prop) : Prop :=
  let c := s.core cid
  ∀ C, c.HandlerOwes P C → (∀ k, c.HandlerOwes P k → C ≤ k) →
    let now := fun (e : Task) => e.ctx.fl.hnd = true ∧ P e.ctx.slot ∧ e.cyc = C
    let due := fun (o : Owed) => o.hnd = true ∧ P o.slot ∧ o.due = C
    ((∃ e ∈ c.tasks, now e) → Runs (.cycleBoundary p) s fun t => s.Then t p cid 2 (fun e => e ∈ c.tasks ∧ now e)
      ∧ t.core cid = { c with tasks := (t.core cid).tasks } ∧ ∀ e, e ∈ (t.core cid).tasks ↔ e ∈ c.tasks ∧ ¬now e)
    ∧ ((∀ e ∈ c.tasks, ¬now e) → Runs (.cycleBoundary p) s fun t =>
        s.Then t p cid 2 (fun e => ∃ o ∈ c.owed, due o ∧ o.outward = false ∧ c.performTask cid p o = some e)
        ∧ ∀ o, o ∈ (t.core cid).owed ↔ o ∈ c.owed ∧ ¬(due o ∧ o.outward = true))

/-! ### Holds (R25 to R27, R244, R289, R300, R305, R385) -/

/-- A context whose partition is held stands (R25): of its timed core nothing changes but what the walker still had to read of a loop of no
passes. -/
def State.Stands (s t : State) (cid : Nat) : Prop :=
  { t.core cid with dies := [] } = { s.core cid with dies := [] }
    ∧ ∀ d, { (t.core cid).die d with pc := 0, probe := none } = { (s.core cid).die d with pc := 0, probe := none }

/-- A context holds one hold of an event, found first of its kind. -/
def State.holding (s : State) (cid : Nat) (h : Hold) (test : Hold → Bool) : Prop := (s.ctx cid).holds.find? test = some h

/-- A page is shot down (R301): every context that it still concerns has the shootdown among the inputs that wait for it, and the dies of a
partition without a context keep no translation of it. -/
def State.ShotDown (s : State) (va len : Nat) : Prop :=
  (∀ c, SMap.has s.ctxs c = true → s.concerned c va len = true →
    ∃ x ∈ s.hub.shootdowns, x.va = va ∧ x.len = len ∧ c ∈ x.left ∧ ∃ e ∈ s.inputs, e.instr = .shootdownApply c x.id)
  ∧ ∀ p, SMap.has s.parts p = true → (∀ e ∈ s.ctxs, (s.ctx e.1).p ≠ p) → ∀ d ∈ s.diesOf p, let h := s.dieHw d
      ∀ e ∈ h.dtlb ++ h.itlb ++ h.linkTlb ++ h.ltlb, e.inRange va len = false

/-- What a walk that found a leaf leaves before its hold's end (R294, R295): the leaf takes A, and D for a write; the die's last level and
its first-level TLB hold it (an instruction TLB with no pinned entry to spare keeps what it has). -/
def State.Walked (s u : State) (cid die va perm : Nat) (n : Option Nat) (leaf : BitVec 64) (level pa : Nat) : Prop :=
  let set := leaf ||| (if bitAt perm 1 then 0x60 else 0x20)
  let e : TlbEntry := ⟨va / 2 ^ pageBits level * 2 ^ pageBits level, level, (s.ctx cid).asn, set, false⟩
  u.core cid = s.core cid ∧ (u.ctx cid).holds = (s.ctx cid).holds.filter (fun h => h != ⟨1, die, .walk va perm n⟩)
    ∧ u.pte pa = set ∧ (∀ a, a < pa ∨ pa + 8 ≤ a → u.hbmByte a = s.hbmByte a)
    ∧ e ∈ (u.dieHw die).ltlb ∧ (n ≠ none → e ∈ (u.dieHw die).dtlb)
    ∧ (n = none → ((s.dieHw die).itlb.filter TlbEntry.pinned).length < 256 → ∃ f ∈ (u.dieHw die).itlb, { f with pinned := false } = e)

/-- The bytes of a page-table entry with some bits set and some cleared. -/
def leafBits (e : BitVec 64) (set clear : BitVec 64) : BitVec 64 := (e &&& ~~~clear) ||| set

/-! ### Sync words and the mailbox (R237, R238, R286, R287, R290, R391, R393, R441) -/

/-- An event changes one sync word to `f` of it: a launch word of the package; or a word of a die, in the context that holds it, whose
SMEM is otherwise as it was. A context that has ended discards it, and the steward is told; one in replay takes nothing. -/
def State.WordBecomes (s : State) (i : Instr) (r : SyncRef) (f : BitVec 128 → BitVec 128) : Prop :=
  match r with
  | .launch n => Runs i s fun t => t.cores = s.cores ∧ t.ctxs = s.ctxs
      ∧ ∀ k, t.launchWord k = if k = n % 1024 then f (s.launchWord k) else s.launchWord k
  | .die cid d n =>
    let a := 0x30000 + 16 * (n % 4096)
    ((s.ctx cid).alive = false → Runs i s fun t => (5, a) ∈ t.hub.events ∧ t.cores = s.cores ∧ t.ctxs = s.ctxs ∧ t.hbm = s.hbm)
    ∧ ((s.ctx cid).alive = true → (s.ctx cid).replaying = true → exec i s = .next s)
    ∧ ((s.ctx cid).alive = true → (s.ctx cid).replaying = false → Runs i s fun t =>
        ((t.core cid).die d).syncAt a = f (((s.core cid).die d).syncAt a)
        ∧ (∀ k, k < a ∨ a + 16 ≤ k → ((t.core cid).die d).smemByte k = ((s.core cid).die d).smemByte k)
        ∧ (∀ e, e ≠ d → ((t.core cid).die e).smem = ((s.core cid).die e).smem)
        ∧ (t.core cid).owed = (s.core cid).owed ∧ (t.core cid).slices = (s.core cid).slices ∧ (t.core cid).acc = (s.core cid).acc
        ∧ ∀ c, c ≠ cid → t.core c = s.core c)

/-! ### Launch queues, contexts and kernels (R241 to R275) -/

/-- The queues of a partition but one stand, and so do the timed cores and the contexts. -/
def State.QueueOnly (s t : State) (p q : Nat) : Prop :=
  t.cores = s.cores ∧ t.ctxs = s.ctxs ∧ t.hub = s.hub ∧ t.link = s.link
    ∧ (∀ k, k ≠ q → t.queue p k = s.queue p k) ∧ (∀ k, k ≠ p → t.part k = s.part k)
    ∧ ∀ a, a < s.qBase p q ∨ s.qBase p q + 64 ≤ a → t.hbmByte a = s.hbmByte a

/-! ### Steward, debugger and replay (R301, R302, R306, R322, R367 to R382, R390, R392) -/

/-- RESULT of the steward mailbox's status word (R392). -/
def State.result (s : State) : Nat := s.hub.stat.toNat / 256 % 256

/-- TAG of the steward mailbox's status word. -/
def State.tag (s : State) : Nat := s.hub.stat.toNat / 65536 % 65536

/-- Neither a timed core, nor a context, nor HBM changes. -/
def State.Untouched (s t : State) : Prop := t.cores = s.cores ∧ t.ctxs = s.ctxs ∧ t.hbm = s.hbm

/-- The mailbox commands of the host, with their OP codes. -/
def commands (part va len sync peer key kinds lo hi g tag : Nat) : List (Nat × Instr) :=
  [(1, .queryPartition part tag), (2, .shootdown va len sync tag), (3, .clearPoisonMark part va tag), (4, .loadLinkKey peer key tag),
   (5, .eraseLinkKey peer tag), (6, .setTrace part kinds lo hi tag), (7, .setProfileWindow part va g tag), (8, .recordReplay part len tag)]

/-- The steward is busy with a command (R392). -/
def State.busyNow (s : State) : Prop := s.hub.stat.toNat % 2 = 1

/-- The steward takes a command: it is busy with no other one (R392). -/
def State.Takes (s : State) (op tag : Nat) : Prop :=
  s.busyNow → s.hub.cmd.toNat % 256 = op ∧ s.hub.cmd.toNat / 2 ^ 16 % 2 ^ 16 = tag % 2 ^ 16

/-! ### Ports, packets and collectives (R319 to R331, R415) -/

/-- A change of one port, and of nothing else of the machine. -/
def State.PortOnly (s t : State) (n : Nat) (f : Port → Port) : Prop :=
  s.Untouched t ∧ ∀ k, t.port k = if k = n then f (s.port k) else s.port k

/-- The collectives of a matched set that are not over here (R331). -/
def State.unfinished (s : State) (c : Coll) : List Coll := s.link.colls.filter fun e => e.matches c && !e.done

/-- The SMEM address of a member's completion word. -/
def Coll.wordAt (c : Coll) : Nat := 0x30000 + 16 * (c.word % 4096)

/-! ### The device (R13 to R16, R383, R386 to R389, R393) -/

/-- The slices of a row can be covered (R13): some stretch of its 132 places, in which no two neighbours are out, has 128 good ones. -/
def coverable (out : Nat → Prop) : Prop :=
  ∃ i j, j ≤ 132 ∧ (∀ a, i ≤ a → a + 1 < j → ¬(out a ∧ out (a + 1)))
    ∧ ∃ good : List Nat, good.Nodup ∧ good.length = 128 ∧ ∀ a ∈ good, i ≤ a ∧ a < j ∧ ¬out a

end Sys2Proof.Machine
end

