-- ==== Sys2Proof/Certificates/Slice0/Obligations.lean ====
section
/-!
DEFINITION. The statements for the provers: one `Obligations.<Name>` for each, with the rule of the spec it formalises.
-/
open Sys2Proof Sys2Proof.Machine

/-! ### Reset, fetching and decoding -/

/-- O1 (the model's form of HBM): the machine is safe right after reset. The readings and choices of the model that it rests on stand in
log entry 1. -/
def Obligations.ResetIsSafe : Prop := State.reset.Safe

/-- O2 (the model's form of HBM; R9, R229): every step keeps the canonical form of memory, from every state in which it holds. The
readings and choices of the model that it rests on stand in log entry 1. -/
def Obligations.StepKeepsSafe : Prop := ∀ s t, s.Safe → step s = .next t → t.Safe

/-- O3 (R18, R24): the step at the head of the agenda is the one that runs: `step` is `exec` of its instruction in its context, once the
operands that its record saves are owed; a syllable that records nothing runs on the very state. An instruction word placed where the
machine takes its next one is decoded and run. The readings and choices of the model that it rests on stand in log entry 13. -/
def Obligations.StepRunsTheHead : Prop :=
  (∀ (s : State) (e : Task) (r : List Task), s.agenda = e :: r →
    let s' : State := { s with agenda := r, cur := e.ctx }
    (∃ u, s'.Saves u ∧ step s = exec e.instr u) ∧ ((∀ l ∈ e.ctx.fl.logs, l.1 ≠ e.ctx.slot) → step s = exec e.instr s'))
  ∧ ∀ (s : State) (nbits w : Nat) (i : Instr), s.cur.fl.logs = [] → decodeTableWord nbits w = some i →
    step (s.withFetchWord nbits w) = exec i s

/-- O4 (R20, R85, R86, R88, R94): a die whose bundle is due issues it. A well-encoded one enters the rows with T, its address, its length,
its group and its literal, and holds every syllable of its S, V, M and C slots, each decoded from the word that stands there; the next
bundle of the die issues 1 + STALL cycles later. A badly encoded one enters nothing, and each finding is a trap of T. The readings and
choices of the model that it rests on stand in log entry 80. -/
def Obligations.IssueDecodesTheBundle : Prop :=
  ∀ (s : State) (p d cid a : Nat), (s.part p).running = some cid → (s.ctx cid).state = .running →
    (s.core cid).dueBundle d = some a → (s.core cid).handler = false → ((s.core cid).die d).tab.padded = false →
    let h := (s.fetchWord cid a).toNat
    let b := s.fetchBundle cid a
    let i : Instr := if h / 2 ^ 56 = 0 then .delayBundle p d else .bundleIssue p d
    (b.findings (s.ctx cid) = [] → (s.group cid (h / 2 ^ 48 % 256)).v = true → Runs i s fun t => ∃ f,
      (t.core cid).flights = (s.core cid).flights ++ [f]
      ∧ f.T = (s.core cid).acc.toNat ∧ f.addr = a ∧ f.die = d ∧ f.hnd = false ∧ f.lit.toNat = h % 2 ^ 32 ∧ f.grp = h / 2 ^ 48 % 256
      ∧ f.len = 8 * (1 + (List.range 8).countP fun k => h / 2 ^ (63 - k) % 2 = 1)
      ∧ (∀ n i, (n, i) ∈ f.syl ↔ n < 6 ∧ h / 2 ^ (63 - n) % 2 = 1 ∧ decodeSlot n (slotWord s cid a n) = .ok i)
      ∧ (∀ n < 6, h / 2 ^ (63 - n) % 2 = 1 → ∃ i, (n, i) ∈ f.syl)
      ∧ ((t.core cid).die d).next = (s.core cid).acc.toNat + 1 + h / 2 ^ 42 % 64)
    ∧ (b.findings (s.ctx cid) ≠ [] → Runs i s fun t => (t.core cid).flights = (s.core cid).flights
        ∧ ∀ e ∈ b.findings (s.ctx cid), ∃ x ∈ (t.core cid).traps, x.T = (s.core cid).acc.toNat ∧ x.die = d ∧ x.code = e.1 ∧ x.val = e.2.1)

/-- O5 (R345, R350, R351, R352, R358): a die in REVERSE whose next record is due issues the adjoint bundle of the record that ends at
LOGPTR: the bundle bears T, the address of the REVERSE bundle, the record's group and its one syllable, and LOGPTR goes to the record's
data; the next record follows D(rec) cycles later (R352), and at its mark REVERSE ends, its next bundle issuing STALL cycles after those.
A record whose data lie below the mark traps with cause 0x03 and the place of its data, one that holds no syllable with cause 0x02, and
neither issues. In a slice the adjoint step completes for every record, and leaves HBM and every other context as they are. The readings
and choices of the model that it rests on stand in log entries 47 and 48. -/
def Obligations.IssueOfAdjointBundles : Prop :=
  (∀ (s : State) (p d cid : Nat) (rr : RevRun), (s.part p).running = some cid → (s.ctx cid).state = .running → s.cur.fl.inv = none →
    ((s.core cid).die d).rev = some rr → rr.next = (s.core cid).acc.toNat → (s.core cid).handler = false →
    let r := (s.revRecord cid d).toNat
    let data := bitsOf r 192 42
    let slot := bitsOf r 88 3 + 1
    let w := dw (bitsOf r 0 64)
    let base := (SMap.get ({} : Handle) ((s.core cid).die d).tab.handles (((s.core cid).die d).logbase >>> 60).toNat).frame.toNat
    (∀ i, data ≥ rr.mark → slot ≤ 5 → decodeSlot slot w = .ok i → Runs (.adjointBundleIssue p d) s fun t => ∃ f,
      (t.core cid).flights = (s.core cid).flights ++ [f] ∧ f.T = (s.core cid).acc.toNat ∧ f.addr = rr.addr ∧ f.die = d
      ∧ f.grp = bitsOf r 80 8 ∧ f.syl = [(slot, i)] ∧ f.inv.map Prod.fst = some (s.revRecord cid d)
      ∧ ((t.core cid).die d).logptr.toNat = 32 * (data / 32)
      ∧ (data = rr.mark → ((t.core cid).die d).rev = none)
      ∧ ∀ n, (s.onRow cid p d (bitsOf r 80 8)).turn ⟨i, r, base⟩ n →
        (data > rr.mark → ((t.core cid).die d).rev = some { rr with next := (s.core cid).acc.toNat + n })
        ∧ (data = rr.mark → ((t.core cid).die d).next = (s.core cid).acc.toNat + n + rr.stall))
    ∧ (data < rr.mark → Runs (.adjointBundleIssue p d) s fun t => (t.core cid).flights = (s.core cid).flights
        ∧ ∃ x ∈ (t.core cid).traps, x.T = (s.core cid).acc.toNat ∧ x.die = d ∧ x.code = 3 ∧ x.val = data ∧ x.rev = true)
    ∧ (data ≥ rr.mark → (∀ i, slot ≤ 5 → decodeSlot slot w ≠ .ok i) → Runs (.adjointBundleIssue p d) s fun t =>
        (t.core cid).flights = (s.core cid).flights
        ∧ ∃ x ∈ (t.core cid).traps, x.T = (s.core cid).acc.toNat ∧ x.die = d ∧ x.code = 2 ∧ x.rev = true))
  ∧ ∀ (s : State) (p d : Nat) (e : BitVec 256 × Nat), s.cur.fl.inv = some e → Runs (.adjointBundleIssue p d) s fun t =>
      (∀ a, t.hbmByte a = s.hbmByte a) ∧ (∀ cid, cid ≠ s.cur.cid → t.core cid = s.core cid) ∧ t.link = s.link ∧ t.parts = s.parts

/-- O6 (R86, R98, R102, R104, R106, R108 to R111): words that the spec prints, or that its tables give, decode to the instructions they
stand for: those of S, V, M and C slots, in every format. -/
def Obligations.DecodeWords : Prop :=
  decodeSlot 0 0x1014A00000000010 = .ok (.addi ⟨5, 5, 16⟩)
  ∧ decodeSlot 0 0xA114DFFFFFFFFFFB = .ok (.bne ⟨5, 6, -5⟩)
  ∧ decodeSlot 0 0xA913000180000003 = .ok (.loopb ⟨1, 6, 3, 3⟩)
  ∧ decodeSlot 0 0xB40C200000000000 = .ok (.waitg ⟨3, 1, 0, 0⟩)
  ∧ decodeSlot 0 0xB008800000000001 = .ok (.trans ⟨2, 4, 0, 1⟩)
  ∧ decodeSlot 0 0xBD80006400400000 = .ok (.cfgw ⟨0, 0, 0x032, 0x400000⟩)
  ∧ decodeSlot 0 0xB901600000000000 = .ok (.dregset ⟨0, 11, 0, 0⟩)
  ∧ decodeSlot 1 0x0083020800300000 = .ok (.vadd ⟨3, 1, 2, 0, 0, 3, 0, 0, 0, 0, 0⟩)
  ∧ decodeSlot 2 0x8186081404000800 = .ok (.vmul ⟨6, 4, 5, 0, 4, 0, 0, 0, 2, 0, 0⟩)
  ∧ decodeSlot 1 0xA93362C800000000 = .ok (.gmul ⟨0x33, 0x31, 0x32, 0, 0, 0, 0, 0, 0, 0, 0⟩)
  ∧ decodeSlot 3 0x8300020240402000 = .ok (.mmaz ⟨0, 1, 0, 0x48, 0, 1, 0, 1, 0, 0, 0⟩)
  ∧ decodeSlot 3 0x8584900000402000 = .ok (.mout ⟨4, 0x48, 0, 0, 0, 1, 0, 1, 0, 0, 0⟩)
  ∧ decodeSlot 4 0x00BA0201FE000080 = .ok (.ldr ⟨0x3A, 0, 1, 0x00FF, 0, 0, 8, 0⟩)
  ∧ decodeSlot 5 0x01380001FE000100 = .ok (.str ⟨0x38, 0, 0, 0x00FF, 0, 0, 16, 0⟩)
  ∧ decodeSlot 4 0x04801001C0000000 = .ok (.xsend ⟨0, 1, 0, 7, 0⟩)
  ∧ decodeSlot 1 0x2003020800300000 = .error .opcode

/-- O7 (R85 to R112): decoding the encoding of a well-formed syllable gives it back, in every slot where it may stand. -/
def Obligations.DecodeOfEncode : Prop := ∀ (i : Instr), ∀ n ∈ i.slots, i.wf = true → decodeSlot n (encode i) = .ok i

/-- O8 (R87, R96, R99): what a word decodes to is well formed, may stand in the slot, and encodes to the same word but for the stop bit:
no two words that differ below it decode to one instruction, and no bit of a word is dropped. -/
def Obligations.EncodeOfDecode : Prop :=
  ∀ n < 6, ∀ (w : DWord) (i : Instr), decodeSlot n w = .ok i → i.wf = true ∧ n ∈ i.slots ∧ encode i = w &&& 0x7FFFFFFFFFFFFFFF

/-! ### S: the integer forms (R119 to R126) -/

/-- O9 (R119, R123): the integer forms of three registers complete, give xd the value of the table, and change nothing else: ADD, SUB,
MUL, MULHS and MULHU as exact integer facts, the products two cycles later than the rest; the bitwise forms bit by bit, the shifts as
multiplication and floor division by 2^sh, the rotation bit by bit; minima, maxima, comparisons, SEL, and the counts of leading zeros and
of ones. -/
def Obligations.IntegerArithmetic : Prop :=
  ∀ (f : SR) (s : State),
    let a := s.xreg f.xa
    let b := s.xreg f.xb
    let sh := b.toNat % 64
    s.Computes (.add f) f.xd 1 (fun v => v.toNat = (a.toNat + b.toNat) % 2 ^ 64)
    ∧ s.Computes (.sub f) f.xd 1 (fun v => (v.toNat + b.toNat) % 2 ^ 64 = a.toNat)
    ∧ s.Computes (.mul f) f.xd 3 (fun v => v.toNat = a.toNat * b.toNat % 2 ^ 64)
    ∧ s.Computes (.mulhs f) f.xd 3 (fun v => v.toInt = a.toInt * b.toInt / 2 ^ 64)
    ∧ s.Computes (.mulhu f) f.xd 3 (fun v => v.toNat = a.toNat * b.toNat / 2 ^ 64)
    ∧ s.Computes (.and f) f.xd 1 (fun v => ∀ i, v.getLsbD i = (a.getLsbD i && b.getLsbD i))
    ∧ s.Computes (.or f) f.xd 1 (fun v => ∀ i, v.getLsbD i = (a.getLsbD i || b.getLsbD i))
    ∧ s.Computes (.xor f) f.xd 1 (fun v => ∀ i, v.getLsbD i = (a.getLsbD i != b.getLsbD i))
    ∧ s.Computes (.andn f) f.xd 1 (fun v => ∀ i, v.getLsbD i = (a.getLsbD i && !b.getLsbD i))
    ∧ s.Computes (.shl f) f.xd 1 (fun v => v.toNat = a.toNat * 2 ^ sh % 2 ^ 64)
    ∧ s.Computes (.shrl f) f.xd 1 (fun v => v.toNat = a.toNat / 2 ^ sh)
    ∧ s.Computes (.shra f) f.xd 1 (fun v => v.toInt = a.toInt / 2 ^ sh)
    ∧ s.Computes (.rotr f) f.xd 1 (fun v => ∀ i < 64, v.getLsbD i = a.getLsbD ((i + sh) % 64))
    ∧ s.Computes (.min f) f.xd 1 (fun v => v.toInt = min a.toInt b.toInt)
    ∧ s.Computes (.max f) f.xd 1 (fun v => v.toInt = max a.toInt b.toInt)
    ∧ s.Computes (.minu f) f.xd 1 (fun v => v.toNat = min a.toNat b.toNat)
    ∧ s.Computes (.maxu f) f.xd 1 (fun v => v.toNat = max a.toNat b.toNat)
    ∧ s.Computes (.slt f) f.xd 1 (fun v => v.toNat = if a.toInt < b.toInt then 1 else 0)
    ∧ s.Computes (.sltu f) f.xd 1 (fun v => v.toNat = if a.toNat < b.toNat then 1 else 0)
    ∧ s.Computes (.seq f) f.xd 1 (fun v => v.toNat = if a.toNat = b.toNat then 1 else 0)
    ∧ s.Computes (.sel f) f.xd 1 (fun v => v = if (s.xreg f.xc).toNat = 0 then b else a)
    ∧ s.Computes (.clz f) f.xd 1 (fun v =>
        if a.toNat = 0 then v.toNat = 64 else 2 ^ (63 - v.toNat) ≤ a.toNat ∧ a.toNat < 2 ^ (64 - v.toNat) ∧ v.toNat < 64)
    ∧ s.Computes (.popc f) f.xd 1 (fun v => v.toNat = (List.range 64).countP fun i => a.getLsbD i)

/-- O10 (R124): the four divisions complete with the values of R124's program, twenty cycles after T, and none traps. -/
def Obligations.Division : Prop :=
  ∀ (f : SR) (s : State),
    let a := s.xreg f.xa
    let b := s.xreg f.xb
    let overflow := a.toInt = -2 ^ 63 ∧ b.toInt = -1
    s.Computes (.divs f) f.xd 20 (fun v =>
      if b.toNat = 0 then v.toNat = 2 ^ 64 - 1 else if overflow then v.toInt = -2 ^ 63 else v.toInt = a.toInt.tdiv b.toInt)
    ∧ s.Computes (.divu f) f.xd 20 (fun v => if b.toNat = 0 then v.toNat = 2 ^ 64 - 1 else v.toNat = a.toNat / b.toNat)
    ∧ s.Computes (.rems f) f.xd 20 (fun v =>
      if b.toNat = 0 then v = a else if overflow then v.toNat = 0 else v.toInt = a.toInt - b.toInt * a.toInt.tdiv b.toInt)
    ∧ s.Computes (.remu f) f.xd 20 (fun v => if b.toNat = 0 then v = a else v.toNat = a.toNat % b.toNat)

/-- O11 (R125, R126, R123): the immediate forms with i the sign-extended immediate, LIT and LITH with the header's literal (no word with a
nonzero zero field decodes to them), and SNOP, which changes nothing at all. -/
def Obligations.ImmediatesAndLiterals : Prop :=
  ∀ (f : SI) (g : SR) (s : State),
    let a := s.xreg f.xa
    let i := f.imm.toInt
    let sh := f.imm.toNat
    s.Computes (.addi f) f.xd 1 (fun v => (v.toNat : Int) = (a.toNat + i) % 2 ^ 64)
    ∧ s.Computes (.andi f) f.xd 1 (fun v => ∀ k < 64, v.getLsbD k = (a.getLsbD k && f.imm.getLsbD (min k 44)))
    ∧ s.Computes (.ori f) f.xd 1 (fun v => ∀ k < 64, v.getLsbD k = (a.getLsbD k || f.imm.getLsbD (min k 44)))
    ∧ s.Computes (.xori f) f.xd 1 (fun v => ∀ k < 64, v.getLsbD k = (a.getLsbD k != f.imm.getLsbD (min k 44)))
    ∧ (sh < 64 → s.Computes (.shli f) f.xd 1 (fun v => v.toNat = a.toNat * 2 ^ sh % 2 ^ 64))
    ∧ (sh < 64 → s.Computes (.shrli f) f.xd 1 (fun v => v.toNat = a.toNat / 2 ^ sh))
    ∧ (sh < 64 → s.Computes (.shrai f) f.xd 1 (fun v => v.toInt = a.toInt / 2 ^ sh))
    ∧ s.Computes (.slti f) f.xd 1 (fun v => v.toNat = if a.toInt < i then 1 else 0)
    ∧ s.Computes (.muli f) f.xd 3 (fun v => (v.toNat : Int) = a.toNat * i % 2 ^ 64)
    ∧ s.Computes (.lit f) f.xd 1 (fun v => (v.toNat : Int) = (s.cur.fl.lit.toInt + i) % 2 ^ 64)
    ∧ s.Computes (.lith f) f.xd 1 (fun v => v.toNat = s.cur.fl.lit.toNat * 2 ^ 32 + a.toNat % 2 ^ 32)
    ∧ Runs (.snop g) s (· = s)
    ∧ ∀ n w, (decodeSlot n w = .ok (.lit f) → f.xa = 0) ∧ (decodeSlot n w = .ok (.lith f) → f.imm = 0)

/-! ### S: SMEM (R127) -/

/-- O12 (R127): a load at T only schedules its sampling of A in T + 2; that sampling owes xd the zero-extended little-endian bytes at A,
for T + 3, and changes nothing else. -/
def Obligations.Loads : Prop :=
  ∀ (f : SI) (s : State), ∀ e ∈ loadForms f,
    let a := ((s.xreg f.xa).toNat + f.imm.toInt) % 2 ^ 64
    (s.cur.row = 0 → smemFits a.toNat e.1 → Runs e.2 s fun t => s.CoreOnly t ∧ ∃ tr ac, s.cur.Unsettled tr ∧
      t.here = { s.here with traps := s.here.traps ++ tr, access := s.here.access ++ ac
                             tasks := s.here.tasks ++ [⟨s.cur.fl.T + 2, { s.cur with X := a.toNat, row := 1 }, e.2⟩] })
    ∧ (s.cur.row ≠ 0 → (∀ w ∈ s.die.smemBad, 4 * w + 4 ≤ s.cur.X / 4 * 4 ∨ s.cur.X + e.1 ≤ 4 * w) → ∃ v : DWord,
        (∀ k < 8, byteOf v.toNat k = if k < e.1 then (s.die.smemByte (s.cur.X + k)).toNat else 0)
        ∧ Runs e.2 s fun t => s.Owes t (xdWrite f.xd v (s.cur.fl.T + 2)))

/-- O13 (R127): a store of an aligned address, outside the sync area or in S, owes the low bytes of xd, as sampled at T, to exactly the
bytes from A, at the end of T + 2, and changes nothing else. -/
def Obligations.Stores : Prop :=
  ∀ (f : SI) (s : State), ∀ e ∈ storeForms f,
    let a := ((s.xreg f.xa).toNat + f.imm.toInt) % 2 ^ 64
    smemFits a.toNat e.1 → (a.toNat < 0x30000 ∨ s.die.inS = true) →
    Runs e.2 s fun t => s.Owes t [(s.cur.fl.T + 2, .smem a.toNat e.1 ((s.xreg f.xd).toNat % 2 ^ (8 * e.1)))]

/-! ### S: the flow of bundles (R128 to R136) -/

/-- O14 (R128, R136): a taken branch makes the bundle at address + 8 × off45 the next one; one that is not taken changes nothing; a taken
one at the end of a live body traps with cause 0x0A. -/
def Obligations.Branches : Prop :=
  ∀ (f : SB) (s : State), ∀ e ∈ branchForms f (s.xreg f.xa) (s.xreg f.xb),
    (e.2 → s.cur.fl.hnd = true ∨ ¬s.EndsBody → Runs e.1 s fun t => s.DieBecomes t (Die.goTo s.cur.fl.hnd (s.branchTarget f)))
    ∧ (¬e.2 → Runs e.1 s fun t => s.Owes t [])
    ∧ (e.2 → s.cur.fl.hnd = false → s.EndsBody → Runs e.1 s (s.Trapped · 0x0A 1))

/-- O15 (R129, R93): CALL pushes the address that follows its bundle and goes to its target, RET goes to the popped entry, JR to xa; a
full or empty link stack traps with cause 0x1A and leaves the stack, and a target of JR that is misaligned or out of range with cause
0x03; at the end of a live body each traps with cause 0x0A, whatever else it finds. -/
def Obligations.CallsAndReturns : Prop :=
  ∀ (f : SB) (s : State),
    let go := Die.goTo s.cur.fl.hnd
    let a := (s.xreg f.xa).toNat
    let free := s.cur.fl.hnd = true ∨ ¬s.EndsBody
    (free → s.die.link.length < 16 → Runs (.call f) s fun t =>
        s.DieBecomes t fun d => go (s.branchTarget f) { d with link := dw (s.cur.fl.addr + s.cur.fl.len) :: d.link })
    ∧ (∀ r l, free → s.die.link = r :: l → Runs (.ret f) s fun t => s.DieBecomes t fun d => go r.toNat { d with link := l })
    ∧ (free → a % 8 = 0 → a < 2 ^ 52 → Runs (.jr f) s fun t => s.DieBecomes t (go a))
    ∧ (s.die.link.length = 16 → Runs (.call f) s fun t => s.Trapped t 0x1A 16 ∧ t.die.link = s.die.link)
    ∧ (s.die.link = [] → Runs (.ret f) s fun t => s.Trapped t 0x1A 0 ∧ t.die.link = [])
    ∧ (a % 8 ≠ 0 ∨ a ≥ 2 ^ 52 → Runs (.jr f) s (s.Trapped · 3 s.position))
    ∧ (¬free → ∀ i ∈ [Instr.call f, .ret f, .jr f], Runs i s (s.Trapped · 0x0A 1))

/-- O16 (R130, R132, R134, R135): LOOP, LOOPL and LOOPB on a level that is not live start it with n live passes and their bound and go to
START, or name the bundle after END when no pass is issued; in a padded pass LOOPL and LOOPB start with n = 0. The readings and choices of
the model that it rests on stand in log entry 74. -/
def Obligations.LoopsStart : Prop :=
  ∀ (f : SL) (s : State),
    let a := (s.xreg f.xa).toNat
    let n := if f.xa = 0 then f.cnt.toNat else a
    let bound := f.cnt.toNat
    let skip := fun d : Die => { d with probe := some (s.cur.fl.addr + 8 * f.endOff.toNat) }
    (s.tab.level f.level.toNat).live = false → ¬s.EndsBody → s.cur.fl.len ≤ 8 * f.endOff.toNat →
    (0 < n → n < 2 ^ 32 → Runs (.loop f) s fun t => s.DieBecomes t (s.starts f n 0))
    ∧ (n = 0 → Runs (.loop f) s fun t => s.DieBecomes t skip)
    ∧ (bound = 0 → s.InPaddedPass → Runs (.loopb f) s (fun t => s.DieBecomes t skip) ∧ Runs (.loopl f) s (fun t => s.DieBecomes t skip))
    ∧ (0 < bound → s.InPaddedPass →
        Runs (.loopb f) s (fun t => s.DieBecomes t (s.starts f 0 bound)) ∧ Runs (.loopl f) s (fun t => s.DieBecomes t (s.starts f 0 bound)))
    ∧ (0 < bound → a ≤ bound → ¬s.InPaddedPass → Runs (.loopb f) s fun t => s.DieBecomes t (s.starts f a bound))
    ∧ (0 < bound → a % 4 = 0 → a + 4 < 0x40000 → s.rowSpan a ≤ bound → ¬s.InPaddedPass →
        Runs (.loopl f) s fun t => s.DieBecomes t (s.starts f (s.rowSpan a) bound))

/-- O17 (R68, R122, R127, R130, R132, R134, R136, R367): where loads, stores and the loop forms trap. A misaligned or too high address
traps with cause 0x03 and the syllable's position, a store into the sync area in U with cause 0x04, and a load of an uncorrectable word
with cause 0x13 and its address. A live level traps with cause 0x1B; an END before START, a count of LOOP above 2^32 - 1, an n above the
bound and a bad row pointer with cause 0x03; and a loop form in the last bundle of a live body with cause 0x0A. -/
def Obligations.MemoryAndLoopTraps : Prop :=
  (∀ (f : SI) (s : State),
    let a := (((s.xreg f.xa).toNat + f.imm.toInt) % 2 ^ 64).toNat
    (∀ e ∈ loadForms f, s.cur.row = 0 → ¬smemFits a e.1 → Runs e.2 s (s.Trapped · 3 s.position))
    ∧ (∀ e ∈ loadForms f, s.cur.row ≠ 0 → s.cur.X / 4 ∈ s.die.smemBad → Runs e.2 s (s.Trapped · 0x13 s.cur.X))
    ∧ (∀ e ∈ storeForms f, ¬smemFits a e.1 → Runs e.2 s (s.Trapped · 3 s.position))
    ∧ (∀ e ∈ storeForms f, 0x30000 ≤ a → a < 0x40000 → s.die.inS = false → Runs e.2 s (s.Trapped · 4 s.position)))
  ∧ ∀ (f : SL) (s : State),
    let a := (s.xreg f.xa).toNat
    let row := a % 4 = 0 ∧ a + 4 < 0x40000
    (∀ i ∈ [Instr.loop f, .loopl f, .loopb f], (s.tab.level f.level.toNat).live = true →
      Runs i s (s.Trapped · 0x1B f.level.toNat))
    ∧ (8 * f.endOff.toNat < s.cur.fl.len →
        ∀ i ∈ [Instr.loop f, .loopl f, .loopb f], Runs i s (s.Trapped · 3 s.position))
    ∧ (s.EndsBody → Runs (.loop f) s (s.Trapped · 0x0A 1) ∧ Runs (.loopb f) s (s.Trapped · 0x0A 1))
    ∧ (s.EndsBody → s.InPaddedPass ∨ row → Runs (.loopl f) s (s.Trapped · 0x0A 1))
    ∧ (f.xa ≠ 0 → a ≥ 2 ^ 32 → Runs (.loop f) s (s.Trapped · 3 s.position))
    ∧ (a > f.cnt.toNat → ¬s.InPaddedPass → Runs (.loopb f) s (s.Trapped · 3 a))
    ∧ (¬row → ¬s.InPaddedPass → Runs (.loopl f) s (s.Trapped · 3 s.position))
    ∧ (row → s.rowSpan a > f.cnt.toNat → ¬s.InPaddedPass → Runs (.loopl f) s (s.Trapped · 3 (s.rowSpan a)))

/-- O18 (R133): the loop-end event. A bundle that does not end the innermost live level changes no level. One that does advances its
INDEX, and goes back to START while a pass is left. After an event with no back-edge no level that ended there is innermost, so that
levels that end on one bundle have all ended, the inner first. -/
def Obligations.LoopEndEvent : Prop :=
  ∀ (addr : Nat) (t : Tables),
    ((∀ l, t.innermost = some l → (t.level l).stop ≠ addr) → loopEnd addr 8 t = (t, none))
    ∧ (∀ l, t.innermost = some l → (t.level l).stop = addr →
        let r := loopEnd addr 8 t
        let left := (t.level l).index + 1 < (if (t.level l).bound = 0 then (t.level l).count else (t.level l).bound)
        ((r.1.level l).index = (t.level l).index + 1)
        ∧ (left → r.2 = some (t.level l).start ∧ ∀ k, k ≠ l → r.1.level k = t.level k)
        ∧ (¬left → (r.1.level l).live = false)
        ∧ (r.2 = none → ∀ k, r.1.innermost = some k → (r.1.level k).stop ≠ addr))

/-! ### S: tables and the sink (R138 to R148) -/

/-- O19 (R138 to R144): ITSET, ITREV, FMTSET, TSHAPE, SKSET and CSHAPE of an entry in range owe exactly that entry, for bundles after T;
ITSET stores zero in reserved bits, ITREV changes the four REV bits alone; SKSET takes bits [13:0] of sixteen halfwords of SMEM, CSHAPE
136 bytes with the reserved header bits zero; an entry out of range, a bad address or a header of more than 16 dimensions traps with cause
0x03. -/
def Obligations.TableWrites : Prop :=
  ∀ (f : SC) (s : State),
    let n := f.xd.toNat
    let xb : BitVec 5 := BitVec.ofNat 5 (f.csr.toNat % 32)
    let a := s.xreg f.xa
    let b := s.xreg xb
    let byte := fun k => (s.die.smemByte (a.toNat + k)).toNat
    let skOk := n < 4 ∧ a.toNat % 32 = 0 ∧ a.toNat < 0x40000
    let shOk := a.toNat % 8 = 0 ∧ a.toNat + 136 ≤ 0x40000 ∧ byte 0 % 32 ≤ 15
    (n < 16 → ∃ v : BitVec 128,
        (∀ i, v.getLsbD i = (itDefined i && if i < 64 then a.getLsbD i else b.getLsbD (i - 64)))
        ∧ Runs (.itset f) s fun t => s.Owes t [(s.cur.fl.T, .tab (.it n v))])
    ∧ (n < 16 → ∃ v : BitVec 128,
        (∀ i, v.getLsbD i = if i ∈ [34, 58, 82, 106] then f.imm.getLsbD ((i - 34) / 24)
          else (SMap.get (0 : BitVec 128) s.tab.it n).getLsbD i)
        ∧ Runs (.itrev f) s fun t => s.Owes t [(s.cur.fl.T, .tab (.it n v))])
    ∧ (n < 16 → Runs (.fmtset f) s fun t => s.Owes t [(s.cur.fl.T, .tab (.fslot n (BitVec.ofNat 16 f.imm.toNat)))])
    ∧ (n < 8 → Runs (.tshape f) s fun t => s.Owes t [(s.cur.fl.T, .tab (.tsh n (BitVec.ofNat 16 f.imm.toNat)))])
    ∧ (16 ≤ n → ∀ i ∈ [Instr.itset f, .itrev f, .fmtset f], Runs i s (s.Trapped · 3 s.position))
    ∧ (8 ≤ n → Runs (.tshape f) s (s.Trapped · 3 s.position))
    ∧ (skOk → ∃ v : BitVec 224,
        (∀ e < 16, (v.extractLsb' (14 * e) 14).toNat = (byte (2 * e) + 256 * byte (2 * e + 1)) % 2 ^ 14)
        ∧ Runs (.skset f) s fun t => s.Owes t [(s.cur.fl.T, .tab (.sk n v))])
    ∧ (¬skOk → Runs (.skset f) s (s.Trapped · 3 s.position))
    ∧ (shOk → ∃ v : BitVec 1088,
        (∀ k < 136, byteOf v.toNat k = if k = 0 then byte 0 % 32 else if k < 8 then 0 else byte k)
        ∧ Runs (.cshape f) s fun t => s.Owes t [(s.cur.fl.T, .tab (.shape (f.csr.toNat % 64) v))])
    ∧ (¬shOk → Runs (.cshape f) s (s.Trapped · 3 s.position))

/-- O20 (R147, R148): ITRD gives the selected part of an iterator or level as it stands at T, and traps on any other selector or index,
and no word with a nonzero imm33 decodes to it; SINK gives a lane pair of a stream sink register, or owes its 64 bytes to SMEM. -/
def Obligations.TableReads : Prop :=
  ∀ (f : SC) (s : State),
    let n := f.xa.toNat
    let sel := f.csr.toNat
    let it := (SMap.get (0 : BitVec 128) s.tab.it n).toNat
    let lv := s.tab.level n
    let flags := (if lv.dir then 1 else 0) + (if lv.live then 2 else 0)
      + (if lv.bound ≠ 0 ∧ lv.index ≥ lv.count then 4 else 0) + 8 * (lv.depth % 8)
    let a := (s.xreg f.xa).toNat
    let rank : Rank := SMap.get 0 s.here.sinks (sinkKey s.cur.d (sel / 16 % 4) (sel % 16))
    (∀ e ∈ [(0, s.tab.line n), (1, it % 2 ^ 64), (2, it / 2 ^ 64)], n < 16 → sel = e.1 →
        Runs (.itrd f) s fun t => s.Gives t f.xd (dw e.2) s.cur.fl.T)
    ∧ (∀ e ∈ [(0x10, lv.index), (0x11, lv.count), (0x12, lv.bound), (0x13, flags)], n < 8 → sel = e.1 →
        Runs (.itrd f) s fun t => s.Gives t f.xd (dw e.2) s.cur.fl.T)
    ∧ ((sel ≤ 2 → 16 ≤ n) → (0x10 ≤ sel ∧ sel ≤ 0x13 → 8 ≤ n) → Runs (.itrd f) s (s.Trapped · 3 s.position))
    ∧ (sel / 64 % 2 = 0 → s.Computes (.sink f) f.xd 1 fun v => ∀ i < 64, v.getLsbD i = rank.getLsbD (64 * (sel / 128 % 8) + i))
    ∧ (sel / 64 % 2 = 1 → smemFits a 64 → a < 0x30000 ∨ s.die.inS = true →
        Runs (.sink f) s fun t => s.Owes t [(s.cur.fl.T + 2, .smem a 64 rank.toNat)])
    ∧ (sel / 64 % 2 = 1 → ¬smemFits a 64 → Runs (.sink f) s (s.Trapped · 3 s.position))
    ∧ (sel / 64 % 2 = 1 → 0x30000 ≤ a → a < 0x40000 → s.die.inS = false → Runs (.sink f) s (s.Trapped · 4 s.position))
    ∧ (∀ n w, decodeSlot n w = .ok (.itrd f) → f.imm = 0)

/-! ### S: control registers and the system forms (R149 to R154) -/

/-- O21 (R81, R82, R83, R149, R384, R45, R46): CFGR gives the register's value as it stands at T, EALLOW once every die's bundle of T is
debited; XFLAGS and NF are the settled bits and the events of bundles issued at T - 256 or earlier; an S register in U traps with cause
0x04, an unlisted number with cause 0x03. -/
def Obligations.CfgrReads : Prop :=
  ∀ (f : SC) (s : State),
    let n := f.csr.toNat
    let shown := fun (old : Nat → Bool) (lo : Nat) (k : Nat) => old k || s.die.evts.any fun e => decide (e.1 + 256 ≤ s.accT) && e.2.getLsbD (lo + k)
    (∀ e ∈ s.csrTable, n = e.1 → (n ∈ csrOfS → s.die.inS = true) → Runs (.cfgr f) s fun t => s.Gives t f.xd e.2 s.cur.fl.T)
    ∧ (n = 0x15 → s.Computes (.cfgr f) f.xd 1 fun v => ∀ k, v.getLsbD k = (decide (k < 5) && shown s.die.xflags.getLsbD 0 k))
    ∧ (n = 0x13 → s.Computes (.cfgr f) f.xd 1 fun v => ∀ k, v.getLsbD k = (decide (k < 4) && shown s.die.nf.getLsbD 5 k))
    ∧ (n ∈ csrOfS → s.die.inS = false → Runs (.cfgr f) s (s.Trapped · 4 s.position))
    ∧ (n ∉ csrListed → Runs (.cfgr f) s (s.Trapped · 3 s.position))

/-- O22 (R34, R149, R154, R376, R379, R380, R384): a wall reading: CFGR of WAC, HOLDR or HOLDCNT, and ENRD, which gives the allowance once
every die's bundle of T is debited, give the value at T; in replay a kernel bundle's reading gives the value logged for that register;
with none logged a debug hold is asked for. A recorded launch's log gains the reading (class 3, its ACC and die, the register and the
value as payload) in the partition's log bytes, or, when it is full, recording stops there; a die that traces inputs gains a record of
KIND 8 and DATA 3 with its ACC, in the place of its cycle, or one more is dropped. The readings and choices of the model that it rests on
stand in log entries 62 and 63. -/
def Obligations.WallReadings : Prop :=
  ∀ (f : SC) (g : SR) (s : State),
    let cx := s.ctx s.cur.cid
    let pt := s.part cx.p
    let left := (s.part s.cur.p).allow.toNat - s.cycleCost s.cur.cid
    let forms := (Instr.enrd g, g.xd, 0x40, dw left) ::
      (s.wallTable.filter fun e => e.1 == f.csr.toNat).map fun e => (.cfgr f, f.xd, e.1, e.2)
    ∀ e ∈ forms,
      let (i, xd, reg, v) := e
      (cx.Plain → s.Untraced s.cur.d → Runs i s fun t => s.Gives t xd v s.cur.fl.T)
      ∧ (cx.replaying = false → Runs i s fun t => s.OwesHere t (xdWrite xd v s.cur.fl.T) ∧ s.XsIs t v)
      ∧ (cx.replaying = true → s.Untraced s.cur.d → s.cur.fl.hnd = false → ∀ l, s.Logged reg l → (∀ k, s.Logged reg k → k = l) →
          Runs i s fun t => s.Gives t xd (dw (ofLeBytes (l.payload.drop 8))) s.cur.fl.T)
      ∧ (cx.replaying = true → s.here.now ≤ s.cur.fl.T → (∀ l, ¬s.Logged reg l) → Runs i s fun t =>
          t.here.reqs = s.here.reqs ++ [⟨s.cur.fl.T + 1, s.cur.fl.hnd, ⟨10, s.cur.p, .debug⟩⟩] ∧ (3, s.here.acc.toNat) ∈ t.hub.events)
      ∧ (cx.recording = true → cx.replaying = false → Runs i s fun t =>
          let l := cx.replayLog ++ [⟨s.here.acc.toNat, 3, s.cur.d, leBytes 8 reg ++ leBytes 8 v.toNat, []⟩]
          let bytes := (l.map ReplayEntry.bytes).flatten
          let after := t.ctx s.cur.cid
          (bytes.length ≤ pt.make.replayLen → after.replayLog = l ∧ after.recording = true
            ∧ ∀ k < bytes.length, bytes[k]? = some (t.hbmByte (pt.make.replayLog + k)))
          ∧ (bytes.length > pt.make.replayLen → after.replayLog = cx.replayLog ∧ after.recording = false
            ∧ after.truncated = some s.here.acc.toNat))
      ∧ (cx.Plain → ¬s.Untraced s.cur.d → s.cur.d < 8 → Runs i s fun t =>
          let q := t.part cx.p
          (32 * pt.traceAt + 32 ≤ pt.make.traceLen → q.traceAt = pt.traceAt + 1 ∧ ∃ k ≤ pt.traceAt,
            let r := t.hbmRead (pt.make.traceRing + 32 * k) 32
            bitsOf r 0 64 = s.here.acc.toNat ∧ bitsOf r 64 64 = s.here.nextAddr s.cur.d % 2 ^ 64 ∧ bitsOf r 141 3 = s.cur.d
            ∧ bitsOf r 144 8 = 8 ∧ bitsOf r 160 96 = 3)
          ∧ (32 * pt.traceAt + 32 > pt.make.traceLen → q.traceAt = pt.traceAt ∧ q.traceDropped = pt.traceDropped + 1))

/-- O23 (R81, R150, R339, R362): a permitted CFGW owes exactly the write of its register with its value, for T + 1; TAPEBASE besides the
TP of every column; a read-only or unlisted number, or a misaligned TVEC, traps with cause 0x03, an S register in U with cause 0x04. The
readings and choices of the model that it rests on stand in log entry 54. -/
def Obligations.CfgwWrites : Prop :=
  ∀ (f : SC) (s : State),
    let n := f.csr.toNat
    let v := s.cfgwTakes f
    let legal := n ∈ csrListed ∧ n ∉ csrFixed ∧ (n = 0x25 → v.toNat % 8 = 0)
    let w : List (Nat × Dest) := [(s.cur.fl.T, .tab (.csr n v s.accT))]
    (legal → (n ∈ csrOfS → s.die.inS = true) → (∀ i ∈ cfgwForms f, Runs i s fun t => s.Owes t w)
      ∧ Runs (.cfgwTapebase f) s fun t => s.CoreOnly t ∧ s.OwesColumns t w fun c => .tp c (BitVec.ofNat 19 (v.toNat / 8 % 2 ^ 16 * 8)))
    ∧ (¬legal → ∀ i ∈ .cfgwTapebase f :: cfgwForms f, Runs i s (s.Trapped · 3 s.position))
    ∧ (n ∈ csrOfS → s.die.inS = false → ∀ i ∈ .cfgwTapebase f :: cfgwForms f, Runs i s (s.Trapped · 4 s.position))

/-- O24 (R151, R152, R153): TRAP records a precise trap with cause 0x1C and its code; BRK one with cause 0x1D, or, where the port's stops
are enabled, acts as SNOP in the issue after its stop; TRET in S leaves S and nothing else of the core, and in U traps with cause 0x04.
The readings and choices of the model that it rests on stand in log entries 14 and 17. -/
def Obligations.TrapsAndReturn : Prop :=
  ∀ (f : SC) (g : SR) (s : State),
    let code := f.imm.toNat % 2 ^ 16
    Runs (.trap f) s (fun t => s.CoreOnly t ∧ s.Trapped t 0x1C code ∧ t.here = { s.here with traps := t.here.traps })
    ∧ (¬(s.die.skip = true ∧ s.hub.debugOpen = true ∧ s.hub.brkStops = true) → Runs (.brk f) s fun t => s.CoreOnly t ∧ s.Trapped t 0x1D code ∧ t.here = { s.here with traps := t.here.traps })
    ∧ (s.die.skip = true → s.hub.debugOpen = true → s.hub.brkStops = true → Runs (.brk f) s fun t => s.DieBecomes t fun d => { d with skip := false })
    ∧ (s.die.inS = true → Runs (.tret g) s fun t => s.DieHere t (fun d => { d with inS := false })
        ∧ ((s.dieHw s.cur.d).trKinds.getLsbD 7 = false → s.CoreOnly t))
    ∧ (s.die.inS = false → Runs (.tret g) s fun t => s.CoreOnly t ∧ s.Trapped t 4 s.position)

/-! ### S: sync words, bank sets, END, ALIGN, COLL (R272, R274, R285 to R291, R328, R333) -/

/-- O25 (R285, R286, R287, R288, R289): the advance loop keeps the total of arrivals: with a TARGET, one generation is counted (modulo
2^32) for each whole TARGET in COUNT, the rest stays below TARGET, and TARGET and STATUS stand; with TARGET 0 nothing changes. An arrival
of b bytes adds b to COUNT, saturating with OVF, marks ERR where it carries an error, counts refused deliveries in VREF up to 255, and
then advances. WAITG of a generation reached gives GEN, with bit 63 and LAPPED where a later one has been reached, and otherwise asks for
a wait hold before T + 1; ARM gives GEN and owes the new TARGET; GENRD gives GEN; a bad address traps with cause 0x03. The readings and
choices of the model that it rests on stand in log entries 29 and 30. -/
def Obligations.SyncForms : Prop :=
  (∀ w : BitVec 128,
    let r := swAdvance w
    (swTarget w = 0 → r = w)
    ∧ (0 < swTarget w → swCount r < swTarget w ∧ swTarget r = swTarget w ∧ swStatus r = swStatus w
        ∧ ∃ k, swCount w = k * swTarget w + swCount r ∧ swGen r = (swGen w + k) % 2 ^ 32))
  ∧ (∀ (w : BitVec 128) (b : Nat) (err : Bool) (vref : Nat),
    let r := swArrival w b err vref
    let count := min (swCount w + b) 0xFFFFFFFF
    swTarget r = swTarget w
    ∧ (swTarget w = 0 → swCount r = count ∧ swGen r = swGen w)
    ∧ (0 < swTarget w → swCount r = count % swTarget w ∧ swGen r = (swGen w + count / swTarget w) % 2 ^ 32)
    ∧ bitAt (swStatus r) 0 = (bitAt (swStatus w) 0 || decide (swCount w + b > 0xFFFFFFFF))
    ∧ bitAt (swStatus r) 1 = (bitAt (swStatus w) 1 || err)
    ∧ bitAt (swStatus r) 2 = bitAt (swStatus w) 2
    ∧ bitsOf (swStatus r) 8 8 = min 255 (bitsOf (swStatus w) 8 8 + vref))
  ∧ ∀ (f : SR) (s : State),
    let a := (s.xreg f.xa).toNat
    let b := (s.xreg f.xb).toNat
    let d := s.passed a b
    let gen := swGen (s.die.syncAt a)
    let lap : List (Nat × Dest) := if d ≥ 2 then [(s.cur.fl.T, .tab (.lapped a))] else []
    let waited := dw (gen + if d ≥ 2 then 2 ^ 63 else 0)
    (namesSync a → d ≠ 0 → d < 2 ^ 31 →
      Runs (.waitg f) s fun t => s.Owes t (xdWrite f.xd waited s.cur.fl.T ++ lap) ∧ s.XsIs t waited)
    ∧ (namesSync a → d = 0 ∨ 2 ^ 31 ≤ d →
      Runs (.waitg f) s fun t => s.CoreOnly t ∧ s.Asks t (s.cur.fl.T + 1) 4 (.wait a b f.xd.toNat s.cur.slot))
    ∧ (namesSync a → b < 2 ^ 32 → Runs (.arm f) s fun t =>
        s.Owes t (xdWrite f.xd (dw gen) s.cur.fl.T ++ [(s.cur.fl.T, .tab (.arm a b))]) ∧ s.XsIs t (dw gen))
    ∧ (namesSync a → Runs (.genrd f) s fun t => s.Gives t f.xd (dw gen) s.cur.fl.T)
    ∧ (¬namesSync a → ∀ i ∈ [Instr.waitg f, .arm f, .genrd f], Runs i s (s.Trapped · 3 s.position))
    ∧ (b ≥ 2 ^ 32 → Runs (.arm f) s (s.Trapped · 3 s.position))

/-- O26 (R272): ACQB owes the acquisition of its set, and asks for a bank hold while a block or plane of it is not owned; RELB owes the
release of an acquired set, and does nothing for set 0 or one that is not acquired; a set the image does not have traps with 0x03. The
readings and choices of the model that it rests on stand in log entry 31. -/
def Obligations.BankSets : Prop :=
  ∀ (f : SC) (s : State),
    let n := f.imm.toNat % 16
    let has := n < (s.ctx s.cur.cid).nsets
    (has → s.OwnsSet n → Runs (.acqb f) s fun t => s.Owes t [(s.cur.fl.T, .tab (.acquire n))])
    ∧ (has → ¬s.OwnsSet n → Runs (.acqb f) s fun t => s.CoreOnly t ∧ ∃ os, List.Forall₂ s.cur.owes [(s.cur.fl.T, .tab (.acquire n))] os
        ∧ t.here.owed = s.here.owed ++ os
        ∧ t.here.reqs = s.here.reqs ++ [⟨s.cur.fl.T + 1, s.cur.fl.hnd, ⟨6, s.cur.d, .bank n⟩⟩])
    ∧ (has → n ≠ 0 → s.here.acquired.getLsbD n = true → Runs (.relb f) s fun t => s.Owes t [(s.cur.fl.T, .tab (.release n))])
    ∧ (has → n = 0 ∨ s.here.acquired.getLsbD n = false → Runs (.relb f) s (· = s))
    ∧ (¬has → Runs (.acqb f) s (s.Trapped · 3 s.position) ∧ Runs (.relb f) s (s.Trapped · 3 s.position))

/-- O27 (R274): END marks its die ended at ACC and takes it out of S, the bundle behind END is its next, its loop levels are no longer
live, and the kernel of a running context is ending; nothing else changes. That END clears LIVE is the model's reading (log entry 12). -/
def Obligations.EndOfDie : Prop :=
  ∀ (f : SR) (s : State), Runs (.endDie f) s fun t =>
    s.DieHere t (fun d =>
      { d with ended := some (d.ended.getD s.here.acc.toNat), inS := false, rev := none, pc := s.cur.fl.addr + s.cur.fl.len
               tab := { d.tab with lc := d.tab.lc.map fun e => (e.1, { e.2 with live := false }) } })
    ∧ (∀ l, ((t.die).tab.level l).live = false)
    ∧ t.ctx s.cur.cid = { s.ctx s.cur.cid with kernel := if (s.ctx s.cur.cid).kernel = .running then .ending else (s.ctx s.cur.cid).kernel }
    ∧ (∀ cid, cid ≠ s.cur.cid → t.ctx cid = s.ctx cid ∧ t.core cid = s.core cid) ∧ (∀ a, t.hbmByte a = s.hbmByte a)
    ∧ t.parts = s.parts ∧ t.hub = s.hub ∧ t.link = s.link

/-- O28 (R328, R333): COLL of a legal descriptor posts it with its completion word and the die's count of posts to that group, and changes
nothing else; ALIGN outside replay gives WAC at a time reached, and otherwise asks for an align hold; a bad COLL traps with cause 0x03.
The readings and choices of the model that it rests on stand in log entry 29. -/
def Obligations.CollAndAlign : Prop :=
  ∀ (f : SR) (s : State),
    let a := (s.xreg f.xa).toNat
    let b := (s.xreg f.xb).toNat
    let d := s.die.smemRead a 64
    let key := 8 * (d % 256) + s.cur.d
    let k := SMap.get 0 s.here.postCount key
    let legal := smemFits a 64 ∧ namesSync b ∧ s.CollLegal d
    (legal → Runs (.coll f) s fun t => s.CoreOnly t ∧ ∃ tr ac, s.cur.Unsettled tr ∧
      t.here = { s.here with traps := s.here.traps ++ tr, access := s.here.access ++ ac
                             posts := s.here.posts ++ [⟨s.cur.d, s.cur.fl.T, BitVec.ofNat 512 d, b, k⟩]
                             postCount := SMap.set 0 s.here.postCount key (k + 1) })
    ∧ (¬legal → Runs (.coll f) s (s.Trapped · 3 s.position))
    ∧ (a ≤ s.hub.wac.toNat → (s.ctx s.cur.cid).Plain → s.Untraced s.cur.d → Runs (.align f) s fun t => s.Gives t f.xd s.hub.wac s.cur.fl.T)
    ∧ (s.hub.wac.toNat < a → (s.ctx s.cur.cid).replaying = false → Runs (.align f) s fun t => s.CoreOnly t ∧ s.Asks t (s.cur.fl.T + 1) 5 (.align a f.xd.toNat))

/-! ### S: handles and differentiable regions (R297 to R304, R334 to R350) -/

/-- O29 (R297, R299, R303, R304): TRANS of a cached leaf that grants its permissions owes the handle at the end of T + 17; it asks for a
walk hold before T + 18 with no cached leaf, for a migrate or fault hold where the leaf is migrating or does not grant; HINV owes the
invalidation; HGET gives a word of the handle as it stands at T, field by field, the frame only in S; a bad operand traps with 0x03. The
readings and choices of the model that it rests on stand in log entries 29 and 75. -/
def Obligations.Handles : Prop :=
  ∀ (f : SC) (s : State),
    let h := SMap.get ({} : Handle) s.tab.handles f.xa.toNat
    let bit := fun (b : Bool) (i : Nat) (v : DWord) => v.getLsbD i = b
    let va := (s.xreg f.xa).toNat
    let n := f.xd.toNat
    let perm := f.imm.toNat % 4
    let legal := n < 16 ∧ perm ≠ 0 ∧ va < 2 ^ 52
    let ask := fun (t : State) k h => (∀ a, t.hbmByte a = s.hbmByte a) ∧ s.Asks t (s.cur.fl.T + 18) k h
    (∀ e, legal → s.cached va = some e → pteBit e.leaf 10 = false → leafGrants e.leaf perm = true → Runs (.trans f) s fun t =>
        s.OwesHere t [(s.cur.fl.T + 17, .tab (.handle n (handleOf e.leaf e.size va perm s.here.hgen)))] ∧ ∀ a, t.hbmByte a = s.hbmByte a)
    ∧ (∀ e, legal → s.cached va = some e → pteBit e.leaf 10 = true → Runs (.trans f) s fun t => ask t 8 (.migrate va perm (some n)))
    ∧ (∀ e, legal → s.cached va = some e → pteBit e.leaf 10 = false → leafGrants e.leaf perm = false →
        Runs (.trans f) s fun t => ask t 8 (.fault va perm (some n) 2 0 false))
    ∧ (legal → s.cached va = none → Runs (.trans f) s fun t => ask t 1 (.walk va perm (some n)))
    ∧ (¬legal → Runs (.trans f) s (s.Trapped · 3 s.position))
    ∧ (n < 16 → Runs (.hinv f) s fun t => s.Owes t [(s.cur.fl.T, .tab (.hinv n))])
    ∧ (16 ≤ n → Runs (.hinv f) s (s.Trapped · 3 s.position))
    ∧ (f.xa.toNat < 16 → f.csr.toNat = 0 → s.Computes (.hget f) f.xd 1 fun v =>
        bit h.v 0 v ∧ bit h.r 1 v ∧ bit h.w 2 v ∧ bit h.watch 3 v ∧ bit h.diff 4 v ∧ bit h.poison 5 v ∧ bit h.remote 6 v ∧ bit h.revoked 7 v
        ∧ bitsOf v.toNat 8 2 = h.size % 4 ∧ bitsOf v.toNat 10 6 = 0 ∧ bitsOf v.toNat 16 16 = h.gen.toNat ∧ v.toNat < 2 ^ 32)
    ∧ (f.xa.toNat < 16 → f.csr.toNat = 1 → s.Computes (.hget f) f.xd 1 fun v => v.toNat = h.vbase.toNat)
    ∧ (f.xa.toNat < 16 → f.csr.toNat = 2 → s.die.inS = true → s.Computes (.hget f) f.xd 1 fun v => v.toNat = h.frame.toNat)
    ∧ (f.csr.toNat = 2 → s.die.inS = false → Runs (.hget f) s (s.Trapped · 4 s.position))
    ∧ (16 ≤ f.xa.toNat ∨ f.csr.toNat > 2 → Runs (.hget f) s (s.Trapped · 3 s.position))

/-- O30 (R336, R337, R349): AMODE owes its mode for bundles after T; PLAIN owes besides the clearing of the adjoint file at every column;
REVERSE needs the writes made under RECORD to have performed, and otherwise traps with cause 0x15; mode 3 traps with 0x03. -/
def Obligations.DifferentiationModes : Prop :=
  ∀ (f : SC) (s : State),
    let m := f.imm.toNat % 4
    let w : List (Nat × Dest) := [(s.cur.fl.T, .tab (.amode (BitVec.ofNat 2 m)))]
    let settled := s.die.recEnd ≤ s.cur.fl.T + 2 ∧ s.NoParkedTape
    (m = 0 → Runs (.amode f) s fun t => s.CoreOnly t ∧ s.OwesColumns t w fun c => .clearAdj c)
    ∧ (m = 1 → Runs (.amode f) s fun t => s.Owes t w)
    ∧ (m = 2 → s.tab.amode = 2 ∨ settled → Runs (.amode f) s fun t => s.Owes t w)
    ∧ (m = 2 → s.tab.amode ≠ 2 → ¬settled → Runs (.amode f) s (s.Trapped · 0x15 0))
    ∧ (m = 3 → Runs (.amode f) s (s.Trapped · 3 s.position))

/-- O31 (R335, R347, R350): DREGSET of a legal descriptor under PLAIN owes it; LOGMARK gives LOGPTR; REVERSE above its mark starts the
adjoint stream at T + 1 and at its mark does nothing; the wrong mode traps with cause 0x15, an illegal operand with cause 0x03. The
readings and choices of the model that it rests on stand in log entries 18 and 56. -/
def Obligations.RegionsAndReverse : Prop :=
  ∀ (f : SC) (g : SR) (s : State),
    let a := (s.xreg f.xa).toNat
    let r := s.die.smemRead a 32
    let legal := f.xd.toNat < 16 ∧ smemFits a 32 ∧ s.tab.drBad f.xd.toNat (BitVec.ofNat 256 r) = false
    let m := (s.xreg g.xa).toNat
    let ptr := s.die.logptr.toNat
    let marks := m % 32 = 0 ∧ (s.die.logbase &&& 0x3FFFFFFFFE0).toNat ≤ m ∧ m ≤ ptr
    (legal → s.tab.amode = 0 → Runs (.dregset f) s fun t => s.Owes t [(s.cur.fl.T, .tab (.dr f.xd.toNat (BitVec.ofNat 256 r)))])
    ∧ (¬legal → Runs (.dregset f) s (s.Trapped · 3 s.position))
    ∧ (s.tab.amode ≠ 0 → Runs (.dregset f) s (s.Trapped · 0x15 0))
    ∧ Runs (.logmark g) s (fun t => s.Gives t g.xd s.die.logptr s.cur.fl.T)
    ∧ (s.tab.amode = 2 → marks → m < ptr → Runs (.reverse g) s fun t => s.DieBecomes t fun d =>
        { d with rev := some ⟨s.cur.fl.addr, s.cur.fl.len, m, s.cur.fl.T + 1, d.next - (s.cur.fl.T + 1), s.cur.fl.hdrChk⟩ })
    ∧ (s.tab.amode = 2 → marks → m = ptr → Runs (.reverse g) s fun t => s.Owes t [])
    ∧ (s.tab.amode ≠ 2 → Runs (.reverse g) s (s.Trapped · 0x15 0))
    ∧ (¬marks → Runs (.reverse g) s (s.Trapped · 3 s.position))

/-! ### Slice operands (R75, R76, R79, R100, R101) -/

/-- O32 (R75, R76, R79, R101): what a rank source supplies: a queue its oldest rank, which a pop removes and a peek keeps; `xs` the low
half of the S result in every lane; `zero` zeros; `tl` its rank in its own cycle alone; k0 all ones. An empty queue traps with 0x06. The
readings and choices of the model that it rests on stand in log entry 28. -/
def Obligations.RankSources : Prop :=
  ∀ (s : State) (c cyc : Nat) (peek : Bool),
    let r := s.readRank c cyc peek
    (∀ x l, c < 16 → SMap.get [] s.slice.q c = x :: l → r.1 = x ∧ SMap.get [] r.2.slice.q c = (if peek then x :: l else l))
    ∧ (c < 16 → SMap.get [] s.slice.q c = [] → ∃ e, r.2.here.traps = s.here.traps ++ [e] ∧ e.code = 6 ∧ e.val = c ∧ e.slice = some s.cur.s)
    ∧ (∀ k, k ≠ c → SMap.get [] r.2.slice.q k = SMap.get [] s.slice.q k)
    ∧ (0x10 ≤ c → c < 0x30 → r.1 = SMap.get 0 s.here.hops (specHop s.cur.s c))
    ∧ (c = 0x38 → r.1 = if s.slice.tl.1 = cyc then s.slice.tl.2 else 0)
    ∧ (c = 0x3A → r.1 = 0)
    ∧ (c = 0x3B → ∀ l < 16, r.1.extractLsb' (32 * l) 32 = s.cur.fl.xs.extractLsb' 0 32)
    ∧ (0x54 ≤ c → c < 0x58 → r.1.toNat = (SMap.get (0 : BitVec 56) s.slice.z (c - 0x54)).toNat)
    ∧ (0x58 < c → c < 0x60 → r.1.toNat = (SMap.get (0 : BitVec 128) s.slice.k (c - 0x58)).toNat)
    ∧ (c = 0x58 → r.1.toNat = 2 ^ 128 - 1)

/-! ### V (R156 to R178, R185 to R191, R222 to R224) -/

/-- O33 (R37, R100, R157 to R160, R185, R186, R187): every V form completes for all operands; it owes its destination alone, at the end of
the cycle before X + its latency, exactly once unless the destination discards; VROUTE owes, at the end of X + 11, its destination the
setting that the solver of R187 gives for the targets of its requests (for their inverse where IMM8 [0] is 0), and its k register the
inputs that ask for a target which a lower one has; VNOP changes nothing. The readings and choices of the model that it rests on stand in
log entries 9 and 14. -/
def Obligations.VectorForms : Prop :=
  ∀ (f : VF) (s : State),
    (∀ e ∈ vForms f (if s.vType f < 3 then 4 else 2), Runs e.1 s fun t =>
      s.SliceFrame t [s.cur.s] (fun due d => due = s.cur.X + e.2 - 1 ∧ vWrites f d)
      ∧ (f.dst.toNat ≠ 0x3A → f.dst.toNat ≠ 0x58 → t.here.owed.length = s.here.owed.length + 1))
    ∧ (let valid := fun i => (s.slice.mask f.mask.toNat).getLsbD i
      let req := fun i => elemOf 32 i (s.srcA f) % 16
      let n := 0x58 + f.imm.toNat / 2 % 8
      let out := fun i => targetOf valid req i
      let back := fun t => ((List.range 16).find? fun i => out i == t).getD 0
      let sig := (List.range 16).map fun i => if f.imm.getLsbD 0 then out i else back i
      ∃ z k : Rank, z.toNat = routeSetting sig
        ∧ (∀ i, k.getLsbD i = (decide (i < 16) && valid i && (List.range i).any fun j => valid j && req j == req i))
        ∧ Runs (.vroute f) s fun t => s.SliceFrame t [s.cur.s] (fun due d => due = s.cur.X + 11 ∧ (d = .spec f.dst.toNat z ∨ d = .spec n k))
          ∧ ∃ os, t.here.owed = s.here.owed ++ os ∧ List.Forall₂ s.cur.owes
            ((if f.dst.toNat = 0x3A ∨ f.dst.toNat = 0x58 then [] else [(s.cur.X + 11, .spec f.dst.toNat z)])
              ++ (if n = 0x58 then [] else [(s.cur.X + 11, .spec n k)])) os)
    ∧ Runs (.vnop f) s (· = s)

/-- O34 (R159, R161, R162, R170): the integer forms, element by element and wrapped or saturated to the element's width, two cycles after
X; masked-off elements are zero; shifts by the sum of the element of B and the immediate, modulo the width. -/
def Obligations.IntegerElements : Prop :=
  ∀ (f : VF) (s : State),
    let ty := s.vType f
    let w := typeWidth ty
    let a := fun e => intOf ty (elemOf w e (s.srcA f))
    let b := fun e => intOf ty (elemOf w e (s.srcB f))
    let c := fun e => intOf ty (elemOf w e (s.srcC f))
    let sh := fun e => (elemOf w e (s.srcB f) + f.imm.toNat) % w
    3 ≤ ty → ty ≤ 8 → ∀ p ∈ ([(.vadd f, fun e => a e + b e), (.vsub f, fun e => a e - b e), (.vmul f, fun e => a e * b e),
        (.vfma f, fun e => a e * b e + c e), (.vmin f, fun e => min (a e) (b e)), (.vmax f, fun e => max (a e) (b e)),
        (.vabs f, fun e => |a e|), (.vneg f, fun e => -a e), (.vadds f, fun e => satOf ty (a e + b e)),
        (.vsubs f, fun e => satOf ty (a e - b e)), (.vmulh f, fun e => a e * b e / 2 ^ w), (.vshl f, fun e => a e * 2 ^ sh e),
        (.vshr f, fun e => a e / 2 ^ sh e), (.vrelu f, fun e => max (a e) 0)] : List (Instr × (Nat → Int))),
      s.GivesElems p.1 f 2 p.2

/-- O35 (R40, R48, R49, R50, R51, R52, R159, R166, R171 to R176): the bitwise forms, VSEL, and the moves of elements, on the stored bits
of any type. VCVT gives the converted elements of A, under the mask, in their place for its PART, and B's beside them when it narrows.
VPACK puts the block of R51 in its place among B's blocks, E = 255 and zero fields where an input is not finite, signs alone where BQFR
flushes it. VUNPK gives the elements of a block, of exact value (-1)^s M 2^(E - 127 - μ - (m - 1)), scaled and rounded to F32. -/
def Obligations.BitwiseAndMoves : Prop :=
  (∀ (f : VF) (s : State),
    let w := typeWidth (s.vType f)
    let n := 512 / w
    let a := fun e => elemOf w e (s.srcA f)
    let b := fun e => elemOf w e (s.srcB f)
    let rot := (f.imm.toNat + s.srcB f % 2 ^ 32) % n
    let inMask := fun e => (s.slice.mask f.mask.toNat).getLsbD e
    s.GivesElems (.vand f) f 2 (fun e => (a e &&& b e : Nat)) ∧ s.GivesElems (.vor f) f 2 (fun e => (a e ||| b e : Nat))
    ∧ s.GivesElems (.vxor f) f 2 (fun e => (a e ^^^ b e : Nat)) ∧ s.GivesElems (.vnot f) f 2 (fun e => 2 ^ w - 1 - a e)
    ∧ (specM f.a.toNat = false → s.GivesElems (.vmov f) f 1 fun e => a e)
    ∧ s.GivesElems (.vsplat f) f 1 (fun _ => a f.imm.toNat)
    ∧ s.GivesElems (.vrot f) f 2 (fun e => a ((e + rot) % n))
    ∧ s.GivesRank (.vsel f) f 2 (fun r => ∀ e < n, elemOf w e r = if inMask e then a e else b e)
    ∧ (∃ c, s.Resolves f c ∧
        let ws := typeWidth c.src
        let wd := typeWidth c.dst
        let ns := 512 / ws
        let nd := 512 / wd
        let p := f.imm.toNat / 16 % 4
        let cvt := fun i => s.cvtOf c (f.imm.getLsbD 6) (elemOf ws i (s.srcA f)) % 2 ^ wd
        s.GivesRank (.vcvt f) f 3 fun r => ∀ e < nd, (elemOf wd e r : Int) =
          if ns < nd then (if p * ns ≤ e ∧ e < p * ns + ns ∧ inMask e then cvt (e - p * ns) else elemOf wd e (s.srcB f))
          else if inMask e then cvt (if ns = nd then e else p * nd + e) else 0)
    ∧ (∀ g ∈ ([(9, 7, 18, 3), (10, 4, 12, 5), (11, 2, 8, 8)] : List (Nat × Nat × Nat × Nat)), s.vType f = g.1 → f.imm.toNat % 8 < g.2.2.2 →
        let (_, m, bytes, blocks) := g
        let rm := s.vMode f
        let block := fun r p => r / 2 ^ (8 * bytes * p) % 2 ^ (8 * bytes)
        let p := f.imm.toNat % 8
        let xs := s.packed f
        let under := ∀ i < 16, |roundQ rm (numRat (xs.getD i (.fin false 0 0)) / (2 : ℚ) ^ (-127 - ((m : Int) - 1)))| ≤ 2 ^ m - 1
        s.GivesRank (.vpack f) f 5 (fun r => r < 2 ^ (8 * bytes * blocks) ∧ (∀ k < blocks, k ≠ p → block r k = block (s.srcB f) k)
          ∧ ((∃ x ∈ xs, ¬numFinite x) → block r p = 255)
          ∧ ((∀ x ∈ xs, numFinite x) → ¬(s.tab.flush.getLsbD 5 = true ∧ under) → IsBlock rm m xs (block r p))
          ∧ ((∀ x ∈ xs, numFinite x) → s.tab.flush.getLsbD 5 = true → under → block r p % 2 ^ 16 = 0
              ∧ ∀ i < 16, bqElem m (block r p) i = .fin (xs.getD i (.fin false 0 0)).sign 0 (-127 - ((m : Int) - 1))))
        ∧ let blk := block (s.srcA f) p
          let sc : Int := if f.ty = 15 then entryScale (s.tab.entry f.ty.toNat f.fs.toNat) else 0
          s.GivesElemsOf (.vunpk f) f 32 5 (fun i => roundTo f32 rm (s.tab.flush.getLsbD 1) ((bqElem m blk i).scale sc))))
  ∧ ∀ m ∈ [7, 4, 2], ∀ blk i, i < 16 →
    let field := blk / 2 ^ (16 + (1 + m) * i) % 2 ^ (1 + m)
    (blk % 256 = 255 → bqElem m blk i = .nan false)
    ∧ (blk % 256 ≠ 255 → numFinite (bqElem m blk i) ∧ (bqElem m blk i).sign = decide (2 ^ m ≤ field)
        ∧ |numRat (bqElem m blk i)| = (field % 2 ^ m : Nat) * (2 : ℚ) ^ ((blk % 256 : Nat) - 127 - (blk / 2 ^ (8 + i / 2) % 2 : Nat) - ((m : Int) - 1)))

/-- O36 (R47, R165, R177, R189, R190, R191): VCMP of integers gives one bit for each element under the mask; KOP its operation on 128
bits; VCOUNT counts the nonzero elements under the mask, floating ones as FI reads them; VCOMPACT moves the elements under the mask down,
over those of B. VSCAN gives element i the fold of the elements under the mask up to i, or below i when exclusive, VRED element 0 the fold
of all of them: sums wrapped, minima, maxima and bitwise folds of integers, and floating folds with a rounding at every step. -/
def Obligations.MasksAndCounts : Prop :=
  ∀ (f : VF) (s : State),
    let ty := s.vType f
    let w := typeWidth ty
    let n := 512 / w
    let a := fun e => intOf ty (elemOf w e (s.srcA f))
    let b := fun e => intOf ty (elemOf w e (s.srcB f))
    let inMask := fun e => (s.slice.mask f.mask.toNat).getLsbD e
    let taken := (List.range n).filter fun e => inMask e
    let op := f.imm.toNat % 8
    let A : BitVec 128 := BitVec.ofNat 128 (s.srcA f)
    let B : BitVec 128 := BitVec.ofNat 128 (s.srcB f)
    (3 ≤ ty → ty ≤ 8 → ∀ p ∈ ([(0, fun e => decide (a e = b e)), (1, fun e => decide (a e ≠ b e)), (2, fun e => decide (a e < b e)),
        (3, fun e => decide (a e ≤ b e)), (4, fun e => decide (a e > b e)), (5, fun e => decide (a e ≥ b e)), (6, fun _ => false),
        (7, fun _ => true)] : List (Nat × (Nat → Bool))), f.imm.toNat = p.1 →
      s.GivesRank (.vcmp f) f 2 fun r => ∀ e, r.testBit e = (decide (e < n) && inMask e && p.2 e))
    ∧ (3 ≤ ty → ty ≤ 8 → s.GivesRank (.vcount f) f 6 fun r => r = (taken.filter fun e => elemOf w e (s.srcA f) != 0).length)
    ∧ (ty < 3 → s.GivesRank (.vcount f) f 6 fun r => r = (taken.filter fun e => !(s.fA f e).isZero).length)
    ∧ s.GivesRank (.vcompact f) f 6 (fun r =>
        ∀ e < n, elemOf w e r = elemOf w ((taken[e]?).getD e) (if e < taken.length then s.srcA f else s.srcB f))
    ∧ (ty ≤ 8 → op < 6 →
        s.GivesRank (.vscan f) f 6 (fun r => ∀ i < n, (elemOf w i r : Int)
          = s.foldOf f op (taken.filter fun e => if f.imm.getLsbD 3 then decide (e < i) else decide (e ≤ i)) % 2 ^ w)
        ∧ s.GivesRank (.vred f) f 6 (fun r => (r : Int) = s.foldOf f op taken % 2 ^ w))
    ∧ (∀ p ∈ [(0, A &&& B), (1, A ||| B), (2, A ^^^ B), (3, A &&& ~~~B), (4, ~~~A)], op = p.1 →
        s.GivesRank (.kop f) f 1 fun r => r = p.2.toNat)
    ∧ (op = 5 → s.GivesRank (.kop f) f 1 fun r => ∀ i, r.testBit i = (decide (i < 128) && A.getLsbD i && decide (∀ j < i, A.getLsbD j = false)))
    ∧ (op = 6 → s.GivesRank (.kop f) f 1 fun r => ∀ i, r.testBit i = decide (i < min (s.srcA f % 256) 128))
    ∧ (op = 7 → s.GivesRank (.kop f) f 1 fun r => r = (List.range 128).countP fun i => A.getLsbD i)

/-- O37 (R41, R43, R44, R45, R47, R48): decoding gives each bit pattern of a floating type the number that its fields name. Rounding a
nonzero number, of exact value v, gives the bits of the multiple of the quantum that the mode makes of v, with the sign of v: the quantum
is 2^q, the last place of v's own power of two or, below the smallest normal, that of the subnormals. From 2^(bias + 1) on it gives the
overflow value of R44 with OF and IX; IX says that the value changed, UF besides that it is tiny, which the bits below the smallest normal
after rounding without a bound on the exponent are; with FR a tiny result is a zero of its sign, with UF and IX. An exact element that is
not a NaN is a fixed point, in every mode, with no flag. An integer rounding gives the integer of the mode, and scaling by a power of two
is exact. The readings and choices of the model that it rests on stand in log entry 9. -/
def Obligations.RoundingIsExact : Prop :=
  (∀ ty ∈ [0, 1, 2],
    let lay := layoutOf ty
    let bias : Int := 2 ^ (lay.eb - 1) - 1
    let least : ℚ := (2 : ℚ) ^ (1 - bias)
    let sgn := fun n : Bool => if n then 2 ^ (lay.eb + lay.fb) else 0
    (∀ rm ∈ [1, 2, 3, 4], ∀ x < 2 ^ typeWidth ty, (lay.decode false x).isNan = false →
      (lay.round rm false (lay.decode false x)).run 0 = (x, 0))
    ∧ (∀ x < 2 ^ typeWidth ty, ∀ fi,
        let n := x.testBit (lay.eb + lay.fb)
        let ex : Nat := x / 2 ^ lay.fb % 2 ^ lay.eb
        let fr : Nat := x % 2 ^ lay.fb
        (ex = 2 ^ lay.eb - 1 → lay.decode fi x = if fr = 0 then .inf n else .nan (!x.testBit (lay.fb - 1)))
        ∧ (ex ≠ 2 ^ lay.eb - 1 → numFinite (lay.decode fi x) ∧ (lay.decode fi x).sign = n
            ∧ |numRat (lay.decode fi x)| = if ex = 0 then (if fi then 0 else (fr : ℚ) * least / 2 ^ lay.fb)
                else (1 + (fr : ℚ) / 2 ^ lay.fb) * (2 : ℚ) ^ ((ex : Int) - bias)))
    ∧ ∀ rm ∈ [1, 2, 3, 4], ∀ n m e, m ≠ 0 →
        let v := numRat (.fin n m e)
        let out := fun fr => (lay.round rm fr (.fin n m e)).run 0
        ∀ q : Int, (2 : ℚ) ^ (q + lay.fb) ≤ |v| ∧ |v| < (2 : ℚ) ^ (q + lay.fb + 1) ∧ least ≤ |v| ∨ q = 1 - bias - lay.fb ∧ |v| < least →
        ∀ p : Int, (2 : ℚ) ^ (p + lay.fb) ≤ |v| → |v| < (2 : ℚ) ^ (p + lay.fb + 1) →
          let y := roundQ rm (v / (2 : ℚ) ^ q) * (2 : ℚ) ^ q
          let tiny := |roundQ rm (v / (2 : ℚ) ^ p) * (2 : ℚ) ^ p| < least
          (|y| < (2 : ℚ) ^ (bias + 1) → numFinite (lay.decode false (out false).1) ∧ numRat (lay.decode false (out false).1) = y
            ∧ (lay.decode false (out false).1).sign = n ∧ (out false).1 < 2 ^ typeWidth ty
            ∧ (y = v → (out false).2 = 0) ∧ (y ≠ v → tiny → (out false).2 = 24) ∧ (y ≠ v → ¬tiny → (out false).2 = 16))
          ∧ (|y| ≥ (2 : ℚ) ^ (bias + 1) → out false = ((if rm = 1 ∨ (rm = 3 ∧ n = false) ∨ (rm = 4 ∧ n = true) then (2 ^ lay.eb - 1) * 2 ^ lay.fb
              else (2 ^ lay.eb - 1) * 2 ^ lay.fb - 1) + sgn n, 20))
          ∧ (tiny → out true = (sgn n, 24)) ∧ (¬tiny → out true = out false))
  ∧ (∀ rm ∈ [1, 2, 3, 4], ∀ n m e, (roundInt rm n m e).1 = roundQ rm (numRat (.fin n m e))
      ∧ ((roundInt rm n m e).2 = false ↔ (roundQ rm (numRat (.fin n m e)) : ℚ) = numRat (.fin n m e)))
  ∧ ∀ (x : Sys2Proof.Num) (k : Int), numRat (x.scale k) = numRat x * (2 : ℚ) ^ k

/-- O38 (R42, R47, R63, R65, R66, R157 to R170): the floating forms, element by element, each with its one rounding in the mode in force:
VADD, VSUB, VMUL, VFMA and VSQRT of the exact sum, product and root; VROUND of the integer of the mode; VMIN, VMAX, VABS and VNEG without
a rounding, a NaN canonical; VRELU the stored bits of a positive element; VCLASS the class of the stored bits; VCMP one bit for each
element under the mask. A transcendental reads its element as F32, runs its algorithm of R63, and rounds what that gives; the algorithms
give the special cases of R65 with their flags, and the canonical NaN for a NaN. Masked-off elements are zero. The readings and choices of
the model that it rests on stand in log entries 9 and 97. -/
def Obligations.FloatingElements : Prop :=
  (∀ rd a b, IsSum rd a b (sumOf rd a b)) ∧ (∀ a b, IsProduct a b (prodOf a b)) ∧ (∀ a, IsRoot a (rootOf a))
  ∧ (∀ g ∈ specialCases, (∀ e ∈ g.2, (g.1 e.1).run 0 = e.2) ∧ ∀ x, isNan32 x = true → ((g.1 x).run 0).1 = 0x7FC00000)
  ∧ ∀ (f : VF) (s : State), s.vType f < 3 →
    (∀ p ∈ s.floatForms f, s.GivesElems p.1 f p.2.1 fun e => (p.2.2 e : Int))
    ∧ ∃ r : Rank, (∀ e, r.getLsbD e = (decide (e < 512 / typeWidth (s.vType f)) && (s.slice.mask f.mask.toNat).getLsbD e
          && condOf f.imm.toNat (s.fA f e) (s.fB f e)))
        ∧ Runs (.vcmp f) s fun t => s.OwesRank t f.dst.toNat (s.cur.X + 3) r

/-- O39 (R42, R53, R54, R55, R56, R57, R174, R222, R223, R224): the moment forms, pair by pair, by the steps of R57; a NaN in a pair makes
both halves canonical NaNs, and a variance below -0 is +0 under NVCLAMP. GCOL gives lane j the mean, the variance, its root, or the mean
and z roots, in one fused step; GMAKE pairs the lanes of A and B; VMOV copies pairs. A quotient is exact before its one rounding, as sums,
products and roots are. The readings and choices of the model that it rests on stand in log entries 9 and 97. -/
def Obligations.MomentForms : Prop :=
  (∀ a b, numFinite a → numFinite b → b.isZero = false → IsQuotient a b (quotOf a b))
  ∧ ∀ (f : VF) (s : State),
    let canon := (0x7FC00000, 0x7FC00000)
    let fi := s.tab.flush.getLsbD 0
    let lane := fun j x => elemOf 32 j x
    let k := fun j => f32.decode fi (lane j ((s.view f).2.vB f).1)
    let rm := if f.rm ≠ 0 then f.rm.toNat else s.tab.rmode.toNat + 1
    let out := roundTo f32 rm (s.tab.flush.getLsbD 1)
    (∀ g ∈ s.momentForms f, s.GivesPairs g.1 f g.2.1 fun j =>
      let a := s.pairIn f.a.toNat j
      let b := if g.2.2.1 then s.pairIn f.b.toNat j else (.fin false 0 0, .fin false 0 0)
      let r := g.2.2.2 a.1 a.2 b.1 b.2 (k j)
      if a.1.isNan || a.2.isNan || b.1.isNan || b.2.isNan then canon else (r.1, s.varOut r.2))
    ∧ (∃ r : Rank, (∀ j < 16, lane j r.toNat = if (s.slice.mask f.mask.toNat).getLsbD j then
          let a := s.pairIn f.a.toNat j
          if a.1.isNan || a.2.isNan then 0x7FC00000
          else match f.imm.toNat with
            | 0 => roundTo f32 1 false a.1
            | 1 => roundTo f32 1 false a.2
            | 2 => out (rootOf a.2)
            | _ => out (sumOf (rm == 4) (prodOf (k j) (stepOf (rootOf a.2))) a.1)
        else 0) ∧ (f.imm.toNat ≤ 3 → Runs (.gcol f) s fun t => s.OwesRank t f.dst.toNat (s.cur.X + 3) r))
    ∧ s.GivesPairs (.gmake f) f 4 (fun j =>
        let u := flushed fi (lane j (s.srcA f))
        let v := flushed fi (lane j (s.srcB f))
        if isNan32 u || isNan32 v then canon else (u, s.varIn v))
    ∧ (specM f.a.toNat = true → s.GivesPairs (.vmov f) f 1 fun j =>
        let x := (SMap.get (0 : BitVec 1024) s.slice.m (f.a.toNat - 0x30)).toNat
        (elemOf 32 (2 * j) x, s.varOut (elemOf 32 (2 * j + 1) x)))

/-- O40 (R181, R184): a trellis undoes itself: the permutation of rev(S) takes the rank that leaves the network under S back to the one
that entered it, for every setting and every rank. -/
def Obligations.TrellisReverses : Prop :=
  ∀ (S : BitVec 56) (r : Rank), benesRank (benesRev S.toNat) (benesRank S.toNat r.toNat) = r.toNat

/-! ### M (R205 to R221) -/

/-- O41 (R37, R207 to R221): every M form completes for all operands; the row that runs now owes only its own part of the destination, in
its own cycle; the latched forms of a FILLM run as the same forms; MNOP changes nothing. The readings and choices of the model that it
rests on stand in log entries 14 and 25. -/
def Obligations.MatrixForms : Prop :=
  ∀ (f : MF) (s : State),
    let near := [s.cur.s, s.cur.s - 1]
    (∀ e ∈ s.mForms f, Runs e.1 s fun t => s.SliceFrame t near e.2)
    ∧ Runs (.mnop f) s (· = s)
    ∧ (∀ e ∈ (s.mForms f).zipIdx 1, exec (.fillmLatchExecute f e.2) s = exec e.1.1 s)
    ∧ ∀ op, Completes (.fillmLatchExecute f op) s

/-- O42 (R40, R48, R53, R54, R205, R207, R210, R211, R212, R218, R219, R220): MFILL owes the rank's bytes to the tile row, MDRN the tile
row's bytes to the destination, MLDMD a quarter of the metadata, MZERO both planes of exactly its rows. MLDB takes a column from a tile
row in each cycle, its type, sparse flag and metadata with the first, and owes the whole B at the end of X + 33. MOUT owes its destination
the row of cells converted to the output type, with relu and SCALE, or eight pairs of both planes; MBYP owes its row, converted in the
same way, to the bypass latch or to the low 64 bytes of the tile row. -/
def Obligations.TileMoves : Prop :=
  ∀ (f : MF) (s : State),
    let c := s.cur.X + s.cur.row
    let r := s.rowOf f
    let half := 64 * (f.imm.toNat / 8 % 2)
    let src := fun (st : State) cyc => (st.readRank f.a.toNat cyc (f.pka == 1)).1
    let row := SMap.get (0 : TileRow) s.slice.t (32 * (f.a.toNat - 0x40) + r)
    let n := f.a.toNat - 0x48
    let whole := if s.cur.row = 0 then s.tagOf (n % 4) else bitAt s.cur.aux 0
    let sparse := f.imm.getLsbD 0
    let old := s.slice.bl
    (∃ v : TileRow, v.toNat = (src s c).toNat ∧ Runs (.mfill f) s fun t => ∃ o, t.here.owed = s.here.owed ++ [o]
        ∧ s.cur.owes (c, .tile (f.dst.toNat - 0x40) r half (s.tileBytes f) v) o)
    ∧ (∃ v : Rank, (s.tileBytes f ≤ 64 → v.toNat = row.toNat / 2 ^ (8 * half) % 2 ^ (8 * s.tileBytes f))
        ∧ Runs (.mdrn f) s fun t => s.OwesRank t f.dst.toNat (c + 1) v)
    ∧ Runs (.mldb f) s (fun t =>
        let b := t.slice.bl
        let first := s.cur.row = 0
        (first → b.ty = some (BitVec.ofNat 4 (s.mType f)) ∧ b.sparse = sparse
          ∧ b.md = if sparse then SMap.get 0 s.slice.d (f.b.toNat - 0x50) else 0)
        ∧ (¬first → b.ty = old.ty ∧ b.sparse = old.sparse ∧ b.md = old.md)
        ∧ (∀ k, SMap.get 0 b.cols k = if k = s.cur.row then SMap.get 0 s.slice.t (32 * (f.a.toNat - 0x40) + k)
            else if first then 0 else SMap.get 0 old.cols k)
        ∧ ∃ os, t.here.owed = s.here.owed ++ os ∧ List.Forall₂ s.cur.owes (if s.cur.row = 31 then [(s.cur.X + 33, .statB b)] else []) os)
    ∧ Runs (.mldmd f) s (fun t => ∃ o, t.here.owed = s.here.owed ++ [o]
        ∧ s.cur.owes (s.cur.X + 3, .md (f.dst.toNat - 0x50) (f.row0.toNat % 4) (src s s.cur.X)) o)
    ∧ Runs (.mzero f) s (fun t => ∃ os, t.here.owed = s.here.owed ++ os ∧ List.Forall₂ s.cur.owes
        ((List.range (f.rows.toNat + 1)).map fun k => (s.cur.X, .zeroRow (f.acc.toNat - 0x48) (f.row0.toNat + k))) os)
    ∧ (∃ v : Rank, (s.mType f ≤ 8 → s.drains f whole v.toNat)
        ∧ (s.mType f = 12 → ∀ l < 8,
            let cell := fun plane => elemOf 32 (8 * (f.imm.toNat % 4) + l) (SMap.get (0 : TileRow) s.slice.acc (64 * (n % 4) + 32 * plane + r)).toNat
            elemOf 64 l v.toNat = if isNan32 (cell 0) || isNan32 (cell 1) then 0x7FC000007FC00000 else cell 0 + s.varIn (cell 1) * 2 ^ 32)
        ∧ Runs (.mout f) s fun t => s.OwesRank t f.dst.toNat (c + 3) v)
    ∧ ∃ (v : Rank) (w : TileRow), (s.mType f ≤ 8 → s.drains f whole v.toNat) ∧ w.toNat = v.toNat
        ∧ Runs (.mbyp f) s fun t => ∃ o, t.here.owed = s.here.owed ++ [o]
          ∧ s.cur.owes (c + 1, if f.imm.getLsbD 3 then .byp r v else .tile (f.dst.toNat - 0x40) r 0 64 w) o

/-- O43 (R58, R205, R207, R213): a row of an integer MMA or MMAZ owes an update under which, for every value of a cell, cell j becomes
wrap_32 of itself (of 0 for MMAZ) plus the exact sum over k of A_k times column j of the stationary B, where no SCALE applies. -/
def Obligations.IntegerProducts : Prop :=
  ∀ (f : MF) (s : State), ∀ e ∈ [(Instr.mma f, false), (.mmaz f, true)],
    let ty := entryType (s.tab.entry f.ty.toNat f.fs.toNat)
    let row := (s.arow f (f.imm.getLsbD 3)).1
    let a := fun k => intOf ty (elemOf 8 k row)
    let b := fun j k => intOf ty (elemOf 8 k (SMap.get (0 : TileRow) s.slice.b.cols j).toNat)
    ty = 5 ∨ ty = 8 → f.ty ≠ 15 ∨ s.mscale f = 0 → Runs e.1 s fun t => ∃ u os, t.here.owed = s.here.owed ++ os
      ∧ List.Forall₂ s.cur.owes [(s.cur.X + s.cur.row + 7, .row u)] os ∧ u.fresh = e.2 ∧ u.isInt = true
      ∧ ∀ j < 32, ∀ cell < 2 ^ 32, (cellI32 u.rm cell (u.s0.getD j .nan) : Int)
          = (intOf 3 cell + ((List.range 64).map fun k => a k * b j k).sum) % 2 ^ 32

/-- O44 (R50, R54, R57, R58, R59, R61, R205, R207, R214 to R217): a row of MMA, MMAZ, MMAS, MMAP, MMG or MMG2 owes the update of its
accumulator row, at the end of X + 7 + i, or X + 11 + i for the moment products, by the sum of R58 of its products, each exact and scaled:
MMA and MMAZ over the depth of the type; MMAS over the 32 stored values, against the elements that the metadata name; MMAP in the east
half over the products that the west half latched a cycle before and its own; MMG and MMG2 for both planes, MMG2 against the tiles as they
stood at X. The readings and choices of the model that it rests on stand in log entries 25, 84 and 102. -/
def Obligations.FloatingProducts : Prop :=
  ∀ (f : MF) (s : State),
    let c := s.cur.X + s.cur.row
    let rd := s.mRm f == 4
    let whole := decide (3 ≤ s.mType f ∧ s.mType f ≤ 8)
    let byp := f.imm.getLsbD 3
    let row := (s.arow f byp).1
    let two := ((s.arow f false).2.readRank f.b.toNat c false).1.toNat
    let held := ((((s.here.slice (s.cur.s - 1)).pair).find? fun e => e.1 == c).map fun e => e.2).getD []
    let tiles := (List.range 64).map fun j => SMap.get (0 : TileRow) s.slice.t (32 * (f.b.toNat - 0x40) + j)
    let taken := ((s.slice.mmg2 ++ if s.cur.row = 0 then [(s.cur.X, tiles)] else []).find? fun e => e.1 == s.cur.X).map fun e => e.2
    (∀ e ∈ [(Instr.mma f, false), (.mmaz f, true)], Runs e.1 s fun t =>
      s.OwesUpdate t f (c + 7) whole e.2 (fun j S _ => WindowSum rd (s.mDense f row j) S) false)
    ∧ (s.mType f ≤ 8 → Runs (.mmas f) s fun t =>
        s.OwesUpdate t f (c + 7) whole false (fun j S _ => WindowSum rd (s.mSparse f (s.arow f false).1 two j) S) false)
    ∧ (s.cur.s % 2 = 0 → Runs (.mmap f) s fun t => ∃ own, t.slice.pair = s.slice.pair ++ [(c + 1, own)] ∧ own.length = 32
        ∧ (∀ j < 32, own.getD j [] = s.mDense f row j) ∧ t.here.owed = s.here.owed)
    ∧ (s.cur.s % 2 = 1 → Runs (.mmap f) s fun t =>
        s.OwesUpdate t f (c + 7) whole false (fun j S _ => WindowSum rd (held.getD j [] ++ s.mDense f row j) S) false)
    ∧ Runs (.mmg f) s (fun t => s.OwesUpdate t f (c + 11) false false (fun j S V => WindowSum rd (s.mMean f j).1 S ∧ WindowSum rd (s.mMean f j).2 V) true)
    ∧ Runs (.mmg2 f) s fun t => s.OwesUpdate t f (c + 11) false false
        (fun j S V => WindowSum rd (s.mBoth f (taken.getD []) j).1 S ∧ WindowSum rd (s.mBoth f (taken.getD []) j).2 V) true

/-! ### C (R192 to R204, R315) -/

/-- O45 (R37, R192, R199 to R204, R315, R340): every C form completes for all operands, and each of its steps owes exactly its words,
every one once and in order. A step of FILL, FILLM or FILLX owes the masked banks of the rank that lands the HBM words at its page
offsets, a step of SPILL its masked bank words their physical addresses, HATOM its home operation on the words that its lanes name, a step
of XRECV and RECVADD the word of the cycle, with its tape entry, XRECV the rank besides; XSEND owes nothing. LDR may owe tl and its
destination the masked bank words through RT, STR the masked words of their lines, and RMW the same words and its destination (the lists
stand in the next statement); CNOP changes nothing. The readings and choices of the model that it rests on stand in log entries 14 and 57.
-/
def Obligations.CopyAndBankForms : Prop :=
  (∀ (f : CF) (g : CX) (s : State), s.cur.slot ≠ 3 → ∀ e ∈ s.cForms f g, Runs e.1 s fun t =>
      s.SliceFrame t [s.cur.s] (fun due d => (due, d) ∈ e.2) ∧ ∃ os, t.here.owed = s.here.owed ++ os ∧ List.Forall₂ s.cur.owes e.2 os)
  ∧ (∀ (f : CF) (s : State), let a := (s.readRank f.spec.toNat s.cur.X false).1.toNat
      Runs (.hatom f) s fun t => ∃ h : Hatom, t.here.hatoms = s.here.hatoms ++ [h] ∧ h.tag = s.hub.nextId ∧ h.op = f.aop.toNat % 8
        ∧ h.pairs = ((List.range 8).filter fun j => f.bmask.getLsbD j).map (fun j =>
            (j, (s.handleT f).pa (4 * (elemOf 32 (2 * j) a : Int)), BitVec.ofNat 32 (elemOf 32 (2 * j + 1) a)))
        ∧ h.fetch.length = if f.aop.getLsbD 3 then h.pairs.length else 0)
  ∧ ∀ (f : CB) (s : State),
    let X := s.cur.X
    let bank := fun (d : Dest) => ∃ b < 16, f.bmask.getLsbD b = true
      ∧ ∃ v tape, d = .bank b (s.lineFor f.it.toNat f.skew.toNat b f.loff.toInt) v 0 tape
    Runs (.ldr f) s (fun t => s.SliceFrame t [s.cur.s] fun due d => due = X + 3 ∧ ((∃ v, d = .tl v) ∨ ∃ v, d = .spec f.spec.toNat v))
    ∧ Runs (.str f) s (fun t => s.SliceFrame t [s.cur.s] fun due d => due = X + 3 ∧ bank d)
    ∧ Runs (.rmw f) s (fun t => s.SliceFrame t [s.cur.s] fun due d =>
        due = X + 2 ∧ (bank d ∨ ∃ v, d = .spec f.spec.toNat v))
    ∧ Runs (.cnop f) s (· = s)

/-- O46 (R192, R195, R196, R197, R340): what LDR, STR and RMW owe, in order, and nothing else. LDR owes tl and its destination, at the end
of X + 3, the rank whose lane b is the word of bank b at its line, zero where the mask has no bank, through RT; STR each masked bank, at
the end of X + 3, its lane of the source through WT; RMW, at the end of X + 2, each masked bank its operation on the old word and its
lane, and its destination the old words. Without RT or WT a rank passes as it is. A word that a declared bank region covers under RECORD
has the tape entry that comes next in bank order from TP. -/
def Obligations.BankWords : Prop :=
  ∀ (f : CB) (s : State),
    let X := s.cur.X
    let key := fun b => 16 * s.lineFor f.it.toNat f.skew.toNat b f.loff.toInt + b
    let old := fun b => SMap.get (0 : Word) s.slice.bank (key b)
    let src := (s.readRank f.spec.toNat X false).1
    let arg := (s.readRank f.spec2.toNat X false).1
    let banks := (List.range 16).filter fun b => f.bmask.getLsbD b
    let tape := fun b => if s.tab.taped (key b) then
        some (s.slice.tp.toNat + 8 * (banks.filter fun c => decide (c < b) && s.tab.taped (key c)).length) else none
    let stored := fun (due : Nat) (v : Nat → Word) => banks.map fun b => (due, Dest.bank b (key b / 16) (v b) 0 (tape b))
    let named := fun (due : Nat) (r : Rank) => if f.spec = 0x3A ∨ f.spec = 0x58 then [] else [(due, Dest.spec f.spec.toNat r)]
    let owesAll := fun (t : State) (l : List (Nat × Dest)) => ∃ os, t.here.owed = s.here.owed ++ os ∧ List.Forall₂ s.cur.owes l os
    let through := fun (z : Option Trel) (r : Rank) => BitVec.ofNat 512 (benesRank (s.setting z).1 r.toNat)
    ∃ r : Rank, (∀ b < 16, r.extractLsb' (32 * b) 32 = if f.bmask.getLsbD b then old b else 0)
      ∧ (∀ x : Rank, through none x = x)
      ∧ Runs (.ldr f) s (fun t => owesAll t ((X + 3, .tl (through s.cur.fl.rt r)) :: named (X + 3) (through s.cur.fl.rt r)))
      ∧ Runs (.str f) s (fun t => owesAll t (stored (X + 3) fun b => (through s.cur.fl.wt src).extractLsb' (32 * b) 32))
      ∧ Runs (.rmw f) s fun t => owesAll t ((stored (X + 2) fun b =>
          let v := arg.extractLsb' (32 * b) 32
          match f.rop.toNat with
          | 0 => old b + v
          | 1 => if (old b).toInt < v.toInt then old b else v
          | 2 => if (old b).toInt < v.toInt then v else old b
          | 3 => old b &&& v
          | 4 => old b ||| v
          | 5 => old b ^^^ v
          | 6 => v
          | _ => if old b = s.cur.fl.xs.extractLsb' 0 32 then v else old b) ++ named (X + 2) r)

/-! ### Pending writes (R24, R28, R29) -/

/-- O47 (R29, R68, R81, R82, R119, R127, R138, R272, R337, R339, R349, R359): a write owed to a die performs, and changes exactly what it
names: the x register takes its value; the bytes of SMEM take the low bytes of theirs, and are clean again; a control register takes the
bits that it keeps, LOGPTR those of LOGBASE with it; XFLAGS and NF lose the bits that are one in the value; FMT and region descriptors are
those of every die of the partition; the tables, shapes, handles and the mode take what was written, entry by entry; a sync word is armed,
or marked as lapped; a bank-mask set is acquired, and what of it was to be given back stays, or released, and then gives back what no
other acquired set has; TP, or the adjoint file, changes in one column. What a handler writes into a register or a handle also stands in
every boundary to which a rewind may return. The readings and choices of the model that it rests on stand in log entry 19. -/
def Obligations.WritesOfADie : Prop :=
  ∀ (s : State) (o : Owed), s.pays o →
    let d := s.die
    let cx := s.ctx s.cur.cid
    let swRest := fun (e : Die) (a : Nat) => { e with smem := [], smemBad := [] } = { d with smem := [], smemBad := [] }
      ∧ ∀ k, k < a ∨ a + 16 ≤ k → e.smemByte k = d.smemByte k
    (∀ n v, o.dest = .x n v → s.DiePays o fun e => Sets 0 e.x d.x n v ∧ { e with x := [] } = { d with x := [] })
    ∧ (∀ a n v, o.dest = .smem a n v → s.DiePays o fun e => { e with smem := [], smemBad := [] } = { d with smem := [], smemBad := [] }
        ∧ (∀ k, (e.smemByte k).toNat = if a ≤ k ∧ k < a + n then byteOf v (k - a) else (d.smemByte k).toNat)
        ∧ ∀ w, w ∈ e.smemBad ↔ w ∈ d.smemBad ∧ (4 * w + 4 ≤ a ∨ a + n ≤ 4 * w))
    ∧ (∀ r ∈ csrTable, ∀ v T, o.dest = .tab (.csr r.1 v T) → s.DiePays o fun e => (r.2.2.1 e).toNat = (v &&& BitVec.ofNat 64 r.2.1).toNat
        ∧ r.2.2.2 e = r.2.2.2 d ∧ (r.1 = 0x31 → e.logptr = v &&& 0x3FFFFFFFFE0)
        ∧ ∀ q ∈ csrTable, q.1 ≠ r.1 → ¬(r.1 = 0x31 ∧ q.1 = 0x33) → q.2.2.1 e = q.2.2.1 d)
    ∧ (o.hnd = true → (∀ r ∈ csrTable, ∀ v T, o.dest = .tab (.csr r.1 v T) → Runs (.owedWritePerforms o.id) s fun t =>
          ∀ m ∈ (t.ctx s.cur.cid).marks, (r.2.2.1 (m.2.die o.die)).toNat = (v &&& BitVec.ofNat 64 r.2.1).toNat)
        ∧ ∀ n v, o.dest = .tab (.handle n v) → Runs (.owedWritePerforms o.id) s fun t =>
          ∀ m ∈ (t.ctx s.cur.cid).marks, SMap.get {} (m.2.die o.die).tab.handles n = v)
    ∧ (∀ k < 64, ∀ v T, o.dest = .tab (.csr (0x100 + k) v T) → s.DiesPay o fun x e =>
        Sets 0 e.tab.fmt x.tab.fmt k (v.setWidth 16 &&& 0x7FFF) ∧ { e with tab := { e.tab with fmt := [] } } = { x with tab := { x.tab with fmt := [] } })
    ∧ (∀ n v, o.dest = .tab (.dr n v) → s.DiesPay o fun x e =>
        Sets 0 e.tab.dr x.tab.dr n v ∧ { e with tab := { e.tab with dr := [] } } = { x with tab := { x.tab with dr := [] } })
    ∧ (∀ v T, o.dest = .tab (.csr 0x42 v T) → s.CorePays o fun c => c = { s.here.without o with ereserve := v.setWidth 48 })
    ∧ (∀ v T, o.dest = .tab (.csr 0x13 v T) → s.DiePays o fun e => e.visible T = d.visible T &&& ~~~((v.setWidth 4).setWidth 9 <<< 5)
        ∧ { e with xflags := 0, nf := 0, evts := [] } = { d with xflags := 0, nf := 0, evts := [] })
    ∧ (∀ v T, o.dest = .tab (.csr 0x15 v T) → s.DiePays o fun e => e.visible T = d.visible T &&& ~~~(v.setWidth 5).setWidth 9
        ∧ { e with xflags := 0, nf := 0, evts := [] } = { d with xflags := 0, nf := 0, evts := [] })
    ∧ (∀ n v, o.dest = .tab (.it n v) → s.DiePays o fun e => Sets 0 e.tab.it d.tab.it n v ∧ { e with tab := { e.tab with it := [] } } = { d with tab := { d.tab with it := [] } })
    ∧ (∀ n v, o.dest = .tab (.sk n v) → s.DiePays o fun e => Sets 0 e.tab.sk d.tab.sk n v ∧ { e with tab := { e.tab with sk := [] } } = { d with tab := { d.tab with sk := [] } })
    ∧ (∀ n v, o.dest = .tab (.fslot n v) → s.DiePays o fun e => Sets 0 e.tab.fslot d.tab.fslot n v ∧ { e with tab := { e.tab with fslot := [] } } = { d with tab := { d.tab with fslot := [] } })
    ∧ (∀ n v, o.dest = .tab (.tsh n v) → s.DiePays o fun e => Sets 0 e.tab.tsh d.tab.tsh n v ∧ { e with tab := { e.tab with tsh := [] } } = { d with tab := { d.tab with tsh := [] } })
    ∧ (∀ n v, o.dest = .tab (.shape n v) → s.DiePays o fun e => Sets 0 e.tab.shape d.tab.shape n v ∧ { e with tab := { e.tab with shape := [] } } = { d with tab := { d.tab with shape := [] } })
    ∧ (∀ n v, o.dest = .tab (.handle n v) → s.DiePays o fun e => Sets {} e.tab.handles d.tab.handles n v
        ∧ { e with tab := { e.tab with handles := [] } } = { d with tab := { d.tab with handles := [] } })
    ∧ (∀ n, o.dest = .tab (.hinv n) → s.DiePays o fun e => Sets {} e.tab.handles d.tab.handles n { SMap.get {} d.tab.handles n with v := false }
        ∧ { e with tab := { e.tab with handles := [] } } = { d with tab := { d.tab with handles := [] } })
    ∧ (∀ v, o.dest = .tab (.amode v) → s.DiePays o fun e => e = { d with tab := { d.tab with amode := v } })
    ∧ (∀ a v, v < 2 ^ 32 → o.dest = .tab (.arm a v) → s.DiePays o fun e => let (w, x) := (e.syncAt a, d.syncAt a)
        swRest e a ∧ swTarget w = v ∧ swStatus w = swStatus x
        ∧ (swCount w, swGen w) = if v = 0 then (swCount x, swGen x) else (swCount x % v, (swGen x + swCount x / v) % 2 ^ 32))
    ∧ (∀ a, o.dest = .tab (.lapped a) → s.DiePays o fun e => let (w, x) := (e.syncAt a, d.syncAt a)
        swRest e a ∧ swTarget w = swTarget x ∧ swCount w = swCount x ∧ swGen w = swGen x ∧ swStatus w = swStatus x ||| 4)
    ∧ (∀ n, n < 16 → o.dest = .tab (.acquire n) → s.CorePays o fun c =>
        let mine := fun (r : Nat × Nat) => if r.1 = 4096 then (cx.set n).1.getLsbD r.2 else (SMap.get 0 (cx.set n).2 r.1).getLsbD r.2
        c = { s.here.without o with acquired := c.acquired, releasing := s.here.releasing.filter fun r => !mine r }
        ∧ ∀ k < 16, c.acquired.getLsbD k = (s.here.acquired.getLsbD k || k == n))
    ∧ (∀ n, n < 16 → o.dest = .tab (.release n) → s.CorePays o fun c =>
        let free := fun (m b : Nat) => ∀ k, k = 0 ∨ k ≠ n ∧ s.here.acquired.getLsbD k = true → (SMap.get 0 (cx.set k).2 m).getLsbD b = false
        let planeFree := fun (b : Nat) => ∀ k, k = 0 ∨ k ≠ n ∧ s.here.acquired.getLsbD k = true → (cx.set k).1.getLsbD b = false
        c = { s.here.without o with acquired := c.acquired, releasing := c.releasing }
        ∧ (∀ k < 16, c.acquired.getLsbD k = (s.here.acquired.getLsbD k && k != n))
        ∧ ∃ l, c.releasing = s.here.releasing ++ l ∧ ∀ m b, (m, b) ∈ l ↔
          (∃ v, (m, v) ∈ (cx.set n).2 ∧ v.getLsbD b = true ∧ free m b) ∨ m = 4096 ∧ (cx.set n).1.getLsbD b = true ∧ planeFree b)
    ∧ (∀ col v, col < 128 → o.dest = .tab (.tp col v) → s.ColumnPays o col fun l => { l with tp := v })
    ∧ (∀ col, col < 128 → o.dest = .tab (.clearAdj col) → s.ColumnPays o col fun l => { l with adj := {} })

/-- O48 (R22, R23, R29, R54, R58, R75, R76, R77, R340): a write owed to a slice performs: a push stands behind the entries of its queue,
and finds a full queue with cause 0x05 and pushes nothing; a drive stands in the hop register of its channel and column; tw, tl, the
solver and mask registers, the moment registers, tile bytes, metadata quarters, accumulator rows, the stationary B, the bypass latch and
TP take their values, a floating accumulator cell the sum with its one rounding, a negative variance of plane 1 as +0 or with cause 0x14;
a bank word takes its value and tag, and its tape entry takes what the word held, with its slice byte address. Writes to the zero
specifier and to k0 are discarded. -/
def Obligations.WritesOfASlice : Prop :=
  ∀ (s : State) (o : Owed), s.pays o →
    let l := s.slice
    let q := fun n => SMap.get [] l.q n
    (∀ n v, n < 16 → (q n).length < 4 → o.dest = .spec n v →
      s.SlicePays o fun e => Sets [] e.q l.q n (q n ++ [v]) ∧ { e with q := [] } = { l with q := [] })
    ∧ (∀ n v, n < 16 → (q n).length ≥ 4 → o.dest = .spec n v → Runs (.owedWritePerforms o.id) s fun t =>
        s.CoreOnly t ∧ t.here.slices = s.here.slices ∧ ∃ x ∈ t.here.traps, x.code = 5 ∧ x.val = n ∧ x.slice = some o.s ∧ x.die = o.die)
    ∧ (∀ n v, n < 32 → o.dest = .spec (0x10 + n) v → Runs (.owedWritePerforms o.id) s fun t =>
        s.CoreOnly t ∧ { t.here with hops := [] } = { s.here.without o with hops := [] }
        ∧ Sets 0 t.here.hops s.here.hops (((dieOf o.s * 4 + rowOf o.s) * 32 + n) * 128 + colOf o.s) v)
    ∧ (∀ v, o.dest = .spec 0x39 v → s.SlicePays o fun e => e = { l with tw := v })
    ∧ (∀ v, o.dest = .spec 0x3A v ∨ o.dest = .spec 0x58 v → s.SlicePays o fun e => e = l)
    ∧ (∀ n v, n < 4 → o.dest = .spec (0x54 + n) v → s.SlicePays o fun e => Sets 0 e.z l.z n (v.extractLsb' 0 56) ∧ { e with z := [] } = { l with z := [] })
    ∧ (∀ n v, 0 < n → n < 8 → o.dest = .spec (0x58 + n) v →
        s.SlicePays o fun e => Sets 0 e.k l.k n (v.extractLsb' 0 128) ∧ { e with k := [] } = { l with k := [] })
    ∧ (∀ v, o.dest = .tl v → s.SlicePays o fun e => e = { l with tl := (o.due + 1, v) })
    ∧ (∀ b line v tag, o.dest = .bank b line v tag none → s.SlicePays o fun e => Sets 0 e.bank l.bank (16 * line + b) v
        ∧ Sets 0 e.tag l.tag (16 * line + b) tag ∧ { e with bank := [], tag := [] } = { l with bank := [], tag := [] })
    ∧ (∀ b line v tag a, o.dest = .bank b line v tag (some (4 * a)) → a ≠ 16 * line + b → a + 1 ≠ 16 * line + b → s.SlicePays o fun e =>
        SMap.get 0 e.bank (16 * line + b) = v ∧ SMap.get 0 e.bank a = SMap.get 0 l.bank (16 * line + b)
        ∧ SMap.get 0 e.tag a = SMap.get 0 l.tag (16 * line + b) ∧ (SMap.get 0 e.bank (a + 1)).toNat = 4 * (16 * line + b) % 2 ^ 32
        ∧ ∀ k, k ≠ 16 * line + b → k ≠ a → k ≠ a + 1 → SMap.get 0 e.bank k = SMap.get 0 l.bank k)
    ∧ (∀ n v, o.dest = .mom n v → s.SlicePays o fun e => Sets 0 e.m l.m n v ∧ { e with m := [] } = { l with m := [] })
    ∧ (∀ n row lo len v, lo + len ≤ 128 → o.dest = .tile n row lo len v → s.SlicePays o fun e => { e with t := [] } = { l with t := [] }
        ∧ (∀ k, k ≠ 32 * n + row → SMap.get 0 e.t k = SMap.get 0 l.t k)
        ∧ ∀ k < 128, byteOf (SMap.get 0 e.t (32 * n + row)).toNat k
            = if lo ≤ k ∧ k < lo + len then byteOf v.toNat (k - lo) else byteOf (SMap.get 0 l.t (32 * n + row)).toNat k)
    ∧ (∀ a row, row < 32 → o.dest = .zeroRow a row → s.SlicePays o fun e => { e with acc := [] } = { l with acc := [] }
        ∧ ∀ k, SMap.get 0 e.acc k = if k = 64 * a + row ∨ k = 64 * a + 32 + row then 0 else SMap.get 0 l.acc k)
    ∧ (∀ u : RowUpdate, o.dest = .row u → u.isInt = true → u.row < 32 → u.s0.length = 32 → u.s1 = [] → s.SlicePays o fun e =>
        { e with acc := [] } = { l with acc := [] } ∧ (∀ k, k ≠ 64 * u.a + u.row → SMap.get 0 e.acc k = SMap.get 0 l.acc k)
        ∧ let old := SMap.get (0 : TileRow) l.acc (64 * u.a + u.row)
          ∀ j < 32, elemOf 32 j (SMap.get (0 : TileRow) e.acc (64 * u.a + u.row)).toNat
            = cellI32 u.rm (if u.fresh then 0 else elemOf 32 j old.toNat) (u.s0.getD j .nan))
    ∧ (∀ u : RowUpdate, o.dest = .row u → u.isInt = false → u.row < 32 → u.s0.length = 32 → u.s1 = [] ∨ u.s1.length = 32 →
        Runs (.owedWritePerforms o.id) s fun t =>
          let e := t.here.slice o.s
          let k0 := 64 * u.a + u.row
          let cell := fun (sl : Slice) k j => elemOf 32 j (SMap.get (0 : TileRow) sl.acc k).toNat
          let new := fun k j (S : ExactSum) => roundTo f32 u.rm (u.flush.getLsbD 1)
            (sumOf (u.rm == 4) (f32.decode (u.flush.getLsbD 0) (if u.fresh then 0 else cell l k j)) S.num)
          s.CoreOnly t ∧ (∀ n, n ≠ o.s → t.here.slice n = s.here.slice n) ∧ { e with acc := [] } = { l with acc := [] }
          ∧ (∀ k, k ≠ k0 → (u.s1 ≠ [] → k ≠ k0 + 32) → SMap.get 0 e.acc k = SMap.get 0 l.acc k)
          ∧ (∀ j < 32, cell e k0 j = new k0 j (u.s0.getD j .nan))
          ∧ (u.s1 ≠ [] → ∀ j < 32, let v := new (k0 + 32) j (u.s1.getD j .nan)
              cell e (k0 + 32) j = (if negVar v && u.clamp then 0 else v)
              ∧ (negVar v = true → u.clamp = false → ∃ x ∈ t.here.traps, x.code = 0x14 ∧ x.slice = some o.s ∧ x.die = o.die)))
    ∧ (∀ n k v, k < 4 → o.dest = .md n k v → s.SlicePays o fun e => { e with d := [] } = { l with d := [] }
        ∧ (∀ j, j ≠ n → SMap.get 0 e.d j = SMap.get 0 l.d j) ∧ ∀ i < 2048, (SMap.get (0 : BitVec 2048) e.d n).getLsbD i
          = if i / 512 = k then v.getLsbD (i % 512) else (SMap.get (0 : BitVec 2048) l.d n).getLsbD i)
    ∧ (∀ b, o.dest = .statB b → s.SlicePays o fun e => e = { l with b := b })
    ∧ (∀ row v, o.dest = .byp row v → s.SlicePays o fun e => Sets 0 e.byp l.byp row v ∧ { e with byp := [] } = { l with byp := [] })
    ∧ (∀ v, o.dest = .tp v → s.SlicePays o fun e => e = { l with tp := v })

/-- O49 (R199, R202, R230, R232, R240, R313, R343, R358, R369): what reaches HBM. OUTER_TRELLIS_ARRIVAL and HATOM_PARK_NOTICE complete in
every state, OWED_WRITE_PERFORMS for every write that is owed, HATOM_HOME_OPERATION, HATOM_REPLAY and HATOM_FETCH_LANDING for every HATOM
that is on its way, parked or performed, and replayed. A word owed to it performs in its four bytes, little-endian, unless a HATOM of the
same cycle stands on the word, or the write stands from before a rewind; a poisoned one marks its line; log bytes perform byte by byte. A
HATOM performs at its home, and owes the old values that it fetches at the end of X + 800; one that meets a memory-side fault is parked in
its home's queue, its notice on its way, and performs when the home replays it, once; one that the home knows already, after a rewind,
performs no more. Its value lands in its banks afterwards, or is discarded when its die has ended. In replay a notice and a landing come
from the log alone. A word of the outer trellis stands at the port of its slice. Nothing else changes. The readings and choices of the
model that it rests on stand in log entries 35, 44, 46, 62 and 63. -/
def Obligations.MemoryOperations : Prop :=
  (∀ (s : State) (plan cid home tag : Nat) (w : Word) (old : List Word) (bad : Bool),
    Completes (.outerTrellisArrival plan w bad) s ∧ Completes (.hatomParkNotice cid tag) s
    ∧ ((∃ o ∈ s.here.owed, o.id = tag) → Completes (.owedWritePerforms tag) s)
    ∧ ((∃ h ∈ s.here.hatoms, h.tag = tag) → Completes (.hatomHomeOperation tag) s)
    ∧ ((∃ h ∈ s.hub.hatoms, h.tag = tag ∧ h.home = home ∧ h.got = []) ∨ tag ∈ s.hub.performed → Completes (.hatomReplay home tag old bad) s)
    ∧ ((∃ h ∈ s.hub.hatoms, h.tag = tag ∧ h.cid = cid ∧ h.got ≠ []) → Completes (.hatomFetchLanding cid tag) s))
  ∧ (∀ (s : State) (o : Owed) (pa : Nat), s.pays o →
    (∀ ch k v, o.dest = .hbm pa ch k v false → pa ∉ s.here.homeWords → s.Anew pa → Runs (.owedWritePerforms o.id) s fun t =>
        t.here = s.here.without o ∧ t.hub = s.hub
        ∧ ∀ a, (t.hbmByte a).toNat = if pa ≤ a ∧ a < pa + 4 then byteOf v.toNat (a - pa) else (s.hbmByte a).toNat)
    ∧ (∀ ch k v bad, o.dest = .hbm pa ch k v bad → pa ∈ s.here.homeWords ∨ ¬s.Anew pa → Runs (.owedWritePerforms o.id) s fun t =>
        t.here = s.here.without o ∧ t.hbm = s.hbm)
    ∧ (∀ ch k v, o.dest = .hbm pa ch k v true → Runs (.owedWritePerforms o.id) s fun t =>
        pa / 64 ∈ t.hub.poison ∧ ∃ e ∈ t.inputs, e.instr = .poisonMark (pa / 64))
    ∧ (∀ bs, o.dest = .log pa bs → s.Anew pa → Runs (.owedWritePerforms o.id) s fun t => t.here = s.here.without o ∧ t.hub = s.hub
        ∧ ∀ a, t.hbmByte a = if pa ≤ a ∧ a < pa + bs.length then bs.getD (a - pa) 0 else s.hbmByte a))
  ∧ (∀ (s : State) (h : Hatom), s.here.hatom h.tag = some h →
    (s.parks h = false → Runs (.hatomHomeOperation h.tag) s fun t => ((∀ e ∈ h.pairs, s.Anew e.2.1) → s.HomeDone t h)
        ∧ t.hub = s.hub ∧ t.here.dies = s.here.dies ∧ t.here.slices = s.here.slices
        ∧ t.here.hatoms = s.here.hatoms.filter (fun x => x.tag != h.tag)
        ∧ ∃ os, t.here.owed = s.here.owed ++ os ∧ os.length = h.fetch.length
        ∧ ∀ o ∈ os, o.due = s.cur.X + 800 ∧ ∃ e ∈ h.fetch, ∃ v, o.dest = .bank (e.2.1 % 16) (e.2.1 / 16) v 0 e.2.2)
    ∧ (s.parks h = true → s.hub.knows h.tag = false → (s.ctx h.cid).replaying = true → h.fetch ≠ [] →
      Runs (.hatomHomeOperation h.tag) s fun t => t.hbm = s.hbm ∧ t.hub = s.hub ∧ t.inputs = s.inputs ∧ t.here = s.here.notePark h.tag)
    ∧ (s.parks h = true → s.hub.knows h.tag = false → (s.ctx h.cid).replaying = false ∨ h.fetch = [] →
      Runs (.hatomHomeOperation h.tag) s fun t => t.hbm = s.hbm
        ∧ { h with parked := true } ∈ t.hub.hatoms ∧ t.here.owed = s.here.owed ∧ t.here.dies = s.here.dies ∧ t.here.slices = s.here.slices
        ∧ (h.remote = false → h.tag ∈ SMap.get [] t.hub.homes h.home)
        ∧ (h.fetch ≠ [] → ∃ e ∈ t.inputs, e.instr = .hatomParkNotice h.cid h.tag))
    ∧ (s.parks h = true → s.hub.knows h.tag = true → Runs (.hatomHomeOperation h.tag) s fun t => s.CoreOnly t ∧ t.here =
        if ∃ x ∈ s.hub.hatoms, x.tag = h.tag then s.here.notePark h.tag
        else { s.here with hatoms := s.here.hatoms.filter fun x => x.tag != h.tag }))
  ∧ (∀ (s : State) (cid tag : Nat), Runs (.hatomParkNotice cid tag) s fun t => t.hub = s.hub ∧ (t.core cid).owed = (s.core cid).owed
      ∧ (t.core cid).dies = (s.core cid).dies ∧ (t.core cid).slices = (s.core cid).slices ∧ (∀ c, c ≠ cid → t.core c = s.core c)
      ∧ (s.Unrecorded cid → t.hbm = s.hbm))
  ∧ (∀ (s : State) (h : Hatom) (old : List Word), (s.hub.hatoms.find? fun x => x.tag == h.tag && x.home == h.home && x.got.isEmpty) = some h →
    (h.remote = false → Runs (.hatomReplay h.home h.tag old false) s fun t => s.HomeDone t h ∧ h.tag ∈ t.hub.performed)
    ∧ (h.remote = true → Runs (.hatomReplay h.home h.tag old false) s fun t => t.hbm = s.hbm ∧ h.tag ∈ t.hub.performed)
    ∧ Runs (.hatomReplay h.home h.tag old true) s fun t => t.hbm = s.hbm ∧ h.tag ∈ t.hub.performed ∧ (6, h.tag) ∈ t.hub.events)
  ∧ (∀ (s : State) (home tag : Nat) (old : List Word) (bad : Bool), (∀ x ∈ s.hub.hatoms, x.tag ≠ tag) → tag ∈ s.hub.performed →
      exec (.hatomReplay home tag old bad) s = .next s)
  ∧ (∀ (s : State) (h : Hatom), (s.hub.hatoms.find? fun x => x.tag == h.tag && x.cid == h.cid && !x.got.isEmpty) = some h →
    SMap.has s.cores h.cid = true →
    Runs (.hatomFetchLanding h.cid h.tag) s fun t => (s.Unrecorded h.cid → t.hbm = s.hbm) ∧ (∀ x ∈ t.hub.hatoms, x.tag ≠ h.tag)
      ∧ (t.core h.cid).dies = (s.core h.cid).dies ∧ (t.core h.cid).owed = (s.core h.cid).owed
      ∧ (((s.core h.cid).die h.ctx.d).dieEnd = true ∨ (s.ctx h.cid).replaying = true → (t.core h.cid).slices = (s.core h.cid).slices)
      ∧ (((s.core h.cid).die h.ctx.d).dieEnd = false → (s.ctx h.cid).replaying = false → ∀ e g, h.fetch = [e] → h.got.find? (fun x => x.1 == e.1) = some g → e.2.2 = none →
          let a := (s.core h.cid).slice h.ctx.s
          let b := (t.core h.cid).slice h.ctx.s
          Sets 0 b.bank a.bank e.2.1 g.2.1 ∧ Sets 0 b.tag a.tag e.2.1 (if g.2.2 then 2 else 0)))
  ∧ ∀ (s : State) (plan : Nat) (w : Word) (bad : Bool), Runs (.outerTrellisArrival plan w bad) s fun t => s.CoreOnly t
      ∧ s.here.SliceOnly t.here s.cur.s ∧ t.slice = { s.slice with arr := s.slice.arr ++ [(plan, w, bad)] }

/-! ### The cycle (R3, R18, R20, R22, R28) -/

/-- O50 (R3, R15, R18, R20, R88, R200, R280, R350): CYCLE_BOUNDARY completes while the partition runs, BUNDLE_ISSUE or DELAY_BUNDLE where
a bundle of the die is due, and ADJOINT_BUNDLE_ISSUE where a record of its REVERSE is. With one partition that runs under no hold, and
nothing waiting nor due to the dispatcher or the link engine, a cycle begins: each die whose bundle is due issues, in ascending order.
Then the steps of the cycle's columns run: those kept for this cycle, and for each bundle in the rows its slice syllables in the member
slices of column C - T - 2, but for an M syllable that a FILLM latches. The readings and choices of the model that it rests on stand in
log entries 70 and 71. -/
def Obligations.CycleAndColumns : Prop :=
  (∀ (s : State) (p cid d : Nat), s.runs p cid → Completes (.cycleBoundary p) s
    ∧ (∀ a, (s.core cid).dueBundle d = some a →
        Completes (if (s.fetchWord cid a).toNat / 2 ^ 56 = 0 then .delayBundle p d else .bundleIssue p d) s)
    ∧ (s.cur.fl.inv = none → ((s.core cid).die d).rev ≠ none → (s.core cid).dueAdjoint d = true → Completes (.adjointBundleIssue p d) s))
  ∧ (∀ (s : State) (p cid : Nat), s.agenda = [] → s.inputs = [] → s.hub.powered = true → s.parts.map Prod.fst = [p] → s.runs p cid →
    (s.ctx cid).kernel = .running → (s.ctx cid).canopy ≠ 0 → (s.ctx cid).replaying = false → (s.core cid).forming = [] →
    s.linkDue = none → s.dispatcher p = none →
    let issue (d : Nat) : List Instr :=
      if (s.core cid).dueAdjoint d then [.adjointBundleIssue p d]
      else match (s.core cid).dueBundle d with
        | some a => [if (s.fetchWord cid a).toNat / 2 ^ 56 = 0 then .delayBundle p d else .bundleIssue p d]
        | none => []
    ∃ i t, step s = exec i t ∧ t.cores = s.cores ∧ t.ctxs = s.ctxs ∧ t.hbm = s.hbm
      ∧ i :: t.agenda.map Task.instr = ((s.diesOf p).map issue).flatten ++ [.cycleBoundary p])
  ∧ ∀ (s : State) (p cid : Nat), s.runs p cid → s.cur.row = 0 →
    let c := s.core cid
    let C := c.now
    Runs (.cycleBoundary p) s fun t => s.Then t p cid 1 fun e =>
      (e ∈ c.tasks ∧ e.cyc = C ∧ e.ctx.fl.hnd = c.handler)
      ∨ c.handler = false ∧ ∃ f ∈ c.flights, ∃ r < 4, ∃ y ∈ f.syl, let n := 512 * f.die + 128 * r + (C - f.T - 2)
        f.T + 2 ≤ C ∧ C ≤ f.T + 129 ∧ c.member f.grp n = true ∧ y.1 ≠ 0 ∧ (y.1 = 3 → ∀ z ∈ f.syl, ∀ g, z.2 ≠ .fillm g)
        ∧ e = ⟨C, { cid := cid, p := p, d := f.die, s := n, slot := y.1, X := C, fl := f }, if f.inv.isSome then .adjointBundleIssue p f.die else y.2⟩

/-- O51 (R18, R22, R29, R364): the crossing adds one to ACC while the kernel runs, and to the handler's count alone while a handler runs;
values on eastbound channels move one column up, those on westbound channels one down, and one that leaves column 0 westbound stands in
its sink. The writes due in the cycle that ends perform next, and no other. The readings and choices of the model that it rests on stand
in log entries 14 and 46. -/
def Obligations.CycleCrossing : Prop :=
  ∀ (s : State) (p cid : Nat), s.runs p cid → s.cur.row = 1 →
    let c := s.core cid
    let C := c.now
    Runs (.cycleBoundary p) s fun t => s.Then t p cid 2 (fun e => ∃ o ∈ c.owed, o.hnd = c.handler ∧ o.due = C ∧ c.barred o = false
        ∧ ((o.isHatom = false ∧ e = ⟨0, o.ctx cid p, .owedWritePerforms o.id⟩)
            ∨ ∃ ch tag h, o.dest = .hatom ch tag ∧ c.hatom tag = some h ∧ e = ⟨0, h.ctx, .hatomHomeOperation tag⟩))
      ∧ (∀ o, o ∈ (t.core cid).owed ↔ o ∈ c.owed ∧ ¬(o.isHatom = true ∧ o.hnd = c.handler ∧ o.due = C))
      ∧ (t.core cid).dies = c.dies ∧ t.hbm = s.hbm
      ∧ (c.handler = true → (t.core cid).acc = c.acc ∧ (t.core cid).hclk = c.hclk + 1 ∧ (t.core cid).hops = c.hops)
      ∧ (c.handler = false → (t.core cid).acc = c.acc + 1 ∧ (t.core cid).hclk = c.hclk
          ∧ (∀ d row ch col, row < 4 → ch < 16 → col < 127 →
              SMap.get 0 (t.core cid).hops (hopKey d row ch (col + 1)) = SMap.get 0 c.hops (hopKey d row ch col))
          ∧ (∀ d row ch col, row < 4 → ch < 16 → col < 127 →
              SMap.get 0 (t.core cid).hops (hopKey d row (16 + ch) col) = SMap.get 0 c.hops (hopKey d row (16 + ch) (col + 1)))
          ∧ (∀ d row ch, row < 4 → ch < 16 → SMap.get 0 (t.core cid).hops (hopKey d row ch 0) = 0
              ∧ SMap.get 0 (t.core cid).hops (hopKey d row (16 + ch) 127) = 0
              ∧ SMap.get 0 (t.core cid).sinks (sinkKey d row ch) = SMap.get 0 c.hops (hopKey d row (16 + ch) 0)))

/-! ### Traps are taken (R358 to R366) -/

/-- O52 (R132, R152, R274, R357 to R366): TRAP_TAKEN completes wherever a trap has been found. At a boundary where a trap is found, that
trap is taken, and nothing else happens there; in a handler once what its bundles would raise in their slices is known. The trap charged
is of the earliest bundle, then of the lowest cause, then of a sequencer before a slice. The partition stands again at the boundary before
its T: the timed core is the one marked there, and HBM holds what it held but where another party's access has followed (R240). Every die
that is in no REVERSE enters its handler with its trap registers, TBUNDLE behind END where a loop of no passes was just passed over; the
others' are siblings'. Without a vector on some die, and on a trap in a handler, the context fails. While some die runs its handler, the
boundary settles; when all have returned or ended, what they still owe samples and performs, a cycle at a time from the earliest, and the
kernel goes on: each die at its TBUNDLE, the cycles after TACC at which its next bundle was due. The readings and choices of the model
that it rests on stand in log entries 15, 16, 17, 20, 72 and 74. -/
def Obligations.TrapsAreTaken : Prop :=
  (∀ (s : State) (cid : Nat), (s.core cid).foundTraps ≠ [] → Completes (.trapTaken cid) s)
  ∧ (∀ (s : State) (p cid : Nat), s.runs p cid → s.cur.row = 2 →
    let c := s.core cid
    let inHandler := ∃ d ∈ s.diesOf p, (c.die d).inS = true ∧ (c.die d).ended = none
    let goesOn := fun (t : State) (row : Nat) => s.Then t p cid row (fun _ => False) ∧ (∀ k, k ≠ cid → t.core k = s.core k)
      ∧ t.core cid = { c with owned := (t.core cid).owned, planes := (t.core cid).planes, releasing := (t.core cid).releasing }
    (c.foundTraps ≠ [] → c.handler = false ∨ (∀ C, ¬c.HandlerOwes (· ≠ 0) C) →
      exec (.cycleBoundary p) s = .next { s with agenda := ⟨0, { cid := cid, p := p }, .trapTaken cid⟩ :: s.agenda })
    ∧ (c.foundTraps ≠ [] → c.handler = true → s.Drains p cid (· ≠ 0))
    ∧ (c.foundTraps = [] → c.handler = true → inHandler → Runs (.cycleBoundary p) s fun t => goesOn t 3)
    ∧ (c.foundTraps = [] → c.handler = true → ¬inHandler → s.Drains p cid fun _ => True)
    ∧ (c.foundTraps = [] → c.handler = true → ¬inHandler → (∀ C, ¬c.HandlerOwes (fun _ => True) C) → Runs (.cycleBoundary p) s fun t => goesOn t 4)
    ∧ (c.foundTraps = [] → c.handler = false → Runs (.cycleBoundary p) s fun t => (t.core cid).dies = c.dies ∧ t.hbm = s.hbm
        ∧ s.Then t p cid 3 fun e => e.cyc = 0 ∧ e.ctx = { cid := cid, p := p } ∧
          ((∃ q ∈ c.posts, q.T + 176 ≤ c.acc.toNat ∧ e.instr = .collHandoff cid q.die)
          ∨ ∃ d ∈ s.diesOf p, (c.dieZero (s.ctx cid) d = true ∧ e.instr = .dieCounterZero cid d)
              ∨ (c.dieDue (s.ctx cid) d = true ∧ e.instr = .canopyDecrement cid d))))
  ∧ (∀ (s : State) (cid : Nat), (s.core cid).foundTraps ≠ [] → (s.core cid).handler = false →
      let l := (s.core cid).foundTraps
      let p := (s.ctx cid).p
      ∃ x ∈ l, (∀ u ∈ l, x.T < u.T ∨ x.T = u.T ∧ (x.code < u.code ∨ x.code = u.code ∧ (u.slice = none → x.slice = none)))
        ∧ ∃ multi, (multi = true ↔ ∃ u ∈ l, u.code ≠ x.code ∨ u.slice ≠ x.slice) ∧ ∃ r : State, r = s.rewind cid x.T ∧
          ((∀ d ∈ s.diesOf p, ((r.core cid).die d).tvec ≠ 0 ∧ ((r.core cid).die d).rev = none) → Runs (.trapTaken cid) s fun t =>
              (t.core cid).handler = true ∧ (t.core cid).hclk = 0 ∧ (t.core cid).acc = (r.core cid).acc
              ∧ (∀ d ∈ s.diesOf p, (r.behindEnd cid ((r.core cid).die d)).Entered ((t.core cid).die d) x multi (d == x.die))
              ∧ ∃ rest, t.agenda = ⟨0, { cid := cid, p := p, row := 3 }, .cycleBoundary p⟩ :: rest)
          ∧ ((∃ d ∈ s.diesOf p, ((r.core cid).die d).tvec = 0) → Runs (.trapTaken cid) s fun t =>
              (t.ctx cid).state = .failed ∧ (t.ctx cid).kernel = .faulted ∧ (t.core cid).owed = []))
  ∧ (∀ (s : State) (cid T : Nat) (b : Core), ((s.ctx cid).marks.find? fun m => m.1 == T) = some (T, b) → ((s.ctx cid).replaying = true ∨ (s.ctx cid).replayLog = []) →
      (s.part (s.ctx cid).p).traceAt = 0 → (∀ e ∈ (s.ctx cid).applied, e.1 < b.seen) →
      let r := s.rewind cid T
      r.core cid = { b with seen := (s.core cid).seen }
      ∧ ((r.ctx cid).stands = (s.ctx cid).stands → ∀ a, r.hbmByte a = ((((s.ctx cid).undo.filter fun e =>
          decide (e.1 > T ∧ e.2.1 ≤ a ∧ a < e.2.1 + e.2.2.1.length)).getLast?).map fun e => e.2.2.1.getD (a - e.2.1) 0).getD (s.hbmByte a)))
  ∧ (∀ (s : State) (cid : Nat), (s.core cid).foundTraps ≠ [] → (s.core cid).handler = true → Runs (.trapTaken cid) s fun t =>
      (t.ctx cid).state = .failed ∧ (t.ctx cid).kernel = .faulted ∧ (t.core cid).owed = [] ∧ (t.core cid).tasks = [])
  ∧ ∀ (s : State) (p cid : Nat), s.runs p cid →
    (s.cur.row = 3 → ∃ u : State, exec (.cycleBoundary p) s = .next u ∧ ((s.core cid).handler = false → (s.ctx cid).stepTo = none →
        ∃ v : State, u = v.settleHolds cid ∧ v.cores = s.cores ∧ v.hbm = s.hbm
          ∧ (v.ctx cid).marks.head?.map Prod.fst = some (s.core cid).acc.toNat))
    ∧ (s.cur.row = 4 → ∃ u : State, exec (.cycleBoundary p) s = .next (u.settle cid p) ∧ u.hbm = s.hbm ∧ (u.core cid).handler = false
        ∧ (u.core cid).acc = (s.core cid).acc ∧ (∀ f ∈ (u.core cid).flights, f.hnd = false)
        ∧ ∀ d ∈ s.diesOf p, ((s.core cid).die d).ended = none → ((s.core cid).die d).rev = none → SMap.has (s.core cid).dies d = true →
          let x := (s.core cid).die d
          let acc := (s.core cid).acc.toNat
          (u.core cid).die d = { x with pc := x.tbundle.toNat, next := max acc (x.tacc.toNat + (x.next - acc)) })

/-! ### Holds (R25 to R27, R244, R289, R300, R305, R385) -/

/-- O53 (R25, R26, R27, R244, R293, R299, R300, R305, R333, R385, R440): FAULT_RESP_RETRY and FAULT_RESP_TERMINATE complete in every
state, ENERGY_REFILL for every partition, WALK_COMPLETE, ICACHE_FILL_COMPLETE, FILL_LATE_CLEAR and ALIGN_RELEASE for the hold that they
serve, MIGRATION_START for a leaf that may move, MIGRATION_COMPLETE for a migration whose frame is at rest. Holds that begin are recorded
in HOLDR with the lowest code among them, its die and ACC, and the context is parked under a preempt hold, frozen under a fault or debug
hold, else held. A walk that finds no leaf, or a malformed one, ends in a fault hold of the same lookup; with a leaf the walk hold ends,
the leaf takes A, and D for a write, and the TLBs hold it; a TRANS is then held where the leaf has MIG or does not grant what it asks for,
and a handle that forms is that of the leaf, valid unless an HINV of the bundle before the forming cycle names it. The services of walk,
line fill, late landing, align and energy holds complete, and leave the timed core as it stood; a line's hold ends with the line present,
an align hold once WAC is at its target; a late landing goes on waiting while a home stays full; ENERGY_REFILL adds RATE for one
microsecond, capped at CAP, and carries the rest. An answer to an entry that is not open is ignored; terminate fails the context that
faulted. A migration sets MIG in the leaf and shoots the page down; its end moves the page and its leaf to the new frame, MIG is clear,
and the page is shot down again; an aborted one shoots it down, too, and a notice tells the host. The readings and choices of the model
that it rests on stand in log entries 11, 32, 36, 37, 71 and 91. -/
def Obligations.HoldsBeginAndEnd : Prop :=
  (∀ (s : State) (cid p seq : Nat) (abort : Bool) (l : List Nat),
    Completes (.faultRespRetry p seq) s ∧ Completes (.faultRespTerminate p seq) s
    ∧ ((s.part p).n ≠ 0 → Completes (.energyRefill p) s)
    ∧ (∀ h ∈ (s.ctx cid).holds, ∀ va perm n, h.on = .walk va perm n → Completes (.walkComplete cid h.die) s)
    ∧ ∀ m ∈ s.hub.migrations, ∀ leaf level pa, s.walk (s.rootFor m.p m.va) m.va = .leaf leaf level pa →
        s.frameRests m.va (2 ^ pageBits level) (pteBase leaf) = true → Completes (.migrationComplete m.p m.va abort l) s)
  ∧ (∀ (s : State) (cid : Nat) (hs : List Hold), hs ≠ [] → (∀ h ∈ hs, h.kind < 16 ∧ h.die < 8) → (s.ctx cid).p < 8 →
    let t := s.beginHolds cid hs
    let kinds := ((s.ctx cid).holds ++ hs).map Hold.kind
    let away := (s.ctx cid).state = .parked ∨ (s.ctx cid).state = .saved ∨ (s.ctx cid).state = .restoring
    t.cores = s.cores ∧ (∃ l, (t.ctx cid).holds = (s.ctx cid).holds ++ l ∧ (l.map fun h => (h.kind, h.die)).Perm (hs.map fun h => (h.kind, h.die)))
      ∧ (away → (t.ctx cid).state = (s.ctx cid).state)
      ∧ (¬away → (t.ctx cid).state = (if 9 ∈ kinds then .parked else if 8 ∈ kinds ∨ 10 ∈ kinds then .frozen else .held))
      ∧ ∃ h ∈ hs, (∀ k ∈ hs, h.kind ≤ k.kind) ∧ (t.ctx cid).holdr.toNat % 16 = h.kind
        ∧ (t.ctx cid).holdr.toNat / 16 % 8 = (if h.kind ∈ [4, 5, 7, 9, 10] then (s.ctx cid).p else h.die)
        ∧ (t.ctx cid).holdr.toNat / 2 ^ 16 = (s.core cid).acc.toNat % 2 ^ 48)
  ∧ (∀ (s : State) (cid die va perm : Nat) (n : Option Nat),
    let walking := fun (h : Hold) => h.die == die && match h.on with | .walk _ _ _ => true | _ => false
    s.holding cid ⟨1, die, .walk va perm n⟩ walking → let w := s.walk (s.ctx cid).ptbase va
      let untraced := (s.dieHw die).trKinds.getLsbD 4 = false
      Runs (.walkComplete cid die) s (s.Stands · cid)
      ∧ (w = .notMapped → untraced → Runs (.walkComplete cid die) s fun t =>
          ∃ q, ⟨8, die, .fault va perm n (if n.isSome then 1 else 3) q false⟩ ∈ (t.ctx cid).holds)
      ∧ (w = .malformed → untraced → Runs (.walkComplete cid die) s fun t => ∃ q, ⟨8, die, .fault va perm n 7 q false⟩ ∈ (t.ctx cid).holds)
      ∧ ∀ leaf level pa, w = .leaf leaf level pa → untraced → Runs (.walkComplete cid die) s fun t => ∃ u,
          s.Walked u cid die va perm n leaf level pa ∧ t =
            if n ≠ none ∧ leaf.getLsbD 10 = true then u.beginHolds cid [⟨8, die, .migrate va perm n⟩]
            else if leafGrants leaf perm then u.release cid
            else u.beginHolds cid [⟨8, die, .fault va perm n (if n = none then 4 else 2) 0 false⟩])
  ∧ (∀ (s : State) (cid cyc die kind va perm n seq why : Nat) (hnd a : Bool) (leaf : BitVec 64) (level pa : Nat), let c := s.core cid
    ∀ on ∈ [HoldOn.walk va perm (some n), .migrate va perm (some n), .fault va perm (some n) why seq a],
      c.forming = [⟨cyc, hnd, ⟨kind, die, on⟩⟩] → s.walk (s.ctx cid).ptbase va = .leaf leaf level pa →
      let t := (s.formResults cid).core cid
      let got := SMap.get ({} : Handle) (t.die die).tab.handles n
      { got with v := false } = { handleOf leaf level va perm c.hgen with v := false } ∧ t.forming = []
        ∧ (got.v = false ↔ ∃ f ∈ c.flights, f.die = die ∧ f.hnd = hnd ∧ f.T + 1 = cyc ∧ ∃ e ∈ f.syl, ∃ g, e.2 = .hinv g ∧ g.xd.toNat = n)
        ∧ ∀ d k, d ≠ die ∨ k ≠ n → SMap.get ({} : Handle) (t.die d).tab.handles k = SMap.get {} (c.die d).tab.handles k)
  ∧ (∀ (s : State) (cid die : Nat) (l : List Nat), s.holding cid ⟨2, die, .imiss l⟩ (fun h => h.die == die && h.kind == 2) →
      Runs (.icacheFillComplete cid die) s fun t => s.Stands t cid ∧ (l.length = 1 ∨ (s.dieHw die).icache.length + l.length < 16384 →
        (∀ x ∈ l, ((s.ctx cid).asn, x) ∈ (t.dieHw die).icache) ∧ ⟨2, die, .imiss l⟩ ∉ (t.ctx cid).holds))
  ∧ (∀ (s : State) (cid die cyc : Nat), s.holding cid ⟨3, die, .late cyc⟩ (fun h => h.kind == 3) →
      (s.homeFull cid ≠ none → exec (.fillLateClear cid) s = .next s)
      ∧ (s.homeFull cid = none → Runs (.fillLateClear cid) s fun t => s.Stands t cid
          ∧ (s.lateNow cid = none → ∀ h ∈ (t.ctx cid).holds, h.kind ≠ 3)))
  ∧ (∀ (s : State) (cid die target xd : Nat), s.holding cid ⟨5, die, .align target xd⟩ (fun h => h.die == die && h.kind == 5) →
      target ≤ s.hub.wac.toNat → Runs (.alignRelease cid die) s fun t => s.Stands t cid ∧ ⟨5, die, .align target xd⟩ ∉ (t.ctx cid).holds)
  ∧ (∀ (s : State) (p : Nat), (s.part p).n ≠ 0 → let q := s.part p
      let total := q.refill + q.rate.toNat * 65536
      Runs (.energyRefill p) s fun t => (t.part p).refill = total % 1000
        ∧ (t.part p).allow.toNat = min (q.allow.toNat + total / 1000) (q.cap.toNat * 65536)
        ∧ (∀ cid, q.running = some cid → s.Stands t cid) ∧ (q.running = none → t.cores = s.cores ∧ t.hbm = s.hbm))
  ∧ (∀ (s : State) (p seq : Nat),
      ((s.part p).openEntry seq = none → exec (.faultRespRetry p seq) s = .next s ∧ exec (.faultRespTerminate p seq) s = .next s)
      ∧ (∀ e, (s.part p).openEntry seq = some e → Runs (.faultRespRetry p seq) s fun t => ∀ cid, s.Stands t cid)
      ∧ ∀ e cid x, (s.part p).openEntry seq = some e →
          (s.ctxs.find? fun y => y.2.p == p && y.2.alive && y.2.holds.any (Hold.ofSeq seq)) = some (cid, x) →
          Runs (.faultRespTerminate p seq) s fun t => ∃ u : State, t = u.retryFaults p ∧ (u.ctx cid).state = .failed ∧ (u.core cid).owed = [])
  ∧ (∀ (s : State) (p va frame : Nat) (leaf : BitVec 64) (level pa : Nat), s.walk (s.rootFor p va) va = .leaf leaf level pa →
      let size := 2 ^ pageBits level
      leaf.getLsbD 10 = false → leaf.getLsbD 11 = false → frame % size = 0 → frame < 2 ^ 48 → va < 2 ^ 52 →
      Runs (.migrationStart p va frame) s fun t => ⟨p, va / size * size, pa, frame⟩ ∈ t.hub.migrations ∧ t.cores = s.cores
        ∧ t.pte pa = leafBits (s.pte pa) 0x400 0 ∧ t.ShotDown (va / size * size) size ∧ ∀ a, a < pa ∨ pa + 8 ≤ a → t.hbmByte a = s.hbmByte a)
  ∧ ∀ (s : State) (p va : Nat) (m : Migration) (leaf : BitVec 64) (level pa : Nat) (l : List Nat), s.Safe →
      (s.hub.migrations.find? fun m => m.p == p && m.va == va) = some m → s.walk (s.rootFor p va) va = .leaf leaf level pa →
      let size := 2 ^ pageBits level
      let src := pteBase leaf
      s.frameRests va size src = true →
      ((∀ w ∈ s.hub.badWords, 4 * w < src ∨ src + size ≤ 4 * w) →
        Runs (.migrationComplete p va false l) s fun t => m ∉ t.hub.migrations ∧ t.cores = s.cores ∧ t.ShotDown va size
        ∧ (∀ i < size, m.frame + i < pa ∨ pa + 8 ≤ m.frame + i → t.hbmByte (m.frame + i) = s.hbmByte (src + i))
        ∧ (∀ a, a < pa ∨ pa + 8 ≤ a → a < m.frame ∨ m.frame + size ≤ a → t.hbmByte a = s.hbmByte a)
        ∧ (pa + 8 ≤ m.frame ∨ m.frame + size ≤ pa → t.pte pa = leafBits leaf (BitVec.ofNat 64 m.frame) 0x0000FFFFFFFF0400))
      ∧ Runs (.migrationComplete p va true l) s fun t => m ∉ t.hub.migrations ∧ t.cores = s.cores
        ∧ ∃ u : State, t = u.notice p 5 va ∧ u.ShotDown va size

/-! ### Sync words and the mailbox (R237, R238, R286, R287, R290, R391, R393, R441) -/

/-- O54 (R237, R238, R286, R287, R290, R380, R393, R441): SYNC_ARRIVAL, MAILBOX_WRITE, MAILBOX_READ and the host's TARGET, COUNT and
STATUS writes complete in every state. An arrival, and a host write of TARGET, COUNT or STATUS, changes the one sync word it names, as
R287 and R290 say: a TARGET write arms, a COUNT write of v is an arrival of v bytes and none for zero, a STATUS write clears OVF, ERR and
LAPPED where its bits are one, and VREF where bits 15 to 8 are. Before the BAR opens a mailbox write reaches nothing and a read gives
zeros, but of STAT. A write within a line reaches the bytes that the window's partition maps with W, or is dropped, counted and reported;
a read gives the bytes mapped with R, and all ones elsewhere. The host reads all four words of a sync word, and its writes of them are
those events, GEN's nothing. The places of the mailbox events are the model's (log entry 92). The readings and choices of the model that
it rests on stand in log entries 35, 38 and 92. -/
def Obligations.SyncWordsAndMailbox : Prop :=
  (∀ (s : State) (r : SyncRef) (b vref part va n : Nat) (err : Bool) (bs : List Byte), ∀ i ∈ [Instr.syncArrival r b err vref,
    .syncTargetWrite r b, .syncCountWrite r b, .syncStatusWrite r b, .mailboxWrite part va bs, .mailboxRead part va n], Completes i s)
  ∧ (∀ (s : State) (r : SyncRef) (b : Nat) (err : Bool) (vref : Nat), s.WordBecomes (.syncArrival r b err vref) r fun w => swArrival w b err vref)
  ∧ (∀ (s : State) (r : SyncRef) (v : Nat), s.WordBecomes (.syncTargetWrite r v) r (fun w => swArm w (v % 2 ^ 32))
      ∧ (v % 2 ^ 32 ≠ 0 → s.WordBecomes (.syncCountWrite r v) r fun w => swArrival w (v % 2 ^ 32) false 0)
      ∧ (v % 2 ^ 32 = 0 → exec (.syncCountWrite r v) s = .next s)
      ∧ s.WordBecomes (.syncStatusWrite r v) r fun w => swClear w (v % 2 ^ 32))
  ∧ (∀ (w : BitVec 128) (v : Nat), let c := swClear w v
      swTarget c = swTarget w ∧ swCount c = swCount w ∧ swGen c = swGen w
      ∧ (∀ i < 3, bitAt (swStatus c) i = (bitAt (swStatus w) i && !bitAt v i))
      ∧ bitsOf (swStatus c) 8 8 = (if bitsOf v 8 8 = 255 then 0 else bitsOf (swStatus w) 8 8)
      ∧ swStatus c / 2 ^ 16 = swStatus w / 2 ^ 16)
  ∧ (∀ (s : State) (part va : Nat) (bs : List Byte), s.hub.barOpen = false → exec (.mailboxWrite part va bs) s = .next s)
  ∧ (∀ (s : State) (part va n : Nat), s.hub.barOpen = false → Runs (.mailboxRead part va n) s fun t => t.hbm = s.hbm ∧ t.cores = s.cores
      ∧ t.hub.readback = (List.range n).map fun i =>
          if part = 8 ∧ 0x1020040 ≤ va + i ∧ va + i < 0x1020048 then BitVec.ofNat 8 (byteOf s.hub.stat.toNat (va + i - 0x1020040)) else 0)
  ∧ (∀ (s : State) (part va : Nat) (bs : List Byte), s.hub.barOpen = true → part < 8 → bs ≠ [] → va % 64 + bs.length ≤ 64 →
      (s.hostPa part va 2 = none → Runs (.mailboxWrite part va bs) s fun t => t.hub.dropped = s.hub.dropped + 1
          ∧ t.hub.firstDrop = some (s.hub.firstDrop.getD va) ∧ (4, va) ∈ t.hub.events ∧ t.hbm = s.hbm ∧ t.cores = s.cores ∧ t.parts = s.parts)
      ∧ ∀ pa, s.hostPa part va 2 = some pa → s.queueAt pa = none → s.faultBlockAt pa = none → s.inReplay part = false →
          Runs (.mailboxWrite part va bs) s fun t => ∃ u : State,
            t = (s.ctxs.map Prod.fst).foldl (fun v c => v.hostReaches c part pa va bs) u ∧ u.cores = s.cores ∧ u.ctxs = s.ctxs
            ∧ ∀ a, u.hbmByte a = if pa ≤ a ∧ a < pa + bs.length then bs.getD (a - pa) 0 else s.hbmByte a)
  ∧ (∀ (s : State) (part va : Nat) (bs : List Byte), s.hub.barOpen = true → part < 8 → va % 64 + bs.length > 64 →
      Runs (.mailboxWrite part va bs) s fun t => ∃ rest, t.agenda = rest ++ ⟨0, {}, .mailboxWrite part (va / 64 * 64 + 64) (bs.drop (64 - va % 64))⟩ :: s.agenda)
  ∧ (∀ (s : State) (part va n : Nat), s.hub.barOpen = true → part < 8 → Runs (.mailboxRead part va n) s fun t =>
      t.hub.readback = (List.range n).map (fun i => match s.hostPa part (va + i) 1 with | some pa => s.hbmByte pa | none => 0xFF)
      ∧ t.hbm = s.hbm ∧ t.cores = s.cores ∧ t.ctxs = s.ctxs ∧ t.parts = s.parts)
  ∧ ∀ (s : State) (place va n : Nat) (bs : List Byte), s.hub.barOpen = true → place = 9 ∨ 16 ≤ place →
      let word := fun (i : Nat) => if place = 9 then SyncRef.launch i else .die ((place - 16) / 8) (place % 8) i
      let read := fun (r : SyncRef) => match r with
        | .launch i => s.launchWord (i % 1024)
        | .die cid d i => if (s.ctx cid).alive then ((s.core cid).die d).syncAt (0x30000 + 16 * (i % 4096)) else 0
      let r := word (va / 16)
      Runs (.mailboxRead place va n) s (fun t => t.cores = s.cores ∧ t.hbm = s.hbm ∧ t.ctxs = s.ctxs
        ∧ t.hub.readback = (List.range n).map fun i => BitVec.ofNat 8 (byteOf (read (word ((va + i) / 16))).toNat ((va + i) % 16)))
      ∧ (va % 4 = 0 → bs.length = 4 → exec (.mailboxWrite place va bs) s = .next { s with
          agenda := (match va / 4 % 4 with
            | 0 => [⟨0, {}, .syncTargetWrite r (ofLeBytes bs)⟩]
            | 1 => [⟨0, {}, .syncCountWrite r (ofLeBytes bs)⟩]
            | 2 => []
            | _ => [⟨0, {}, .syncStatusWrite r (ofLeBytes bs)⟩]) ++ s.agenda })

/-! ### Launch queues, contexts and kernels (R241 to R275) -/

/-- O55 (R244 to R275): TAIL_WRITE, QUEUE_SUSPEND, QUEUE_RESUME and QUEUE_CLEAR complete in every state, the events of dispatch, prologue,
start, pre-emption, storage, restore, die end, canopy, retirement and termination in the states that these rules give them. A TAIL write
is ignored before LOG2N is set, is error 6 outside the ring or behind TAIL, else stands; suspend, resume and clear act in the states of
R261; aging adds one level each time a ready queue has waited its AGE; a quantum expires; dispatch admits the head of the selected queue,
or finds it bad with error 5, or has a parked launch restored; the prologue's entries are issued and land; a kernel starts with its
allowance at CAP; it is pre-empted and parked, and restored; it claims what no other active context owns; its dies end, its canopy counts
down, and it retires; a context is terminated, and freed. The readings and choices of the model that it rests on stand in log entries 31,
39, 40, 42, 43, 94 and 104. -/
def Obligations.QueuesAndContexts : Prop :=
  (∀ (s : State) (p q v : Nat) (adm : Admit) (force : Bool) (plan : List ParkMove),
    (∀ i ∈ [Instr.tailWrite p q v, .queueSuspend p q, .queueResume p q, .queueClear p q], Completes i s)
    ∧ (s.pickQueue p = some q → (s.part p).next = none → (s.queue p q).launch ≠ none ∨ (s.ctx adm.cid).state = .empty →
        Completes (.dispatch p q adm) s)
    ∧ ∀ cid, (s.part p).running = some cid → (s.ctx cid).debugged = false → force = true ∨ s.mustPreempt p = true →
        Completes (.preemptRequest p force plan) s)
  ∧ (∀ (s : State) (p q v : Nat), let d := (v % 2 ^ 32 + 2 ^ 32 - s.qHead p q) % 2 ^ 32
    let bad := d > 2 ^ s.qLog p q ∨ (s.qTail p q + 2 ^ 32 - s.qHead p q) % 2 ^ 32 > d
    (s.qLog p q = 0 → exec (.tailWrite p q v) s = .next s)
    ∧ (s.qLog p q ≠ 0 → bad → Runs (.tailWrite p q v) s fun t => s.QueueOnly t p q ∧ (t.queue p q).state = .errored ∧ t.qRead p q 13 1 = 6)
    ∧ (s.qLog p q ≠ 0 → ¬bad → Runs (.tailWrite p q v) s fun t => s.QueueOnly t p q ∧ t.qTail p q = v % 2 ^ 32 ∧ t.qHead p q = s.qHead p q)
    ∧ Runs (.queueSuspend p q) s (fun t => s.QueueOnly t p q
        ∧ (t.queue p q).state = if (s.queue p q).state = .errored then .errored else .suspended)
    ∧ Runs (.queueResume p q) s (fun t => s.QueueOnly t p q
        ∧ ((s.queue p q).state ≠ .suspended → t.queue p q = s.queue p q)
        ∧ ((s.queue p q).state = .suspended → (s.queue p q).launch = none → (t.queue p q).state
          = if s.qPosted p q then (if s.recordMet (s.queue p q).head then .ready else .waiting) else .empty)
        ∧ ((s.queue p q).state = .suspended → ∀ cid, (s.queue p q).launch = some cid → (s.ctx cid).alive = true →
          (t.queue p q).state ∈ [.ready, .blocked, .dispatching]))
    ∧ ((s.queue p q).state ≠ .errored → Runs (.queueClear p q) s fun t => s.QueueOnly t p q ∧ t.queue p q = s.queue p q)
    ∧ ((s.queue p q).state = .errored → Runs (.queueClear p q) s fun t => s.QueueOnly t p q ∧ t.qHead p q = (s.qHead p q + 1) % 2 ^ 32)
    ∧ (let age := s.qRead p q 9 1
      (s.queue p q).state = .ready → (s.queue p q).since + 1000000 * (if age = 0 then 50 else age) ≤ s.hub.wac.toNat →
        Runs (.agingStep p q) s fun t => t.effective p q = min 4 (s.effective p q + 1) ∧ t.cores = s.cores ∧ t.hbm = s.hbm)
    ∧ ∀ cid, (s.part p).running = some cid → (s.ctx cid).quantumOut = false →
      (s.ctx cid).started + 1000 * recField (s.ctx cid).launch 288 32 ≤ s.hub.wac.toNat → Runs (.quantumExpiry p) s fun t => (t.ctx cid).quantumOut = true ∧ t.cores = s.cores ∧ t.hbm = s.hbm)
  ∧ (∀ (s : State) (p q : Nat) (adm : Admit), s.pickQueue p = some q → (s.part p).next = none →
    let head := (s.queue p q).head
    let image := s.readImage adm.ptbase (recImage head)
    let good := ∃ i, image = some i ∧ i.admits p (s.part p).n head = true
    let after := if (s.part p).running.isSome then QueueState.blocked else .dispatching
    ((s.queue p q).launch = none → (s.ctx adm.cid).state = .empty → Runs (.dispatch p q adm) s fun t =>
        (good → (t.ctx adm.cid).state = .loading ∧ (t.part p).next = some adm.cid ∧ (t.queue p q).state = after ∧ (t.core adm.cid).acc = 0)
        ∧ (¬good → (t.queue p q).state = .errored ∧ t.qRead p q 13 1 = 5 ∧ t.cores = s.cores ∧ t.ctxs = s.ctxs))
    ∧ ∀ cid, (s.queue p q).launch = some cid → Runs (.dispatch p q adm) s fun t => (t.part p).next = some cid ∧ (t.queue p q).state = after
        ∧ t.cores = s.cores ∧ ((s.part p).running = none → (s.ctx cid).state = .parked ∨ (s.ctx cid).state = .saved →
          (t.ctx cid).state = .restoring))
  ∧ (∀ (s : State) (cid n ch : Nat) (e : Prologue), (s.ctx cid).state = .loading → (s.ctx cid).prologue[n]? = some e →
    (e.stage = 0 → ch < 20 → (∀ r, (s.part (s.ctx cid).p).running = some r → bitAt (hdrField (s.ctx r).header 64 20) ch = false) →
      (e.after = true → ∀ r, (s.ctx cid).after = some r → (s.ctx r).alive = false) →
      (∀ f ∈ (s.ctx cid).prologue, ¬(f.stage = 1 ∧ f.chan = ch ∧ f.die = e.die)) → (s.claimSet cid 0 []).prologueOwned cid e = true →
      Runs (.prologueEntryIssue cid n ch) s fun t => (t.ctx cid).prologue[n]? = some { e with stage := 1, chan := ch }
        ∧ ((∀ x ∈ s.ctxs, x.2.state ≠ .parked ∧ x.2.state ≠ .saved) → t.hbm = s.hbm))
    ∧ (e.stage = 1 → e.words ≤ 131072 →
      (∀ m ∈ e.slices, ∀ k ∈ e.ks, (s.prologueSource (s.ctx cid).ptbase e (colOf m) k).isSome = true) →
      Runs (.prologueEntryLanding cid n) s fun t => (t.ctx cid).prologue[n]? = some { e with stage := 2 } ∧ t.hbm = s.hbm
        ∧ (t.core cid).dies = (s.core cid).dies ∧ (∀ m, m ∉ e.slices → (t.core cid).slice m = (s.core cid).slice m)
        ∧ ∀ m ∈ e.slices, ∀ k ∈ e.ks, ∀ pa, s.prologueSource (s.ctx cid).ptbase e (colOf m) k = some pa →
          SMap.get 0 ((t.core cid).slice m).bank (16 * ((e.line + k / 16) % 8192) + k % 16) = s.hbmWord pa))
  ∧ (∀ (s : State) (cid : Nat), let c := s.ctx cid
    (s.part c.p).next = some cid → (s.part c.p).running = none → c.state = .loading → (∀ e ∈ c.prologue, e.stage = 2) →
    (s.claimSet cid 0 []).ownsSet cid 0 = true → Runs (.kernelStart cid) s fun t => ∃ u : State, t = u.settleHolds cid
      ∧ (u.part c.p).running = some cid ∧ (u.part c.p).next = none ∧ (u.ctx cid).state = .running ∧ (u.ctx cid).kernel = .running
      ∧ (u.part c.p).allow.toNat = (s.part c.p).cap.toNat * 65536 ∧ (u.core cid).acc = (s.core cid).acc)
  ∧ (∀ (s : State) (p cid : Nat) (plan : List ParkMove), (s.part p).running = some cid → (s.ctx cid).p = p → (s.ctx cid).debugged = false →
      (s.ctx cid).state ∈ [.running, .held, .frozen] → (s.part p).next ≠ some cid →
      Runs (.preemptRequest p true plan) s fun t => (t.ctx cid).state = .parked ∧ (t.ctx cid).kernel = .suspended
        ∧ (t.part p).running = none ∧ t.cores = s.cores ∧ (t.ctx cid).holdr.toNat % 16 = 9)
  ∧ (∀ (s : State) (cid n : Nat) (plan : List ParkMove),
      ((s.ctx cid).holds.findSome? fun h => match h.on with | .bank n => some n | _ => none) = some n →
      Runs (.storageClaim cid plan) s fun t => (t.core cid).acc = (s.core cid).acc ∧ (t.core cid).owed = (s.core cid).owed
        ∧ ∀ m b, (SMap.get 0 ((s.ctx cid).set n).2 m).getLsbD b = true → (s.heldBlocks cid m).getLsbD b = false →
          (SMap.get 0 (t.core cid).owned m).getLsbD b = true)
  ∧ (∀ (s : State) (cid : Nat), let c := s.ctx cid
      (s.part c.p).next = some cid → (s.part c.p).running = none → c.state = .restoring →
      Runs (.restoreComplete cid) s fun t => (t.part c.p).running = some cid ∧ (t.part c.p).next = none
        ∧ (t.core cid).acc = (s.core cid).acc ∧ (t.core cid).owed = (s.core cid).owed)
  ∧ ∀ (s : State) (cid d : Nat), let c := s.core cid
      let x := s.ctx cid
      (x.alive = true → Runs (.contextTerminate cid) s fun t => (t.ctx cid).state = .failed ∧ (t.ctx cid).kernel = .faulted ∧ (t.core cid).owed = [])
      ∧ (x.state = .retired ∨ x.state = .failed → Runs (.contextFree cid) s fun t => (t.ctx cid).state = .empty ∧ t.core cid = {}
          ∧ t.hbm = s.hbm ∧ ∀ k, k ≠ cid → t.ctx k = s.ctx k ∧ t.core k = s.core k)
      ∧ (c.dieZero x d = true → Runs (.dieCounterZero cid d) s fun t => (t.core cid).die d = { c.die d with dieEnd := true }
          ∧ { t.core cid with dies := [] } = { c with dies := [] })
      ∧ (c.dieDue x d = true → Runs (.canopyDecrement cid d) s fun t => (t.ctx cid).canopy = x.canopy - 1
          ∧ (d < 8 → (t.ctx cid).counters.getLsbD d = true) ∧ t.cores = s.cores ∧ t.hbm = s.hbm)
      ∧ (x.state = .running → x.kernel = .ending → x.canopy = 0 → s.parkedHatom cid = false →
          Runs (.kernelRetire cid) s fun t => (t.ctx cid).state = .retired ∧ (t.ctx cid).kernel = .retired ∧ (t.core cid).owed = []
            ∧ (t.part x.p).running ≠ some cid)

/-! ### Steward, debugger and replay (R301, R302, R306, R322, R367 to R382, R390, R392) -/

/-- O56 (R301, R302, R306, R322, R367, R376, R378, R379, R390, R392, R393): every command of the host completes (QUERY_PARTITION,
SHOOTDOWN, CLEAR_POISON_MARK, LOAD_LINK_KEY, ERASE_LINK_KEY, SET_TRACE, SET_PROFILE_WINDOW, RECORD_REPLAY), and so do SHOOTDOWN_APPLY
where one has still to reach the context, POISON_MARK, BANK_SCRUB of a context's core, and ATTESTATION_REPORT. Before the BAR opens no
command does anything, and while the steward is busy with another it is counted; afterwards each completes with its TAG and RESULT, 2 for
an operand outside its range (a partition that is none, an address or length not aligned, a peer that names no package, G outside 3 to
32), and its effect. A write of CMD while BUSY is counted, with an unknown OP it gives RESULT 3, else it makes BUSY and starts the command
of its OP. A shootdown that reaches a context raises HGEN and revokes the handles on its range. A marked line stands in the poison bitmap
until its mark is cleared; its page takes POISON and is shot down, a notice tells the host, and each running context concerned is held
until the shootdown reaches it. An uncorrectable bank word keeps its value and has tag 01, an SMEM word is bad, an instruction-cache line
is dropped (log entry 81 has the numbers). The attestation report signs DEVID, LCS, M and the host's nonce. The readings and choices of
the model that it rests on stand in log entries 5, 34, 35, 62, 81 and 100. -/
def Obligations.StewardCommands : Prop :=
  (∀ (s : State) (part va len sync peer key kinds lo hi g tag : Nat) (nonce : BitVec 256),
    (∀ e ∈ commands part va len sync peer key kinds lo hi g tag, Completes e.2 s)
    ∧ Completes (.poisonMark va) s ∧ Completes (.attestationReport nonce) s
    ∧ (∀ cid bad, SMap.has s.cores cid = true → Completes (.bankScrub cid part va len bad) s)
    ∧ ∀ cid id, (∃ x ∈ s.hub.shootdowns, x.id = id ∧ cid ∈ x.left) → Completes (.shootdownApply cid id) s)
  ∧ (∀ (s : State) (part va len sync peer key kinds lo hi g tag : Nat), ∀ e ∈ commands part va len sync peer key kinds lo hi g tag,
    (s.hub.barOpen = false → exec e.2 s = .next s)
    ∧ (s.hub.barOpen = true → ¬s.Takes e.1 tag → exec e.2 s = .next { s with hub := { s.hub with cmdIgnored := s.hub.cmdIgnored + 1 } }))
  ∧ (∀ (s : State) (bs : List Byte), s.hub.barOpen = true → bs.length = 4 → let w := ofLeBytes bs
    (s.busyNow → exec (.mailboxWrite 8 0x1020000 bs) s = .next { s with hub := { s.hub with cmdIgnored := s.hub.cmdIgnored + 1 } })
    ∧ (¬s.busyNow → w % 256 = 0 ∨ 8 < w % 256 → Runs (.mailboxWrite 8 0x1020000 bs) s fun t =>
        s.Untouched t ∧ t.inputs = s.inputs ∧ t.result = 3 ∧ t.tag = w / 2 ^ 16 ∧ ¬t.busyNow)
    ∧ (¬s.busyNow → 1 ≤ w % 256 → w % 256 ≤ 8 → ∃ i, s.hub.commandEvent (w % 256) (w / 2 ^ 8 % 2 ^ 8) (w / 2 ^ 16) = some i
        ∧ Runs (.mailboxWrite 8 0x1020000 bs) s fun t => s.Untouched t ∧ t.inputs = s.inputs ++ [⟨0, none, i⟩] ∧ t.busyNow ∧ t.hub.cmd.toNat = w))
  ∧ (∀ (s : State) (part va len sync peer key kinds lo hi g tag : Nat), s.hub.barOpen = true →
    let w := sync % 2 ^ 15
    (s.Takes 1 tag → (∀ p, s.partOf part = some p → Runs (.queryPartition part tag) s fun t => s.Untouched t ∧ t.result = 0 ∧ t.tag = tag % 65536
        ∧ (t.hub.ret.take 5).map BitVec.toNat = [(s.part p).make.queueArea % 2 ^ 64, (s.part p).make.faultQueue % 2 ^ 64,
            (s.part p).make.traceRing % 2 ^ 64, (s.part p).make.replayLog % 2 ^ 64, ((2 ^ (s.part p).n - 1) * 2 ^ p) % 2 ^ 64])
      ∧ (s.partOf part = none → Runs (.queryPartition part tag) s fun t => s.Untouched t ∧ t.result = 2 ∧ t.tag = tag % 65536))
    ∧ (s.Takes 2 tag →
      (va % 65536 = 0 → len % 65536 = 0 → Runs (.shootdown va len w tag) s fun t => s.Untouched t ∧ t.result = 0 ∧ t.tag = tag % 65536
        ∧ ∀ cid, s.concerned cid va len = true → SMap.has s.ctxs cid = true → ∃ id, ∃ e ∈ t.inputs, e.instr = .shootdownApply cid id)
      ∧ (va % 65536 = 0 → len % 65536 = 0 → bitAt sync 15 = true → Runs (.shootdown va len sync tag) s fun t => t.cores = s.cores ∧ t.ctxs = s.ctxs
        ∧ t.result = 0 ∧ t.tag = tag % 65536 ∧ ((∀ e ∈ s.ctxs, s.concerned e.1 va len = false) →
          t.launchWord (sync % 1024) = swArrival (s.launchWord (sync % 1024)) 1 false 0))
      ∧ (va % 65536 ≠ 0 ∨ len % 65536 ≠ 0 → Runs (.shootdown va len sync tag) s fun t => s.Untouched t ∧ t.result = 2 ∧ t.tag = tag % 65536
        ∧ t.inputs = s.inputs))
    ∧ (s.Takes 3 tag →
      (s.partOf part = none ∨ va % 64 ≠ 0 ∨ (∀ p, s.partOf part = some p → s.translate (s.rootFor p va) va = none) →
        Runs (.clearPoisonMark part va tag) s fun t => s.Untouched t ∧ t.result = 2 ∧ t.tag = tag % 65536)
      ∧ ∀ p e pa, s.partOf part = some p → va % 64 = 0 → s.translate (s.rootFor p va) va = some (e, pa) →
        Runs (.clearPoisonMark part va tag) s fun t => t.cores = s.cores ∧ t.tag = tag % 65536
          ∧ t.result = (if pa / 64 ∈ s.hub.poison then 0 else 1)
          ∧ t.hub.poison = s.hub.poison.filter (· != pa / 64))
    ∧ (s.Takes 4 tag →
      (peer < 0xFFFFFFFF → Runs (.loadLinkKey peer key tag) s fun t => s.Untouched t ∧ t.result = 0 ∧ t.tag = tag % 65536 ∧ SMap.has t.link.keys peer = true
        ∧ Sets 0 t.link.keys s.link.keys peer (key % 2 ^ 256))
      ∧ (peer ≥ 0xFFFFFFFF → Runs (.loadLinkKey peer key tag) s fun t => s.Untouched t ∧ t.result = 2 ∧ t.tag = tag % 65536 ∧ t.link = s.link))
    ∧ (s.Takes 5 tag → Runs (.eraseLinkKey peer tag) s fun t => s.Untouched t ∧ t.result = 0 ∧ t.tag = tag % 65536
        ∧ ∀ k, SMap.has t.link.keys k = (SMap.has s.link.keys k && k != peer && peer != 0xFFFFFFFF))
    ∧ (s.Takes 6 tag → ∀ p d, p ∈ s.partsNamed part → d ∈ s.diesOf p → Runs (.setTrace part kinds lo hi tag) s fun t => s.Untouched t
        ∧ t.result = 0 ∧ t.tag = tag % 65536 ∧ (t.dieHw d).trKinds.toNat = kinds % 65536 ∧ (t.dieHw d).trLo = lo ∧ (t.dieHw d).trHi = hi)
    ∧ (s.partsNamed part = [] → ∀ e ∈ [(6, Instr.setTrace part kinds lo hi tag), (7, .setProfileWindow part va g tag), (8, .recordReplay part len tag)],
        s.Takes e.1 tag → Runs e.2 s fun t => s.Untouched t ∧ t.result = 2 ∧ t.tag = tag % 65536)
    ∧ (s.Takes 7 tag → ∀ p, p ∈ s.partsNamed part →
      (3 ≤ g % 64 → g % 64 ≤ 32 → Runs (.setProfileWindow part va g tag) s fun t => t.cores = s.cores ∧ t.hbm = s.hbm ∧ t.result = 0
        ∧ t.tag = tag % 65536 ∧ (t.part p).profBase = va ∧ (t.part p).profG = g % 64
        ∧ ∀ cid, (s.ctx cid).p = p → (t.ctx cid).prof = [] ∧ (SMap.has s.ctxs cid = true → (t.ctx cid).profBase = va ∧ (t.ctx cid).profG = g % 64))
      ∧ (g % 64 < 3 ∨ 32 < g % 64 → Runs (.setProfileWindow part va g tag) s fun t => s.Untouched t ∧ t.parts = s.parts ∧ t.result = 2
        ∧ t.tag = tag % 65536))
    ∧ (s.Takes 8 tag → ∀ p, p ∈ s.partsNamed part → Runs (.recordReplay part len tag) s fun t => t.cores = s.cores ∧ t.hbm = s.hbm
        ∧ t.result = 0 ∧ t.tag = tag % 65536 ∧ (t.part p).record = decide (len % 2 = 1)
        ∧ ∀ cid, (s.ctx cid).p = p → (t.ctx cid).recording = ((s.ctx cid).recording && decide (len % 2 = 1))))
  ∧ (∀ (s : State) (cid : Nat) (x : Shootdown), (s.hub.shootdowns.find? fun y => y.id == x.id && y.left.contains cid) = some x →
      (s.ctx cid).alive = true → (s.ctx cid).replaying = false → Runs (.shootdownApply cid x.id) s fun t =>
        (t.core cid).hgen = (s.core cid).hgen + 1 ∧ (t.core cid).owed = (s.core cid).owed ∧ (t.core cid).slices = (s.core cid).slices
        ∧ ∀ d n, let h := SMap.get {} ((s.core cid).die d).tab.handles n
            let hit := h.v = true ∧ h.vbase.toNat < x.va + x.len ∧ x.va < h.vbase.toNat + 2 ^ pageBits h.size
            (hit → SMap.get {} ((t.core cid).die d).tab.handles n = { h with revoked := true })
            ∧ (¬hit → SMap.get {} ((t.core cid).die d).tab.handles n = h)
        ∧ ∀ k ∈ (t.ctx cid).holds, ∀ va len, k.on = .poison va len → x.va ≤ va → va + len ≤ x.va + x.len → False)
  ∧ (∀ (s : State) (line : Nat),
      (Runs (.poisonMark line) s fun t => t.cores = s.cores ∧ line ∈ t.hub.poison
        ∧ (line ∉ s.hub.poison → ∀ w, w / 16 = line → w ∈ t.hub.badWords))
      ∧ ∀ (p : Nat) (l : Leaf), s.leavesOf (64 * line) = [(p, l)] → (∀ d, (s.dieHw d).trKinds.getLsbD 3 = false) →
        let size := 2 ^ pageBits l.level
        Runs (.poisonMark line) s fun t => ∃ u : State, t = u.notice p 6 (l.va + (64 * line - pteBase (s.pte l.pa)))
          ∧ u.ShotDown l.va size ∧ u.pte l.pa = leafBits (s.pte l.pa) 0x200 0 ∧ (∀ a, a < l.pa ∨ l.pa + 8 ≤ a → u.hbmByte a = s.hbmByte a)
          ∧ ∀ cid, (s.part (s.ctx cid).p).running = some cid → (s.ctx cid).state ∈ [.running, .held, .frozen] → u.concerned cid l.va size = true →
            ∃ h ∈ (u.ctx cid).holds, h.kind = 8 ∧ h.on = .poison l.va size)
  ∧ (∀ (s : State) (cid n b l d : Nat), SMap.has s.cores cid = true → b < 16 → l < 8192 → d < 8 →
      (n < 4096 → ∀ bad, Runs (.bankScrub cid n b l bad) s fun t =>
        t.hbm = s.hbm ∧ (t.core cid).dies = (s.core cid).dies ∧ ((t.core cid).slice n).bank = ((s.core cid).slice n).bank
        ∧ (bad = false → t.cores = s.cores) ∧ (bad = true → Sets 0 ((t.core cid).slice n).tag ((s.core cid).slice n).tag (16 * l + b) 1))
      ∧ (Runs (.bankScrub cid (4096 + d) b l true) s fun t => t.hbm = s.hbm ∧ (t.core cid).slices = (s.core cid).slices
          ∧ (16 * l + b) % 65536 ∈ ((t.core cid).die d).smemBad ∧ ((t.core cid).die d).smem = ((s.core cid).die d).smem)
      ∧ Runs (.bankScrub cid (4104 + d) b l true) s fun t => t.cores = s.cores ∧ t.hbm = s.hbm
          ∧ (t.dieHw d).icache = (s.dieHw d).icache.eraseIdx (16 * l + b))
  ∧ ∀ (s : State) (nonce : BitVec 256), Runs (.attestationReport nonce) s fun t => s.Untouched t ∧ t.hub.measure = s.hub.measure ∧
      let body := leBytes 32 Config.deviceId.toNat ++ leBytes 1 Config.lifecycle ++ leBytes 32 s.hub.measure.toNat ++ leBytes 32 nonce.toNat
        ++ Config.devicePublicKey
      t.hub.report = body ++ Config.mldsaSign (Config.sha3 body)

/-- O57 (R371 to R375, R379 to R382, R392): the debug commands complete in every state (DEBUG_STOP, DEBUG_RESUME, DEBUG_STEP,
DEBUG_STATE_WRITE, DEBUG_NONCE_REQUEST, DEBUG_UNLOCK, DEBUG_PORT_CLOSE), DEBUG_STEP_EXPIRY where a step ends, and REPLAY_INPUT_APPLY where
replay begins or its log has an entry due. While the steward is busy with another command a debug command is ignored and counted. While
the debug port is closed every debug command completes with RESULT 1 and does nothing. Open, a stop freezes the partition under a debug
hold, a resume or a step lets it go on, the step for n cycles, and the step's end asks for a new hold; the debugger writes breakpoint
registers, and x registers, banks and HBM of a stopped partition, and its write leaves a mark in the log. A token opens the port only when
it passes every check for the nonce that was asked for; a failure spends the nonce, and after 16 every token is refused; the opening wipes
the link keys. Replay begins with the entries of the partition's log from the present ACC on, and records nothing; an entry that is due
takes effect where the context stands and leaves the log, while a debugger's mark, or the end of a log that was full, stops the partition.
The readings and choices of the model that it rests on stand in log entries 5, 6, 61, 62, 63 and 93. -/
def Obligations.DebugPort : Prop :=
  (∀ (s : State) (p n v cid : Nat) (w : DbgTarget) (token : List Byte) (brk : Bool),
    (∀ i ∈ [Instr.debugStop p, .debugResume p, .debugStep p n, .debugStateWrite p w v, .debugNonceRequest, .debugUnlock token brk, .debugPortClose],
      Completes i s)
    ∧ ((s.ctx cid).stepTo = some (s.core cid).acc.toNat → (s.ctx cid).state = .running → Completes (.debugStepExpiry cid) s)
    ∧ ((s.ctx cid).alive = true → (s.ctx cid).replaying = false ∨ s.replayDue cid = true → Completes (.replayInputApply cid) s))
  ∧ (∀ (s : State) (p n v : Nat) (w : DbgTarget) (token : List Byte) (brk : Bool),
    let commands := [Instr.debugStop p, .debugResume p, .debugStep p n, .debugStateWrite p w v]
    (s.busyNow → ∀ i ∈ commands ++ [.debugNonceRequest, .debugUnlock token brk, .debugPortClose],
      exec i s = .next { s with hub := { s.hub with cmdIgnored := s.hub.cmdIgnored + 1 } })
    ∧ (¬s.busyNow → s.hub.debugOpen = false → ∀ i ∈ commands, Runs i s fun t => s.Untouched t ∧ t.result = 1)
    ∧ (¬s.busyNow → s.hub.debugOpen = true → ∀ d k, k < 8 → Runs (.debugStateWrite p (.dbp d k) v) s fun t => s.Untouched t ∧ t.result = 0
        ∧ Sets 0 (t.dieHw d).dbp (s.dieHw d).dbp k (BitVec.ofNat 64 v &&& 0xFFFFFFFFFFFFF)))
  ∧ (∀ (s : State) (p cid n v : Nat), ¬s.busyNow → s.hub.debugOpen = true → (s.part p).running = some cid →
    let stopped := (s.ctx cid).debugged
    (stopped = false → Runs (.debugStop p) s fun t => t.cores = s.cores ∧ t.result = 0 ∧ (t.ctx cid).debugged = true
        ∧ ((s.ctx cid).state ∉ [.parked, .saved, .restoring] → (∀ h ∈ (s.ctx cid).holds, h.kind ≠ 9) → (t.ctx cid).state = .frozen))
    ∧ (stopped = true → Runs (.debugStop p) s fun t => s.Untouched t ∧ t.result = 0)
    ∧ (stopped = false → ∀ i ∈ [Instr.debugResume p, .debugStep p n], Runs i s fun t => s.Untouched t ∧ t.result = 0)
    ∧ (stopped = true → Runs (.debugResume p) s fun t => t.result = 0 ∧ (t.core cid).acc = (s.core cid).acc
        ∧ (t.core cid).owed = (s.core cid).owed ∧ (t.ctx cid).stepTo = none)
    ∧ (stopped = true → 1 ≤ n → n < 2 ^ 32 → Runs (.debugStep p n) s fun t => t.result = 0 ∧ (t.core cid).acc = (s.core cid).acc
        ∧ (t.core cid).owed = (s.core cid).owed ∧ (t.ctx cid).stepTo = some ((s.core cid).acc.toNat + n))
    ∧ (stopped = true → (s.ctx cid).recording = false →
      (∀ d ∈ s.diesOf p, ∀ k, 0 < k → k < 32 → Runs (.debugStateWrite p (.x d k) v) s fun t => t.result = 0 ∧ t.hbm = s.hbm
          ∧ Sets 0 ((t.core cid).die d).x ((s.core cid).die d).x k (dw v) ∧ (t.core cid).slices = (s.core cid).slices)
      ∧ (∀ pa, Runs (.debugStateWrite p (.hbm pa) v) s fun t => t.result = 0
          ∧ (∀ k, { t.core k with seen := 0 } = { s.core k with seen := 0 })
          ∧ ∀ a, (t.hbmByte a).toNat = if pa ≤ a ∧ a < pa + 4 then byteOf v (a - pa) else (s.hbmByte a).toNat)
      ∧ ∀ m b l, dieOf m ∈ s.diesOf p → b < 16 → l < 8192 → ((SMap.get 0 (s.core cid).owned m).getLsbD (l / 64) = true →
            Runs (.debugStateWrite p (.bank m b l) v) s fun t => t.result = 0 ∧ t.hbm = s.hbm
              ∧ Sets 0 ((t.core cid).slice m).bank ((s.core cid).slice m).bank (16 * l + b) (BitVec.ofNat 32 v))
          ∧ ((SMap.get 0 (s.core cid).owned m).getLsbD (l / 64) = false →
            Runs (.debugStateWrite p (.bank m b l) v) s fun t => s.Untouched t ∧ t.result = 1))
    ∧ (stopped = true → (s.ctx cid).recording = true → ∀ d ∈ s.diesOf p, ∀ k, 0 < k → k < 32 →
      Runs (.debugStateWrite p (.x d k) v) s fun t => t.result = 0 ∧ Sets 0 ((t.core cid).die d).x ((s.core cid).die d).x k (dw v)
        ∧ ∃ e : ReplayEntry, e.cls = 6 ∧ e.acc = (s.core cid).acc.toNat ∧ e.inputs = [] ∧ let log := (s.ctx cid).replayLog ++ [e]
          (log.map ReplayEntry.bytes).flatten.length ≤ (s.part (s.ctx cid).p).make.replayLen → (t.ctx cid).replayLog = log))
  ∧ (∀ (s : State) (cid : Nat), (s.ctx cid).stepTo = some (s.core cid).acc.toNat → (s.ctx cid).state = .running →
      Runs (.debugStepExpiry cid) s fun t => (t.ctx cid).stepTo = none ∧ t.hbm = s.hbm
        ∧ ∃ r, (t.core cid).reqs = (s.core cid).reqs ++ [r] ∧ r.cyc = (s.core cid).now ∧ r.hold.kind = 10)
  ∧ (∀ (s : State), ¬s.busyNow → Runs .debugNonceRequest s (fun t => s.Untouched t ∧ t.hub.debugOpen = s.hub.debugOpen
          ∧ ∃ n, t.hub.nonce = some n ∧ ∀ i < 4, (t.hub.ret.getD i 0).toNat = n.toNat / 2 ^ (64 * i) % 2 ^ 64)
      ∧ Runs .debugPortClose s fun t => s.Untouched t ∧ t.hub.debugOpen = false ∧ t.link = s.link ∧ t.hub.measure = s.hub.measure)
  ∧ (∀ (s : State) (token : List Byte) (brk : Bool), ¬s.busyNow →
      (s.hub.tokenFails ≥ 16 → Runs (.debugUnlock token brk) s fun t => s.Untouched t ∧ t.result = 1 ∧ t.hub.debugOpen = s.hub.debugOpen)
      ∧ (s.hub.tokenFails < 16 → Runs (.debugUnlock token brk) s fun t => s.Untouched t ∧ t.hub.nonce = none ∧
          let good := ∃ n, s.hub.nonce = some n ∧ tokenOk n token = true
          (¬good → t.hub.tokenFails = s.hub.tokenFails + 1 ∧ t.hub.debugOpen = s.hub.debugOpen ∧ t.link = s.link ∧ t.hub.measure = s.hub.measure)
          ∧ (good → t.hub.debugOpen = true ∧ t.link.keys = [] ∧ t.hub.tokenFails = s.hub.tokenFails
            ∧ ∀ n, s.hub.nonce = some n → t.hub.measure
              = Config.sha3 (leBytes 32 s.hub.measure.toNat ++ leBytes 32 (Config.sha3 (debugOpenText ++ leBytes 32 n.toNat)).toNat))))
  ∧ (∀ (s : State) (cid : Nat), (s.ctx cid).alive = true → (s.ctx cid).replaying = false →
      let q := s.part (s.ctx cid).p
      let acc := (s.core cid).acc.toNat
      let log := q.log.filter fun e => decide (acc ≤ e.acc)
      let due := (s.core cid).handler = false ∧ match log.find? fun e => e.cls != 3 with
        | some e => e.acc = acc
        | none => q.logEnd = some acc
      Runs (.replayInputApply cid) s fun t => (t.ctx cid).replaying = true ∧ (t.ctx cid).recording = false ∧ (t.core cid).acc = (s.core cid).acc
        ∧ (t.core cid).owed = (s.core cid).owed ∧ (¬due → t.cores = s.cores ∧ t.hbm = s.hbm ∧ t.inputs = s.inputs ∧ t.ctx cid
          = { s.ctx cid with replaying := true, recording := false, truncated := q.logEnd, replayLog := log }))
  ∧ ∀ (s : State) (cid : Nat), (s.ctx cid).alive = true → (s.ctx cid).replaying = true → (s.core cid).handler = false →
      let log := (s.ctx cid).replayLog
      let acc := (s.core cid).acc.toNat
      (∀ e, (log.find? fun e => e.cls != 3) = some e → e.acc = acc →
        (e.cls = 6 → Runs (.replayInputApply cid) s fun t => t.cores = s.cores ∧ (t.ctx cid).debugged = true ∧ (t.ctx cid).replayLog = log.erase e)
        ∧ (e.cls ≠ 6 → Runs (.replayInputApply cid) s fun t => ∃ u : State, t = u.recheck cid ∧ (u.ctx cid).replayLog = log.erase e
          ∧ u.core cid = e.inputs.foldl (fun c i => { c.applyInput i with seen := (c.applyInput i).seen + 1 }) (s.core cid)
          ∧ ∀ pa bs, e.inputs = [.hbm pa bs] → (∀ d, s.Untraced d) → ∀ a,
              u.hbmByte a = if pa ≤ a ∧ a < pa + bs.length then bs.getD (a - pa) 0 else s.hbmByte a))
      ∧ ((log.find? fun e => e.cls != 3) = none → (s.ctx cid).truncated = some acc →
        Runs (.replayInputApply cid) s fun t => t.cores = s.cores ∧ (t.ctx cid).debugged = true ∧ (t.ctx cid).truncated = none)

/-! ### Ports, packets and collectives (R319 to R331, R415) -/

/-- O58 (R320 to R325, R327): the port events complete in the states that R327 gives them: PORT_ENABLE, PORT_TRAINED, PORT_DISABLE,
PORT_QUARANTINE_CLEAR (which quarantines with the number of a port plus 32, log entry 95), PORT_SCHEDULE_LOAD, ROTOR_SLOT_START,
IDENTITY_FLIT_RECEIVE, on an open port PACKET_RECEIVE, ACK_RECEIVE and REFUSAL_RECEIVE, PACKET_SEND where the port may send,
RETRANSMIT_TIMEOUT when a packet is overdue, VINTAGE_ADOPT and WAC_SYNC_EXCHANGE. Enabled a port trains, trained it checks identities at
each slot, in which it sends its own, and it unlocks for its slot's expected, authenticated peer alone; the acknowledgements owed to that
peer leave first. A packet that fails authentication changes nothing but the count of failures, of which the fourth quarantines the port.
An authentic packet of the present vintage is kept for its turn, relayed, or refused for a full buffer; an acknowledged one is done; one
refused for a newer vintage is routed again, one refused busy or overdue is sent again, with its SEQ. An unlocked port sends what ends
within its slot, forwarded packets first. A vintage is adopted only when it is newer and its tables are there; another one is no adoption.
A packet refused for lack of a key fails its collective. Acknowledgements and refusals are taken, or relayed, whatever vintage they bear.
The readings and choices of the model that it rests on stand in log entries 5, 64, 65 and 95. -/
def Obligations.OpticalPortStates : Prop :=
  (∀ (s : State) (n : Nat) (ok : Bool) (f : IdFlit) (sch : PortSchedule), n < 32 →
    let x := s.port n
    let k := (s.hub.wac.toNat - x.start) / max 1 x.slotLen
    let r := x.slots.getD (x.slot % (x.nslot + 1)) ⟨0, 0, false, 0⟩
    let r' := x.slots.getD (k % (x.nslot + 1)) ⟨0, 0, false, 0⟩
    let open_ := x.state = .live ∨ x.state = .draining
    let expected := r.v = true ∧ f.present = true ∧ f.authentic = true ∧ f.src = r.peer ∧ f.pid = r.pid ∧ SMap.has s.link.keys r.peer = true
    (x.state = .down → Runs (.portEnable n) s fun t => s.PortOnly t n fun x => { x with en := true, state := .training, noSlotYet := true })
    ∧ (x.state = .training → Runs (.portTrained n ok) s fun t =>
        s.PortOnly t n fun x => { x with state := if ok then .identityCheck else .down })
    ∧ Runs (.portDisable n) s (fun t => s.PortOnly t n (fun x => { x with en := false, state := .down }) ∧ t.link.sendQ = s.link.sendQ
        ∧ t.link.fwdQ = s.link.fwdQ)
    ∧ (x.state = .quarantined → Runs (.portQuarantineClear n) s fun t => s.PortOnly t n fun x => { x with state := .training, noSlotYet := true })
    ∧ (Runs (.portQuarantineClear (n + 32)) s fun t => s.PortOnly t n fun x => { x with state := .quarantined })
    ∧ (sch.guard % 2 ^ 16 < sch.slotLen % 2 ^ 24 → Completes (.portScheduleLoad n sch) s
      ∧ ((∀ e ∈ s.link.sendQ, ∀ u ∈ e.2, u.pkt.vint = sch.vint % 2 ^ 16 → u.pkt.dst ∈ sch.members) →
        Runs (.portScheduleLoad n sch) s fun t => s.PortOnly t n fun x =>
          if sch.vint % 2 ^ 16 = s.link.vint then
            { x with
              nslot := sch.nslot % 64, slotLen := sch.slotLen % 2 ^ 24, guard := sch.guard % 2 ^ 16, start := sch.start % 2 ^ 64
              slots := (sch.slots.take 64).map fun r => { r with peer := r.peer % 2 ^ 32, pport := r.pport % 32, pid := r.pid % 2 ^ 256 } }
          else x))
    ∧ (open_ ∨ x.state = .locked ∨ x.state = .identityCheck → x.start ≤ s.hub.wac.toNat → x.noSlotYet = true ∨ x.slot < k →
        Runs (.rotorSlotStart n) s fun t =>
          (s.PortOnly t n fun x => { x with state := .identityCheck, slot := k, fails := [], noSlotYet := false, used := 0 })
          ∧ (r'.v = true → SMap.has s.link.keys r'.peer = true → ∃ q, t.link.out = s.link.out ++ [(n, q)] ∧ q.kind = 3
              ∧ q.src = s.hub.pkg.toNat ∧ q.dst = r'.peer)
          ∧ (r'.v = false ∨ SMap.has s.link.keys r'.peer = false → t.link.out = s.link.out))
    ∧ (x.state = .identityCheck → x.noSlotYet = false →
      (expected → Runs (.identityFlitReceive n f) s fun t => s.Untouched t ∧ ((t.port n).state = .live ∨ (t.port n).state = .draining)
          ∧ ∃ l, t.link.out = s.link.out ++ l)
      ∧ (∀ l : List Nat, expected → s.link.acks = [(r.peer, l)] → l.length ≤ 1024 → (∀ a ∈ l, a < 2 ^ 32) → s.link.refusals = [] →
          Runs (.identityFlitReceive n f) s fun t => t.link.acks = []
            ∧ ∃ ps : List Packet, t.link.out = s.link.out ++ ps.map (fun q => (n, sealed (SMap.get 0 s.link.keys r.peer) q))
              ∧ (ps.map ackList).flatten = l ∧ ∀ q ∈ ps, q.kind = 1 ∧ q.src = s.hub.pkg.toNat ∧ q.dst = r.peer)
      ∧ (¬expected → Runs (.identityFlitReceive n f) s fun t => s.PortOnly t n fun x => { x with state := .locked })))
  ∧ (∀ (s : State) (n : Nat) (k : Packet), n < 32 → (s.port n).open = true →
    let me := s.hub.pkg.toNat
    let peer := (s.port n).reg.peer
    let key := SMap.get 0 s.link.keys peer
    let u := unsealed key k
    let hasKey := SMap.has s.link.keys peer = true
    let fails := SMap.get 0 (s.port n).fails peer + 1
    let receive := [Instr.packetReceive n k, .ackReceive n k, .refusalReceive n k]
    let refused (t : State) := ∃ e ∈ SMap.get [] t.link.refusals k.src,
      e.kind = 2 ∧ e.seq = k.seq ∧ e.dst = k.src ∧ e.daddr = k.dst ∧ e.cid = k.cid ∧ e.vint = s.link.vint
    (∀ i ∈ receive, Completes i s)
    ∧ (s.link.accepting = false → ∀ i ∈ receive, exec i s = .next s)
    ∧ (s.link.accepting = true → ¬hasKey → ∀ i ∈ receive,
      let fails := k.kind = 0 ∧ k.dst = me ∧ k.cid ≠ 0
      (¬fails → exec i s = .next s)
      ∧ (fails → ∀ c, (s.link.colls.find? fun c => c.number == k.cid) = some c → Runs i s fun t => s.Untouched t ∧ t.link = s.link
          ∧ ∃ e ∈ t.inputs, e.instr = .collFail c.id)
      ∧ (fails → (∀ c ∈ s.link.colls, c.number ≠ k.cid) → Runs i s fun t => s.Untouched t ∧ t.inputs = s.inputs
          ∧ t.link = { s.link with failedSets := (s.link.failedSets ++ [k.cid]).eraseDups }))
    ∧ (s.link.accepting = true → hasKey → authentic key u = false → ∀ i ∈ receive, Runs i s fun t => (s.PortOnly t n fun x =>
        { x with fails := SMap.put x.fails peer fails, state := if fails ≥ 4 then .quarantined else x.state })
        ∧ (fails ≥ 4 → (12, n) ∈ t.hub.events))
    ∧ (s.link.accepting = true → hasKey → authentic key u = true →
      (k.vint = s.link.vint → k.dst ≠ me → Runs (.packetReceive n k) s fun t => s.Untouched t
          ∧ SMap.get [] t.link.fwdQ k.dst = SMap.get [] s.link.fwdQ k.dst ++ [u])
      ∧ (k.vint = s.link.vint → k.dst = me → k.seq < 2 ^ 32 →
        let d := (k.seq + 2 ^ 32 - SMap.get 0 s.link.seqIn k.src) % 2 ^ 32
        let held := ∃ e ∈ s.link.early, e.src = k.src ∧ e.seq = k.seq
        (2 ^ 31 ≤ d → Runs (.packetReceive n k) s fun t => s.Untouched t ∧ t.link.early = s.link.early
            ∧ SMap.get [] t.link.acks k.src = SMap.get [] s.link.acks k.src ++ [k.seq])
        ∧ (d < 2 ^ 31 → held → exec (.packetReceive n k) s = .next s)
        ∧ (d < 2 ^ 31 → ¬held → s.bufferFull u = true → Runs (.packetReceive n k) s fun t => s.Untouched t ∧ t.link.early = s.link.early
            ∧ refused t)
        ∧ (d < 2 ^ 31 → ¬held → s.bufferFull u = false → Runs (.packetReceive n k) s fun t => s.Untouched t
            ∧ t.link.early = s.link.early ++ [u] ∧ (d = 0 → ∃ e ∈ t.inputs, e.instr = .packetDelivery k.src)))
      ∧ (k.vint ≠ s.link.vint → newer k.vint s.link.vint = true → Runs (.packetReceive n k) s fun t =>
            (s.PortOnly t n fun x => { x with state := .draining }) ∧ refused t)
      ∧ (k.vint ≠ s.link.vint → newer k.vint s.link.vint = false → Runs (.packetReceive n k) s fun t => s.Untouched t ∧ refused t)
      ∧ (k.dst ≠ me → ∀ i ∈ [Instr.ackReceive n k, .refusalReceive n k], Runs i s fun t => s.Untouched t
            ∧ SMap.get [] t.link.fwdQ k.dst = SMap.get [] s.link.fwdQ k.dst ++ [u])
      ∧ (k.dst = me → Runs (.ackReceive n k) s fun t => s.Untouched t
            ∧ t.link.unacked = s.link.unacked.filter fun e => !(e.pkt.dst == k.src && (ackList u).contains e.pkt.seq))
      ∧ (k.dst = me → (∀ e ∈ s.link.unacked, ¬(e.pkt.seq = k.seq ∧ e.pkt.cid = k.cid ∧ e.pkt.dst = k.daddr)) →
            exec (.refusalReceive n k) s = .next s)
      ∧ ∀ e, k.dst = me → (s.link.unacked.find? fun e => e.pkt.seq == k.seq && e.pkt.cid == k.cid && e.pkt.dst == k.daddr) = some e →
          let again := newer k.vint e.pkt.vint = true
          let there := SMap.has s.link.tables k.vint = true → e.pkt.dst ∈ (SMap.get ⟨[], []⟩ s.link.tables k.vint).members
          (¬again → Runs (.refusalReceive n k) s fun t => s.Untouched t ∧ t.link.unacked = s.link.unacked.erase e
            ∧ SMap.get [] t.link.sendQ e.pkt.dst = e :: SMap.get [] s.link.sendQ e.pkt.dst)
          ∧ (again → there → Runs (.refusalReceive n k) s fun t => s.Untouched t ∧ t.link.unacked = s.link.unacked.erase e
            ∧ SMap.get [] t.link.sendQ e.pkt.dst = { e with pkt := { e.pkt with vint := k.vint } } :: SMap.get [] s.link.sendQ e.pkt.dst)
          ∧ (again → ¬there → Runs (.refusalReceive n k) s fun t => t.link.unacked = s.link.unacked.erase e ∧ t.link.sendQ = s.link.sendQ
            ∧ ∀ id, e.coll = some id → ∃ x ∈ t.inputs, x.instr = .collFail id)))
  ∧ (∀ (s : State) (dst seq : Nat) (e : Sent), (s.link.unacked.find? fun u => u.pkt.dst == dst && u.pkt.seq == seq) = some e →
      e.due ≤ s.hub.wac.toNat → Runs (.retransmitTimeout dst seq) s fun t => s.Untouched t ∧ t.link.unacked = s.link.unacked.erase e
        ∧ SMap.get [] t.link.sendQ dst = e :: SMap.get [] s.link.sendQ dst)
  ∧ (∀ (s : State) (n dst : Nat), n < 32 → s.canSend n dst = true →
      let x := s.port n
      let key := SMap.get 0 s.link.keys x.reg.peer
      x.open = true ∧ x.reg.v = true ∧ SMap.has s.link.keys x.reg.peer = true
      ∧ Runs (.packetSend n dst) s (fun t => s.Untouched t ∧ (t.port n).used ≤ 100 * x.slotLen)
      ∧ (∀ k r, SMap.get [] s.link.fwdQ x.reg.peer = k :: r → Runs (.packetSend n dst) s fun t => SMap.get [] t.link.fwdQ x.reg.peer = r
          ∧ t.link.sendQ = s.link.sendQ ∧ t.link.out = s.link.out ++ [(n, sealed key k)])
      ∧ (∀ u r, SMap.get [] s.link.fwdQ x.reg.peer = [] → SMap.get [] s.link.sendQ dst = u :: r → Runs (.packetSend n dst) s fun t =>
          SMap.get [] t.link.sendQ dst = r ∧ t.link.fwdQ = s.link.fwdQ ∧ t.link.out = s.link.out ++ [(n, sealed key u.pkt)]
          ∧ t.link.unacked = s.link.unacked ++ [{ u with due := s.hub.wac.toNat + (x.nslot + 1) * x.slotLen }]))
  ∧ (∀ (s : State) (v : Nat), SMap.has s.link.tables v = true → newer v s.link.vint = true → Runs (.vintageAdopt v) s fun t => t.link.vint = v
      ∧ (∀ n, (s.port n).state = .live → (t.port n).state = .draining ∨ (t.port n).state = .live)
      ∧ let tab := SMap.get ⟨[], []⟩ s.link.tables v
        (tab.ports.map Prod.fst).Nodup → ∀ e ∈ tab.ports, (t.port e.1).slots = e.2.slots ∧ (t.port e.1).start = e.2.start
          ∧ (t.port e.1).slotLen = e.2.slotLen)
  ∧ (∀ (s : State) (v : Nat), SMap.has s.link.tables v = false ∨ newer v s.link.vint = false → exec (.vintageAdopt v) s = .fault .notInThisState)
  ∧ ∀ (s : State) (ppm : Int), Runs (.wacSyncExchange ppm) s fun t => s.Untouched t ∧ t.hub.wac = s.hub.wac ∧ -50 ≤ t.link.slew ∧ t.link.slew ≤ 50

/-- O59 (R286, R324, R326, R329 to R331, R360): the link engine takes over a COLL 176 cycles after it issued (COLL_HANDOFF); one of a set
that has failed fails, too. COLL_LOCAL_WRITE and COLL_FAIL complete for every collective that has been handed over, and PACKET_DELIVERY
where a packet of the source waits or is next: what waits in the link engine comes first, in its order of arrival, else the next one in
SEQ order is delivered and acknowledged, once, or waits for a post; without power it comes again later. A local write writes the next
piece of a destination at its place in DST, with an arrival of its bytes. A failure completes the phase of every member here that is not
over, with an arrival of the bytes not yet written under its error mark, tells the other packages of the set, and changes no timed core
but the bytes of those sync words and what the walker had still to read. The readings and choices of the model that it rests on stand in
log entries 7, 64 and 95. -/
def Obligations.Collectives : Prop :=
  (∀ (s : State) (id src : Nat), (id < s.link.nextColl ∨ (∃ c ∈ s.link.colls, c.id = id) →
      Completes (.collLocalWrite id) s ∧ Completes (.collFail id) s)
    ∧ ((∃ k ∈ s.link.waiting, k.src = src) ∨ (∃ k ∈ s.link.early, k.src = src ∧ k.seq = SMap.get 0 s.link.seqIn src) →
      Completes (.packetDelivery src) s)
    ∧ (s.link.accepting = false → Runs (.packetDelivery src) s fun t => s.Untouched t ∧ t.link = s.link
      ∧ ∃ e ∈ t.inputs, e.instr = .packetDelivery src))
  ∧ (∀ (s : State) (cid die : Nat) (q : CollPost), ((s.core cid).posts.find? fun q => q.die == die && decide (q.T + 176 ≤ (s.core cid).acc.toNat)) = some q →
      let g := q.desc.toNat % 256
      Runs (.collHandoff cid die) s fun t => (t.core cid).posts = (s.core cid).posts.erase q ∧ (t.core cid).owed = (s.core cid).owed
        ∧ (t.core cid).dies = (s.core cid).dies ∧ t.ctxs = s.ctxs ∧ t.link.nextColl = s.link.nextColl + 1
        ∧ ((s.group cid g).dies.getLsbD die = true → die < 8 → (∀ e ∈ s.link.colls, ¬(e.cid = cid ∧ e.die = die)) →
            ∃ c ∈ t.link.colls, c.cid = cid ∧ c.die = die ∧ c.post = q)
        ∧ ((∃ e ∈ s.link.colls, e.cid = cid ∧ e.group = g ∧ e.post.k % 2 ^ 21 = q.k % 2 ^ 21 ∧ e.failed = true)
            ∨ (∃ d < 8, matchNumber g d q.k ∈ s.link.failedSets) → ∃ e ∈ t.inputs, e.instr = .collFail s.link.nextColl))
  ∧ (∀ (s : State) (id : Nat) (c : Coll), (s.link.colls.find? fun c => c.id == id) = some c →
      (Runs (.collLocalWrite id) s fun t => (∀ k, (t.core k).owed = (s.core k).owed) ∧ ∀ k, (t.core k).slices = (s.core k).slices)
      ∧ (c.done = true → exec (.collLocalWrite id) s = .next s)
      ∧ (∀ off bs pa, c.done = false → c.nextRun s.me (c.index s.me) c.runs c.cursor = some off →
        s.supply c (c.index s.me) off (c.run (c.index s.me) off) = some bs → bs ≠ [] →
        let va := c.field 128 64 + off
        let look := s.linkLookup c.cid c.die va 2
        look.1 = some pa → va % 65536 + bs.length ≤ 65536 → namesSync c.post.sync → s.Unrecorded c.cid → (s.ctx c.cid).alive = true →
          (s.ctx c.cid).replaying = false → Runs (.collLocalWrite id) s fun t => ∃ u : State,
            t = ((u.recheck c.cid).onColl c.id fun x =>
              { x with written := x.written + bs.length, done := decide (x.written + bs.length ≥ x.total) }).collWake
            ∧ (∀ a, u.hbmByte a = if pa ≤ a ∧ a < pa + bs.length then bs.getD (a - pa) 0 else look.2.hbmByte a)
            ∧ ((u.core c.cid).die c.die).syncAt c.post.sync = swArrival (((s.core c.cid).die c.die).syncAt c.post.sync) bs.length false 0)
      ∧ (Runs (.collFail id) s fun t => (∀ e ∈ t.link.colls, e.matches c = true → e.done = true)
          ∧ (∀ k, k ≠ c.cid → t.core k = s.core k)
          ∧ ∃ n, { t.core c.cid with dies := [], seen := n } = { s.core c.cid with dies := [], seen := n }
          ∧ ∀ d, let frame := fun (x : Die) => { x with smem := [], smemBad := [], pc := 0, probe := none }
            frame ((t.core c.cid).die d) = frame ((s.core c.cid).die d)
              ∧ ∀ a, (∀ e ∈ s.unfinished c, e.die = d → a < e.wordAt ∨ e.wordAt + 16 ≤ a) →
                  ((t.core c.cid).die d).smemByte a = ((s.core c.cid).die d).smemByte a)
      ∧ (((s.unfinished c).map Coll.die).Nodup → (s.ctx c.cid).alive = true → (s.ctx c.cid).replaying = false →
          Runs (.collFail id) s fun t => ∀ e ∈ s.unfinished c, let rest := e.total - e.written
            let old := ((s.core c.cid).die e.die).syncAt e.wordAt
            rest < 2 ^ 32 → ((t.core c.cid).die e.die).syncAt e.wordAt = if rest = 0 then old else swArrival old rest true 0)
      ∧ (Runs (.collFail id) s fun t => (c.failed = true → t.link.sendQ = s.link.sendQ)
          ∧ (c.failed = false → ∀ m ∈ c.members, m.1 ≠ s.me → ∃ u, (SMap.get [] t.link.sendQ m.1).getLast? = some u
            ∧ u.pkt.payload = [] ∧ u.pkt.daddr = contributionAddr failureIndex 0 ∧ u.pkt.dst = m.1)))
  ∧ (∀ (s : State) (src : Nat) (k : Packet), s.link.accepting = true → s.nextWaiting = some k → Runs (.packetDelivery src) s fun t =>
      ∃ v, ({ s with link := { s.link with waiting := s.link.waiting.erase k } } : State).deliver k = some v ∧ t = v.deliverMore src)
  ∧ ∀ (s : State) (src : Nat), s.link.accepting = true → s.nextWaiting = none → ∀ k,
      (s.link.early.find? fun e => e.src == src && e.seq == SMap.get 0 s.link.seqIn src) = some k →
      Runs (.packetDelivery src) s fun t => SMap.get 0 t.link.seqIn src = (SMap.get 0 s.link.seqIn src + 1) % 2 ^ 32
        ∧ t.link.early = s.link.early.erase k ∧ SMap.get [] t.link.acks src = SMap.get [] s.link.acks src ++ [SMap.get 0 s.link.seqIn src]
        ∧ (s.deliver k = none → t.link.waiting = s.link.waiting ++ [k])

/-! ### The device (R13 to R16, R383, R386 to R389, R393) -/

/-- O60 (R7, R13, R14, R15, R16, R255, R300, R383, R386, R388, R389, R393): right after reset the debug port is closed, every launch sync
word is zero, every context is empty, no partition exists, every port is down, the BAR is closed and the package has power; nothing waits.
DEVICE_RESET completes in every state: it keeps HBM and the spares, and with firmware that verifies it ends with the BAR open, its ports
trained and the firmware measured; without, the BAR stays closed. PARTITION_CHANGE creates a partition over free dies with its control
blocks zero and its allowance at CAP, or dissolves one; by SPARE_MAP a row is covered by its spares, and never across two mapped-out
neighbours, else its die is degraded; MARGIN_REPLAN sets the margins of an idle die; at POWER_FAIL every context is saved (one that was
still loading has nothing to save, and fails) and a checkpoint stands; at POWER_RETURN, with a record that matches, HBM and the timed
cores are as it holds them, else the contexts fail. The readings and choices of the model that it rests on stand in log entries 2, 5, 66,
76, 96 and 104. -/
def Obligations.ResetAndPower : Prop :=
  (∀ s : State, s = State.reset → s.hub.debugOpen = false ∧ (∀ n, s.launchWord n = 0) ∧ (∀ cid, (s.ctx cid).state = .empty) ∧ (∀ p, (s.part p).n = 0)
      ∧ (∀ n, (s.port n).state = .down ∧ (s.port n).en = false) ∧ s.hub.barOpen = false ∧ s.hub.powered = true
      ∧ s.agenda = [] ∧ s.inputs = [] ∧ s.link.out = [] ∧ s.link.unacked = [])
  ∧ (∀ (s : State) (b : BootPolicy), let digest := Config.sha3 b.firmware
      let ok := Config.mldsaVerify Config.firmwareKey b.signature digest
      Runs (.deviceReset b) s fun t => t.ctxs = [] ∧ t.cores = [] ∧ t.hub.debugOpen = false ∧ t.hub.barOpen = ok ∧ t.link.keys = []
        ∧ (∀ n, t.launchWord n = 0) ∧ (∀ d, (t.dieHw d).out = (s.dieHw d).out ∧ (t.dieHw d).dtlb = [] ∧ (t.dieHw d).icache = [])
        ∧ (ok = false ∨ b.parts = [] → t.hbm = s.hbm ∧ t.parts = [])
        ∧ (ok = true → t.hub.pkg.toNat = b.pkg % 2 ^ 32 ∧ t.link.vint = b.vint % 2 ^ 16
          ∧ t.hub.measure = (digest :: b.measure).foldl (fun m d => Config.sha3 (leBytes 32 m.toNat ++ leBytes 32 d.toNat)) 0
          ∧ (∀ e ∈ b.ports, e.1 < 32 → b.ports.filter (fun x => x.1 == e.1) = [e] → (t.port e.1).en = true
              ∧ (t.port e.1).state = if e.2.2 then .identityCheck else .down)
          ∧ ∀ n, (∀ e ∈ b.ports, e.1 ≠ n) → (t.port n).state = .down ∧ (t.port n).en = false))
  ∧ (∀ (s : State) (p n : Nat) (mk : PartMake), n ∈ [1, 2, 4, 8] → p % n = 0 → p + n ≤ 8 → (∀ d, p ≤ d → d < p + n → (s.dieHw d).degraded = false) →
      (∀ e ∈ s.ctxs, e.2.state = .empty ∨ e.2.state = .saved ∨ e.2.state = .retired ∨ e.2.state = .failed) →
      Completes (.partitionChange p n mk) s ∧ (mk.queueArea + 512 ≤ mk.faultQueue ∨ mk.faultQueue + 64 ≤ mk.queueArea →
      Runs (.partitionChange p n mk) s fun t => (t.part p).n = n ∧ (t.part p).running = none ∧ (t.part p).allow.toNat = mk.cap % 2 ^ 32 * 65536
        ∧ t.cores = s.cores ∧ t.ctxs = s.ctxs
        ∧ ∀ a, t.hbmByte a = if mk.queueArea ≤ a ∧ a < mk.queueArea + 512 ∨ mk.faultQueue ≤ a ∧ a < mk.faultQueue + 64 then 0 else s.hbmByte a))
  ∧ (∀ (s : State) (p : Nat) (mk : PartMake), (∀ e ∈ s.ctxs, e.2.state = .empty ∨ e.2.state = .saved ∨ e.2.state = .retired ∨ e.2.state = .failed) →
      Runs (.partitionChange p 0 mk) s fun t => s.Untouched t ∧ ∀ q, p ∈ s.diesOf q → (t.part q).n = 0)
  ∧ (∀ (s : State) (die row phys : Nat) (out : Bool), die < 8 → s.onDies [die] CtxState.keepsDie = false →
      let h := s.dieHw die
      (row < 4 → phys < 132 → let l := h.out.filter (fun e => e != (row, phys)) ++ if out then [(row, phys)] else []
        Runs (.spareMap die row phys out) s fun t => s.Untouched t ∧ (t.dieHw die).out = l ∧ (t.dieHw die).chanOut = h.chanOut
          ∧ ((t.dieHw die).degraded = true ↔ (∃ r < 4, ¬coverable fun a => (r, a) ∈ l) ∨ Config.spareChannels < h.chanOut.length))
      ∧ (phys < 20 → let l := h.chanOut.filter (fun e => e != phys) ++ if out then [phys] else []
        Runs (.spareMap die 4 phys out) s fun t => s.Untouched t ∧ (t.dieHw die).out = h.out ∧ (t.dieHw die).chanOut = l
          ∧ ((t.dieHw die).degraded = true ↔ (∃ r < 4, ¬coverable fun a => (r, a) ∈ h.out) ∨ Config.spareChannels < l.length)))
  ∧ (∀ (s : State) (n lane : Nat) (out : Bool), n < 32 → (s.port n).state = .training →
      let l := (s.port n).lanesOut.filter (fun e => e != lane) ++ if out then [lane] else []
      Runs (.spareMap n 5 lane out) s fun t => s.PortOnly t n fun x =>
        { x with lanesOut := l, state := if l.length ≤ Config.spareLanes then .training else .down })
  ∧ (∀ (s : State) (die age mhz : Nat), die < 8 → age ≤ 2 → 0 < mhz → mhz ≤ 1800 → s.onDies [die] CtxState.keepsDie = false →
      Runs (.marginReplan die age mhz) s fun t => s.Untouched t ∧ t.hub = s.hub ∧ (t.dieHw die).monitors.length = 64
        ∧ t.dieHw die = { s.dieHw die with age := age, mhz := mhz, monitors := (t.dieHw die).monitors })
  ∧ (∀ (s : State), s.hub.powered = true → Runs .powerFail s fun t => t.hub.powered = false ∧ t.link.accepting = false
      ∧ (∃ k, t.hub.checkpoint = some k ∧ k.pages = t.hbm ∧ k.digest = Config.sha3 k.bytes)
      ∧ ∀ cid, let x := s.ctx cid
        (x.alive = true → x.state ≠ .loading → (t.ctx cid).state = .saved) ∧ (x.state = .loading → (t.ctx cid).state = .failed)
          ∧ (x.alive = false → (t.ctx cid).state = x.state))
  ∧ ∀ (s : State), s.hub.powered = false →
      let good (k : Checkpoint) := s.hub.checkpoint = some k ∧ k.digest = Config.sha3 k.bytes
      (∀ k, good k → Runs (.powerReturn true) s fun t => t.hub.powered = true ∧ t.link.accepting = true ∧ t.ctxs = s.ctxs ∧ t.hbm = k.pages
        ∧ (∀ cid, SMap.has k.cores cid = false → t.core cid = s.core cid)
        ∧ ((k.cores.map Prod.fst).Nodup → ∀ e ∈ k.cores, t.core e.1 = e.2))
      ∧ ∀ valid, valid = false ∨ (∀ k, ¬good k) → Runs (.powerReturn valid) s fun t =>
          t.hub.powered = true ∧ t.link.accepting = true ∧ ∀ cid, (t.ctx cid).alive = false
end

