-- ==== Sys2Proof/Laws/Encode.lean ====
section
/-!
SUPPORT. The encoder and the decoder, format by format: a syllable's fields and opcode are read back from its word, its zero fields are
zero, and a word is given back by its fields.
-/
namespace Sys2Proof

theorem extract_append_high {a b : Nat} (x : BitVec a) (y : BitVec b) (n k : Nat) (h : b ≤ n) :
    (x ++ y).extractLsb' n k = x.extractLsb' (n - b) k := by
  apply BitVec.eq_of_getLsbD_eq; intro i hi
  simp only [BitVec.getLsbD_extractLsb', BitVec.getLsbD_append, hi, decide_true, Bool.true_and]
  rw [if_neg (by omega), Nat.sub_add_comm h]

theorem extract_append_low {a b : Nat} (x : BitVec a) (y : BitVec b) (n k : Nat) (h : n + k ≤ b) :
    (x ++ y).extractLsb' n k = y.extractLsb' n k := by
  apply BitVec.eq_of_getLsbD_eq; intro i hi
  simp only [BitVec.getLsbD_extractLsb', BitVec.getLsbD_append, hi, decide_true, Bool.true_and]
  rw [if_pos (by omega)]

theorem extract_whole {w : Nat} (x : BitVec w) : x.extractLsb' 0 w = x := by
  apply BitVec.eq_of_getLsbD_eq; intro i hi; simp [hi]

/-- Two neighbouring fields of a number are one field. -/
theorem fields_join (w n a b : Nat) : (w >>> (n + b) % 2 ^ a) <<< b ||| w >>> n % 2 ^ b = w >>> n % 2 ^ (a + b) := by
  rw [← Nat.shiftLeft_add_eq_or_of_lt (Nat.mod_lt _ (Nat.two_pow_pos b)), Nat.shiftRight_add, Nat.shiftRight_eq_div_pow (w >>> n) b,
    Nat.shiftLeft_eq, Nat.add_comm a b, Nat.pow_add, Nat.mod_mul, Nat.mul_comm, Nat.add_comm]

/-- The word of a syllable without its stop bit. -/
theorem word_below_stop (w : DWord) : (w &&& 0x7FFFFFFFFFFFFFFF).toNat = w.toNat >>> 0 % 2 ^ 63 := by
  rw [BitVec.toNat_and, Nat.shiftRight_zero]
  exact Nat.and_two_pow_sub_one_eq_mod _ 63


@[simp] theorem SR.opcOf_toWord (o : BitVec 8) (f : SR) : opcOf (f.toWord o) = o.toNat := by
  simp (disch := decide) only [opcOf, SR.toWord, extract_append_high, extract_append_low, Nat.reduceSub, extract_whole]

@[simp] theorem SR.ofWord_toWord (o : BitVec 8) (f : SR) : SR.ofWord (f.toWord o) = f := by
  simp (disch := decide) only [SR.ofWord, SR.toWord, extract_append_high, extract_append_low, Nat.reduceSub, extract_whole]

@[simp] theorem SR.toWord_stop (o : BitVec 8) (f : SR) : (f.toWord o).getLsbD 63 = false := by
  have h : (f.toWord o).extractLsb' 63 1 = 0#1 := by
    simp (disch := decide) only [SR.toWord, extract_append_high, Nat.reduceSub, extract_whole]
  simpa using congrArg (·.getLsbD 0) h

@[simp] theorem SR.toWord_zero0 (o : BitVec 8) (f : SR) : (f.toWord o).extractLsb' 0 35 = 0#35 := by
  simp (disch := decide) only [SR.toWord, extract_append_low, extract_whole]

theorem SR.toWord_ofWord (w : DWord) (h0 : w.extractLsb' 0 35 = 0#35) : (SR.ofWord w).toWord (w.extractLsb' 55 8) = w &&& 0x7FFFFFFFFFFFFFFF := by
  apply BitVec.eq_of_toNat_eq
  rw [word_below_stop]
  simp only [SR.toWord, SR.ofWord, ← h0, BitVec.toNat_append, BitVec.extractLsb'_toNat, BitVec.toNat_ofNat, Nat.zero_mod, Nat.zero_shiftLeft, Nat.zero_or]
  rw [fields_join w.toNat 50 8 5, fields_join w.toNat 45 13 5, fields_join w.toNat 40 18 5, fields_join w.toNat 35 23 5, fields_join w.toNat 0 28 35]

@[simp] theorem SI.opcOf_toWord (o : BitVec 8) (f : SI) : opcOf (f.toWord o) = o.toNat := by
  simp (disch := decide) only [opcOf, SI.toWord, extract_append_high, extract_append_low, Nat.reduceSub, extract_whole]

@[simp] theorem SI.ofWord_toWord (o : BitVec 8) (f : SI) : SI.ofWord (f.toWord o) = f := by
  simp (disch := decide) only [SI.ofWord, SI.toWord, extract_append_high, extract_append_low, Nat.reduceSub, extract_whole]

@[simp] theorem SI.toWord_stop (o : BitVec 8) (f : SI) : (f.toWord o).getLsbD 63 = false := by
  have h : (f.toWord o).extractLsb' 63 1 = 0#1 := by
    simp (disch := decide) only [SI.toWord, extract_append_high, Nat.reduceSub, extract_whole]
  simpa using congrArg (·.getLsbD 0) h

theorem SI.toWord_ofWord (w : DWord)  : (SI.ofWord w).toWord (w.extractLsb' 55 8) = w &&& 0x7FFFFFFFFFFFFFFF := by
  apply BitVec.eq_of_toNat_eq
  rw [word_below_stop]
  simp only [SI.toWord, SI.ofWord, BitVec.toNat_append, BitVec.extractLsb'_toNat, BitVec.toNat_ofNat, Nat.zero_mod, Nat.zero_shiftLeft, Nat.zero_or]
  rw [fields_join w.toNat 50 8 5, fields_join w.toNat 45 13 5, fields_join w.toNat 0 18 45]

@[simp] theorem SB.opcOf_toWord (o : BitVec 8) (f : SB) : opcOf (f.toWord o) = o.toNat := by
  simp (disch := decide) only [opcOf, SB.toWord, extract_append_high, extract_append_low, Nat.reduceSub, extract_whole]

@[simp] theorem SB.ofWord_toWord (o : BitVec 8) (f : SB) : SB.ofWord (f.toWord o) = f := by
  simp (disch := decide) only [SB.ofWord, SB.toWord, extract_append_high, extract_append_low, Nat.reduceSub, extract_whole]

@[simp] theorem SB.toWord_stop (o : BitVec 8) (f : SB) : (f.toWord o).getLsbD 63 = false := by
  have h : (f.toWord o).extractLsb' 63 1 = 0#1 := by
    simp (disch := decide) only [SB.toWord, extract_append_high, Nat.reduceSub, extract_whole]
  simpa using congrArg (·.getLsbD 0) h

theorem SB.toWord_ofWord (w : DWord)  : (SB.ofWord w).toWord (w.extractLsb' 55 8) = w &&& 0x7FFFFFFFFFFFFFFF := by
  apply BitVec.eq_of_toNat_eq
  rw [word_below_stop]
  simp only [SB.toWord, SB.ofWord, BitVec.toNat_append, BitVec.extractLsb'_toNat, BitVec.toNat_ofNat, Nat.zero_mod, Nat.zero_shiftLeft, Nat.zero_or]
  rw [fields_join w.toNat 50 8 5, fields_join w.toNat 45 13 5, fields_join w.toNat 0 18 45]

@[simp] theorem SL.opcOf_toWord (o : BitVec 8) (f : SL) : opcOf (f.toWord o) = o.toNat := by
  simp (disch := decide) only [opcOf, SL.toWord, extract_append_high, extract_append_low, Nat.reduceSub, extract_whole]

@[simp] theorem SL.ofWord_toWord (o : BitVec 8) (f : SL) : SL.ofWord (f.toWord o) = f := by
  simp (disch := decide) only [SL.ofWord, SL.toWord, extract_append_high, extract_append_low, Nat.reduceSub, extract_whole]

@[simp] theorem SL.toWord_stop (o : BitVec 8) (f : SL) : (f.toWord o).getLsbD 63 = false := by
  have h : (f.toWord o).extractLsb' 63 1 = 0#1 := by
    simp (disch := decide) only [SL.toWord, extract_append_high, Nat.reduceSub, extract_whole]
  simpa using congrArg (·.getLsbD 0) h

theorem SL.toWord_ofWord (w : DWord)  : (SL.ofWord w).toWord (w.extractLsb' 55 8) = w &&& 0x7FFFFFFFFFFFFFFF := by
  apply BitVec.eq_of_toNat_eq
  rw [word_below_stop]
  simp only [SL.toWord, SL.ofWord, BitVec.toNat_append, BitVec.extractLsb'_toNat, BitVec.toNat_ofNat, Nat.zero_mod, Nat.zero_shiftLeft, Nat.zero_or]
  rw [fields_join w.toNat 52 8 3, fields_join w.toNat 47 11 5, fields_join w.toNat 31 16 16, fields_join w.toNat 0 32 31]

@[simp] theorem SC.opcOf_toWord (o : BitVec 8) (f : SC) : opcOf (f.toWord o) = o.toNat := by
  simp (disch := decide) only [opcOf, SC.toWord, extract_append_high, extract_append_low, Nat.reduceSub, extract_whole]

@[simp] theorem SC.ofWord_toWord (o : BitVec 8) (f : SC) : SC.ofWord (f.toWord o) = f := by
  simp (disch := decide) only [SC.ofWord, SC.toWord, extract_append_high, extract_append_low, Nat.reduceSub, extract_whole]

@[simp] theorem SC.toWord_stop (o : BitVec 8) (f : SC) : (f.toWord o).getLsbD 63 = false := by
  have h : (f.toWord o).extractLsb' 63 1 = 0#1 := by
    simp (disch := decide) only [SC.toWord, extract_append_high, Nat.reduceSub, extract_whole]
  simpa using congrArg (·.getLsbD 0) h

theorem SC.toWord_ofWord (w : DWord)  : (SC.ofWord w).toWord (w.extractLsb' 55 8) = w &&& 0x7FFFFFFFFFFFFFFF := by
  apply BitVec.eq_of_toNat_eq
  rw [word_below_stop]
  simp only [SC.toWord, SC.ofWord, BitVec.toNat_append, BitVec.extractLsb'_toNat, BitVec.toNat_ofNat, Nat.zero_mod, Nat.zero_shiftLeft, Nat.zero_or]
  rw [fields_join w.toNat 50 8 5, fields_join w.toNat 45 13 5, fields_join w.toNat 33 18 12, fields_join w.toNat 0 30 33]

@[simp] theorem VF.opcOf_toWord (o : BitVec 8) (f : VF) : opcOf (f.toWord o) = o.toNat := by
  simp (disch := decide) only [opcOf, VF.toWord, extract_append_high, extract_append_low, Nat.reduceSub, extract_whole]

@[simp] theorem VF.ofWord_toWord (o : BitVec 8) (f : VF) : VF.ofWord (f.toWord o) = f := by
  simp (disch := decide) only [VF.ofWord, VF.toWord, extract_append_high, extract_append_low, Nat.reduceSub, extract_whole]

@[simp] theorem VF.toWord_stop (o : BitVec 8) (f : VF) : (f.toWord o).getLsbD 63 = false := by
  have h : (f.toWord o).extractLsb' 63 1 = 0#1 := by
    simp (disch := decide) only [VF.toWord, extract_append_high, Nat.reduceSub, extract_whole]
  simpa using congrArg (·.getLsbD 0) h

theorem VF.toWord_ofWord (w : DWord)  : (VF.ofWord w).toWord (w.extractLsb' 55 8) = w &&& 0x7FFFFFFFFFFFFFFF := by
  apply BitVec.eq_of_toNat_eq
  rw [word_below_stop]
  simp only [VF.toWord, VF.ofWord, BitVec.toNat_append, BitVec.extractLsb'_toNat, BitVec.toNat_ofNat, Nat.zero_mod, Nat.zero_shiftLeft, Nat.zero_or]
  rw [fields_join w.toNat 48 8 7, fields_join w.toNat 41 15 7, fields_join w.toNat 34 22 7, fields_join w.toNat 27 29 7, fields_join w.toNat 24 36 3, fields_join w.toNat 20 39 4, fields_join w.toNat 16 43 4, fields_join w.toNat 13 47 3, fields_join w.toNat 10 50 3, fields_join w.toNat 8 53 2, fields_join w.toNat 0 55 8]

@[simp] theorem MF.opcOf_toWord (o : BitVec 8) (f : MF) : opcOf (f.toWord o) = o.toNat := by
  simp (disch := decide) only [opcOf, MF.toWord, extract_append_high, extract_append_low, Nat.reduceSub, extract_whole]

@[simp] theorem MF.ofWord_toWord (o : BitVec 8) (f : MF) : MF.ofWord (f.toWord o) = f := by
  simp (disch := decide) only [MF.ofWord, MF.toWord, extract_append_high, extract_append_low, Nat.reduceSub, extract_whole]

@[simp] theorem MF.toWord_stop (o : BitVec 8) (f : MF) : (f.toWord o).getLsbD 63 = false := by
  have h : (f.toWord o).extractLsb' 63 1 = 0#1 := by
    simp (disch := decide) only [MF.toWord, extract_append_high, Nat.reduceSub, extract_whole]
  simpa using congrArg (·.getLsbD 0) h

theorem MF.toWord_ofWord (w : DWord)  : (MF.ofWord w).toWord (w.extractLsb' 55 8) = w &&& 0x7FFFFFFFFFFFFFFF := by
  apply BitVec.eq_of_toNat_eq
  rw [word_below_stop]
  simp only [MF.toWord, MF.ofWord, BitVec.toNat_append, BitVec.extractLsb'_toNat, BitVec.toNat_ofNat, Nat.zero_mod, Nat.zero_shiftLeft, Nat.zero_or]
  rw [fields_join w.toNat 48 8 7, fields_join w.toNat 41 15 7, fields_join w.toNat 34 22 7, fields_join w.toNat 27 29 7, fields_join w.toNat 26 36 1, fields_join w.toNat 22 37 4, fields_join w.toNat 18 41 4, fields_join w.toNat 13 45 5, fields_join w.toNat 8 50 5, fields_join w.toNat 6 55 2, fields_join w.toNat 0 57 6]

@[simp] theorem CB.opcOf_toWord (o : BitVec 8) (f : CB) : opcOf (f.toWord o) = o.toNat := by
  simp (disch := decide) only [opcOf, CB.toWord, extract_append_high, extract_append_low, Nat.reduceSub, extract_whole]

@[simp] theorem CB.ofWord_toWord (o : BitVec 8) (f : CB) : CB.ofWord (f.toWord o) = f := by
  simp (disch := decide) only [CB.ofWord, CB.toWord, extract_append_high, extract_append_low, Nat.reduceSub, extract_whole]

@[simp] theorem CB.toWord_stop (o : BitVec 8) (f : CB) : (f.toWord o).getLsbD 63 = false := by
  have h : (f.toWord o).extractLsb' 63 1 = 0#1 := by
    simp (disch := decide) only [CB.toWord, extract_append_high, Nat.reduceSub, extract_whole]
  simpa using congrArg (·.getLsbD 0) h

@[simp] theorem CB.toWord_zero0 (o : BitVec 8) (f : CB) : (f.toWord o).extractLsb' 0 2 = 0#2 := by
  simp (disch := decide) only [CB.toWord, extract_append_low, extract_whole]

theorem CB.toWord_ofWord (w : DWord) (h0 : w.extractLsb' 0 2 = 0#2) : (CB.ofWord w).toWord (w.extractLsb' 55 8) = w &&& 0x7FFFFFFFFFFFFFFF := by
  apply BitVec.eq_of_toNat_eq
  rw [word_below_stop]
  simp only [CB.toWord, CB.ofWord, ← h0, BitVec.toNat_append, BitVec.extractLsb'_toNat, BitVec.toNat_ofNat, Nat.zero_mod, Nat.zero_shiftLeft, Nat.zero_or]
  rw [fields_join w.toNat 48 8 7, fields_join w.toNat 44 15 4, fields_join w.toNat 41 19 3, fields_join w.toNat 25 22 16, fields_join w.toNat 18 38 7, fields_join w.toNat 15 45 3, fields_join w.toNat 4 48 11, fields_join w.toNat 2 59 2, fields_join w.toNat 0 61 2]

@[simp] theorem CF.opcOf_toWord (o : BitVec 8) (f : CF) : opcOf (f.toWord o) = o.toNat := by
  simp (disch := decide) only [opcOf, CF.toWord, extract_append_high, extract_append_low, Nat.reduceSub, extract_whole]

@[simp] theorem CF.ofWord_toWord (o : BitVec 8) (f : CF) : CF.ofWord (f.toWord o) = f := by
  simp (disch := decide) only [CF.ofWord, CF.toWord, extract_append_high, extract_append_low, Nat.reduceSub, extract_whole]

@[simp] theorem CF.toWord_stop (o : BitVec 8) (f : CF) : (f.toWord o).getLsbD 63 = false := by
  have h : (f.toWord o).extractLsb' 63 1 = 0#1 := by
    simp (disch := decide) only [CF.toWord, extract_append_high, Nat.reduceSub, extract_whole]
  simpa using congrArg (·.getLsbD 0) h

@[simp] theorem CF.toWord_zero0 (o : BitVec 8) (f : CF) : (f.toWord o).extractLsb' 0 2 = 0#2 := by
  simp (disch := decide) only [CF.toWord, extract_append_low, extract_whole]

theorem CF.toWord_ofWord (w : DWord) (h0 : w.extractLsb' 0 2 = 0#2) : (CF.ofWord w).toWord (w.extractLsb' 55 8) = w &&& 0x7FFFFFFFFFFFFFFF := by
  apply BitVec.eq_of_toNat_eq
  rw [word_below_stop]
  simp only [CF.toWord, CF.ofWord, ← h0, BitVec.toNat_append, BitVec.extractLsb'_toNat, BitVec.toNat_ofNat, Nat.zero_mod, Nat.zero_shiftLeft, Nat.zero_or]
  rw [fields_join w.toNat 48 8 7, fields_join w.toNat 44 15 4, fields_join w.toNat 41 19 3, fields_join w.toNat 25 22 16, fields_join w.toNat 21 38 4, fields_join w.toNat 15 42 6, fields_join w.toNat 10 48 5, fields_join w.toNat 4 53 6, fields_join w.toNat 2 59 2, fields_join w.toNat 0 61 2]

@[simp] theorem CX.opcOf_toWord (o : BitVec 8) (f : CX) : opcOf (f.toWord o) = o.toNat := by
  simp (disch := decide) only [opcOf, CX.toWord, extract_append_high, extract_append_low, Nat.reduceSub, extract_whole]

@[simp] theorem CX.ofWord_toWord (o : BitVec 8) (f : CX) : CX.ofWord (f.toWord o) = f := by
  simp (disch := decide) only [CX.ofWord, CX.toWord, extract_append_high, extract_append_low, Nat.reduceSub, extract_whole]

@[simp] theorem CX.toWord_stop (o : BitVec 8) (f : CX) : (f.toWord o).getLsbD 63 = false := by
  have h : (f.toWord o).extractLsb' 63 1 = 0#1 := by
    simp (disch := decide) only [CX.toWord, extract_append_high, Nat.reduceSub, extract_whole]
  simpa using congrArg (·.getLsbD 0) h

@[simp] theorem CX.toWord_zero4 (o : BitVec 8) (f : CX) : (f.toWord o).extractLsb' 4 26 = 0#26 := by
  simp (disch := decide) only [CX.toWord, extract_append_high, extract_append_low, Nat.reduceSub, extract_whole]

@[simp] theorem CX.toWord_zero0 (o : BitVec 8) (f : CX) : (f.toWord o).extractLsb' 0 2 = 0#2 := by
  simp (disch := decide) only [CX.toWord, extract_append_low, extract_whole]

theorem CX.toWord_ofWord (w : DWord) (h4 : w.extractLsb' 4 26 = 0#26) (h0 : w.extractLsb' 0 2 = 0#2) : (CX.ofWord w).toWord (w.extractLsb' 55 8) = w &&& 0x7FFFFFFFFFFFFFFF := by
  apply BitVec.eq_of_toNat_eq
  rw [word_below_stop]
  simp only [CX.toWord, CX.ofWord, ← h4, ← h0, BitVec.toNat_append, BitVec.extractLsb'_toNat, BitVec.toNat_ofNat, Nat.zero_mod, Nat.zero_shiftLeft, Nat.zero_or]
  rw [fields_join w.toNat 48 8 7, fields_join w.toNat 44 15 4, fields_join w.toNat 38 19 6, fields_join w.toNat 30 25 8, fields_join w.toNat 4 33 26, fields_join w.toNat 2 59 2, fields_join w.toNat 0 61 2]

end Sys2Proof
end

