-- ==== Sys2Proof/Laws/SMap.lean ====
section
/-!
SUPPORT. Laws of sparse maps: a read after a write gives what was written, every other key reads as before, and `set` and `erase` keep
the canonical form.
-/
namespace Sys2Proof.SMap

variable {α : Type}

theorem get_put_self (d : α) (m : SMap α) (n : Nat) (x : α) : get d (put m n x) n = x := by
  induction m with
  | nil => simp [put, get]
  | cons e r ih =>
    obtain ⟨k, v⟩ := e
    simp only [put]
    split
    · simp [get]
    · split
      · simp [get]
      · rename_i h1 h2
        simp [get, ih, Ne.symm h2]

theorem get_put_of_ne (d : α) (m : SMap α) {n k : Nat} (x : α) (h : k ≠ n) : get d (put m n x) k = get d m k := by
  induction m with
  | nil => simp [put, get, Ne.symm h]
  | cons e r ih =>
    obtain ⟨j, v⟩ := e
    simp only [put]
    split
    · simp [get, Ne.symm h]
    · split
      · subst_vars; simp [get, Ne.symm h]
      · simp only [get]; split <;> simp_all

theorem get_put (d : α) (m : SMap α) (n k : Nat) (x : α) : get d (put m n x) k = if k = n then x else get d m k := by
  split
  · subst_vars; exact get_put_self d m _ x
  · exact get_put_of_ne d m x ‹_›

theorem get_erase (d : α) (m : SMap α) (n k : Nat) : get d (erase m n) k = if k = n then d else get d m k := by
  induction m with
  | nil => simp [erase, get]
  | cons e r ih =>
    obtain ⟨j, v⟩ := e
    simp only [erase]
    split
    · subst_vars
      rw [ih]
      split
      · rfl
      · simp [get, Ne.symm ‹k ≠ _›]
    · simp only [get, ih]
      split <;> split <;> simp_all

theorem get_set [DecidableEq α] (d : α) (m : SMap α) (n k : Nat) (x : α) :
    get d (set d m n x) k = if k = n then x else get d m k := by
  unfold set
  split
  · subst_vars; exact get_erase _ m n k
  · exact get_put d m n k x

theorem has_put (m : SMap α) (n : Nat) (x : α) : has (put m n x) n = true := by
  induction m with
  | nil => simp [put, has]
  | cons e r ih =>
    obtain ⟨k, v⟩ := e
    simp only [put]
    split
    · simp [has]
    · split <;> simp_all [has]

theorem sortedFrom_mono {lo lo' : Nat} {m : SMap α} (h : lo ≤ lo') (hs : sortedFrom lo' m = true) : sortedFrom lo m = true := by
  cases m with
  | nil => rfl
  | cons e r =>
    obtain ⟨k, v⟩ := e
    simp [sortedFrom] at hs ⊢
    exact ⟨by omega, hs.2⟩

theorem sortedFrom_put {lo : Nat} {m : SMap α} {n : Nat} (x : α) (hn : lo ≤ n) (hs : sortedFrom lo m = true) :
    sortedFrom lo (put m n x) = true := by
  induction m generalizing lo with
  | nil => simp [put, sortedFrom, hn]
  | cons e r ih =>
    obtain ⟨k, v⟩ := e
    simp [sortedFrom] at hs
    simp only [put]
    split
    · simp [sortedFrom, hn, hs.2]; omega
    · split
      · subst_vars; simp [sortedFrom, hs]
      · simp [sortedFrom, hs.1]; exact ih (by omega) hs.2

theorem sortedFrom_erase {lo : Nat} {m : SMap α} (n : Nat) (hs : sortedFrom lo m = true) : sortedFrom lo (erase m n) = true := by
  induction m generalizing lo with
  | nil => rfl
  | cons e r ih =>
    obtain ⟨k, v⟩ := e
    simp [sortedFrom] at hs
    simp only [erase]
    split
    · exact sortedFrom_mono (by omega) (ih hs.2)
    · simp [sortedFrom, hs.1, ih hs.2]

theorem sortedFrom_filter {lo : Nat} {m : SMap α} (p : Nat × α → Bool) (hs : sortedFrom lo m = true) :
    sortedFrom lo (m.filter p) = true := by
  induction m generalizing lo with
  | nil => rfl
  | cons e r ih =>
    obtain ⟨k, v⟩ := e
    simp [sortedFrom] at hs
    by_cases hp : p (k, v) = true
    · simp [hp, sortedFrom, hs.1, ih hs.2]
    · simp only [List.filter_cons, hp]; exact sortedFrom_mono (by omega) (ih hs.2)

theorem all_put {p : α → Bool} {m : SMap α} {n : Nat} {x : α} (hx : p x = true) (h : m.all (fun e => p e.2) = true) :
    (put m n x).all (fun e => p e.2) = true := by
  induction m with
  | nil => simp [put, hx]
  | cons e r ih =>
    obtain ⟨k, v⟩ := e
    simp at h ih
    simp only [put]
    split
    · simp [hx, h]; exact h.2
    · split
      · simp [hx]; exact h.2
      · simp [h.1]; exact ih h.2

theorem all_erase {p : Nat × α → Bool} {m : SMap α} (n : Nat) (h : m.all p = true) : (erase m n).all p = true := by
  induction m with
  | nil => rfl
  | cons e r ih =>
    obtain ⟨k, v⟩ := e
    simp at h ih
    simp only [erase]
    split
    · simpa using ih h.2
    · simpa [h.1] using ih h.2

/-- `set` keeps the canonical form. -/
theorem wf_set [DecidableEq α] {d : α} {m : SMap α} (n : Nat) (x : α) (h : wf d m = true) : wf d (set d m n x) = true := by
  simp only [wf, Bool.and_eq_true] at h ⊢
  unfold set
  split
  · exact ⟨sortedFrom_erase n h.1, all_erase n h.2⟩
  · exact ⟨sortedFrom_put x (Nat.zero_le _) h.1, all_put (p := fun v => decide (v ≠ d)) (by simpa using ‹¬x = d›) h.2⟩

/-- Any filter keeps the canonical form. -/
theorem wf_filter [DecidableEq α] {d : α} {m : SMap α} (p : Nat × α → Bool) (h : wf d m = true) : wf d (m.filter p) = true := by
  simp only [wf, Bool.and_eq_true] at h ⊢
  refine ⟨sortedFrom_filter p h.1, ?_⟩
  simp only [List.all_eq_true] at h ⊢
  exact fun e he => h.2 e (List.mem_filter.mp he).1

/-- A fold of `set` keeps the canonical form. -/
theorem wf_foldl_set [DecidableEq α] {β : Type} {d : α} (l : List β) (k : β → Nat) (v : β → α) {m : SMap α} (h : wf d m = true) :
    wf d (l.foldl (fun m e => set d m (k e) (v e)) m) = true := by
  induction l generalizing m with
  | nil => exact h
  | cons e r ih => exact ih (wf_set _ _ h)

end Sys2Proof.SMap
end

