-- ==== Sys2Proof/Laws/State.lean ====
section
/-!
SUPPORT. What the updates of the state do to its fields: one lemma for each field that an update leaves, and one for what it changes.
-/
namespace Sys2Proof.Machine

@[simp] theorem State.setCore_cur (s : State) (cid : Nat) (c : Core) : (s.setCore cid c).cur = s.cur := rfl
@[simp] theorem State.setCore_agenda (s : State) (cid : Nat) (c : Core) : (s.setCore cid c).agenda = s.agenda := rfl
@[simp] theorem State.setCore_inputs (s : State) (cid : Nat) (c : Core) : (s.setCore cid c).inputs = s.inputs := rfl
@[simp] theorem State.setCore_free (s : State) (cid : Nat) (c : Core) : (s.setCore cid c).free = s.free := rfl
@[simp] theorem State.setCore_ctxs (s : State) (cid : Nat) (c : Core) : (s.setCore cid c).ctxs = s.ctxs := rfl
@[simp] theorem State.setCore_parts (s : State) (cid : Nat) (c : Core) : (s.setCore cid c).parts = s.parts := rfl
@[simp] theorem State.setCore_hw (s : State) (cid : Nat) (c : Core) : (s.setCore cid c).hw = s.hw := rfl
@[simp] theorem State.setCore_hub (s : State) (cid : Nat) (c : Core) : (s.setCore cid c).hub = s.hub := rfl
@[simp] theorem State.setCore_link (s : State) (cid : Nat) (c : Core) : (s.setCore cid c).link = s.link := rfl
@[simp] theorem State.setCore_hbm (s : State) (cid : Nat) (c : Core) : (s.setCore cid c).hbm = s.hbm := rfl

@[simp] theorem State.setCtx_cur (s : State) (cid : Nat) (c : Context) : (s.setCtx cid c).cur = s.cur := rfl
@[simp] theorem State.setCtx_agenda (s : State) (cid : Nat) (c : Context) : (s.setCtx cid c).agenda = s.agenda := rfl
@[simp] theorem State.setCtx_inputs (s : State) (cid : Nat) (c : Context) : (s.setCtx cid c).inputs = s.inputs := rfl
@[simp] theorem State.setCtx_free (s : State) (cid : Nat) (c : Context) : (s.setCtx cid c).free = s.free := rfl
@[simp] theorem State.setCtx_cores (s : State) (cid : Nat) (c : Context) : (s.setCtx cid c).cores = s.cores := rfl
@[simp] theorem State.setCtx_parts (s : State) (cid : Nat) (c : Context) : (s.setCtx cid c).parts = s.parts := rfl
@[simp] theorem State.setCtx_hw (s : State) (cid : Nat) (c : Context) : (s.setCtx cid c).hw = s.hw := rfl
@[simp] theorem State.setCtx_hub (s : State) (cid : Nat) (c : Context) : (s.setCtx cid c).hub = s.hub := rfl
@[simp] theorem State.setCtx_link (s : State) (cid : Nat) (c : Context) : (s.setCtx cid c).link = s.link := rfl
@[simp] theorem State.setCtx_hbm (s : State) (cid : Nat) (c : Context) : (s.setCtx cid c).hbm = s.hbm := rfl

@[simp] theorem State.onCtx_cur (s : State) (cid : Nat) (f : Context → Context) : (s.onCtx cid f).cur = s.cur := rfl
@[simp] theorem State.onCtx_agenda (s : State) (cid : Nat) (f : Context → Context) : (s.onCtx cid f).agenda = s.agenda := rfl
@[simp] theorem State.onCtx_inputs (s : State) (cid : Nat) (f : Context → Context) : (s.onCtx cid f).inputs = s.inputs := rfl
@[simp] theorem State.onCtx_free (s : State) (cid : Nat) (f : Context → Context) : (s.onCtx cid f).free = s.free := rfl
@[simp] theorem State.onCtx_cores (s : State) (cid : Nat) (f : Context → Context) : (s.onCtx cid f).cores = s.cores := rfl
@[simp] theorem State.onCtx_parts (s : State) (cid : Nat) (f : Context → Context) : (s.onCtx cid f).parts = s.parts := rfl
@[simp] theorem State.onCtx_hw (s : State) (cid : Nat) (f : Context → Context) : (s.onCtx cid f).hw = s.hw := rfl
@[simp] theorem State.onCtx_hub (s : State) (cid : Nat) (f : Context → Context) : (s.onCtx cid f).hub = s.hub := rfl
@[simp] theorem State.onCtx_link (s : State) (cid : Nat) (f : Context → Context) : (s.onCtx cid f).link = s.link := rfl
@[simp] theorem State.onCtx_hbm (s : State) (cid : Nat) (f : Context → Context) : (s.onCtx cid f).hbm = s.hbm := rfl

@[simp] theorem State.onPart_cur (s : State) (p : Nat) (f : Part → Part) : (s.onPart p f).cur = s.cur := rfl
@[simp] theorem State.onPart_agenda (s : State) (p : Nat) (f : Part → Part) : (s.onPart p f).agenda = s.agenda := rfl
@[simp] theorem State.onPart_inputs (s : State) (p : Nat) (f : Part → Part) : (s.onPart p f).inputs = s.inputs := rfl
@[simp] theorem State.onPart_free (s : State) (p : Nat) (f : Part → Part) : (s.onPart p f).free = s.free := rfl
@[simp] theorem State.onPart_cores (s : State) (p : Nat) (f : Part → Part) : (s.onPart p f).cores = s.cores := rfl
@[simp] theorem State.onPart_ctxs (s : State) (p : Nat) (f : Part → Part) : (s.onPart p f).ctxs = s.ctxs := rfl
@[simp] theorem State.onPart_hw (s : State) (p : Nat) (f : Part → Part) : (s.onPart p f).hw = s.hw := rfl
@[simp] theorem State.onPart_hub (s : State) (p : Nat) (f : Part → Part) : (s.onPart p f).hub = s.hub := rfl
@[simp] theorem State.onPart_link (s : State) (p : Nat) (f : Part → Part) : (s.onPart p f).link = s.link := rfl
@[simp] theorem State.onPart_hbm (s : State) (p : Nat) (f : Part → Part) : (s.onPart p f).hbm = s.hbm := rfl

@[simp] theorem State.onHw_cur (s : State) (d : Nat) (f : DieHw → DieHw) : (s.onHw d f).cur = s.cur := rfl
@[simp] theorem State.onHw_agenda (s : State) (d : Nat) (f : DieHw → DieHw) : (s.onHw d f).agenda = s.agenda := rfl
@[simp] theorem State.onHw_inputs (s : State) (d : Nat) (f : DieHw → DieHw) : (s.onHw d f).inputs = s.inputs := rfl
@[simp] theorem State.onHw_free (s : State) (d : Nat) (f : DieHw → DieHw) : (s.onHw d f).free = s.free := rfl
@[simp] theorem State.onHw_cores (s : State) (d : Nat) (f : DieHw → DieHw) : (s.onHw d f).cores = s.cores := rfl
@[simp] theorem State.onHw_ctxs (s : State) (d : Nat) (f : DieHw → DieHw) : (s.onHw d f).ctxs = s.ctxs := rfl
@[simp] theorem State.onHw_parts (s : State) (d : Nat) (f : DieHw → DieHw) : (s.onHw d f).parts = s.parts := rfl
@[simp] theorem State.onHw_hub (s : State) (d : Nat) (f : DieHw → DieHw) : (s.onHw d f).hub = s.hub := rfl
@[simp] theorem State.onHw_link (s : State) (d : Nat) (f : DieHw → DieHw) : (s.onHw d f).link = s.link := rfl
@[simp] theorem State.onHw_hbm (s : State) (d : Nat) (f : DieHw → DieHw) : (s.onHw d f).hbm = s.hbm := rfl

@[simp] theorem State.onHub_cur (s : State) (f : Hub → Hub) : (s.onHub f).cur = s.cur := rfl
@[simp] theorem State.onHub_agenda (s : State) (f : Hub → Hub) : (s.onHub f).agenda = s.agenda := rfl
@[simp] theorem State.onHub_inputs (s : State) (f : Hub → Hub) : (s.onHub f).inputs = s.inputs := rfl
@[simp] theorem State.onHub_free (s : State) (f : Hub → Hub) : (s.onHub f).free = s.free := rfl
@[simp] theorem State.onHub_cores (s : State) (f : Hub → Hub) : (s.onHub f).cores = s.cores := rfl
@[simp] theorem State.onHub_ctxs (s : State) (f : Hub → Hub) : (s.onHub f).ctxs = s.ctxs := rfl
@[simp] theorem State.onHub_parts (s : State) (f : Hub → Hub) : (s.onHub f).parts = s.parts := rfl
@[simp] theorem State.onHub_hw (s : State) (f : Hub → Hub) : (s.onHub f).hw = s.hw := rfl
@[simp] theorem State.onHub_link (s : State) (f : Hub → Hub) : (s.onHub f).link = s.link := rfl
@[simp] theorem State.onHub_hbm (s : State) (f : Hub → Hub) : (s.onHub f).hbm = s.hbm := rfl

@[simp] theorem State.onLink_cur (s : State) (f : Link → Link) : (s.onLink f).cur = s.cur := rfl
@[simp] theorem State.onLink_agenda (s : State) (f : Link → Link) : (s.onLink f).agenda = s.agenda := rfl
@[simp] theorem State.onLink_inputs (s : State) (f : Link → Link) : (s.onLink f).inputs = s.inputs := rfl
@[simp] theorem State.onLink_free (s : State) (f : Link → Link) : (s.onLink f).free = s.free := rfl
@[simp] theorem State.onLink_cores (s : State) (f : Link → Link) : (s.onLink f).cores = s.cores := rfl
@[simp] theorem State.onLink_ctxs (s : State) (f : Link → Link) : (s.onLink f).ctxs = s.ctxs := rfl
@[simp] theorem State.onLink_parts (s : State) (f : Link → Link) : (s.onLink f).parts = s.parts := rfl
@[simp] theorem State.onLink_hw (s : State) (f : Link → Link) : (s.onLink f).hw = s.hw := rfl
@[simp] theorem State.onLink_hub (s : State) (f : Link → Link) : (s.onLink f).hub = s.hub := rfl
@[simp] theorem State.onLink_hbm (s : State) (f : Link → Link) : (s.onLink f).hbm = s.hbm := rfl

@[simp] theorem State.onCore_cur (s : State) (f : Core → Core) : (s.onCore f).cur = s.cur := rfl
@[simp] theorem State.onCore_agenda (s : State) (f : Core → Core) : (s.onCore f).agenda = s.agenda := rfl
@[simp] theorem State.onCore_inputs (s : State) (f : Core → Core) : (s.onCore f).inputs = s.inputs := rfl
@[simp] theorem State.onCore_free (s : State) (f : Core → Core) : (s.onCore f).free = s.free := rfl
@[simp] theorem State.onCore_ctxs (s : State) (f : Core → Core) : (s.onCore f).ctxs = s.ctxs := rfl
@[simp] theorem State.onCore_parts (s : State) (f : Core → Core) : (s.onCore f).parts = s.parts := rfl
@[simp] theorem State.onCore_hw (s : State) (f : Core → Core) : (s.onCore f).hw = s.hw := rfl
@[simp] theorem State.onCore_hub (s : State) (f : Core → Core) : (s.onCore f).hub = s.hub := rfl
@[simp] theorem State.onCore_link (s : State) (f : Core → Core) : (s.onCore f).link = s.link := rfl
@[simp] theorem State.onCore_hbm (s : State) (f : Core → Core) : (s.onCore f).hbm = s.hbm := rfl

@[simp] theorem State.onDie_cur (s : State) (f : Die → Die) : (s.onDie f).cur = s.cur := rfl
@[simp] theorem State.onDie_agenda (s : State) (f : Die → Die) : (s.onDie f).agenda = s.agenda := rfl
@[simp] theorem State.onDie_inputs (s : State) (f : Die → Die) : (s.onDie f).inputs = s.inputs := rfl
@[simp] theorem State.onDie_free (s : State) (f : Die → Die) : (s.onDie f).free = s.free := rfl
@[simp] theorem State.onDie_ctxs (s : State) (f : Die → Die) : (s.onDie f).ctxs = s.ctxs := rfl
@[simp] theorem State.onDie_parts (s : State) (f : Die → Die) : (s.onDie f).parts = s.parts := rfl
@[simp] theorem State.onDie_hw (s : State) (f : Die → Die) : (s.onDie f).hw = s.hw := rfl
@[simp] theorem State.onDie_hub (s : State) (f : Die → Die) : (s.onDie f).hub = s.hub := rfl
@[simp] theorem State.onDie_link (s : State) (f : Die → Die) : (s.onDie f).link = s.link := rfl
@[simp] theorem State.onDie_hbm (s : State) (f : Die → Die) : (s.onDie f).hbm = s.hbm := rfl

@[simp] theorem State.onSlice_cur (s : State) (f : Slice → Slice) : (s.onSlice f).cur = s.cur := rfl
@[simp] theorem State.onSlice_agenda (s : State) (f : Slice → Slice) : (s.onSlice f).agenda = s.agenda := rfl
@[simp] theorem State.onSlice_inputs (s : State) (f : Slice → Slice) : (s.onSlice f).inputs = s.inputs := rfl
@[simp] theorem State.onSlice_free (s : State) (f : Slice → Slice) : (s.onSlice f).free = s.free := rfl
@[simp] theorem State.onSlice_ctxs (s : State) (f : Slice → Slice) : (s.onSlice f).ctxs = s.ctxs := rfl
@[simp] theorem State.onSlice_parts (s : State) (f : Slice → Slice) : (s.onSlice f).parts = s.parts := rfl
@[simp] theorem State.onSlice_hw (s : State) (f : Slice → Slice) : (s.onSlice f).hw = s.hw := rfl
@[simp] theorem State.onSlice_hub (s : State) (f : Slice → Slice) : (s.onSlice f).hub = s.hub := rfl
@[simp] theorem State.onSlice_link (s : State) (f : Slice → Slice) : (s.onSlice f).link = s.link := rfl
@[simp] theorem State.onSlice_hbm (s : State) (f : Slice → Slice) : (s.onSlice f).hbm = s.hbm := rfl

@[simp] theorem State.owe_cur (s : State) (due : Nat) (e : Dest) : (s.owe due e).cur = s.cur := rfl
@[simp] theorem State.owe_agenda (s : State) (due : Nat) (e : Dest) : (s.owe due e).agenda = s.agenda := rfl
@[simp] theorem State.owe_inputs (s : State) (due : Nat) (e : Dest) : (s.owe due e).inputs = s.inputs := rfl
@[simp] theorem State.owe_free (s : State) (due : Nat) (e : Dest) : (s.owe due e).free = s.free := rfl
@[simp] theorem State.owe_ctxs (s : State) (due : Nat) (e : Dest) : (s.owe due e).ctxs = s.ctxs := rfl
@[simp] theorem State.owe_parts (s : State) (due : Nat) (e : Dest) : (s.owe due e).parts = s.parts := rfl
@[simp] theorem State.owe_hw (s : State) (due : Nat) (e : Dest) : (s.owe due e).hw = s.hw := rfl
@[simp] theorem State.owe_hub (s : State) (due : Nat) (e : Dest) : (s.owe due e).hub = s.hub := rfl
@[simp] theorem State.owe_link (s : State) (due : Nat) (e : Dest) : (s.owe due e).link = s.link := rfl
@[simp] theorem State.owe_hbm (s : State) (due : Nat) (e : Dest) : (s.owe due e).hbm = s.hbm := rfl

@[simp] theorem State.oweTab_cur (s : State) (w : TabWrite) : (s.oweTab w).cur = s.cur := rfl
@[simp] theorem State.oweTab_agenda (s : State) (w : TabWrite) : (s.oweTab w).agenda = s.agenda := rfl
@[simp] theorem State.oweTab_inputs (s : State) (w : TabWrite) : (s.oweTab w).inputs = s.inputs := rfl
@[simp] theorem State.oweTab_free (s : State) (w : TabWrite) : (s.oweTab w).free = s.free := rfl
@[simp] theorem State.oweTab_ctxs (s : State) (w : TabWrite) : (s.oweTab w).ctxs = s.ctxs := rfl
@[simp] theorem State.oweTab_parts (s : State) (w : TabWrite) : (s.oweTab w).parts = s.parts := rfl
@[simp] theorem State.oweTab_hw (s : State) (w : TabWrite) : (s.oweTab w).hw = s.hw := rfl
@[simp] theorem State.oweTab_hub (s : State) (w : TabWrite) : (s.oweTab w).hub = s.hub := rfl
@[simp] theorem State.oweTab_link (s : State) (w : TabWrite) : (s.oweTab w).link = s.link := rfl
@[simp] theorem State.oweTab_hbm (s : State) (w : TabWrite) : (s.oweTab w).hbm = s.hbm := rfl

@[simp] theorem State.later_cur (s : State) (cyc row : Nat) (i : Instr) : (s.later cyc row i).cur = s.cur := rfl
@[simp] theorem State.later_agenda (s : State) (cyc row : Nat) (i : Instr) : (s.later cyc row i).agenda = s.agenda := rfl
@[simp] theorem State.later_inputs (s : State) (cyc row : Nat) (i : Instr) : (s.later cyc row i).inputs = s.inputs := rfl
@[simp] theorem State.later_free (s : State) (cyc row : Nat) (i : Instr) : (s.later cyc row i).free = s.free := rfl
@[simp] theorem State.later_ctxs (s : State) (cyc row : Nat) (i : Instr) : (s.later cyc row i).ctxs = s.ctxs := rfl
@[simp] theorem State.later_parts (s : State) (cyc row : Nat) (i : Instr) : (s.later cyc row i).parts = s.parts := rfl
@[simp] theorem State.later_hw (s : State) (cyc row : Nat) (i : Instr) : (s.later cyc row i).hw = s.hw := rfl
@[simp] theorem State.later_hub (s : State) (cyc row : Nat) (i : Instr) : (s.later cyc row i).hub = s.hub := rfl
@[simp] theorem State.later_link (s : State) (cyc row : Nat) (i : Instr) : (s.later cyc row i).link = s.link := rfl
@[simp] theorem State.later_hbm (s : State) (cyc row : Nat) (i : Instr) : (s.later cyc row i).hbm = s.hbm := rfl

@[simp] theorem State.trapT_cur (s : State) (code val : Nat) : (s.trapT code val).cur = s.cur := rfl
@[simp] theorem State.trapT_agenda (s : State) (code val : Nat) : (s.trapT code val).agenda = s.agenda := rfl
@[simp] theorem State.trapT_inputs (s : State) (code val : Nat) : (s.trapT code val).inputs = s.inputs := rfl
@[simp] theorem State.trapT_free (s : State) (code val : Nat) : (s.trapT code val).free = s.free := rfl
@[simp] theorem State.trapT_ctxs (s : State) (code val : Nat) : (s.trapT code val).ctxs = s.ctxs := rfl
@[simp] theorem State.trapT_parts (s : State) (code val : Nat) : (s.trapT code val).parts = s.parts := rfl
@[simp] theorem State.trapT_hw (s : State) (code val : Nat) : (s.trapT code val).hw = s.hw := rfl
@[simp] theorem State.trapT_hub (s : State) (code val : Nat) : (s.trapT code val).hub = s.hub := rfl
@[simp] theorem State.trapT_link (s : State) (code val : Nat) : (s.trapT code val).link = s.link := rfl
@[simp] theorem State.trapT_hbm (s : State) (code val : Nat) : (s.trapT code val).hbm = s.hbm := rfl

@[simp] theorem State.trapS_cur (s : State) (cyc code val : Nat) : (s.trapS cyc code val).cur = s.cur := rfl
@[simp] theorem State.trapS_agenda (s : State) (cyc code val : Nat) : (s.trapS cyc code val).agenda = s.agenda := rfl
@[simp] theorem State.trapS_inputs (s : State) (cyc code val : Nat) : (s.trapS cyc code val).inputs = s.inputs := rfl
@[simp] theorem State.trapS_free (s : State) (cyc code val : Nat) : (s.trapS cyc code val).free = s.free := rfl
@[simp] theorem State.trapS_ctxs (s : State) (cyc code val : Nat) : (s.trapS cyc code val).ctxs = s.ctxs := rfl
@[simp] theorem State.trapS_parts (s : State) (cyc code val : Nat) : (s.trapS cyc code val).parts = s.parts := rfl
@[simp] theorem State.trapS_hw (s : State) (cyc code val : Nat) : (s.trapS cyc code val).hw = s.hw := rfl
@[simp] theorem State.trapS_hub (s : State) (cyc code val : Nat) : (s.trapS cyc code val).hub = s.hub := rfl
@[simp] theorem State.trapS_link (s : State) (cyc code val : Nat) : (s.trapS cyc code val).link = s.link := rfl
@[simp] theorem State.trapS_hbm (s : State) (cyc code val : Nat) : (s.trapS cyc code val).hbm = s.hbm := rfl

@[simp] theorem State.trapB_cur (s : State) (cyc code val : Nat) : (s.trapB cyc code val).cur = s.cur := rfl
@[simp] theorem State.trapB_agenda (s : State) (cyc code val : Nat) : (s.trapB cyc code val).agenda = s.agenda := rfl
@[simp] theorem State.trapB_inputs (s : State) (cyc code val : Nat) : (s.trapB cyc code val).inputs = s.inputs := rfl
@[simp] theorem State.trapB_free (s : State) (cyc code val : Nat) : (s.trapB cyc code val).free = s.free := rfl
@[simp] theorem State.trapB_ctxs (s : State) (cyc code val : Nat) : (s.trapB cyc code val).ctxs = s.ctxs := rfl
@[simp] theorem State.trapB_parts (s : State) (cyc code val : Nat) : (s.trapB cyc code val).parts = s.parts := rfl
@[simp] theorem State.trapB_hw (s : State) (cyc code val : Nat) : (s.trapB cyc code val).hw = s.hw := rfl
@[simp] theorem State.trapB_hub (s : State) (cyc code val : Nat) : (s.trapB cyc code val).hub = s.hub := rfl
@[simp] theorem State.trapB_link (s : State) (cyc code val : Nat) : (s.trapB cyc code val).link = s.link := rfl
@[simp] theorem State.trapB_hbm (s : State) (cyc code val : Nat) : (s.trapB cyc code val).hbm = s.hbm := rfl

@[simp] theorem State.markHbm_cur (s : State) (pa cyc : Nat) (w : Bool) : (s.markHbm pa cyc w).cur = s.cur := rfl
@[simp] theorem State.markHbm_agenda (s : State) (pa cyc : Nat) (w : Bool) : (s.markHbm pa cyc w).agenda = s.agenda := rfl
@[simp] theorem State.markHbm_inputs (s : State) (pa cyc : Nat) (w : Bool) : (s.markHbm pa cyc w).inputs = s.inputs := rfl
@[simp] theorem State.markHbm_free (s : State) (pa cyc : Nat) (w : Bool) : (s.markHbm pa cyc w).free = s.free := rfl
@[simp] theorem State.markHbm_ctxs (s : State) (pa cyc : Nat) (w : Bool) : (s.markHbm pa cyc w).ctxs = s.ctxs := rfl
@[simp] theorem State.markHbm_parts (s : State) (pa cyc : Nat) (w : Bool) : (s.markHbm pa cyc w).parts = s.parts := rfl
@[simp] theorem State.markHbm_hw (s : State) (pa cyc : Nat) (w : Bool) : (s.markHbm pa cyc w).hw = s.hw := rfl
@[simp] theorem State.markHbm_hub (s : State) (pa cyc : Nat) (w : Bool) : (s.markHbm pa cyc w).hub = s.hub := rfl
@[simp] theorem State.markHbm_link (s : State) (pa cyc : Nat) (w : Bool) : (s.markHbm pa cyc w).link = s.link := rfl
@[simp] theorem State.markHbm_hbm (s : State) (pa cyc : Nat) (w : Bool) : (s.markHbm pa cyc w).hbm = s.hbm := rfl

@[simp] theorem State.setXs_cur (s : State) (v : DWord) : (s.setXs v).cur = s.cur := rfl
@[simp] theorem State.setXs_agenda (s : State) (v : DWord) : (s.setXs v).agenda = s.agenda := rfl
@[simp] theorem State.setXs_inputs (s : State) (v : DWord) : (s.setXs v).inputs = s.inputs := rfl
@[simp] theorem State.setXs_free (s : State) (v : DWord) : (s.setXs v).free = s.free := rfl
@[simp] theorem State.setXs_ctxs (s : State) (v : DWord) : (s.setXs v).ctxs = s.ctxs := rfl
@[simp] theorem State.setXs_parts (s : State) (v : DWord) : (s.setXs v).parts = s.parts := rfl
@[simp] theorem State.setXs_hw (s : State) (v : DWord) : (s.setXs v).hw = s.hw := rfl
@[simp] theorem State.setXs_hub (s : State) (v : DWord) : (s.setXs v).hub = s.hub := rfl
@[simp] theorem State.setXs_link (s : State) (v : DWord) : (s.setXs v).link = s.link := rfl
@[simp] theorem State.setXs_hbm (s : State) (v : DWord) : (s.setXs v).hbm = s.hbm := rfl

@[simp] theorem State.hbmWrite_cur (s : State) (pa : Nat) (bs : List Byte) : (s.hbmWrite pa bs).cur = s.cur := rfl
@[simp] theorem State.hbmWrite_agenda (s : State) (pa : Nat) (bs : List Byte) : (s.hbmWrite pa bs).agenda = s.agenda := rfl
@[simp] theorem State.hbmWrite_inputs (s : State) (pa : Nat) (bs : List Byte) : (s.hbmWrite pa bs).inputs = s.inputs := rfl
@[simp] theorem State.hbmWrite_free (s : State) (pa : Nat) (bs : List Byte) : (s.hbmWrite pa bs).free = s.free := rfl
@[simp] theorem State.hbmWrite_cores (s : State) (pa : Nat) (bs : List Byte) : (s.hbmWrite pa bs).cores = s.cores := rfl
@[simp] theorem State.hbmWrite_ctxs (s : State) (pa : Nat) (bs : List Byte) : (s.hbmWrite pa bs).ctxs = s.ctxs := rfl
@[simp] theorem State.hbmWrite_parts (s : State) (pa : Nat) (bs : List Byte) : (s.hbmWrite pa bs).parts = s.parts := rfl
@[simp] theorem State.hbmWrite_hw (s : State) (pa : Nat) (bs : List Byte) : (s.hbmWrite pa bs).hw = s.hw := rfl
@[simp] theorem State.hbmWrite_hub (s : State) (pa : Nat) (bs : List Byte) : (s.hbmWrite pa bs).hub = s.hub := rfl
@[simp] theorem State.hbmWrite_link (s : State) (pa : Nat) (bs : List Byte) : (s.hbmWrite pa bs).link = s.link := rfl

@[simp] theorem State.steward_cur (s : State) (kind arg : Nat) : (s.steward kind arg).cur = s.cur := rfl
@[simp] theorem State.steward_agenda (s : State) (kind arg : Nat) : (s.steward kind arg).agenda = s.agenda := rfl
@[simp] theorem State.steward_inputs (s : State) (kind arg : Nat) : (s.steward kind arg).inputs = s.inputs := rfl
@[simp] theorem State.steward_free (s : State) (kind arg : Nat) : (s.steward kind arg).free = s.free := rfl
@[simp] theorem State.steward_cores (s : State) (kind arg : Nat) : (s.steward kind arg).cores = s.cores := rfl
@[simp] theorem State.steward_ctxs (s : State) (kind arg : Nat) : (s.steward kind arg).ctxs = s.ctxs := rfl
@[simp] theorem State.steward_parts (s : State) (kind arg : Nat) : (s.steward kind arg).parts = s.parts := rfl
@[simp] theorem State.steward_hw (s : State) (kind arg : Nat) : (s.steward kind arg).hw = s.hw := rfl
@[simp] theorem State.steward_link (s : State) (kind arg : Nat) : (s.steward kind arg).link = s.link := rfl
@[simp] theorem State.steward_hbm (s : State) (kind arg : Nat) : (s.steward kind arg).hbm = s.hbm := rfl

@[simp] theorem State.runNext_cur (s : State) (c : Ctx) (i : Instr) : (s.runNext c i).cur = s.cur := rfl
@[simp] theorem State.runNext_inputs (s : State) (c : Ctx) (i : Instr) : (s.runNext c i).inputs = s.inputs := rfl
@[simp] theorem State.runNext_free (s : State) (c : Ctx) (i : Instr) : (s.runNext c i).free = s.free := rfl
@[simp] theorem State.runNext_cores (s : State) (c : Ctx) (i : Instr) : (s.runNext c i).cores = s.cores := rfl
@[simp] theorem State.runNext_ctxs (s : State) (c : Ctx) (i : Instr) : (s.runNext c i).ctxs = s.ctxs := rfl
@[simp] theorem State.runNext_parts (s : State) (c : Ctx) (i : Instr) : (s.runNext c i).parts = s.parts := rfl
@[simp] theorem State.runNext_hw (s : State) (c : Ctx) (i : Instr) : (s.runNext c i).hw = s.hw := rfl
@[simp] theorem State.runNext_hub (s : State) (c : Ctx) (i : Instr) : (s.runNext c i).hub = s.hub := rfl
@[simp] theorem State.runNext_link (s : State) (c : Ctx) (i : Instr) : (s.runNext c i).link = s.link := rfl
@[simp] theorem State.runNext_hbm (s : State) (c : Ctx) (i : Instr) : (s.runNext c i).hbm = s.hbm := rfl

@[simp] theorem State.runAll_cur (s : State) (ts : List Task) : (s.runAll ts).cur = s.cur := rfl
@[simp] theorem State.runAll_inputs (s : State) (ts : List Task) : (s.runAll ts).inputs = s.inputs := rfl
@[simp] theorem State.runAll_free (s : State) (ts : List Task) : (s.runAll ts).free = s.free := rfl
@[simp] theorem State.runAll_cores (s : State) (ts : List Task) : (s.runAll ts).cores = s.cores := rfl
@[simp] theorem State.runAll_ctxs (s : State) (ts : List Task) : (s.runAll ts).ctxs = s.ctxs := rfl
@[simp] theorem State.runAll_parts (s : State) (ts : List Task) : (s.runAll ts).parts = s.parts := rfl
@[simp] theorem State.runAll_hw (s : State) (ts : List Task) : (s.runAll ts).hw = s.hw := rfl
@[simp] theorem State.runAll_hub (s : State) (ts : List Task) : (s.runAll ts).hub = s.hub := rfl
@[simp] theorem State.runAll_link (s : State) (ts : List Task) : (s.runAll ts).link = s.link := rfl
@[simp] theorem State.runAll_hbm (s : State) (ts : List Task) : (s.runAll ts).hbm = s.hbm := rfl

/-! ### Reading back -/

@[simp] theorem State.core_setCore (s : State) (cid k : Nat) (c : Core) : (s.setCore cid c).core k = if k = cid then c else s.core k := by
  simp [State.core, State.setCore, SMap.get_put]
@[simp] theorem State.ctx_setCtx (s : State) (cid k : Nat) (c : Context) : (s.setCtx cid c).ctx k = if k = cid then c else s.ctx k := by
  simp [State.ctx, State.setCtx, SMap.get_put]
@[simp] theorem State.ctx_onCtx (s : State) (cid k : Nat) (f : Context → Context) :
    (s.onCtx cid f).ctx k = if k = cid then f (s.ctx cid) else s.ctx k := by simp [State.onCtx]
@[simp] theorem State.part_onPart (s : State) (p k : Nat) (f : Part → Part) :
    (s.onPart p f).part k = if k = p then f (s.part p) else s.part k := by
  simp [State.part, State.onPart, SMap.get_put]
@[simp] theorem State.dieHw_onHw (s : State) (d k : Nat) (f : DieHw → DieHw) :
    (s.onHw d f).dieHw k = if k = d then f (s.dieHw d) else s.dieHw k := by
  simp [State.dieHw, State.onHw, SMap.get_put]
@[simp] theorem State.here_onCore (s : State) (f : Core → Core) : (s.onCore f).here = f s.here := by
  simp [State.here, State.onCore, State.core, State.setCore, SMap.get_put]
theorem State.core_onCore (s : State) (f : Core → Core) (k : Nat) :
    (s.onCore f).core k = if k = s.cur.cid then f s.here else s.core k := by simp [State.onCore]
@[simp] theorem Core.die_onDie (c : Core) (d k : Nat) (f : Die → Die) : (c.onDie d f).die k = if k = d then f (c.die d) else c.die k := by
  simp [Core.die, Core.onDie, SMap.get_put]
@[simp] theorem Core.slice_onSlice (c : Core) (n k : Nat) (f : Slice → Slice) :
    (c.onSlice n f).slice k = if k = n then f (c.slice n) else c.slice k := by
  simp [Core.slice, Core.onSlice, SMap.get_put]
@[simp] theorem Core.die_onSlice (c : Core) (n k : Nat) (f : Slice → Slice) : (c.onSlice n f).die k = c.die k := rfl
@[simp] theorem Core.slice_onDie (c : Core) (d k : Nat) (f : Die → Die) : (c.onDie d f).slice k = c.slice k := rfl
@[simp] theorem State.here_onDie (s : State) (f : Die → Die) : (s.onDie f).here = s.here.onDie s.cur.d f := by simp [State.onDie]
@[simp] theorem State.here_onSlice (s : State) (f : Slice → Slice) : (s.onSlice f).here = s.here.onSlice s.cur.s f := by simp [State.onSlice]
@[simp] theorem State.die_onDie (s : State) (f : Die → Die) : (s.onDie f).die = f s.die := by simp [State.die]
@[simp] theorem State.slice_onSlice (s : State) (f : Slice → Slice) : (s.onSlice f).slice = f s.slice := by simp [State.slice]

/-! ### HBM -/

/-- The bytes that a write of HBM leaves: those of the list within its range, the old ones elsewhere. -/
theorem State.hbmByte_hbmWrite (s : State) (pa : Nat) (bs : List Byte) (a : Nat) :
    (s.hbmWrite pa bs).hbmByte a = if pa ≤ a ∧ a < pa + bs.length then bs.getD (a - pa) 0 else s.hbmByte a := by
  unfold State.hbmByte State.hbmWrite
  generalize s.hbm = m
  induction bs generalizing pa m with
  | nil => simp
  | cons b r ih =>
    simp only [List.zipIdx_cons, List.foldl_cons]
    rw [ih (pa + 1)]
    simp only [SMap.get_set, List.length_cons]
    by_cases h1 : a = pa
    · subst h1; simp
    · by_cases h2 : pa + 1 ≤ a ∧ a < pa + 1 + r.length
      · rw [if_pos h2, if_pos (by omega)]
        have : a - pa = (a - (pa + 1)) + 1 := by omega
        rw [this, List.getD_cons_succ]
      · rw [if_neg h2, if_neg h1, if_neg (by omega)]

/-- A write of HBM keeps its canonical form. -/
theorem State.hbmWf_hbmWrite {s : State} (pa : Nat) (bs : List Byte) (h : s.hbmWf = true) : (s.hbmWrite pa bs).hbmWf = true := by
  unfold State.hbmWf State.hbmWrite at *
  exact SMap.wf_foldl_set _ _ _ h

end Sys2Proof.Machine
end

