-- ==== Sys2Proof/Laws/Owes.lean ====
section
/-!
SUPPORT. What an S syllable can do: the operations it is made of leave everything but what they say, as one relation that composes.
-/
namespace Sys2Proof.Machine

/-- A state that stands in the same running context and owes the writes of `l` beside what `s` owed. -/
structure State.Quiet (s t : State) (l : List (Nat × Dest)) : Prop where
  cur : t.cur = s.cur
  outside : s.CoreOnly t
  here : s.OwesHere t l

theorem State.CoreOnly.refl (s : State) : s.CoreOnly s := by constructor <;> simp

theorem State.CoreOnly.trans {s t u : State} (hc : t.cur = s.cur) (h : s.CoreOnly t) (k : t.CoreOnly u) : s.CoreOnly u where
  hbm a := by rw [k.hbm, h.hbm]
  others cid n := by rw [k.others cid (by rwa [hc]), h.others cid n]
  ctxs := by rw [k.ctxs, h.ctxs]
  parts := by rw [k.parts, h.parts]
  hw := by rw [k.hw, h.hw]
  hub := by rw [k.hub, h.hub]
  link := by rw [k.link, h.link]
  inputs := by rw [k.inputs, h.inputs]
  agenda := by rw [k.agenda, h.agenda]
  free := by rw [k.free, h.free]

/-- A change of the running core changes nothing outside it. -/
theorem State.CoreOnly.onCore (s : State) (f : Core → Core) : s.CoreOnly (s.onCore f) := by
  constructor <;> intros <;> first | rfl | (rw [State.core_onCore, if_neg ‹_›])

theorem Ctx.Unsettled.nil (c : Ctx) : c.Unsettled [] := ⟨by simp, fun _ => rfl⟩

theorem Ctx.Unsettled.append {c : Ctx} {a b : List Trap} (h : c.Unsettled a) (k : c.Unsettled b) : c.Unsettled (a ++ b) :=
  ⟨fun x hx => (List.mem_append.mp hx).elim (h.1 x) (k.1 x), fun e => by rw [h.2 e, k.2 e]; rfl⟩

theorem State.Quiet.refl (s : State) : s.Quiet s [] :=
  ⟨rfl, .refl s, [], [], [], s.here.flights, s.here.nextId, .nil _, .nil, rfl, by simp⟩

theorem State.Quiet.trans {s t u : State} {l m : List (Nat × Dest)} (h : s.Quiet t l) (k : t.Quiet u m) : s.Quiet u (l ++ m) := by
  obtain ⟨os, tr, ac, fl, n, h1, h2, h3, h4⟩ := h.here
  obtain ⟨os', tr', ac', fl', n', k1, k2, k3, k4⟩ := k.here
  rw [h.cur] at k1 k2
  refine ⟨k.cur.trans h.cur, .trans h.cur h.outside k.outside, os ++ os', tr ++ tr', ac ++ ac', fl', n', h1.append k1, ?_, ?_, ?_⟩
  · exact List.rel_append h2 k2
  · rw [k3, h4]; exact h3
  · rw [k4, h4]; simp [List.append_assoc]

/-- What composes with a quiet step: the xs of the running bundle stands unless `setXs` writes it. -/
theorem State.Quiet.owes {s t : State} {l : List (Nat × Dest)} (h : s.Quiet t l) : s.Owes t l := ⟨h.outside, h.here⟩

/-- The scoreboard's finding adds its trap, charged for its cycle, and nothing else (R32, R361). -/
theorem State.trapCWhen_quiet (s : State) (b : Bool) (cyc v : Nat) (hb : b = true → s.cur.fl.chk = true) :
    s.Quiet (s.trapCWhen b cyc 0x19 v) [] := by
  unfold State.trapCWhen
  split
  · refine ⟨rfl, .onCore s _, [], _, [], s.here.flights, s.here.nextId, ?_, .nil, rfl, by rw [State.here_onCore]; simp; rfl⟩
    exact ⟨by simp, fun e => by simp_all⟩
  · exact .refl s

theorem State.sample_quiet (s : State) (loc : Loc) (cyc : Nat) : s.Quiet (s.sample loc cyc) [] :=
  trapCWhen_quiet s _ _ _ fun h => by
    unfold State.unsettled at h
    exact ((Bool.and_eq_true _ _).mp h).1

theorem State.mark_quiet (s : State) (loc : Loc) (r : Nat) : s.Quiet (s.mark loc r) [] := by
  unfold State.mark
  extract_lets u
  have h : s.Quiet u [] := trapCWhen_quiet s _ _ _ fun h => ((Bool.and_eq_true _ _).mp h).1
  refine State.Quiet.trans (l := []) (m := []) h ?_
  exact ⟨rfl, .onCore u _, [], [], [⟨loc, r, true, s.cur.fl.T, s.cur.d, s.cur.slot, s.cur.s, s.cur.fl.chk, s.cur.fl.hnd⟩],
    u.here.flights, u.here.nextId, .nil _, .nil, rfl, by rw [State.here_onCore]; simp⟩

theorem State.useX_quiet (s : State) (n : BitVec 5) : s.Quiet (s.useX n) [] := by
  unfold State.useX
  split
  · exact .refl s
  · exact sample_quiet s _ _

theorem State.owe_quiet (s : State) (due : Nat) (e : Dest) : s.Quiet (s.owe due e) [(due, e)] := by
  refine ⟨rfl, .onCore s _, [⟨s.here.nextId, due, s.cur.fl.hnd, s.cur.issueT, s.cur.d, s.cur.slot, s.cur.s, s.cur.late,
    s.cur.fl.inv.isSome, e, s.cur.fl.T⟩], [], [], s.here.flights, s.here.nextId + 1, .nil _,
    .cons ⟨rfl, rfl, rfl, rfl, rfl, rfl, rfl, rfl⟩ .nil, rfl, ?_⟩
  unfold State.owe; rw [State.here_onCore]; simp

theorem State.oweTab_quiet (s : State) (w : TabWrite) : s.Quiet (s.oweTab w) [(s.cur.fl.T, .tab w)] := owe_quiet s _ _

theorem State.setXs_quiet (s : State) (v : DWord) : s.Quiet (s.setXs v) [] := by
  refine ⟨rfl, .onCore s _, [], [], [], (s.setXs v).here.flights, s.here.nextId, .nil _, .nil, ?_, ?_⟩
  · unfold State.setXs
    rw [State.here_onCore]
    simp only [List.map_map]
    congr 1
    funext f
    simp only [Function.comp_apply]
    split <;> rfl
  · unfold State.setXs; rw [State.here_onCore]; simp

/-- A fold of quiet steps is quiet. -/
theorem State.foldl_quiet {α : Type} (l : List α) (f : State → α → State) (h : ∀ (s : State) a, s.Quiet (f s a) []) (s : State) :
    s.Quiet (l.foldl f s) [] := by
  induction l generalizing s with
  | nil => exact .refl s
  | cons a r ih => exact State.Quiet.trans (l := []) (h s a) (ih (f s a))

theorem State.useSmem_quiet (s : State) (a n cyc : Nat) : s.Quiet (s.useSmem a n cyc) [] :=
  foldl_quiet _ _ (fun s _ => sample_quiet s _ _) s

theorem State.markSmem_quiet (s : State) (a n r : Nat) : s.Quiet (s.markSmem a n r) [] :=
  foldl_quiet _ _ (fun s _ => mark_quiet s _ _) s

/-! ### xs -/

theorem State.setXs_flights (s : State) (v : DWord) : s.XsIs (s.setXs v) v := by
  intro f hf hm
  unfold State.setXs at hf
  rw [State.here_onCore] at hf
  simp only [List.mem_map] at hf
  obtain ⟨g, hg, rfl⟩ := hf
  split
  · rfl
  · rename_i h
    rw [if_neg h] at hm
    exact absurd hm h

theorem State.trapCWhen_flights (s : State) (b : Bool) (n c v : Nat) : (s.trapCWhen b n c v).here.flights = s.here.flights := by
  unfold State.trapCWhen
  split
  · rw [State.here_onCore]
  · rfl

theorem State.mark_flights (s : State) (loc : Loc) (r : Nat) : (s.mark loc r).here.flights = s.here.flights := by
  unfold State.mark; rw [State.here_onCore]; exact trapCWhen_flights s _ _ _ _

theorem State.owe_flights (s : State) (due : Nat) (e : Dest) : (s.owe due e).here.flights = s.here.flights := by
  unfold State.owe; rw [State.here_onCore]

theorem State.retX_flights (s : State) (xd : BitVec 5) (v : DWord) (lat : Nat) :
    (s.retX xd v lat).here.flights = (s.setXs v).here.flights := by
  unfold State.retX
  simp only
  split
  · rfl
  · rw [owe_flights, mark_flights]

/-- The result of an S syllable (R119): the write it owes, and xs. -/
theorem State.retX_quiet (s : State) (xd : BitVec 5) (v : DWord) (lat : Nat) :
    s.Quiet (s.retX xd v lat) (xdWrite xd v (s.cur.fl.T + lat - 1)) := by
  unfold State.retX xdWrite
  simp only
  split
  · exact setXs_quiet s v
  · refine State.Quiet.trans (l := []) (State.Quiet.trans (l := []) (m := []) (setXs_quiet s v) (mark_quiet _ _ _)) (owe_quiet _ _ _)

theorem State.retX_xs (s : State) (xd : BitVec 5) (v : DWord) (lat : Nat) : s.XsIs (s.retX xd v lat) v := by
  unfold State.XsIs
  rw [retX_flights]
  exact setXs_flights s v

/-- What follows quiet sampling: a result gives xd its value. -/
theorem State.Quiet.gives {s t : State} (h : s.Quiet t []) (xd : BitVec 5) (v : DWord) (lat : Nat) :
    s.Gives (t.retX xd v lat) xd v (s.cur.fl.T + lat - 1) := by
  have h2 := h.trans (t.retX_quiet xd v lat)
  rw [h.cur] at h2
  refine ⟨h2.owes, fun f hf hm => retX_xs t xd v lat f hf ?_⟩
  unfold State.isMine at *
  rwa [h.cur]

/-- A form of two registers computes its operation. -/
theorem State.ret2_gives (s : State) (f : SR) (lat : Nat) (op : DWord → DWord → DWord) :
    s.Gives (s.ret2 f lat op) f.xd (op (s.xreg f.xa) (s.xreg f.xb)) (s.cur.fl.T + lat - 1) :=
  State.Quiet.gives (.trans (l := []) (m := []) (useX_quiet s _) (useX_quiet _ _)) _ _ _

/-- A form of one register computes its operation. -/
theorem State.ret1_gives (s : State) (f : SR) (op : DWord → DWord) :
    s.Gives (s.ret1 f op) f.xd (op (s.xreg f.xa)) (s.cur.fl.T + 1 - 1) := State.Quiet.gives (useX_quiet s _) _ _ _

/-- A form of a register and an immediate computes its operation. -/
theorem State.retI_gives (s : State) (f : SI) (lat : Nat) (op : DWord → DWord → DWord) :
    s.Gives (s.retI f lat op) f.xd (op (s.xreg f.xa) (f.imm.signExtend 64)) (s.cur.fl.T + lat - 1) :=
  State.Quiet.gives (useX_quiet s _) _ _ _

/-! ### Conditions and changes of the die -/

/-- A trap that is not raised. -/
@[simp] theorem State.trapTWhen_false (s : State) (c v : Nat) : s.trapTWhen false c v = s := rfl
/-- An illegal operand that is not there. -/
@[simp] theorem State.illegal_false (s : State) : s.illegal false = s := rfl

/-- A change of the die after quiet sampling. -/
theorem State.Quiet.dieBecomes {s t : State} (h : s.Quiet t []) (hf : t.here.flights = s.here.flights) (hn : t.here.nextId = s.here.nextId)
    (f : Die → Die) : s.DieBecomes (t.onDie f) f := by
  obtain ⟨os, tr, ac, fl, n, h1, h2, h3, h4⟩ := h.here
  refine ⟨.trans h.cur h.outside (.onCore t _), tr, ac, h1, ?_⟩
  cases h2
  rw [h4] at hf hn
  rw [State.here_onDie, h.cur, h4]
  simp only at hf hn
  subst hf hn
  simp [Core.onDie, Core.die]

/-! ### Sampling leaves the bundles and the counter of the owed writes -/

theorem State.trapCWhen_nextId (s : State) (b : Bool) (n c v : Nat) : (s.trapCWhen b n c v).here.nextId = s.here.nextId := by
  unfold State.trapCWhen
  split
  · rw [State.here_onCore]
  · rfl

theorem State.useX_flights (s : State) (n : BitVec 5) : (s.useX n).here.flights = s.here.flights := by
  unfold State.useX
  split
  · rfl
  · exact trapCWhen_flights _ _ _ _ _

theorem State.useX_nextId (s : State) (n : BitVec 5) : (s.useX n).here.nextId = s.here.nextId := by
  unfold State.useX
  split
  · rfl
  · exact trapCWhen_nextId _ _ _ _ _

/-- A quiet step leaves the running die. -/
theorem State.Quiet.die {s t : State} {l : List (Nat × Dest)} (h : s.Quiet t l) : t.die = s.die := by
  obtain ⟨os, tr, ac, fl, n, h1, h2, h3, h4⟩ := h.here
  unfold State.die
  rw [h4, h.cur]
  rfl

/-- A quiet step adds traps at the end. -/
theorem State.Quiet.traps {s t : State} {l : List (Nat × Dest)} (h : s.Quiet t l) : ∃ tr, t.here.traps = s.here.traps ++ tr := by
  obtain ⟨os, tr, ac, fl, n, h1, h2, h3, h4⟩ := h.here
  exact ⟨tr, by rw [h4]⟩

/-- Recording a trap after steps that only add traps. -/
theorem State.trapT_trapped {s t : State} (hc : t.cur = s.cur) (ht : ∃ tr, t.here.traps = s.here.traps ++ tr) (c v : Nat) :
    s.Trapped (t.trapT c v) c v := by
  obtain ⟨tr, h⟩ := ht
  unfold State.trapT
  refine ⟨tr ++ [_], by rw [State.here_onCore]; simp only []; rw [h, List.append_assoc], _,
    List.mem_append_right _ (List.mem_singleton.mpr rfl), ?_⟩
  simp [hc]

/-! ### The flow of bundles -/

/-- The end of a live body, as a proposition (R136). -/
theorem State.atLoopEnd_iff (s : State) : s.atLoopEnd = true ↔ s.EndsBody := by
  unfold State.atLoopEnd State.EndsBody Tables.live
  simp

/-- The end of a live body depends on the running bundle alone. -/
theorem State.atLoopEnd_cur {s t : State} (h : t.cur = s.cur) : t.atLoopEnd = s.atLoopEnd := by
  unfold State.atLoopEnd State.tab
  rw [h]

/-- An immediate sign-extended to 64 bits, as an integer modulo 2^64. -/
theorem toNat_signExtend45 (i : BitVec 45) : ((BitVec.signExtend 64 i).toNat : Int) = i.toInt % 2 ^ 64 := by
  rw [BitVec.toNat_signExtend]
  have := i.isLt
  simp only [BitVec.toInt_eq_msb_cond, BitVec.toNat_setWidth]
  split <;> omega

/-- A branch target as an integer (R93). -/
theorem State.target_eq (s : State) (f : SB) : s.target f = s.branchTarget f := by
  unfold State.target State.branchTarget
  rw [BitVec.toNat_add, BitVec.toNat_mul]
  have h := toNat_signExtend45 f.off
  simp [dw]
  omega

/-- An SMEM address as an integer (R127). -/
theorem State.smemAddr_eq (s : State) (f : SI) : s.smemAddr f = (((s.xreg f.xa).toNat + f.imm.toInt) % 2 ^ 64).toNat := by
  unfold State.smemAddr
  rw [BitVec.toNat_add]
  have h := toNat_signExtend45 f.imm
  omega

/-- Naming the next bundle after sampling. -/
theorem State.Quiet.setNext {s t : State} (q : s.Quiet t []) (hf : t.here.flights = s.here.flights) (hn : t.here.nextId = s.here.nextId)
    {pc : Nat} (hpc : pc < 2 ^ 64) : s.DieBecomes (t.setNext pc) (Die.goTo s.cur.fl.hnd pc) := by
  have := q.dieBecomes hf hn (Die.goTo s.cur.fl.hnd pc)
  unfold State.setNext
  rw [Nat.mod_eq_of_lt hpc, q.cur]
  exact this

end Sys2Proof.Machine
end

