-- ==== Sys2Proof/Laws/PerInstr.lean ====
section
/-!
SUPPORT. What holds of every instruction as syntax, one lemma for each constructor. `StopClear`: an encoded syllable never carries the
stop bit, which belongs to the bundle (R87), and a step that stands in no slot has no word.
-/
namespace Sys2Proof.Laws.StopClear

/-- The word of an instruction has its stop bit clear, and is zero where the instruction stands in no slot. -/
def Statement (i : Instr) : Prop := (encode i).getLsbD 63 = false ∧ (i.slots = [] → encode i = 0)

theorem zero_stop : (0 : DWord).getLsbD 63 = false := by decide

theorem bundleIssue (p d : Nat) : Statement (.bundleIssue p d) := ⟨zero_stop, fun _ => rfl⟩
theorem delayBundle (p d : Nat) : Statement (.delayBundle p d) := ⟨zero_stop, fun _ => rfl⟩
theorem cycleBoundary (p : Nat) : Statement (.cycleBoundary p) := ⟨zero_stop, fun _ => rfl⟩
theorem owedWritePerforms (id : Nat) : Statement (.owedWritePerforms id) := ⟨zero_stop, fun _ => rfl⟩
theorem fillmLatchExecute (m : MF) (op : Nat) : Statement (.fillmLatchExecute m op) := ⟨zero_stop, fun _ => rfl⟩
theorem outerTrellisArrival (plan : Nat) (w : Word) (poisoned : Bool) : Statement (.outerTrellisArrival plan w poisoned) := ⟨zero_stop, fun _ => rfl⟩
theorem hatomHomeOperation (id : Nat) : Statement (.hatomHomeOperation id) := ⟨zero_stop, fun _ => rfl⟩
theorem hatomParkNotice (cid tag : Nat) : Statement (.hatomParkNotice cid tag) := ⟨zero_stop, fun _ => rfl⟩
theorem hatomReplay (home tag : Nat) (old : List Word) (bad : Bool) : Statement (.hatomReplay home tag old bad) := ⟨zero_stop, fun _ => rfl⟩
theorem hatomFetchLanding (cid tag : Nat) : Statement (.hatomFetchLanding cid tag) := ⟨zero_stop, fun _ => rfl⟩
theorem snop (f : SR) : Statement (.snop f) := ⟨SR.toWord_stop _ _, fun h => (List.cons_ne_nil _ _ h).elim⟩
theorem add (f : SR) : Statement (.add f) := ⟨SR.toWord_stop _ _, fun h => (List.cons_ne_nil _ _ h).elim⟩
theorem sub (f : SR) : Statement (.sub f) := ⟨SR.toWord_stop _ _, fun h => (List.cons_ne_nil _ _ h).elim⟩
theorem mul (f : SR) : Statement (.mul f) := ⟨SR.toWord_stop _ _, fun h => (List.cons_ne_nil _ _ h).elim⟩
theorem mulhs (f : SR) : Statement (.mulhs f) := ⟨SR.toWord_stop _ _, fun h => (List.cons_ne_nil _ _ h).elim⟩
theorem mulhu (f : SR) : Statement (.mulhu f) := ⟨SR.toWord_stop _ _, fun h => (List.cons_ne_nil _ _ h).elim⟩
theorem divs (f : SR) : Statement (.divs f) := ⟨SR.toWord_stop _ _, fun h => (List.cons_ne_nil _ _ h).elim⟩
theorem divu (f : SR) : Statement (.divu f) := ⟨SR.toWord_stop _ _, fun h => (List.cons_ne_nil _ _ h).elim⟩
theorem rems (f : SR) : Statement (.rems f) := ⟨SR.toWord_stop _ _, fun h => (List.cons_ne_nil _ _ h).elim⟩
theorem remu (f : SR) : Statement (.remu f) := ⟨SR.toWord_stop _ _, fun h => (List.cons_ne_nil _ _ h).elim⟩
theorem and (f : SR) : Statement (.and f) := ⟨SR.toWord_stop _ _, fun h => (List.cons_ne_nil _ _ h).elim⟩
theorem or (f : SR) : Statement (.or f) := ⟨SR.toWord_stop _ _, fun h => (List.cons_ne_nil _ _ h).elim⟩
theorem xor (f : SR) : Statement (.xor f) := ⟨SR.toWord_stop _ _, fun h => (List.cons_ne_nil _ _ h).elim⟩
theorem andn (f : SR) : Statement (.andn f) := ⟨SR.toWord_stop _ _, fun h => (List.cons_ne_nil _ _ h).elim⟩
theorem shl (f : SR) : Statement (.shl f) := ⟨SR.toWord_stop _ _, fun h => (List.cons_ne_nil _ _ h).elim⟩
theorem shrl (f : SR) : Statement (.shrl f) := ⟨SR.toWord_stop _ _, fun h => (List.cons_ne_nil _ _ h).elim⟩
theorem shra (f : SR) : Statement (.shra f) := ⟨SR.toWord_stop _ _, fun h => (List.cons_ne_nil _ _ h).elim⟩
theorem rotr (f : SR) : Statement (.rotr f) := ⟨SR.toWord_stop _ _, fun h => (List.cons_ne_nil _ _ h).elim⟩
theorem min (f : SR) : Statement (.min f) := ⟨SR.toWord_stop _ _, fun h => (List.cons_ne_nil _ _ h).elim⟩
theorem max (f : SR) : Statement (.max f) := ⟨SR.toWord_stop _ _, fun h => (List.cons_ne_nil _ _ h).elim⟩
theorem minu (f : SR) : Statement (.minu f) := ⟨SR.toWord_stop _ _, fun h => (List.cons_ne_nil _ _ h).elim⟩
theorem maxu (f : SR) : Statement (.maxu f) := ⟨SR.toWord_stop _ _, fun h => (List.cons_ne_nil _ _ h).elim⟩
theorem slt (f : SR) : Statement (.slt f) := ⟨SR.toWord_stop _ _, fun h => (List.cons_ne_nil _ _ h).elim⟩
theorem sltu (f : SR) : Statement (.sltu f) := ⟨SR.toWord_stop _ _, fun h => (List.cons_ne_nil _ _ h).elim⟩
theorem seq (f : SR) : Statement (.seq f) := ⟨SR.toWord_stop _ _, fun h => (List.cons_ne_nil _ _ h).elim⟩
theorem sel (f : SR) : Statement (.sel f) := ⟨SR.toWord_stop _ _, fun h => (List.cons_ne_nil _ _ h).elim⟩
theorem clz (f : SR) : Statement (.clz f) := ⟨SR.toWord_stop _ _, fun h => (List.cons_ne_nil _ _ h).elim⟩
theorem popc (f : SR) : Statement (.popc f) := ⟨SR.toWord_stop _ _, fun h => (List.cons_ne_nil _ _ h).elim⟩
theorem addi (f : SI) : Statement (.addi f) := ⟨SI.toWord_stop _ _, fun h => (List.cons_ne_nil _ _ h).elim⟩
theorem andi (f : SI) : Statement (.andi f) := ⟨SI.toWord_stop _ _, fun h => (List.cons_ne_nil _ _ h).elim⟩
theorem ori (f : SI) : Statement (.ori f) := ⟨SI.toWord_stop _ _, fun h => (List.cons_ne_nil _ _ h).elim⟩
theorem xori (f : SI) : Statement (.xori f) := ⟨SI.toWord_stop _ _, fun h => (List.cons_ne_nil _ _ h).elim⟩
theorem shli (f : SI) : Statement (.shli f) := ⟨SI.toWord_stop _ _, fun h => (List.cons_ne_nil _ _ h).elim⟩
theorem shrli (f : SI) : Statement (.shrli f) := ⟨SI.toWord_stop _ _, fun h => (List.cons_ne_nil _ _ h).elim⟩
theorem shrai (f : SI) : Statement (.shrai f) := ⟨SI.toWord_stop _ _, fun h => (List.cons_ne_nil _ _ h).elim⟩
theorem slti (f : SI) : Statement (.slti f) := ⟨SI.toWord_stop _ _, fun h => (List.cons_ne_nil _ _ h).elim⟩
theorem muli (f : SI) : Statement (.muli f) := ⟨SI.toWord_stop _ _, fun h => (List.cons_ne_nil _ _ h).elim⟩
theorem lit (f : SI) : Statement (.lit f) := ⟨SI.toWord_stop _ _, fun h => (List.cons_ne_nil _ _ h).elim⟩
theorem lith (f : SI) : Statement (.lith f) := ⟨SI.toWord_stop _ _, fun h => (List.cons_ne_nil _ _ h).elim⟩
theorem ldb (f : SI) : Statement (.ldb f) := ⟨SI.toWord_stop _ _, fun h => (List.cons_ne_nil _ _ h).elim⟩
theorem ldh (f : SI) : Statement (.ldh f) := ⟨SI.toWord_stop _ _, fun h => (List.cons_ne_nil _ _ h).elim⟩
theorem ldw (f : SI) : Statement (.ldw f) := ⟨SI.toWord_stop _ _, fun h => (List.cons_ne_nil _ _ h).elim⟩
theorem ldd (f : SI) : Statement (.ldd f) := ⟨SI.toWord_stop _ _, fun h => (List.cons_ne_nil _ _ h).elim⟩
theorem stb (f : SI) : Statement (.stb f) := ⟨SI.toWord_stop _ _, fun h => (List.cons_ne_nil _ _ h).elim⟩
theorem sth (f : SI) : Statement (.sth f) := ⟨SI.toWord_stop _ _, fun h => (List.cons_ne_nil _ _ h).elim⟩
theorem stw (f : SI) : Statement (.stw f) := ⟨SI.toWord_stop _ _, fun h => (List.cons_ne_nil _ _ h).elim⟩
theorem std (f : SI) : Statement (.std f) := ⟨SI.toWord_stop _ _, fun h => (List.cons_ne_nil _ _ h).elim⟩
theorem br (f : SB) : Statement (.br f) := ⟨SB.toWord_stop _ _, fun h => (List.cons_ne_nil _ _ h).elim⟩
theorem beq (f : SB) : Statement (.beq f) := ⟨SB.toWord_stop _ _, fun h => (List.cons_ne_nil _ _ h).elim⟩
theorem bne (f : SB) : Statement (.bne f) := ⟨SB.toWord_stop _ _, fun h => (List.cons_ne_nil _ _ h).elim⟩
theorem blt (f : SB) : Statement (.blt f) := ⟨SB.toWord_stop _ _, fun h => (List.cons_ne_nil _ _ h).elim⟩
theorem bge (f : SB) : Statement (.bge f) := ⟨SB.toWord_stop _ _, fun h => (List.cons_ne_nil _ _ h).elim⟩
theorem bltu (f : SB) : Statement (.bltu f) := ⟨SB.toWord_stop _ _, fun h => (List.cons_ne_nil _ _ h).elim⟩
theorem bgeu (f : SB) : Statement (.bgeu f) := ⟨SB.toWord_stop _ _, fun h => (List.cons_ne_nil _ _ h).elim⟩
theorem call (f : SB) : Statement (.call f) := ⟨SB.toWord_stop _ _, fun h => (List.cons_ne_nil _ _ h).elim⟩
theorem ret (f : SB) : Statement (.ret f) := ⟨SB.toWord_stop _ _, fun h => (List.cons_ne_nil _ _ h).elim⟩
theorem jr (f : SB) : Statement (.jr f) := ⟨SB.toWord_stop _ _, fun h => (List.cons_ne_nil _ _ h).elim⟩
theorem loop (f : SL) : Statement (.loop f) := ⟨SL.toWord_stop _ _, fun h => (List.cons_ne_nil _ _ h).elim⟩
theorem loopl (f : SL) : Statement (.loopl f) := ⟨SL.toWord_stop _ _, fun h => (List.cons_ne_nil _ _ h).elim⟩
theorem loopb (f : SL) : Statement (.loopb f) := ⟨SL.toWord_stop _ _, fun h => (List.cons_ne_nil _ _ h).elim⟩
theorem itset (f : SC) : Statement (.itset f) := ⟨SC.toWord_stop _ _, fun h => (List.cons_ne_nil _ _ h).elim⟩
theorem itrev (f : SC) : Statement (.itrev f) := ⟨SC.toWord_stop _ _, fun h => (List.cons_ne_nil _ _ h).elim⟩
theorem skset (f : SC) : Statement (.skset f) := ⟨SC.toWord_stop _ _, fun h => (List.cons_ne_nil _ _ h).elim⟩
theorem itrd (f : SC) : Statement (.itrd f) := ⟨SC.toWord_stop _ _, fun h => (List.cons_ne_nil _ _ h).elim⟩
theorem fmtset (f : SC) : Statement (.fmtset f) := ⟨SC.toWord_stop _ _, fun h => (List.cons_ne_nil _ _ h).elim⟩
theorem tshape (f : SC) : Statement (.tshape f) := ⟨SC.toWord_stop _ _, fun h => (List.cons_ne_nil _ _ h).elim⟩
theorem sink (f : SC) : Statement (.sink f) := ⟨SC.toWord_stop _ _, fun h => (List.cons_ne_nil _ _ h).elim⟩
theorem cshape (f : SC) : Statement (.cshape f) := ⟨SC.toWord_stop _ _, fun h => (List.cons_ne_nil _ _ h).elim⟩
theorem trans (f : SC) : Statement (.trans f) := ⟨SC.toWord_stop _ _, fun h => (List.cons_ne_nil _ _ h).elim⟩
theorem hinv (f : SC) : Statement (.hinv f) := ⟨SC.toWord_stop _ _, fun h => (List.cons_ne_nil _ _ h).elim⟩
theorem hget (f : SC) : Statement (.hget f) := ⟨SC.toWord_stop _ _, fun h => (List.cons_ne_nil _ _ h).elim⟩
theorem waitg (f : SR) : Statement (.waitg f) := ⟨SR.toWord_stop _ _, fun h => (List.cons_ne_nil _ _ h).elim⟩
theorem arm (f : SR) : Statement (.arm f) := ⟨SR.toWord_stop _ _, fun h => (List.cons_ne_nil _ _ h).elim⟩
theorem genrd (f : SR) : Statement (.genrd f) := ⟨SR.toWord_stop _ _, fun h => (List.cons_ne_nil _ _ h).elim⟩
theorem acqb (f : SC) : Statement (.acqb f) := ⟨SC.toWord_stop _ _, fun h => (List.cons_ne_nil _ _ h).elim⟩
theorem relb (f : SC) : Statement (.relb f) := ⟨SC.toWord_stop _ _, fun h => (List.cons_ne_nil _ _ h).elim⟩
theorem endDie (f : SR) : Statement (.endDie f) := ⟨SR.toWord_stop _ _, fun h => (List.cons_ne_nil _ _ h).elim⟩
theorem align (f : SR) : Statement (.align f) := ⟨SR.toWord_stop _ _, fun h => (List.cons_ne_nil _ _ h).elim⟩
theorem coll (f : SR) : Statement (.coll f) := ⟨SR.toWord_stop _ _, fun h => (List.cons_ne_nil _ _ h).elim⟩
theorem amode (f : SC) : Statement (.amode f) := ⟨SC.toWord_stop _ _, fun h => (List.cons_ne_nil _ _ h).elim⟩
theorem reverse (f : SR) : Statement (.reverse f) := ⟨SR.toWord_stop _ _, fun h => (List.cons_ne_nil _ _ h).elim⟩
theorem adjointBundleIssue (p d : Nat) : Statement (.adjointBundleIssue p d) := ⟨zero_stop, fun _ => rfl⟩
theorem dregset (f : SC) : Statement (.dregset f) := ⟨SC.toWord_stop _ _, fun h => (List.cons_ne_nil _ _ h).elim⟩
theorem logmark (f : SR) : Statement (.logmark f) := ⟨SR.toWord_stop _ _, fun h => (List.cons_ne_nil _ _ h).elim⟩
theorem trap (f : SC) : Statement (.trap f) := ⟨SC.toWord_stop _ _, fun h => (List.cons_ne_nil _ _ h).elim⟩
theorem tret (f : SR) : Statement (.tret f) := ⟨SR.toWord_stop _ _, fun h => (List.cons_ne_nil _ _ h).elim⟩
theorem cfgr (f : SC) : Statement (.cfgr f) := ⟨SC.toWord_stop _ _, fun h => (List.cons_ne_nil _ _ h).elim⟩
theorem cfgw (f : SC) : Statement (.cfgw f) := ⟨SC.toWord_stop _ _, fun h => (List.cons_ne_nil _ _ h).elim⟩
theorem cfgwXflags (f : SC) : Statement (.cfgwXflags f) := ⟨SC.toWord_stop _ _, fun h => (List.cons_ne_nil _ _ h).elim⟩
theorem cfgwNf (f : SC) : Statement (.cfgwNf f) := ⟨SC.toWord_stop _ _, fun h => (List.cons_ne_nil _ _ h).elim⟩
theorem cfgwFmt (f : SC) : Statement (.cfgwFmt f) := ⟨SC.toWord_stop _ _, fun h => (List.cons_ne_nil _ _ h).elim⟩
theorem cfgwTapebase (f : SC) : Statement (.cfgwTapebase f) := ⟨SC.toWord_stop _ _, fun h => (List.cons_ne_nil _ _ h).elim⟩
theorem cfgwLogbase (f : SC) : Statement (.cfgwLogbase f) := ⟨SC.toWord_stop _ _, fun h => (List.cons_ne_nil _ _ h).elim⟩
theorem brk (f : SC) : Statement (.brk f) := ⟨SC.toWord_stop _ _, fun h => (List.cons_ne_nil _ _ h).elim⟩
theorem enrd (f : SR) : Statement (.enrd f) := ⟨SR.toWord_stop _ _, fun h => (List.cons_ne_nil _ _ h).elim⟩
theorem vnop (f : VF) : Statement (.vnop f) := ⟨VF.toWord_stop _ _, fun h => (List.cons_ne_nil _ _ h).elim⟩
theorem vadd (f : VF) : Statement (.vadd f) := ⟨VF.toWord_stop _ _, fun h => (List.cons_ne_nil _ _ h).elim⟩
theorem vsub (f : VF) : Statement (.vsub f) := ⟨VF.toWord_stop _ _, fun h => (List.cons_ne_nil _ _ h).elim⟩
theorem vmul (f : VF) : Statement (.vmul f) := ⟨VF.toWord_stop _ _, fun h => (List.cons_ne_nil _ _ h).elim⟩
theorem vfma (f : VF) : Statement (.vfma f) := ⟨VF.toWord_stop _ _, fun h => (List.cons_ne_nil _ _ h).elim⟩
theorem vmin (f : VF) : Statement (.vmin f) := ⟨VF.toWord_stop _ _, fun h => (List.cons_ne_nil _ _ h).elim⟩
theorem vmax (f : VF) : Statement (.vmax f) := ⟨VF.toWord_stop _ _, fun h => (List.cons_ne_nil _ _ h).elim⟩
theorem vabs (f : VF) : Statement (.vabs f) := ⟨VF.toWord_stop _ _, fun h => (List.cons_ne_nil _ _ h).elim⟩
theorem vneg (f : VF) : Statement (.vneg f) := ⟨VF.toWord_stop _ _, fun h => (List.cons_ne_nil _ _ h).elim⟩
theorem vadds (f : VF) : Statement (.vadds f) := ⟨VF.toWord_stop _ _, fun h => (List.cons_ne_nil _ _ h).elim⟩
theorem vsubs (f : VF) : Statement (.vsubs f) := ⟨VF.toWord_stop _ _, fun h => (List.cons_ne_nil _ _ h).elim⟩
theorem vmulh (f : VF) : Statement (.vmulh f) := ⟨VF.toWord_stop _ _, fun h => (List.cons_ne_nil _ _ h).elim⟩
theorem vshl (f : VF) : Statement (.vshl f) := ⟨VF.toWord_stop _ _, fun h => (List.cons_ne_nil _ _ h).elim⟩
theorem vshr (f : VF) : Statement (.vshr f) := ⟨VF.toWord_stop _ _, fun h => (List.cons_ne_nil _ _ h).elim⟩
theorem vand (f : VF) : Statement (.vand f) := ⟨VF.toWord_stop _ _, fun h => (List.cons_ne_nil _ _ h).elim⟩
theorem vor (f : VF) : Statement (.vor f) := ⟨VF.toWord_stop _ _, fun h => (List.cons_ne_nil _ _ h).elim⟩
theorem vxor (f : VF) : Statement (.vxor f) := ⟨VF.toWord_stop _ _, fun h => (List.cons_ne_nil _ _ h).elim⟩
theorem vnot (f : VF) : Statement (.vnot f) := ⟨VF.toWord_stop _ _, fun h => (List.cons_ne_nil _ _ h).elim⟩
theorem vcmp (f : VF) : Statement (.vcmp f) := ⟨VF.toWord_stop _ _, fun h => (List.cons_ne_nil _ _ h).elim⟩
theorem vsel (f : VF) : Statement (.vsel f) := ⟨VF.toWord_stop _ _, fun h => (List.cons_ne_nil _ _ h).elim⟩
theorem vround (f : VF) : Statement (.vround f) := ⟨VF.toWord_stop _ _, fun h => (List.cons_ne_nil _ _ h).elim⟩
theorem vclass (f : VF) : Statement (.vclass f) := ⟨VF.toWord_stop _ _, fun h => (List.cons_ne_nil _ _ h).elim⟩
theorem vexp (f : VF) : Statement (.vexp f) := ⟨VF.toWord_stop _ _, fun h => (List.cons_ne_nil _ _ h).elim⟩
theorem vlog (f : VF) : Statement (.vlog f) := ⟨VF.toWord_stop _ _, fun h => (List.cons_ne_nil _ _ h).elim⟩
theorem vrcp (f : VF) : Statement (.vrcp f) := ⟨VF.toWord_stop _ _, fun h => (List.cons_ne_nil _ _ h).elim⟩
theorem vrsq (f : VF) : Statement (.vrsq f) := ⟨VF.toWord_stop _ _, fun h => (List.cons_ne_nil _ _ h).elim⟩
theorem vsqrt (f : VF) : Statement (.vsqrt f) := ⟨VF.toWord_stop _ _, fun h => (List.cons_ne_nil _ _ h).elim⟩
theorem vtanh (f : VF) : Statement (.vtanh f) := ⟨VF.toWord_stop _ _, fun h => (List.cons_ne_nil _ _ h).elim⟩
theorem vsig (f : VF) : Statement (.vsig f) := ⟨VF.toWord_stop _ _, fun h => (List.cons_ne_nil _ _ h).elim⟩
theorem vrelu (f : VF) : Statement (.vrelu f) := ⟨VF.toWord_stop _ _, fun h => (List.cons_ne_nil _ _ h).elim⟩
theorem vcvt (f : VF) : Statement (.vcvt f) := ⟨VF.toWord_stop _ _, fun h => (List.cons_ne_nil _ _ h).elim⟩
theorem vpack (f : VF) : Statement (.vpack f) := ⟨VF.toWord_stop _ _, fun h => (List.cons_ne_nil _ _ h).elim⟩
theorem vunpk (f : VF) : Statement (.vunpk f) := ⟨VF.toWord_stop _ _, fun h => (List.cons_ne_nil _ _ h).elim⟩
theorem vmov (f : VF) : Statement (.vmov f) := ⟨VF.toWord_stop _ _, fun h => (List.cons_ne_nil _ _ h).elim⟩
theorem vsplat (f : VF) : Statement (.vsplat f) := ⟨VF.toWord_stop _ _, fun h => (List.cons_ne_nil _ _ h).elim⟩
theorem vrot (f : VF) : Statement (.vrot f) := ⟨VF.toWord_stop _ _, fun h => (List.cons_ne_nil _ _ h).elim⟩
theorem kop (f : VF) : Statement (.kop f) := ⟨VF.toWord_stop _ _, fun h => (List.cons_ne_nil _ _ h).elim⟩
theorem vscan (f : VF) : Statement (.vscan f) := ⟨VF.toWord_stop _ _, fun h => (List.cons_ne_nil _ _ h).elim⟩
theorem vred (f : VF) : Statement (.vred f) := ⟨VF.toWord_stop _ _, fun h => (List.cons_ne_nil _ _ h).elim⟩
theorem vcompact (f : VF) : Statement (.vcompact f) := ⟨VF.toWord_stop _ _, fun h => (List.cons_ne_nil _ _ h).elim⟩
theorem vcount (f : VF) : Statement (.vcount f) := ⟨VF.toWord_stop _ _, fun h => (List.cons_ne_nil _ _ h).elim⟩
theorem vroute (f : VF) : Statement (.vroute f) := ⟨VF.toWord_stop _ _, fun h => (List.cons_ne_nil _ _ h).elim⟩
theorem gadd (f : VF) : Statement (.gadd f) := ⟨VF.toWord_stop _ _, fun h => (List.cons_ne_nil _ _ h).elim⟩
theorem gsub (f : VF) : Statement (.gsub f) := ⟨VF.toWord_stop _ _, fun h => (List.cons_ne_nil _ _ h).elim⟩
theorem gmul (f : VF) : Statement (.gmul f) := ⟨VF.toWord_stop _ _, fun h => (List.cons_ne_nil _ _ h).elim⟩
theorem gscl (f : VF) : Statement (.gscl f) := ⟨VF.toWord_stop _ _, fun h => (List.cons_ne_nil _ _ h).elim⟩
theorem gofs (f : VF) : Statement (.gofs f) := ⟨VF.toWord_stop _ _, fun h => (List.cons_ne_nil _ _ h).elim⟩
theorem grelu (f : VF) : Statement (.grelu f) := ⟨VF.toWord_stop _ _, fun h => (List.cons_ne_nil _ _ h).elim⟩
theorem gexp (f : VF) : Statement (.gexp f) := ⟨VF.toWord_stop _ _, fun h => (List.cons_ne_nil _ _ h).elim⟩
theorem gsig (f : VF) : Statement (.gsig f) := ⟨VF.toWord_stop _ _, fun h => (List.cons_ne_nil _ _ h).elim⟩
theorem gsqr (f : VF) : Statement (.gsqr f) := ⟨VF.toWord_stop _ _, fun h => (List.cons_ne_nil _ _ h).elim⟩
theorem gcol (f : VF) : Statement (.gcol f) := ⟨VF.toWord_stop _ _, fun h => (List.cons_ne_nil _ _ h).elim⟩
theorem gmake (f : VF) : Statement (.gmake f) := ⟨VF.toWord_stop _ _, fun h => (List.cons_ne_nil _ _ h).elim⟩
theorem mnop (f : MF) : Statement (.mnop f) := ⟨MF.toWord_stop _ _, fun h => (List.cons_ne_nil _ _ h).elim⟩
theorem mfill (f : MF) : Statement (.mfill f) := ⟨MF.toWord_stop _ _, fun h => (List.cons_ne_nil _ _ h).elim⟩
theorem mdrn (f : MF) : Statement (.mdrn f) := ⟨MF.toWord_stop _ _, fun h => (List.cons_ne_nil _ _ h).elim⟩
theorem mldb (f : MF) : Statement (.mldb f) := ⟨MF.toWord_stop _ _, fun h => (List.cons_ne_nil _ _ h).elim⟩
theorem mldmd (f : MF) : Statement (.mldmd f) := ⟨MF.toWord_stop _ _, fun h => (List.cons_ne_nil _ _ h).elim⟩
theorem mma (f : MF) : Statement (.mma f) := ⟨MF.toWord_stop _ _, fun h => (List.cons_ne_nil _ _ h).elim⟩
theorem mmaz (f : MF) : Statement (.mmaz f) := ⟨MF.toWord_stop _ _, fun h => (List.cons_ne_nil _ _ h).elim⟩
theorem mmas (f : MF) : Statement (.mmas f) := ⟨MF.toWord_stop _ _, fun h => (List.cons_ne_nil _ _ h).elim⟩
theorem mmap (f : MF) : Statement (.mmap f) := ⟨MF.toWord_stop _ _, fun h => (List.cons_ne_nil _ _ h).elim⟩
theorem mmg (f : MF) : Statement (.mmg f) := ⟨MF.toWord_stop _ _, fun h => (List.cons_ne_nil _ _ h).elim⟩
theorem mmg2 (f : MF) : Statement (.mmg2 f) := ⟨MF.toWord_stop _ _, fun h => (List.cons_ne_nil _ _ h).elim⟩
theorem mout (f : MF) : Statement (.mout f) := ⟨MF.toWord_stop _ _, fun h => (List.cons_ne_nil _ _ h).elim⟩
theorem mbyp (f : MF) : Statement (.mbyp f) := ⟨MF.toWord_stop _ _, fun h => (List.cons_ne_nil _ _ h).elim⟩
theorem mzero (f : MF) : Statement (.mzero f) := ⟨MF.toWord_stop _ _, fun h => (List.cons_ne_nil _ _ h).elim⟩
theorem cnop (f : CB) : Statement (.cnop f) := ⟨CB.toWord_stop _ _, fun h => (List.cons_ne_nil _ _ h).elim⟩
theorem ldr (f : CB) : Statement (.ldr f) := ⟨CB.toWord_stop _ _, fun h => (List.cons_ne_nil _ _ h).elim⟩
theorem str (f : CB) : Statement (.str f) := ⟨CB.toWord_stop _ _, fun h => (List.cons_ne_nil _ _ h).elim⟩
theorem rmw (f : CB) : Statement (.rmw f) := ⟨CB.toWord_stop _ _, fun h => (List.cons_ne_nil _ _ h).elim⟩
theorem fill (f : CF) : Statement (.fill f) := ⟨CF.toWord_stop _ _, fun h => (List.cons_ne_nil _ _ h).elim⟩
theorem fillm (f : CF) : Statement (.fillm f) := ⟨CF.toWord_stop _ _, fun h => (List.cons_ne_nil _ _ h).elim⟩
theorem spill (f : CF) : Statement (.spill f) := ⟨CF.toWord_stop _ _, fun h => (List.cons_ne_nil _ _ h).elim⟩
theorem fillx (f : CF) : Statement (.fillx f) := ⟨CF.toWord_stop _ _, fun h => (List.cons_ne_nil _ _ h).elim⟩
theorem hatom (f : CF) : Statement (.hatom f) := ⟨CF.toWord_stop _ _, fun h => (List.cons_ne_nil _ _ h).elim⟩
theorem xsend (f : CX) : Statement (.xsend f) := ⟨CX.toWord_stop _ _, fun h => (List.cons_ne_nil _ _ h).elim⟩
theorem xrecv (f : CX) : Statement (.xrecv f) := ⟨CX.toWord_stop _ _, fun h => (List.cons_ne_nil _ _ h).elim⟩
theorem recvadd (f : CX) : Statement (.recvadd f) := ⟨CX.toWord_stop _ _, fun h => (List.cons_ne_nil _ _ h).elim⟩
theorem trapTaken (cid : Nat) : Statement (.trapTaken cid) := ⟨zero_stop, fun _ => rfl⟩
theorem walkComplete (cid die : Nat) : Statement (.walkComplete cid die) := ⟨zero_stop, fun _ => rfl⟩
theorem icacheFillComplete (cid die : Nat) : Statement (.icacheFillComplete cid die) := ⟨zero_stop, fun _ => rfl⟩
theorem fillLateClear (cid : Nat) : Statement (.fillLateClear cid) := ⟨zero_stop, fun _ => rfl⟩
theorem alignRelease (cid die : Nat) : Statement (.alignRelease cid die) := ⟨zero_stop, fun _ => rfl⟩
theorem syncArrival (r : SyncRef) (b : Nat) (err : Bool) (vref : Nat) : Statement (.syncArrival r b err vref) := ⟨zero_stop, fun _ => rfl⟩
theorem mailboxWrite (part va : Nat) (bytes : List Byte) : Statement (.mailboxWrite part va bytes) := ⟨zero_stop, fun _ => rfl⟩
theorem mailboxRead (part va n : Nat) : Statement (.mailboxRead part va n) := ⟨zero_stop, fun _ => rfl⟩
theorem syncTargetWrite (r : SyncRef) (v : Nat) : Statement (.syncTargetWrite r v) := ⟨zero_stop, fun _ => rfl⟩
theorem syncCountWrite (r : SyncRef) (v : Nat) : Statement (.syncCountWrite r v) := ⟨zero_stop, fun _ => rfl⟩
theorem syncStatusWrite (r : SyncRef) (v : Nat) : Statement (.syncStatusWrite r v) := ⟨zero_stop, fun _ => rfl⟩
theorem tailWrite (p q v : Nat) : Statement (.tailWrite p q v) := ⟨zero_stop, fun _ => rfl⟩
theorem queueSuspend (p q : Nat) : Statement (.queueSuspend p q) := ⟨zero_stop, fun _ => rfl⟩
theorem queueResume (p q : Nat) : Statement (.queueResume p q) := ⟨zero_stop, fun _ => rfl⟩
theorem queueClear (p q : Nat) : Statement (.queueClear p q) := ⟨zero_stop, fun _ => rfl⟩
theorem faultRespRetry (p seq : Nat) : Statement (.faultRespRetry p seq) := ⟨zero_stop, fun _ => rfl⟩
theorem faultRespTerminate (p seq : Nat) : Statement (.faultRespTerminate p seq) := ⟨zero_stop, fun _ => rfl⟩
theorem queryPartition (part tag : Nat) : Statement (.queryPartition part tag) := ⟨zero_stop, fun _ => rfl⟩
theorem shootdown (va len sync tag : Nat) : Statement (.shootdown va len sync tag) := ⟨zero_stop, fun _ => rfl⟩
theorem shootdownApply (cid id : Nat) : Statement (.shootdownApply cid id) := ⟨zero_stop, fun _ => rfl⟩
theorem clearPoisonMark (part va tag : Nat) : Statement (.clearPoisonMark part va tag) := ⟨zero_stop, fun _ => rfl⟩
theorem loadLinkKey (peer key tag : Nat) : Statement (.loadLinkKey peer key tag) := ⟨zero_stop, fun _ => rfl⟩
theorem eraseLinkKey (peer tag : Nat) : Statement (.eraseLinkKey peer tag) := ⟨zero_stop, fun _ => rfl⟩
theorem setTrace (part kinds lo hi tag : Nat) : Statement (.setTrace part kinds lo hi tag) := ⟨zero_stop, fun _ => rfl⟩
theorem setProfileWindow (part base g tag : Nat) : Statement (.setProfileWindow part base g tag) := ⟨zero_stop, fun _ => rfl⟩
theorem recordReplay (part on tag : Nat) : Statement (.recordReplay part on tag) := ⟨zero_stop, fun _ => rfl⟩
theorem dispatch (p q : Nat) (adm : Admit) : Statement (.dispatch p q adm) := ⟨zero_stop, fun _ => rfl⟩
theorem agingStep (p q : Nat) : Statement (.agingStep p q) := ⟨zero_stop, fun _ => rfl⟩
theorem quantumExpiry (p : Nat) : Statement (.quantumExpiry p) := ⟨zero_stop, fun _ => rfl⟩
theorem prologueEntryIssue (cid n ch : Nat) : Statement (.prologueEntryIssue cid n ch) := ⟨zero_stop, fun _ => rfl⟩
theorem kernelStart (cid : Nat) : Statement (.kernelStart cid) := ⟨zero_stop, fun _ => rfl⟩
theorem preemptRequest (p : Nat) (force : Bool) (plan : List ParkMove) : Statement (.preemptRequest p force plan) := ⟨zero_stop, fun _ => rfl⟩
theorem storageClaim (cid : Nat) (moves : List ParkMove) : Statement (.storageClaim cid moves) := ⟨zero_stop, fun _ => rfl⟩
theorem restoreComplete (cid : Nat) : Statement (.restoreComplete cid) := ⟨zero_stop, fun _ => rfl⟩
theorem contextTerminate (cid : Nat) : Statement (.contextTerminate cid) := ⟨zero_stop, fun _ => rfl⟩
theorem contextFree (cid : Nat) : Statement (.contextFree cid) := ⟨zero_stop, fun _ => rfl⟩
theorem dieCounterZero (cid die : Nat) : Statement (.dieCounterZero cid die) := ⟨zero_stop, fun _ => rfl⟩
theorem canopyDecrement (cid die : Nat) : Statement (.canopyDecrement cid die) := ⟨zero_stop, fun _ => rfl⟩
theorem kernelRetire (cid : Nat) : Statement (.kernelRetire cid) := ⟨zero_stop, fun _ => rfl⟩
theorem energyRefill (p : Nat) : Statement (.energyRefill p) := ⟨zero_stop, fun _ => rfl⟩
theorem poisonMark (line : Nat) : Statement (.poisonMark line) := ⟨zero_stop, fun _ => rfl⟩
theorem migrationStart (p va frame : Nat) : Statement (.migrationStart p va frame) := ⟨zero_stop, fun _ => rfl⟩
theorem migrationComplete (p va : Nat) (abort : Bool) (badLines : List Nat) : Statement (.migrationComplete p va abort badLines) := ⟨zero_stop, fun _ => rfl⟩
theorem debugStop (p : Nat) : Statement (.debugStop p) := ⟨zero_stop, fun _ => rfl⟩
theorem debugResume (p : Nat) : Statement (.debugResume p) := ⟨zero_stop, fun _ => rfl⟩
theorem debugStep (p n : Nat) : Statement (.debugStep p n) := ⟨zero_stop, fun _ => rfl⟩
theorem debugStepExpiry (cid : Nat) : Statement (.debugStepExpiry cid) := ⟨zero_stop, fun _ => rfl⟩
theorem debugNonceRequest  : Statement .debugNonceRequest := ⟨zero_stop, fun _ => rfl⟩
theorem debugPortClose  : Statement .debugPortClose := ⟨zero_stop, fun _ => rfl⟩
theorem replayInputApply (cid : Nat) : Statement (.replayInputApply cid) := ⟨zero_stop, fun _ => rfl⟩
theorem rotorSlotStart (port : Nat) : Statement (.rotorSlotStart port) := ⟨zero_stop, fun _ => rfl⟩
theorem packetDelivery (src : Nat) : Statement (.packetDelivery src) := ⟨zero_stop, fun _ => rfl⟩
theorem retransmitTimeout (dst seq : Nat) : Statement (.retransmitTimeout dst seq) := ⟨zero_stop, fun _ => rfl⟩
theorem collHandoff (cid die : Nat) : Statement (.collHandoff cid die) := ⟨zero_stop, fun _ => rfl⟩
theorem collLocalWrite (id : Nat) : Statement (.collLocalWrite id) := ⟨zero_stop, fun _ => rfl⟩
theorem collFail (id : Nat) : Statement (.collFail id) := ⟨zero_stop, fun _ => rfl⟩
theorem packetSend (port dst : Nat) : Statement (.packetSend port dst) := ⟨zero_stop, fun _ => rfl⟩
theorem prologueEntryLanding (cid n : Nat) : Statement (.prologueEntryLanding cid n) := ⟨zero_stop, fun _ => rfl⟩
theorem spareMap (die row phys : Nat) (out : Bool) : Statement (.spareMap die row phys out) := ⟨zero_stop, fun _ => rfl⟩
theorem marginReplan (die age mhz : Nat) : Statement (.marginReplan die age mhz) := ⟨zero_stop, fun _ => rfl⟩
theorem powerFail  : Statement .powerFail := ⟨zero_stop, fun _ => rfl⟩
theorem powerReturn (valid : Bool) : Statement (.powerReturn valid) := ⟨zero_stop, fun _ => rfl⟩
theorem deviceReset (policy : BootPolicy) : Statement (.deviceReset policy) := ⟨zero_stop, fun _ => rfl⟩
theorem vintageAdopt (v : Nat) : Statement (.vintageAdopt v) := ⟨zero_stop, fun _ => rfl⟩
theorem wacSyncExchange (ppm : Int) : Statement (.wacSyncExchange ppm) := ⟨zero_stop, fun _ => rfl⟩
theorem identityFlitReceive (port : Nat) (f : IdFlit) : Statement (.identityFlitReceive port f) := ⟨zero_stop, fun _ => rfl⟩
theorem debugStateWrite (p : Nat) (t : DbgTarget) (v : Nat) : Statement (.debugStateWrite p t v) := ⟨zero_stop, fun _ => rfl⟩
theorem bankScrub (cid slice bank line : Nat) (bad : Bool) : Statement (.bankScrub cid slice bank line bad) := ⟨zero_stop, fun _ => rfl⟩
theorem attestationReport (nonce : BitVec 256) : Statement (.attestationReport nonce) := ⟨zero_stop, fun _ => rfl⟩
theorem debugUnlock (token : List Byte) (brkStops : Bool) : Statement (.debugUnlock token brkStops) := ⟨zero_stop, fun _ => rfl⟩
theorem portEnable (port : Nat) : Statement (.portEnable port) := ⟨zero_stop, fun _ => rfl⟩
theorem portTrained (port : Nat) (ok : Bool) : Statement (.portTrained port ok) := ⟨zero_stop, fun _ => rfl⟩
theorem portDisable (port : Nat) : Statement (.portDisable port) := ⟨zero_stop, fun _ => rfl⟩
theorem portQuarantineClear (port : Nat) : Statement (.portQuarantineClear port) := ⟨zero_stop, fun _ => rfl⟩
theorem portScheduleLoad (port : Nat) (sch : PortSchedule) : Statement (.portScheduleLoad port sch) := ⟨zero_stop, fun _ => rfl⟩
theorem partitionChange (p n : Nat) (mk : PartMake) : Statement (.partitionChange p n mk) := ⟨zero_stop, fun _ => rfl⟩
theorem packetReceive (port : Nat) (k : Packet) : Statement (.packetReceive port k) := ⟨zero_stop, fun _ => rfl⟩
theorem ackReceive (port : Nat) (k : Packet) : Statement (.ackReceive port k) := ⟨zero_stop, fun _ => rfl⟩
theorem refusalReceive (port : Nat) (k : Packet) : Statement (.refusalReceive port k) := ⟨zero_stop, fun _ => rfl⟩

end Sys2Proof.Laws.StopClear
end

