-- ==== Sys2Proof/Tests/Slice0.lean ====
section
/-!
SUPPORT. Tests: instruction words put together from the encoding tables of the spec, the well-formedness checks, single steps with results
taken from the spec's text, and for every clause of a statement a state and operands that meet its hypotheses.
-/

namespace Sys2Proof.Tests
open Sys2Proof.Machine

set_option Elab.async false

/-! ### Small states -/

/-- The bundle of the running step: issued at T = 100 from address 0x1000, with one S syllable. -/
def flight : Flight := { T := 100, addr := 0x1000, len := 16, lit := 7 }
/-- The running step: context 1, die 0, slice 0, at X = 102. -/
def here : Ctx := { cid := 1, fl := flight, X := 102 }
/-- A context that runs on die 0. -/
def runner : Context := { state := .running, kernel := .running, dies := [0], canopy := 1 }
/-- A partition of die 0 that runs context 1. -/
def part0 : Part := { n := 1, running := some 1 }
/-- The machine in which context 1 runs on partition 0. -/
def mk (c : Core) (x : Context := runner) (p : Part := part0) : State :=
  { State.reset with cur := here, cores := [(1, c)], ctxs := [(1, x)], parts := [(0, p)] }
/-- A timed core with one die. -/
def dieCore (d : Die) : Core := { acc := 100, dies := [(0, d)] }
/-- The machine with one die in a state. -/
def onDie (d : Die) : State := mk (dieCore d)
/-- The machine with slice 0 in a state. -/
def onSlice (l : Slice) : State := mk { acc := 102, dies := [(0, {})], slices := [(0, l)] }
/-- The same state at a row of the running step. -/
def atRow (s : State) (row X : Nat) : State := { s with cur := { s.cur with row := row, X := X } }
/-- A live level 2 whose body ends on the running bundle. -/
def endsHere : Tables := { lc := [(2, { count := 3, index := 1, start := 0x900, stop := 0x1000, live := true })] }
/-- A state whose running bundle took these tables. -/
def withTab (t : Tables) (s : State) : State := { s with cur := { s.cur with fl := { s.cur.fl with tab := t } } }
/-- What a step answers, as a fact on its next state. -/
def after (i : Instr) (s : State) (P : State → Bool) : Bool := match exec i s with | .next t => P t | _ => false
/-- The write that a step owes last. -/
def lastOwed (s : State) : Option (Nat × Dest) := (s.here.owed.getLast?).map fun o => (o.due, o.dest)

theorem test_decode_S0 :
    decodeSlot 0 0x0000000000000000 = .ok (.snop ⟨0, 0, 0, 0⟩)
    ∧ decodeSlot 0 0x0095730000000000 = .ok (.add ⟨5, 11, 19, 0⟩)
    ∧ decodeSlot 0 0x8119940000000000 = .ok (.sub ⟨6, 12, 20, 0⟩)
    ∧ decodeSlot 0 0x019DB50000000000 = .ok (.mul ⟨7, 13, 21, 0⟩)
    ∧ decodeSlot 0 0x0221D60000000000 = .ok (.mulhs ⟨8, 14, 22, 0⟩)
    ∧ decodeSlot 0 0x82A5F70000000000 = .ok (.mulhu ⟨9, 15, 23, 0⟩)
    ∧ decodeSlot 0 0x032A110000000000 = .ok (.divs ⟨10, 16, 17, 0⟩)
    ∧ decodeSlot 0 0x03AE320000000000 = .ok (.divu ⟨11, 17, 18, 0⟩) := by decide

theorem test_decode_S1 :
    decodeSlot 0 0x8432530000000000 = .ok (.rems ⟨12, 18, 19, 0⟩)
    ∧ decodeSlot 0 0x04B6740000000000 = .ok (.remu ⟨13, 19, 20, 0⟩)
    ∧ decodeSlot 0 0x0539350000000000 = .ok (.and ⟨14, 9, 21, 0⟩)
    ∧ decodeSlot 0 0x85BD560000000000 = .ok (.or ⟨15, 10, 22, 0⟩)
    ∧ decodeSlot 0 0x0641770000000000 = .ok (.xor ⟨16, 11, 23, 0⟩)
    ∧ decodeSlot 0 0x06C5910000000000 = .ok (.andn ⟨17, 12, 17, 0⟩)
    ∧ decodeSlot 0 0x8749B20000000000 = .ok (.shl ⟨18, 13, 18, 0⟩)
    ∧ decodeSlot 0 0x07CDD30000000000 = .ok (.shrl ⟨19, 14, 19, 0⟩) := by decide

theorem test_decode_S2 :
    decodeSlot 0 0x0851F40000000000 = .ok (.shra ⟨20, 15, 20, 0⟩)
    ∧ decodeSlot 0 0x88D6150000000000 = .ok (.rotr ⟨21, 16, 21, 0⟩)
    ∧ decodeSlot 0 0x095A360000000000 = .ok (.min ⟨22, 17, 22, 0⟩)
    ∧ decodeSlot 0 0x098E570000000000 = .ok (.max ⟨3, 18, 23, 0⟩)
    ∧ decodeSlot 0 0x8A12710000000000 = .ok (.minu ⟨4, 19, 17, 0⟩)
    ∧ decodeSlot 0 0x0A95320000000000 = .ok (.maxu ⟨5, 9, 18, 0⟩)
    ∧ decodeSlot 0 0x0B19530000000000 = .ok (.slt ⟨6, 10, 19, 0⟩)
    ∧ decodeSlot 0 0x8B9D740000000000 = .ok (.sltu ⟨7, 11, 20, 0⟩) := by decide

theorem test_decode_S3 :
    decodeSlot 0 0x0C21950000000000 = .ok (.seq ⟨8, 12, 21, 0⟩)
    ∧ decodeSlot 0 0x0CA5B6E800000000 = .ok (.sel ⟨9, 13, 22, 29⟩)
    ∧ decodeSlot 0 0x8D29C00000000000 = .ok (.clz ⟨10, 14, 0, 0⟩)
    ∧ decodeSlot 0 0x0DADE00000000000 = .ok (.popc ⟨11, 15, 0, 0⟩)
    ∧ decodeSlot 0 0x101D500000000098 = .ok (.addi ⟨7, 10, 17592186044568⟩)
    ∧ decodeSlot 0 0x90A1700000000099 = .ok (.andi ⟨8, 11, 17592186044569⟩)
    ∧ decodeSlot 0 0x112590000000009A = .ok (.ori ⟨9, 12, 17592186044570⟩)
    ∧ decodeSlot 0 0x11A9B0000000009B = .ok (.xori ⟨10, 13, 17592186044571⟩) := by decide

theorem test_decode_S4 :
    decodeSlot 0 0x922DC00000000025 = .ok (.shli ⟨11, 14, 37⟩)
    ∧ decodeSlot 0 0x12B1E0000000003F = .ok (.shrli ⟨12, 15, 63⟩)
    ∧ decodeSlot 0 0x1336000000000001 = .ok (.shrai ⟨13, 16, 1⟩)
    ∧ decodeSlot 0 0x939630000000009F = .ok (.slti ⟨5, 17, 17592186044575⟩)
    ∧ decodeSlot 0 0x141A5000000000A0 = .ok (.muli ⟨6, 18, 17592186044576⟩)
    ∧ decodeSlot 0 0x149C1000000000A1 = .ok (.lit ⟨7, 0, 17592186044577⟩)
    ∧ decodeSlot 0 0x9520E00000000000 = .ok (.lith ⟨8, 7, 0⟩)
    ∧ decodeSlot 0 0x18251000000000A3 = .ok (.ldb ⟨9, 8, 17592186044579⟩) := by decide

theorem test_decode_S5 :
    decodeSlot 0 0x18A93000000000A4 = .ok (.ldh ⟨10, 9, 17592186044580⟩)
    ∧ decodeSlot 0 0x992D5000000000A5 = .ok (.ldw ⟨11, 10, 17592186044581⟩)
    ∧ decodeSlot 0 0x19B17000000000A6 = .ok (.ldd ⟨12, 11, 17592186044582⟩)
    ∧ decodeSlot 0 0x1A359000000000A7 = .ok (.stb ⟨13, 12, 17592186044583⟩)
    ∧ decodeSlot 0 0x9A95B000000000A8 = .ok (.sth ⟨5, 13, 17592186044584⟩)
    ∧ decodeSlot 0 0x1B19D000000000A9 = .ok (.stw ⟨6, 14, 17592186044585⟩)
    ∧ decodeSlot 0 0x1B9DF000000000AA = .ok (.std ⟨7, 15, 17592186044586⟩)
    ∧ decodeSlot 0 0xA0001FFFFFFFFFCB = .ok (.br ⟨0, 0, 35184372088779⟩) := by decide

theorem test_decode_S6 :
    decodeSlot 0 0x20A9FFFFFFFFFFCA = .ok (.beq ⟨10, 15, 35184372088778⟩)
    ∧ decodeSlot 0 0x211A1FFFFFFFFFC9 = .ok (.bne ⟨6, 16, 35184372088777⟩)
    ∧ decodeSlot 0 0xA19E3FFFFFFFFFC8 = .ok (.blt ⟨7, 17, 35184372088776⟩)
    ∧ decodeSlot 0 0x22225FFFFFFFFFC7 = .ok (.bge ⟨8, 18, 35184372088775⟩)
    ∧ decodeSlot 0 0x22A67FFFFFFFFFC6 = .ok (.bltu ⟨9, 19, 35184372088774⟩)
    ∧ decodeSlot 0 0xA3297FFFFFFFFFC5 = .ok (.bgeu ⟨10, 11, 35184372088773⟩)
    ∧ decodeSlot 0 0x23801FFFFFFFFFC4 = .ok (.call ⟨0, 0, 35184372088772⟩)
    ∧ decodeSlot 0 0x2400000000000000 = .ok (.ret ⟨0, 0, 0⟩) := by decide

theorem test_decode_S7 :
    decodeSlot 0 0xA4A0000000000000 = .ok (.jr ⟨8, 0, 0⟩)
    ∧ decodeSlot 0 0x28350000000111AA = .ok (.loop ⟨3, 10, 0, 70058⟩)
    ∧ decodeSlot 0 0x28C58211800111AB = .ok (.loopl ⟨4, 11, 1059, 70059⟩)
    ∧ decodeSlot 0 0xA9560212000111AC = .ok (.loopb ⟨5, 12, 1060, 70060⟩)
    ∧ decodeSlot 0 0x29ADA02400000000 = .ok (.itset ⟨11, 13, 18, 0⟩)
    ∧ decodeSlot 0 0x2A3000000000000B = .ok (.itrev ⟨12, 0, 0, 11⟩)
    ∧ decodeSlot 0 0xAA91000000000000 = .ok (.skset ⟨4, 8, 0, 0⟩)
    ∧ decodeSlot 0 0x2B15232A00000000 = .ok (.itrd ⟨5, 9, 405, 0⟩) := by decide

theorem test_decode_S8 :
    decodeSlot 0 0x2B9800000000008E = .ok (.fmtset ⟨6, 0, 0, 142⟩)
    ∧ decodeSlot 0 0xAC1C00000000008F = .ok (.tshape ⟨7, 0, 0, 143⟩)
    ∧ decodeSlot 0 0x2CA0034A00000000 = .ok (.sink ⟨8, 0, 421, 0⟩)
    ∧ decodeSlot 0 0x2D01A03200000000 = .ok (.cshape ⟨0, 13, 25, 0⟩)
    ∧ decodeSlot 0 0xB029C00000000002 = .ok (.trans ⟨10, 14, 0, 2⟩)
    ∧ decodeSlot 0 0x30AC000000000000 = .ok (.hinv ⟨11, 0, 0, 0⟩)
    ∧ decodeSlot 0 0x3131233800000000 = .ok (.hget ⟨12, 9, 412, 0⟩)
    ∧ decodeSlot 0 0xB43DF30000000000 = .ok (.waitg ⟨15, 15, 19, 0⟩) := by decide

theorem test_decode_S9 :
    decodeSlot 0 0x34C2140000000000 = .ok (.arm ⟨16, 16, 20, 0⟩)
    ∧ decodeSlot 0 0x3546200000000000 = .ok (.genrd ⟨17, 17, 0, 0⟩)
    ∧ decodeSlot 0 0xB580000000000008 = .ok (.acqb ⟨0, 0, 0, 8⟩)
    ∧ decodeSlot 0 0x3600000000000009 = .ok (.relb ⟨0, 0, 0, 9⟩)
    ∧ decodeSlot 0 0x3680000000000000 = .ok (.endDie ⟨0, 0, 0, 0⟩)
    ∧ decodeSlot 0 0xB755400000000000 = .ok (.align ⟨21, 10, 0, 0⟩)
    ∧ decodeSlot 0 0x3781730000000000 = .ok (.coll ⟨0, 11, 19, 0⟩)
    ∧ decodeSlot 0 0x3800000000000001 = .ok (.amode ⟨0, 0, 0, 1⟩) := by decide

theorem test_decode_S10 :
    decodeSlot 0 0xB881A00000000000 = .ok (.reverse ⟨0, 13, 0, 0⟩)
    ∧ decodeSlot 0 0x3915A00000000000 = .ok (.dregset ⟨5, 13, 0, 0⟩)
    ∧ decodeSlot 0 0x3998000000000000 = .ok (.logmark ⟨6, 0, 0, 0⟩)
    ∧ decodeSlot 0 0xBC000000000000A1 = .ok (.trap ⟨0, 0, 0, 161⟩)
    ∧ decodeSlot 0 0x3C80000000000000 = .ok (.tret ⟨0, 0, 0, 0⟩)
    ∧ decodeSlot 0 0x3D24035600000000 = .ok (.cfgr ⟨9, 0, 427, 0⟩)
    ∧ decodeSlot 0 0xBD800085000000A4 = .ok (.cfgw ⟨0, 0, 66, 4294967460⟩)
    ∧ decodeSlot 0 0x3E000000000000A5 = .ok (.brk ⟨0, 0, 0, 165⟩) := by decide

theorem test_decode_S11 :
    decodeSlot 0 0x3EB0000000000000 = .ok (.enrd ⟨12, 0, 0, 0⟩) := by decide

theorem test_decode_V0 :
    decodeSlot 1 0x8000000000000000 = .ok (.vnop ⟨0, 0, 0, 0, 0, 0, 0, 0, 0, 0, 0⟩)
    ∧ decodeSlot 2 0x008304240230AA00 = .ok (.vadd ⟨3, 2, 9, 0, 2, 3, 0, 5, 2, 2, 0⟩)
    ∧ decodeSlot 1 0x010306280430AA00 = .ok (.vsub ⟨3, 3, 10, 0, 4, 3, 0, 5, 2, 2, 0⟩)
    ∧ decodeSlot 2 0x8183082C0430AA00 = .ok (.vmul ⟨3, 4, 11, 0, 4, 3, 0, 5, 2, 2, 0⟩)
    ∧ decodeSlot 1 0x02030A303E30AA00 = .ok (.vfma ⟨3, 5, 12, 7, 6, 3, 0, 5, 2, 2, 0⟩)
    ∧ decodeSlot 2 0x02830C340630A200 = .ok (.vmin ⟨3, 6, 13, 0, 6, 3, 0, 5, 0, 2, 0⟩)
    ∧ decodeSlot 1 0x83030E380030A200 = .ok (.vmax ⟨3, 7, 14, 0, 0, 3, 0, 5, 0, 2, 0⟩)
    ∧ decodeSlot 2 0x038310000030A200 = .ok (.vabs ⟨3, 8, 0, 0, 0, 3, 0, 5, 0, 2, 0⟩) := by decide

theorem test_decode_V1 :
    decodeSlot 1 0x040312000030A200 = .ok (.vneg ⟨3, 9, 0, 0, 0, 3, 0, 5, 0, 2, 0⟩)
    ∧ decodeSlot 2 0x8483140C0230A200 = .ok (.vadds ⟨3, 10, 3, 0, 2, 3, 0, 5, 0, 2, 0⟩)
    ∧ decodeSlot 1 0x050316100430A200 = .ok (.vsubs ⟨3, 11, 4, 0, 4, 3, 0, 5, 0, 2, 0⟩)
    ∧ decodeSlot 2 0x058318140430A200 = .ok (.vmulh ⟨3, 12, 5, 0, 4, 3, 0, 5, 0, 2, 0⟩)
    ∧ decodeSlot 1 0x86031A180630A201 = .ok (.vshl ⟨3, 13, 6, 0, 6, 3, 0, 5, 0, 2, 1⟩)
    ∧ decodeSlot 2 0x06831C1C0630A202 = .ok (.vshr ⟨3, 14, 7, 0, 6, 3, 0, 5, 0, 2, 2⟩)
    ∧ decodeSlot 1 0x07031E200030A200 = .ok (.vand ⟨3, 15, 8, 0, 0, 3, 0, 5, 0, 2, 0⟩)
    ∧ decodeSlot 2 0x878302240030A200 = .ok (.vor ⟨3, 1, 9, 0, 0, 3, 0, 5, 0, 2, 0⟩) := by decide

theorem test_decode_V2 :
    decodeSlot 1 0x080304280230A200 = .ok (.vxor ⟨3, 2, 10, 0, 2, 3, 0, 5, 0, 2, 0⟩)
    ∧ decodeSlot 2 0x088306000030A200 = .ok (.vnot ⟨3, 3, 0, 0, 0, 3, 0, 5, 0, 2, 0⟩)
    ∧ decodeSlot 1 0x890308300430A201 = .ok (.vcmp ⟨3, 4, 12, 0, 4, 3, 0, 5, 0, 2, 1⟩)
    ∧ decodeSlot 2 0x09830A340430A200 = .ok (.vsel ⟨3, 5, 13, 0, 4, 3, 0, 5, 0, 2, 0⟩)
    ∧ decodeSlot 1 0x0A030C000430AA00 = .ok (.vround ⟨3, 6, 0, 0, 4, 3, 0, 5, 2, 2, 0⟩)
    ∧ decodeSlot 2 0x8A830E000430A200 = .ok (.vclass ⟨3, 7, 0, 0, 4, 3, 0, 5, 0, 2, 0⟩)
    ∧ decodeSlot 1 0x100310000030AA00 = .ok (.vexp ⟨3, 8, 0, 0, 0, 3, 0, 5, 2, 2, 0⟩)
    ∧ decodeSlot 2 0x108312000030AA00 = .ok (.vlog ⟨3, 9, 0, 0, 0, 3, 0, 5, 2, 2, 0⟩) := by decide

theorem test_decode_V3 :
    decodeSlot 1 0x910314000030AA00 = .ok (.vrcp ⟨3, 10, 0, 0, 0, 3, 0, 5, 2, 2, 0⟩)
    ∧ decodeSlot 2 0x118316000030AA00 = .ok (.vrsq ⟨3, 11, 0, 0, 0, 3, 0, 5, 2, 2, 0⟩)
    ∧ decodeSlot 1 0x120318000430AA00 = .ok (.vsqrt ⟨3, 12, 0, 0, 4, 3, 0, 5, 2, 2, 0⟩)
    ∧ decodeSlot 2 0x92831A000430AA00 = .ok (.vtanh ⟨3, 13, 0, 0, 4, 3, 0, 5, 2, 2, 0⟩)
    ∧ decodeSlot 1 0x13031C000430AA00 = .ok (.vsig ⟨3, 14, 0, 0, 4, 3, 0, 5, 2, 2, 0⟩)
    ∧ decodeSlot 2 0x13831E000430A200 = .ok (.vrelu ⟨3, 15, 0, 0, 4, 3, 0, 5, 0, 2, 0⟩)
    ∧ decodeSlot 1 0x980302280030AA0F = .ok (.vcvt ⟨3, 1, 10, 0, 0, 3, 0, 5, 2, 2, 15⟩)
    ∧ decodeSlot 2 0x1883042C0030AA02 = .ok (.vpack ⟨3, 2, 11, 0, 0, 3, 0, 5, 2, 2, 2⟩) := by decide

theorem test_decode_V4 :
    decodeSlot 1 0x190306000030AA03 = .ok (.vunpk ⟨3, 3, 0, 0, 0, 3, 0, 5, 2, 2, 3⟩)
    ∧ decodeSlot 2 0x998308000030A200 = .ok (.vmov ⟨3, 4, 0, 0, 0, 3, 0, 5, 0, 2, 0⟩)
    ∧ decodeSlot 1 0x1A030A000430A202 = .ok (.vsplat ⟨3, 5, 0, 0, 4, 3, 0, 5, 0, 2, 2⟩)
    ∧ decodeSlot 2 0x1A830C3C0430A203 = .ok (.vrot ⟨3, 6, 15, 0, 4, 3, 0, 5, 0, 2, 3⟩)
    ∧ decodeSlot 1 0x9B030E0806000202 = .ok (.kop ⟨3, 7, 2, 0, 6, 0, 0, 0, 0, 2, 2⟩)
    ∧ decodeSlot 2 0x200310000430AA02 = .ok (.vscan ⟨3, 8, 0, 0, 4, 3, 0, 5, 2, 2, 2⟩)
    ∧ decodeSlot 2 0x208312000030AA03 = .ok (.vred ⟨3, 9, 0, 0, 0, 3, 0, 5, 2, 2, 3⟩)
    ∧ decodeSlot 2 0xA10314140030A200 = .ok (.vcompact ⟨3, 10, 5, 0, 0, 3, 0, 5, 0, 2, 0⟩) := by decide

theorem test_decode_V5 :
    decodeSlot 2 0x218316000030A200 = .ok (.vcount ⟨3, 11, 0, 0, 0, 3, 0, 5, 0, 2, 0⟩)
    ∧ decodeSlot 2 0x220318000030A203 = .ok (.vroute ⟨3, 12, 0, 0, 0, 3, 0, 5, 0, 2, 3⟩)
    ∧ decodeSlot 1 0xA8031A200400AA01 = .ok (.gadd ⟨3, 13, 8, 0, 4, 0, 0, 5, 2, 2, 1⟩)
    ∧ decodeSlot 2 0x28831C240400AA02 = .ok (.gsub ⟨3, 14, 9, 0, 4, 0, 0, 5, 2, 2, 2⟩)
    ∧ decodeSlot 1 0x29031E280600AA03 = .ok (.gmul ⟨3, 15, 10, 0, 6, 0, 0, 5, 2, 2, 3⟩)
    ∧ decodeSlot 2 0xA983022C0600AA01 = .ok (.gscl ⟨3, 1, 11, 0, 6, 0, 0, 5, 2, 2, 1⟩)
    ∧ decodeSlot 1 0x2A0304300000AA02 = .ok (.gofs ⟨3, 2, 12, 0, 0, 0, 0, 5, 2, 2, 2⟩)
    ∧ decodeSlot 2 0x2A8306000000AA03 = .ok (.grelu ⟨3, 3, 0, 0, 0, 0, 0, 5, 2, 2, 3⟩) := by decide

theorem test_decode_V6 :
    decodeSlot 1 0xAB0308000000AA01 = .ok (.gexp ⟨3, 4, 0, 0, 0, 0, 0, 5, 2, 2, 1⟩)
    ∧ decodeSlot 2 0x2B830A000000AA02 = .ok (.gsig ⟨3, 5, 0, 0, 0, 0, 0, 5, 2, 2, 2⟩)
    ∧ decodeSlot 1 0x2C030C000400AA03 = .ok (.gsqr ⟨3, 6, 0, 0, 4, 0, 0, 5, 2, 2, 3⟩)
    ∧ decodeSlot 2 0xAC830E000400AA02 = .ok (.gcol ⟨3, 7, 0, 0, 4, 0, 0, 5, 2, 2, 2⟩)
    ∧ decodeSlot 1 0xAD0310100600A202 = .ok (.gmake ⟨3, 8, 4, 0, 6, 0, 0, 5, 0, 2, 2⟩) := by decide

theorem test_decode_M0 :
    decodeSlot 3 0x0000000000000000 = .ok (.mnop ⟨0, 0, 0, 0, 0, 0, 0, 0, 0, 0, 0⟩)
    ∧ decodeSlot 3 0x80830A000400E945 = .ok (.mfill ⟨3, 5, 0, 0, 1, 0, 0, 7, 9, 1, 5⟩)
    ∧ decodeSlot 3 0x01030A000400E945 = .ok (.mdrn ⟨3, 5, 0, 0, 1, 0, 0, 7, 9, 1, 5⟩)
    ∧ decodeSlot 3 0x0180001801400041 = .ok (.mldb ⟨0, 0, 6, 0, 0, 5, 0, 0, 0, 1, 1⟩)
    ∧ decodeSlot 3 0x82030A0004000940 = .ok (.mldmd ⟨3, 5, 0, 0, 1, 0, 0, 0, 9, 1, 0⟩)
    ∧ decodeSlot 3 0x02800A024540E940 = .ok (.mma ⟨0, 5, 0, 72, 1, 5, 0, 7, 9, 1, 0⟩)
    ∧ decodeSlot 3 0x03000A024540E940 = .ok (.mmaz ⟨0, 5, 0, 72, 1, 5, 0, 7, 9, 1, 0⟩)
    ∧ decodeSlot 3 0x83800A1A4440E940 = .ok (.mmas ⟨0, 5, 6, 72, 1, 1, 0, 7, 9, 1, 0⟩) := by decide

theorem test_decode_M1 :
    decodeSlot 3 0x04000A024540E940 = .ok (.mmap ⟨0, 5, 0, 72, 1, 5, 0, 7, 9, 1, 0⟩)
    ∧ decodeSlot 3 0x04800A024540E940 = .ok (.mmg ⟨0, 5, 0, 72, 1, 5, 0, 7, 9, 1, 0⟩)
    ∧ decodeSlot 3 0x85000A1A4540E940 = .ok (.mmg2 ⟨0, 5, 6, 72, 1, 5, 0, 7, 9, 1, 0⟩)
    ∧ decodeSlot 3 0x05830A000540E945 = .ok (.mout ⟨3, 5, 0, 0, 1, 5, 0, 7, 9, 1, 5⟩)
    ∧ decodeSlot 3 0x06030A000540E945 = .ok (.mbyp ⟨3, 5, 0, 0, 1, 5, 0, 7, 9, 1, 5⟩)
    ∧ decodeSlot 3 0x868000024140E940 = .ok (.mzero ⟨0, 0, 0, 72, 0, 5, 0, 7, 9, 1, 0⟩) := by decide

theorem test_decode_C0 :
    decodeSlot 5 0x0000000000000000 = .ok (.cnop ⟨0, 0, 0, 0, 0, 0, 0, 0⟩)
    ∧ decodeSlot 4 0x00873B4B86007FE8 = .ok (.ldr ⟨7, 3, 5, 42435, 0, 0, 2046, 2⟩)
    ∧ decodeSlot 5 0x81083B4B86007FE8 = .ok (.str ⟨8, 3, 5, 42435, 0, 0, 2046, 2⟩)
    ∧ decodeSlot 4 0x01893B4B86C77FE8 = .ok (.rmw ⟨9, 3, 5, 42435, 49, 6, 2046, 2⟩)
    ∧ decodeSlot 5 0x020427084330C40C = .ok (.fill ⟨4, 2, 3, 33825, 9, 33, 17, 0, 3⟩)
    ∧ decodeSlot 4 0x828427084330C40C = .ok (.fillm ⟨4, 2, 3, 33825, 9, 33, 17, 0, 3⟩)
    ∧ decodeSlot 5 0x030427084330C40C = .ok (.spill ⟨4, 2, 3, 33825, 9, 33, 17, 0, 3⟩)
    ∧ decodeSlot 4 0x038427084320440C = .ok (.fillx ⟨4, 2, 3, 33825, 9, 0, 17, 0, 3⟩) := by decide

theorem test_decode_C1 :
    decodeSlot 5 0x840426014B2044BC = .ok (.hatom ⟨4, 2, 3, 165, 9, 0, 17, 11, 3⟩)
    ∧ decodeSlot 4 0x04875B3240000004 = .ok (.xsend ⟨7, 5, 44, 201, 1⟩)
    ∧ decodeSlot 5 0x05075B3240000004 = .ok (.xrecv ⟨7, 5, 44, 201, 1⟩)
    ∧ decodeSlot 4 0x85875B3240000004 = .ok (.recvadd ⟨7, 5, 44, 201, 1⟩) := by decide

theorem test_decode_cfgw_rows :
    decodeSlot 0 0x3D81202A00000000 = .ok (.cfgwXflags ⟨0, 9, 21, 0⟩)
    ∧ decodeSlot 0 0x3D81202600000000 = .ok (.cfgwNf ⟨0, 9, 19, 0⟩)
    ∧ decodeSlot 0 0x3D81227E00000000 = .ok (.cfgwFmt ⟨0, 9, 319, 0⟩)
    ∧ decodeSlot 0 0x3D81206800000000 = .ok (.cfgwTapebase ⟨0, 9, 52, 0⟩)
    ∧ decodeSlot 0 0x3D81206200000000 = .ok (.cfgwLogbase ⟨0, 9, 49, 0⟩) := by decide

/-! ### Well-formedness: an ill-formed term for each check, which the check refuses -/

/-- Every term of a list is refused. -/
def refused (is : List Instr) : Bool := is.all fun i => !i.wf

theorem test_refuses_S_registers : refused [.snop ⟨1, 0, 0, 0⟩, .endDie ⟨0, 1, 0, 0⟩, .tret ⟨0, 0, 1, 0⟩, .add ⟨1, 2, 3, 4⟩, .clz ⟨1, 2, 3, 0⟩,
    .genrd ⟨1, 2, 0, 3⟩, .coll ⟨1, 2, 3, 0⟩, .reverse ⟨1, 2, 0, 0⟩, .logmark ⟨1, 2, 0, 0⟩, .enrd ⟨1, 0, 0, 1⟩] = true := by decide
theorem test_refuses_S_immediates : refused [.shli ⟨1, 2, 64⟩, .shrai ⟨1, 2, 64⟩, .lit ⟨1, 2, 0⟩, .lith ⟨1, 2, 1⟩, .br ⟨1, 0, 4⟩, .call ⟨0, 1, 4⟩,
    .ret ⟨0, 0, 1⟩, .jr ⟨1, 0, 1⟩, .jr ⟨1, 1, 0⟩, .loop ⟨1, 2, 3, 4⟩] = true := by decide
theorem test_refuses_S_tables : refused [.itset ⟨0, 1, 32, 0⟩, .itrev ⟨0, 0, 0, 16⟩, .skset ⟨0, 1, 0, 1⟩, .itrd ⟨1, 0, 0, 1⟩, .fmtset ⟨0, 1, 0, 0⟩,
    .tshape ⟨0, 0, 0, 0x4000⟩, .sink ⟨0, 0, 0x400, 0⟩, .sink ⟨1, 0, 0x40, 0⟩, .sink ⟨0, 1, 1, 0⟩, .cshape ⟨0, 1, 0x40, 0⟩] = true := by decide
theorem test_refuses_S_system : refused [.trans ⟨1, 2, 0, 4⟩, .hinv ⟨1, 0, 1, 0⟩, .hget ⟨1, 2, 0, 1⟩, .acqb ⟨0, 0, 0, 16⟩, .relb ⟨0, 1, 0, 0⟩,
    .amode ⟨0, 0, 0, 4⟩, .dregset ⟨1, 2, 1, 0⟩, .trap ⟨0, 0, 0, 0x10000⟩, .brk ⟨1, 0, 0, 0⟩, .cfgr ⟨1, 0, 0x10, 1⟩] = true := by decide
theorem test_refuses_CFGW : refused [.cfgw ⟨1, 0, 0x10, 0⟩, .cfgw ⟨0, 1, 0x10, 1⟩, .cfgw ⟨0, 0, 0x13, 0⟩, .cfgwXflags ⟨0, 0, 0x10, 0⟩,
    .cfgwNf ⟨0, 0, 0x10, 0⟩, .cfgwTapebase ⟨0, 0, 0x10, 0⟩, .cfgwLogbase ⟨0, 0, 0x10, 0⟩, .cfgwFmt ⟨0, 0, 0x10, 0⟩] = true := by decide
theorem test_refuses_V_elementwise : refused [.vnop ⟨1, 0, 0, 0, 0, 0, 0, 0, 0, 0, 0⟩, .vadd ⟨1, 2, 3, 4, 0, 0, 0, 0, 0, 0, 0⟩,
    .vfma ⟨1, 2, 3, 4, 0, 0, 0, 0, 0, 0, 1⟩, .vmin ⟨1, 2, 3, 0, 0, 0, 0, 0, 1, 0, 0⟩, .vabs ⟨1, 2, 3, 0, 0, 0, 0, 0, 0, 0, 0⟩,
    .vshl ⟨1, 2, 3, 0, 0, 0, 0, 0, 1, 0, 0⟩, .vround ⟨1, 2, 0, 1, 0, 0, 0, 0, 0, 0, 0⟩] = true := by decide
theorem test_refuses_V_moves : refused [.vcvt ⟨1, 2, 0, 3, 0, 1, 0, 0, 0, 0, 0⟩, .vcvt ⟨1, 2, 0, 0, 0, 1, 0, 0, 0, 0, 128⟩,
    .vcvt ⟨1, 2, 3, 0, 0, 0, 0, 0, 0, 0, 1⟩, .vpack ⟨1, 2, 3, 1, 0, 0, 0, 0, 0, 0, 0⟩, .vunpk ⟨1, 2, 3, 0, 0, 0, 0, 0, 0, 0, 0⟩,
    .vmov ⟨1, 2, 0, 0, 0, 0, 0, 0, 0, 0, 1⟩, .vsplat ⟨1, 2, 0, 0, 0, 0, 0, 0, 1, 0, 0⟩, .kop ⟨1, 2, 0, 0, 0, 0, 0, 1, 0, 0, 0⟩,
    .kop ⟨1, 2, 3, 0, 0, 0, 0, 0, 0, 0, 4⟩] = true := by decide
theorem test_refuses_V_across : refused [.vscan ⟨1, 2, 3, 0, 0, 0, 0, 0, 0, 0, 0⟩, .vcompact ⟨1, 2, 3, 0, 0, 0, 0, 0, 0, 0, 1⟩,
    .vcount ⟨1, 2, 3, 0, 0, 0, 0, 0, 0, 0, 0⟩, .vroute ⟨1, 2, 0, 0, 2, 0, 0, 0, 0, 0, 0⟩, .gadd ⟨1, 2, 3, 0, 0, 1, 0, 0, 0, 0, 0⟩,
    .grelu ⟨1, 2, 3, 0, 0, 0, 0, 0, 0, 0, 0⟩, .gcol ⟨1, 2, 3, 0, 0, 0, 0, 0, 0, 0, 0⟩] = true := by decide
theorem test_refuses_M : refused [.mnop ⟨1, 0, 0, 0, 0, 0, 0, 0, 0, 0, 0⟩, .mfill ⟨1, 2, 3, 0, 0, 0, 0, 0, 0, 0, 0⟩, .mdrn ⟨1, 2, 0, 0, 0, 0, 0, 0, 0, 0, 16⟩,
    .mldb ⟨0, 1, 2, 0, 0, 0, 0, 0, 0, 0, 0⟩, .mldmd ⟨1, 2, 0, 0, 0, 0, 0, 1, 0, 0, 0⟩, .mma ⟨1, 2, 0, 0, 0, 0, 0, 0, 0, 0, 0⟩,
    .mmas ⟨0, 2, 3, 0, 0, 0, 0, 0, 0, 0, 0⟩, .mmg ⟨0, 2, 3, 0, 0, 0, 0, 0, 0, 0, 0⟩, .mmg2 ⟨0, 2, 3, 0, 0, 0, 0, 0, 0, 0, 8⟩,
    .mout ⟨1, 2, 0, 0, 0, 0, 0, 0, 0, 0, 8⟩, .mbyp ⟨1, 2, 3, 0, 0, 0, 0, 0, 0, 0, 0⟩, .mzero ⟨0, 1, 0, 0, 0, 0, 0, 0, 0, 0, 0⟩] = true := by decide
theorem test_refuses_C : refused [.cnop ⟨1, 0, 0, 0, 0, 0, 0, 0⟩, .ldr ⟨1, 0, 0, 0, 1, 0, 0, 0⟩, .str ⟨1, 0, 0, 0, 0, 1, 0, 0⟩,
    .fill ⟨1, 0, 0, 0, 0, 0, 0, 1, 0⟩, .fillx ⟨1, 0, 0, 0, 0, 1, 0, 0, 0⟩, .hatom ⟨1, 0, 0, 0, 0, 0, 0, 16, 0⟩,
    .hatom ⟨1, 0, 0, 256, 0, 0, 0, 0, 0⟩, .hatom ⟨1, 0, 0, 0, 0, 1, 0, 0, 0⟩] = true := by decide
theorem test_refuses_numbers_of_parts : refused [.bundleIssue 8 0, .delayBundle 0 8, .cycleBoundary 8, .fillmLatchExecute ⟨0, 0, 0, 0, 0, 0, 0, 0, 0, 0, 0⟩ 14, .outerTrellisArrival 64 0 0,
    .adjointBundleIssue 8 0, .walkComplete 1 8, .icacheFillComplete 1 8, .alignRelease 1 8, .queueSuspend 8 0, .queueResume 0 8, .queueClear 8 0,
    .tailWrite 8 0 0, .faultRespTerminate 8 0, .agingStep 0 8, .quantumExpiry 8] = true := by decide
theorem test_refuses_numbers_of_sync_words : refused [.syncTargetWrite (.die 1 8 0) 0, .syncCountWrite (.die 1 0 4096) 0, .syncStatusWrite (.launch 1024) 0] = true := by decide
theorem test_refuses_numbers_of_units : refused [.prologueEntryIssue 1 0 20, .dieCounterZero 1 8, .canopyDecrement 1 8, .energyRefill 8, .bankScrub 0 4112 0 0 0,
    .bankScrub 0 0 16 0 0, .bankScrub 0 0 0 8192 0, .debugStop 8, .debugResume 8, .debugStep 8 1, .rotorSlotStart 32, .portDisable 32,
    .portQuarantineClear 64, .portTrained 32 true, .collHandoff 1 8] = true := by decide

/-! ### Single steps: the results are the spec's worked examples, or computed by hand from its rules -/

/-- The x write that a step of the S slot owes, with xa = x1 and xb = x2 given. -/
def sOf (i : Instr) (a b : Nat) : Option (Nat × Dest) :=
  match exec i (onDie { x := [(1, BitVec.ofNat 64 a), (2, BitVec.ofNat 64 b)] }) with | .next t => lastOwed t | _ => none

/-- R123: sums wrap. -/
theorem test_add_wraps : sOf (.add ⟨5, 1, 2, 0⟩) (2 ^ 64 - 1) 3 = some (100, .x 5 2) := by decide +kernel
theorem test_sub_borrows : sOf (.sub ⟨5, 1, 2, 0⟩) 2 3 = some (100, .x 5 0xFFFFFFFFFFFFFFFF) := by decide +kernel
/-- R123: the high half of (-2^63)^2 is 2^62; multiplications are done two cycles later. -/
theorem test_mulhs_most_negative : sOf (.mulhs ⟨5, 1, 2, 0⟩) (2 ^ 63) (2 ^ 63) = some (102, .x 5 0x4000000000000000) := by decide +kernel
/-- R124: by zero, all ones; -7 / 2 = -3. -/
theorem test_divs_by_zero : sOf (.divs ⟨5, 1, 2, 0⟩) 9 0 = some (119, .x 5 0xFFFFFFFFFFFFFFFF) := by decide +kernel
theorem test_divs_truncates : sOf (.divs ⟨5, 1, 2, 0⟩) (2 ^ 64 - 7) 2 = some (119, .x 5 0xFFFFFFFFFFFFFFFD) := by decide +kernel
theorem test_rems_overflow : sOf (.rems ⟨5, 1, 2, 0⟩) (2 ^ 63) (2 ^ 64 - 1) = some (119, .x 5 0) := by decide +kernel
theorem test_shra_sign : sOf (.shra ⟨5, 1, 2, 0⟩) (2 ^ 63) 65 = some (100, .x 5 0xC000000000000000) := by decide +kernel
theorem test_x0_stays_zero : after (.addi ⟨0, 1, 5⟩) (onDie {}) (fun t => t.here.owed == [] && t.xreg 0 == 0) = true := by decide +kernel
/-- R142: the printed immediate. -/
theorem test_fmtset : after (.fmtset ⟨2, 0, 0, 0x651⟩) (onDie {}) (fun t => lastOwed t == some (100, .tab (.fslot 2 0x651))) = true := by decide +kernel
/-- R68, R128: the last word below the sync area can be stored to; one that reaches into it traps with cause 0x04. -/
theorem test_stw_below_sync : after (.stw ⟨2, 1, 0⟩) (onDie { x := [(1, 0x2FFFC), (2, 0x11223344)] }) (fun t => t.here.traps == []) = true := by decide +kernel
theorem test_stw_into_sync : after (.stw ⟨2, 1, 4⟩) (onDie { x := [(1, 0x2FFFC), (2, 0x11223344)] })
    (fun t => t.here.traps.map (fun e => e.code) == [4]) = true := by decide +kernel

/-- The write that a V step owes last, with lanes of 32 bits at the heads of q1 and q2. -/
def vOf (i : Instr) (a b : List Nat) (l : Slice := {}) : Option (Nat × Dest) :=
  let r (v : List Nat) : Rank := BitVec.ofNat 512 (v.foldr (fun e n => n * 2 ^ 32 + e) 0)
  match exec i (onSlice { l with q := [(1, [r a]), (2, [r b])] }) with | .next t => lastOwed t | _ => none
/-- A rank of lanes of 32 bits. -/
def lanes (v : List Nat) : Rank := BitVec.ofNat 512 (v.foldr (fun e n => n * 2 ^ 32 + e) 0)

/-- R166: 1.5 + 2.0 = 3.5, and the lanes of zeros sum to +0. -/
theorem test_vadd_f32 : vOf (.vadd ⟨3, 1, 2, 0, 0, 0, 0, 0, 0, 0, 0⟩) [0x3FC00000, 0x80000000] [0x40000000, 0]
    = some (105, .spec 3 (lanes [0x40600000, 0])) := by decide +kernel
/-- The worked example "compare, then select": lane 1 alone is below +0; -0 is not, and neither is the NaN. -/
theorem test_vcmp_lt : vOf (.vcmp ⟨0x5A, 1, 0x3A, 0, 4, 0, 0, 0, 0, 0, 2⟩)
    [0x3FC00000, 0xC0000000, 0x80000000, 0x7FC00000, 0x3F800000] [] = some (105, .spec 0x5A 2) := by decide +kernel
theorem test_vsel : vOf (.vsel ⟨2, 0x3A, 1, 0, 0, 0, 0, 2, 0, 0, 0⟩) [0x3FC00000, 0xC0000000, 0x80000000, 0x7FC00000] [] { k := [(2, 2)] }
    = some (103, .spec 2 (lanes [0x3FC00000, 0, 0x80000000, 0x7FC00000])) := by decide +kernel
/-- R190: tiles 3, 4, 9, 17 and 30 are kept, in order. -/
theorem test_vcompact : let half (v : List Nat) : Rank := BitVec.ofNat 512 (v.foldr (fun e n => n * 2 ^ 16 + e) 0)
    after (.vcompact ⟨5, 4, 0x3A, 0, 0, 4, 0, 2, 0, 0, 0⟩) (onSlice { q := [(4, [half (List.range 32)])], k := [(2, BitVec.ofNat 128 (2 ^ 3 + 2 ^ 4 + 2 ^ 9 + 2 ^ 17 + 2 ^ 30))] })
      (fun t => (lastOwed t).map Prod.snd == some (.spec 5 (half [3, 4, 9, 17, 30]))) = true := by decide +kernel
/-- R182: the example setting makes lane l receive bank 15 - l. -/
theorem test_benes_reverses : benesRank 0xFFFFFFFF000000 (lanes (List.range 16)).toNat = (lanes (List.range 16).reverse).toNat := by decide +kernel
/-- R52: the worked BQ4 block, as its twelve bytes and its flags. -/
def bq4 : Nat × Nat := StateT.run (m := Id) (bqEncode 1 4 false [.fin false 3 0, .fin true 3 (-1), .fin false 1 (-2), .fin false 1 (-1), .fin false 7 0,
  .fin false 31 (-2), .fin false 0 0, .fin true 0 0, .fin false 1 0, .fin false 5 (-2), .fin true 2 0, .fin false 3 (-3), .fin false 10 0, .fin true 12 0,
  .fin false 1 (-3), .fin false 1 (-4)]) 0
theorem test_bq4_block : bq4 = (0x0038A0D0428010708266BB82, flagIX) := by decide +kernel
/-- R57: GMUL of (3, 4) and (2, 1) under the covariance modes 00, 01 and 10 gives (6, 29), (8, 57) and (4, 9). -/
def gmul (mode : Nat) : Option Nat :=
  match exec (.gmul ⟨0x33, 0x31, 0x32, 0, 0, 0, 0, 0, 0, 0, 0⟩) (withTab { cov := BitVec.ofNat 3 mode }
      (onSlice { m := [(1, 0x4080000040400000), (2, 0x3F80000040000000)] })) with
  | .next t => match lastOwed t with | some (_, .mom 3 v) => some (v.toNat % 2 ^ 64) | _ => none
  | _ => none
theorem test_gmul_independent : gmul 0 = some 0x41E8000040C00000 := by decide +kernel
theorem test_gmul_anticorrelated : gmul 2 = some 0x4110000040800000 := by decide +kernel
/-- R129, R130: targets count 8-byte words from the bundle. -/
theorem test_br_back : after (.br ⟨0, 0, -5⟩) (onDie {}) (fun t => t.die.pc == 0xFD8 && t.here.traps == []) = true := by decide +kernel
theorem test_bne_not_taken : after (.bne ⟨1, 2, -5⟩) (onDie { pc := 0x1010 }) (fun t => t.die.pc == 0x1010) = true := by decide +kernel
theorem test_bltu_unsigned : after (.bltu ⟨1, 2, 3⟩) (onDie { pc := 0x1010, x := [(1, 1), (2, 0xFFFFFFFFFFFFFFFF)] }) (fun t => t.die.pc == 0x1018) = true := by decide +kernel
/-- R131: `LOOP lc1, 3` of two words with its last bundle 2 words on. -/
theorem test_loop_starts : after (.loop ⟨1, 0, 3, 4⟩) (onDie {}) (fun t =>
    (t.die.tab.level 1).live && (t.die.tab.level 1).count == 3 && (t.die.tab.level 1).start == 0x1010 && (t.die.tab.level 1).index == 0) = true := by decide +kernel
/-- R81: the privileged registers trap in U with cause 0x04. -/
theorem test_cfgw_of_trap_register_in_U : after (.cfgw ⟨0, 1, 0x020, 0⟩) (onDie {}) (fun t => t.here.traps.map (fun e => e.code) == [4]) = true := by decide +kernel
/-- R177, and the list length of the example of R190. -/
theorem test_kop_count : vOf (.kop ⟨6, 0x5A, 0x3A, 0, 0, 0, 0, 0, 0, 0, 7⟩) [] [] { k := [(2, BitVec.ofNat 128 (2 ^ 3 + 2 ^ 4 + 2 ^ 9 + 2 ^ 17 + 2 ^ 30))] }
    = some (102, .spec 6 (lanes [5])) := by decide +kernel

/-! ### Witnesses: for every clause with hypotheses, a state and operands that meet them -/

theorem wit_StepKeepsSafe : State.reset.Safe ∧ ∃ t, step State.reset = .next t := ⟨by unfold State.Safe; decide, _, rfl⟩

theorem wit_StepRunsTheHead :
    ({ State.reset with agenda := [⟨0, {}, .snop ⟨0, 0, 0, 0⟩⟩] } : State).agenda = [⟨0, {}, .snop ⟨0, 0, 0, 0⟩⟩]
    ∧ State.reset.cur.fl.logs = [] ∧ decodeTableWord 128 (0x80918A0000000000 * 2 ^ 64 + 0x8000000000000000) = some (.add ⟨4, 12, 10, 0⟩) := by
  decide

/-- A die whose next bundle, at 0x1000, is one SNOP; one whose next bundle is a delay of 3; one whose V0 syllable is undefined. -/
def issuing (bytes : List Byte) : State :=
  mk { acc := 5, dies := [(0, { pc := 0x1000, next := 5 })] } { runner with text := [(0x1000, bytes)] }
def oneSnop : List Byte := [0, 0, 0, 0, 0, 0, 0, 0x80, 0, 0, 0, 0, 0, 0, 0, 0x80]
def oneDelay : List Byte := [0, 0, 0, 0, 0, 0x0C, 0, 0]
def badV : List Byte := [0, 0, 0, 0, 0, 0, 0, 0x40, 0, 0, 0, 0, 0, 0, 0, 0xFF]

theorem wit_IssueDecodesTheBundle : ∀ b ∈ [oneSnop, oneDelay, badV], let s := issuing b
    (s.part 0).running = some 1 ∧ (s.ctx 1).state = .running ∧ (s.core 1).dueBundle 0 = some 0x1000 ∧ (s.core 1).handler = false
    ∧ ((s.core 1).die 0).tab.padded = false ∧ (s.group 1 0).v = true
    ∧ ((s.fetchBundle 1 0x1000).findings (s.ctx 1) = [] ↔ b ≠ badV) := by decide +kernel

/-- A die in REVERSE with its next record at LOGPTR - 32, and bytes of that record in HBM. -/
def reversing (mark : Nat) (l : List Host.Cell) : State :=
  { mk { acc := 100, dies := [(0, { logptr := 64, rev := some ⟨0x1000, 16, mark, 100, 2, false⟩ })] } with hbm := l }

theorem wit_IssueOfAdjointBundles_last : let s := reversing 0 []
    (s.part 0).running = some 1 ∧ (s.ctx 1).state = .running ∧ s.cur.fl.inv = none ∧ (s.core 1).handler = false
    ∧ ((s.core 1).die 0).rev = some ⟨0x1000, 16, 0, 100, 2, false⟩ ∧ (s.core 1).acc.toNat = 100 ∧ bitsOf (s.revRecord 1 0).toNat 192 42 = 0
    ∧ bitsOf (s.revRecord 1 0).toNat 88 3 + 1 ≤ 5 ∧ decodeSlot 1 (dw (bitsOf (s.revRecord 1 0).toNat 0 64)) = .ok (.vnop ⟨0, 0, 0, 0, 0, 0, 0, 0, 0, 0, 0⟩) := by
  decide +kernel

theorem wit_IssueOfAdjointBundles_turn : ((reversing 0 []).onRow 1 0 0 0).turn ⟨.vnop ⟨0, 0, 0, 0, 0, 0, 0, 0, 0, 0, 0⟩, 0, 0⟩ 16 :=
  ⟨by decide, rfl⟩
theorem wit_IssueOfAdjointBundles_more : bitsOf ((reversing 0 [(56, 32)]).revRecord 1 0).toNat 192 42 = 32 := by decide +kernel
theorem wit_IssueOfAdjointBundles_below : bitsOf ((reversing 32 []).revRecord 1 0).toNat 192 42 < 32 := by decide +kernel

theorem wit_IssueOfAdjointBundles_undecodable : let r := ((reversing 0 [(39, 0x7F)]).revRecord 1 0).toNat
    ∀ i, bitsOf r 88 3 + 1 ≤ 5 → decodeSlot (bitsOf r 88 3 + 1) (dw (bitsOf r 0 64)) ≠ .ok i := by
  intro r i _ h
  have e : decodeSlot (bitsOf r 88 3 + 1) (dw (bitsOf r 0 64)) = .error .opcode := by decide +kernel
  rw [e] at h; cases h

theorem wit_IssueOfAdjointBundles_slice : ({ mk {} with cur := { here with fl := { flight with inv := some (0, 0) } } } : State).cur.fl.inv = some (0, 0) := by
  decide

theorem wit_DecodeOfEncode : ∀ p ∈ ([(0, .sel ⟨31, 31, 31, 31⟩), (2, .vfma ⟨127, 127, 127, 127, 7, 15, 15, 7, 7, 3, 0⟩), (5, .rmw ⟨127, 15, 7, 65535, 127, 7, 2047, 3⟩)] :
    List (Nat × Instr)), p.2.wf = true ∧ p.1 ∈ p.2.slots := by decide

theorem wit_EncodeOfDecode : decodeSlot 0 0x801A000000000000 = .error .field ∧ decodeSlot 5 0x8000000000000000 = .ok (.cnop ⟨0, 0, 0, 0, 0, 0, 0, 0⟩) := by decide

theorem wit_Immediates : (⟨1, 2, 63⟩ : SI).imm.toNat < 64 := by decide

theorem wit_Loads : smemFits 0x3FFF8 8 ∧ (onDie {}).cur.row = 0 ∧ (((onDie { x := [(2, 0x3FFF8)] }).xreg 2).toNat + (0 : BitVec 45).toInt) % 2 ^ 64 = 0x3FFF8
    ∧ (atRow (onDie { smemBad := [1] }) 1 8).cur.row ≠ 0
    ∧ ∀ w ∈ (atRow (onDie { smemBad := [1] }) 1 8).die.smemBad, 4 * w + 4 ≤ 8 / 4 * 4 ∨ 8 + 8 ≤ 4 * w := by
  unfold smemFits; decide

theorem wit_Stores : smemFits 0x2FFFF 1 ∧ (onDie {}).die.inS = false ∧ smemFits 0x3FFF8 8 ∧ (onDie { inS := true }).die.inS = true := by
  unfold smemFits; decide

theorem wit_Branches : ¬(onDie {}).EndsBody ∧ (withTab endsHere (onDie {})).EndsBody ∧ (onDie { x := [(1, 5)] }).xreg 1 ≠ (onDie {}).xreg 0 := by
  refine ⟨?_, ⟨2, by decide⟩, by decide⟩
  rintro ⟨l, hl, h, -⟩; interval_cases l <;> exact absurd h (by decide)

theorem wit_CallsAndReturns : let s := onDie { link := List.replicate 15 0x2000 }
    s.die.link.length < 16 ∧ s.die.link = 0x2000 :: List.replicate 14 0x2000 ∧ (onDie { link := List.replicate 16 0 }).die.link.length = 16
    ∧ (onDie {}).die.link = [] ∧ ((onDie { x := [(1, 0xFFFFFFFFFFFF8)] }).xreg 1).toNat % 8 = 0
    ∧ ((onDie { x := [(1, 0xFFFFFFFFFFFF8)] }).xreg 1).toNat < 2 ^ 52 ∧ ((onDie { x := [(1, 2 ^ 52)] }).xreg 1).toNat ≥ 2 ^ 52
    ∧ ((onDie { x := [(1, 4)] }).xreg 1).toNat % 8 ≠ 0 := by decide

theorem wit_CallsAndReturns_handler : (¬(onDie {}).EndsBody) ∧ (withTab endsHere (onDie {})).EndsBody ∧ (onDie {}).cur.fl.hnd = false := ⟨wit_Branches.1, wit_Branches.2.1, rfl⟩

/-- A padded pass of level 0. -/
def padded : Tables := { lc := [(0, { count := 1, bound := 4, index := 2, start := 0x900, stop := 0x1100, live := true })] }

theorem wit_LoopsStart : let f : SL := ⟨7, 1, 9, 2⟩
    ((onDie {}).tab.level 7).live = false ∧ ¬(onDie {}).EndsBody ∧ (onDie {}).cur.fl.len ≤ 8 * f.endOff.toNat
    ∧ (0 < ((onDie { x := [(1, 2 ^ 32 - 1)] }).xreg f.xa).toNat ∧ ((onDie { x := [(1, 2 ^ 32 - 1)] }).xreg f.xa).toNat < 2 ^ 32)
    ∧ ((onDie {}).xreg f.xa).toNat = 0 ∧ (withTab padded (onDie {})).InPaddedPass ∧ ¬(onDie {}).InPaddedPass
    ∧ ((withTab padded (onDie {})).tab.level 7).live = false ∧ ((onDie { x := [(1, 9)] }).xreg f.xa).toNat ≤ f.cnt.toNat
    ∧ (onDie { x := [(1, 0x100)], smem := [(0x104, 9)] }).rowSpan 0x100 ≤ f.cnt.toNat := by
  refine ⟨by decide, wit_Branches.1, by decide, by decide, by decide, ⟨0, by decide⟩, ?_, by decide, by decide, by decide⟩
  rintro ⟨l, hl, h, -⟩; interval_cases l <;> exact absurd h (by decide)

theorem wit_MemoryAndLoopTraps : ¬smemFits 0x3FFFC 8 ∧ ¬smemFits 0x40000 8 ∧ (atRow (onDie { smemBad := [2] }) 1 8).cur.X / 4 ∈ (onDie { smemBad := [2] }).die.smemBad
    ∧ (0x30000 ≤ 0x3FFFF ∧ 0x3FFFF < 0x40000) ∧ ((withTab endsHere (onDie {})).tab.level 2).live = true
    ∧ 8 * (⟨7, 1, 9, 1⟩ : SL).endOff.toNat < (onDie {}).cur.fl.len ∧ ((onDie { x := [(1, 2 ^ 32)] }).xreg 1).toNat ≥ 2 ^ 32
    ∧ ((onDie { x := [(1, 10)] }).xreg 1).toNat > (⟨7, 1, 9, 2⟩ : SL).cnt.toNat ∧ 0x3FFFC % 4 = 0 ∧ ¬(0x3FFFC + 4 < 0x40000)
    ∧ (onDie { x := [(1, 0x100)], smem := [(0x104, 10)] }).rowSpan 0x100 > (⟨7, 1, 9, 2⟩ : SL).cnt.toNat := by
  unfold smemFits; decide

theorem wit_LoopEndEvent : endsHere.innermost = some 2 ∧ (endsHere.level 2).stop = 0x1000 ∧ (endsHere.level 2).index + 1 < (endsHere.level 2).count
    ∧ (padded.innermost = some 0 ∧ (padded.level 0).stop ≠ 0x1000) := by decide

theorem wit_TableWrites : (⟨15, 1, 0x20, 0⟩ : SC).xd.toNat < 16 ∧ (⟨16, 1, 0, 0⟩ : SC).xd.toNat ≥ 16 ∧ (⟨7, 0, 0, 0⟩ : SC).xd.toNat < 8
    ∧ (⟨3, 1, 0, 0⟩ : SC).xd.toNat < 4 ∧ ((onDie { x := [(1, 0x3FFE0)] }).xreg 1).toNat % 32 = 0 ∧ (0x3FF78 % 8 = 0 ∧ 0x3FF78 + 136 ≤ 0x40000)
    ∧ ((onDie { smem := [(0x3FF78, 15)] }).die.smemByte 0x3FF78).toNat % 32 ≤ 15 ∧ ¬((onDie { smem := [(0x3FF78, 16)] }).die.smemByte 0x3FF78).toNat % 32 ≤ 15 := by
  decide

theorem wit_TableReads : (⟨1, 15, 2, 0⟩ : SC).xa.toNat < 16 ∧ (⟨1, 7, 0x13, 0⟩ : SC).xa.toNat < 8 ∧ (⟨1, 16, 2, 0⟩ : SC).xa.toNat ≥ 16
    ∧ (⟨1, 8, 0x10, 0⟩ : SC).xa.toNat ≥ 8 ∧ (⟨1, 0, 0x3BF, 0⟩ : SC).csr.toNat / 64 % 2 = 0 ∧ (⟨0, 1, 0x40, 0⟩ : SC).csr.toNat / 64 % 2 = 1
    ∧ smemFits 0x2FFC0 64 ∧ ¬smemFits 0x2FFE0 64 := by unfold smemFits; decide

theorem wit_CfgrReads : (⟨1, 0, 0x13F, 0⟩ : SC).csr.toNat ∈ csrListed ∧ (0x13F, (0 : DWord)) ∈ (onDie {}).csrTable ∧ 0x67 ∈ csrOfS
    ∧ (onDie {}).die.inS = false ∧ 0x140 ∉ csrListed ∧ (⟨1, 0, 0x15, 0⟩ : SC).csr.toNat = 0x15 ∧ (⟨1, 0, 0x13, 0⟩ : SC).csr.toNat = 0x13 := by decide

/-- A replay entry of a reading at the running boundary. -/
def reading : ReplayEntry := ⟨100, 3, 0, leBytes 8 0x40 ++ leBytes 8 99, []⟩

theorem wit_WallReadings : let s := onDie {}
    let r := mk (dieCore {}) { runner with replaying := true, replayLog := [reading] }
    let e := mk (dieCore {}) { runner with replaying := true }
    ((s.ctx 1).Plain ∧ s.Untraced 0) ∧ ((r.ctx 1).replaying = true ∧ r.Untraced 0 ∧ r.cur.fl.hnd = false ∧ r.Logged 0x40 reading ∧ ∀ k, r.Logged 0x40 k → k = reading)
    ∧ ((e.ctx 1).replaying = true ∧ e.here.now ≤ e.cur.fl.T ∧ ∀ l, ¬e.Logged 0x40 l) := by
  refine ⟨⟨⟨rfl, rfl⟩, rfl⟩, ⟨rfl, rfl, rfl, ⟨List.mem_singleton.mpr rfl, rfl, rfl, rfl, by decide⟩, fun k h => List.mem_singleton.mp h.1⟩, rfl, by decide, ?_⟩
  rintro l ⟨h, -⟩; cases h

theorem wit_WallReadings_recorded : let s := mk (dieCore {}) { runner with recording := true } { part0 with make := { part0.make with replayLen := 64 } }
    (s.ctx 1).recording = true ∧ (s.ctx 1).replaying = false
    ∧ (([⟨100, 3, 0, leBytes 8 0x40 ++ leBytes 8 7, []⟩] : List ReplayEntry).map ReplayEntry.bytes).flatten.length ≤ (s.part 0).make.replayLen := by
  decide
theorem wit_WallReadings_traced : let s : State := { mk (dieCore {}) runner { part0 with make := { part0.make with traceLen := 64 } } with hw := [(0, { trKinds := 0x100 })] }
    (s.ctx 1).Plain ∧ ¬s.Untraced 0 ∧ 32 * (s.part 0).traceAt + 32 ≤ (s.part 0).make.traceLen :=
  ⟨⟨rfl, rfl⟩, fun h => absurd h (by unfold State.Untraced; decide), by decide⟩

theorem wit_CfgwWrites : (0x14 ∈ csrListed ∧ 0x14 ∉ csrFixed) ∧ (0x25 ∈ csrOfS ∧ (onDie { inS := true }).die.inS = true)
    ∧ (0x40 ∈ csrFixed ∧ (onDie {}).cfgwTakes ⟨0, 0, 0x25, 7⟩ = 7) ∧ (onDie {}).die.inS = false := by decide

theorem wit_TrapsAndReturn : (let s := { onDie { skip := true } with hub := { debugOpen := true, brkStops := true } }
      s.die.skip = true ∧ s.hub.debugOpen = true ∧ s.hub.brkStops = true) ∧ (onDie {}).die.skip = false ∧ (onDie { inS := true }).die.inS = true
    ∧ ((onDie {}).dieHw 0).trKinds.getLsbD 7 = false := by decide

theorem wit_SyncForms_arrivals : swTarget 0 = 0 ∧ 0 < swTarget (swMake 5 7 0 0) ∧ swCount (swMake 5 7 0 0) = 7 := by decide

theorem wit_SyncForms : namesSync 0x3FFF0 ∧ ¬namesSync 0x40000 ∧ ¬namesSync 0x30008
    ∧ (let s := onDie { smem := [(0x30008, 2)] }; s.passed 0x30000 1 = 1 ∧ s.passed 0x30000 0 = 2 ∧ s.passed 0x30000 2 = 0 ∧ 2 ^ 31 ≤ s.passed 0x30000 3)
    ∧ ((onDie { x := [(2, 2 ^ 32)] }).xreg 2).toNat ≥ 2 ^ 32 := by unfold namesSync; decide

/-- A context with two bank-mask sets: set 1 has block 0 of slice 0. -/
def twoSets : Context := { runner with header := BitVec.ofNat 2048 (2 ^ 52), sets := [(0, []), (0, [(0, 1)])] }

theorem wit_BankSets : (mk {} twoSets).OwnsSet 0 ∧ ¬(mk {} twoSets).OwnsSet 1 ∧ 1 < ((mk {} twoSets).ctx 1).nsets ∧ ¬2 < ((mk {} twoSets).ctx 1).nsets
    ∧ (mk { acquired := 3 } twoSets).here.acquired.getLsbD 1 = true ∧ (mk {} twoSets).here.acquired.getLsbD 1 = false := by
  refine ⟨⟨?_, ?_⟩, ?_, by decide +kernel, by decide +kernel, by decide, by decide⟩
  · intro e he; cases (he : e ∈ ([] : List (Nat × BitVec 128)))
  · intro i hi; exact Bool.noConfusion ((BitVec.getLsbD_zero (w := 8) (i := i)).symm.trans hi)
  · intro h; exact absurd (h.1 (0, 1) (by decide) 0 (by decide)) (by decide)

/-- A legal COLL descriptor on group 0: chunks of 4 KiB, one element of type 0. -/
def descriptor : SMap Byte := [(4, 12), (24, 1)]

theorem wit_CollAndAlign : let s := onDie { smem := descriptor }
    smemFits 0 64 ∧ (onDie {}).Untraced 0 ∧ (mk {}).ctx 1 = runner ∧ runner.Plain ∧ namesSync 0x30000 ∧ s.CollLegal (12 * 2 ^ 32 + 2 ^ 192) ∧ s.die.smemRead 0 64 = 12 * 2 ^ 32 + 2 ^ 192
    ∧ ¬(onDie {}).CollLegal 0 ∧ ((onDie {}).xreg 1).toNat ≤ (onDie {}).hub.wac.toNat
    ∧ (onDie {}).hub.wac.toNat < ((onDie { x := [(1, 1)] }).xreg 1).toNat := by
  refine ⟨⟨by decide, by decide⟩, rfl, rfl, ⟨rfl, rfl⟩, ⟨by decide, by decide, by decide⟩, ?_, by decide +kernel, ?_, by decide, by decide⟩
  · refine ⟨by decide, by decide, by decide, by decide, by decide, by decide, by decide, by decide, by decide, by decide, by decide, by decide,
      by decide, rfl, by decide⟩
  · rintro ⟨-, -, -, -, -, -, h, -⟩; exact absurd h (by decide)

/-- A cached leaf for page 1: R and W. -/
def cachedLeaf (leaf : BitVec 64) : State := { onDie {} with hw := [(0, { dtlb := [⟨0x10000, 0, 0, leaf, false⟩] })] }

theorem wit_Handles : ((cachedLeaf 7).cached 0x1FFFF = some ⟨0x10000, 0, 0, 7, false⟩ ∧ pteBit 7 10 = false ∧ leafGrants 7 3 = true)
    ∧ ((cachedLeaf 0x407).cached 0x10000 = some ⟨0x10000, 0, 0, 0x407, false⟩ ∧ pteBit 0x407 10 = true)
    ∧ ((cachedLeaf 3).cached 0x10000 = some ⟨0x10000, 0, 0, 3, false⟩ ∧ leafGrants 3 2 = false) ∧ (onDie {}).cached 0x10000 = none
    ∧ ((⟨15, 1, 0, 3⟩ : SC).xd.toNat < 16 ∧ (⟨15, 1, 0, 3⟩ : SC).imm.toNat % 4 ≠ 0 ∧ ((onDie { x := [(1, 2 ^ 52 - 1)] }).xreg 1).toNat < 2 ^ 52)
    ∧ ¬((onDie { x := [(1, 2 ^ 52)] }).xreg 1).toNat < 2 ^ 52 ∧ (⟨1, 16, 0, 0⟩ : SC).xa.toNat ≥ 16 ∧ (⟨1, 15, 2, 0⟩ : SC).csr.toNat = 2 := by decide +kernel

theorem wit_DifferentiationModes : (⟨0, 0, 0, 3⟩ : SC).imm.toNat % 4 = 3 ∧ (onDie {}).die.recEnd ≤ (onDie {}).cur.fl.T + 2 ∧ (onDie {}).NoParkedTape
    ∧ (withTab { amode := 2 } (onDie {})).tab.amode = 2 ∧ ¬(onDie { recEnd := 103 }).die.recEnd ≤ (onDie {}).cur.fl.T + 2 := by
  refine ⟨by decide, by decide, ?_, by decide, by decide⟩
  intro h hh; cases hh

theorem wit_RegionsAndReverse : (⟨15, 1, 0, 0⟩ : SC).xd.toNat < 16 ∧ smemFits 0x3FFE0 32 ∧ (onDie {}).tab.drBad 15 0 = false ∧ ¬smemFits 0x40000 32
    ∧ (let s := withTab { amode := 2 } (onDie { logptr := 64, x := [(1, 32), (2, 64)] })
       s.tab.amode = 2 ∧ (s.xreg 1).toNat % 32 = 0 ∧ (s.die.logbase &&& 0x3FFFFFFFFE0).toNat ≤ (s.xreg 1).toNat ∧ (s.xreg 1).toNat < s.die.logptr.toNat
        ∧ (s.xreg 2).toNat = s.die.logptr.toNat) := by unfold smemFits; decide +kernel

theorem wit_RankSources : let s := onSlice { q := [(3, [9, 8])], tl := (102, 5) }
    SMap.get [] s.slice.q 3 = [9, 8] ∧ SMap.get [] s.slice.q 15 = [] ∧ s.slice.tl.1 = 102 ∧ (0x10 ≤ 0x2F ∧ 0x2F < 0x30)
    ∧ (0x54 ≤ 0x57 ∧ 0x57 < 0x58) ∧ (0x58 < 0x5F ∧ 0x5F < 0x60) := by decide +kernel

theorem wit_VectorForms : (⟨0, 0x3A, 0x3A, 0, 0, 3, 0, 0, 0, 0, 0⟩ : VF).dst.toNat ≠ 0x3A := by decide
theorem wit_IntegerElements : ∀ n ∈ [3, 8], (onSlice {}).vType ⟨0, 0x3A, 0x3A, 0, 0, BitVec.ofNat 4 n, 0, 0, 0, 0, 0⟩ = n := by decide
theorem wit_BitwiseAndMoves : specM (⟨0, 0x3A, 0x3A, 0, 0, 3, 0, 0, 0, 0, 0⟩ : VF).a.toNat = false := by decide
/-- A V syllable of a type that reads the zero rank, with an immediate. -/
def vForm (ty : BitVec 4) (imm : BitVec 8 := 0) : VF := ⟨0, 0x3A, 0x3A, 0, 0, ty, 0, 0, 0, 0, imm⟩
theorem wit_BitwiseAndMoves_blocks : (onSlice {}).vType (vForm 9 2) = 9 ∧ (vForm 9 2).imm.toNat % 8 < 3 ∧ (onSlice {}).vType (vForm 10 4) = 10
    ∧ (vForm 10 4).imm.toNat % 8 < 5 ∧ (onSlice {}).vType (vForm 11 7) = 11 ∧ (vForm 11 7).imm.toNat % 8 < 8
    ∧ (withTab { flush := 0x20 } (onSlice {})).tab.flush.getLsbD 5 = true ∧ (onSlice {}).tab.flush.getLsbD 5 = false := by decide +kernel
theorem wit_BitwiseAndMoves_finite : (∀ x ∈ (onSlice {}).packed (vForm 9 2), x = .fin false 0 (-149))
    ∧ .inf false ∈ (onSlice { q := [(0, [0x7F800000])] }).packed { vForm 9 2 with a := 0 } := by decide +kernel
theorem wit_BitwiseAndMoves_under (rm : Nat) (e : Int) (k : ℚ) : |roundQ rm (numRat (.fin false 0 e) / k)| ≤ 2 ^ 7 - 1 := by
  simp [numRat, roundQ]
theorem wit_MasksAndCounts : (onSlice {}).vType (vForm 3 7) = 3 ∧ (vForm 3 7).imm.toNat = 7 ∧ (onSlice {}).vType (vForm 0 5) < 3
    ∧ (∀ k ∈ [0, 1, 2, 3, 4, 5, 6, 7], (vForm 3 (BitVec.ofNat 8 k)).imm.toNat % 8 = k) := by decide
theorem wit_RoundingIsExact_normal : let v := numRat (.fin false 3 0)
    (2 : ℚ) ^ ((-22 : Int) + 23) ≤ |v| ∧ |v| < (2 : ℚ) ^ ((-22 : Int) + 23 + 1) ∧ (2 : ℚ) ^ ((1 : Int) - 127) ≤ |v| := by
  norm_num [numRat]
theorem wit_RoundingIsExact_tiny : let v := numRat (.fin true 1 (-149))
    (-149 : Int) = 1 - 127 - 23 ∧ |v| < (2 : ℚ) ^ ((1 : Int) - 127)
    ∧ (2 : ℚ) ^ ((-172 : Int) + 23) ≤ |v| ∧ |v| < (2 : ℚ) ^ ((-172 : Int) + 23 + 1) := by
  norm_num [numRat, zpow_neg]
theorem wit_RoundingIsExact_over : |(roundQ 1 (numRat (.fin false 1 128) / (2 : ℚ) ^ (105 : Int)) : ℚ) * (2 : ℚ) ^ (105 : Int)| ≥ (2 : ℚ) ^ ((127 : Int) + 1) := by
  have h : numRat (.fin false 1 128) / (2 : ℚ) ^ (105 : Int) = ((8388608 : Int) : ℚ) := by norm_num [numRat]
  rw [h]
  norm_num [roundQ]
theorem wit_FloatingElements : (onSlice {}).vType (vForm 0) < 3 ∧ (onSlice {}).vType (vForm 2) < 3 ∧ isNan32 0x7F800001 = true := by decide +kernel
theorem wit_MomentForms : numFinite (.fin true 3 5) ∧ (Num.fin false 1 0).isZero = false ∧ specM ({ vForm 12 3 with a := 0x37 } : VF).a.toNat = true
    ∧ (vForm 12 3).imm.toNat ≤ 3 := ⟨⟨_, _, _, rfl⟩, rfl, by decide, by decide⟩
theorem wit_RoundingIsExact : (0x7BFF : Nat) < 2 ^ typeWidth 1 ∧ ((layoutOf 1).decode false 0x7BFF).isNan = false := by decide +kernel

theorem wit_MatrixForms : (Instr.mma ⟨0, 0x3A, 0, 0x48, 0, 5, 0, 0, 0, 0, 0⟩) ∈ ((onSlice {}).mForms ⟨0, 0x3A, 0, 0x48, 0, 5, 0, 0, 0, 0, 0⟩).map Prod.fst := by
  simp [State.mForms]
theorem wit_TileMoves : (onSlice {}).tileBytes ⟨0, 0x40, 0, 0, 0, 0, 0, 0, 0, 0, 0⟩ ≤ 64 := by decide
theorem wit_TileMoves_bypass : (⟨0, 0x48, 0, 0, 0, 5, 0, 0, 0, 0, 3⟩ : MF).imm.getLsbD 2 = false ∧ entryType ((onSlice {}).tab.entry 0 0) = 0
    ∧ (onSlice {}).tagOf 0 = false ∧ (onSlice { int := 1 }).tagOf 0 = true ∧ (onSlice {}).cur.row = 0 ∧ bitAt (onSlice {}).cur.aux 0 = false
    ∧ (onSlice {}).mscale ⟨0, 0x48, 0, 0, 0, 5, 0, 0, 0, 0, 3⟩ = 0 := by decide
theorem wit_TileMoves_types : (onSlice {}).mType ⟨0, 0x48, 0, 0, 0, 12, 0, 0, 0, 0, 3⟩ = 12 ∧ (onSlice {}).mType ⟨0, 0x48, 0, 0, 0, 8, 0, 0, 0, 0, 4⟩ ≤ 8 := by decide
theorem wit_FloatingProducts : (onSlice {}).mType ⟨0, 0x3A, 0, 0x48, 0, 2, 0, 0, 0, 0, 0⟩ ≤ 8 ∧ (onSlice {}).cur.s % 2 = 0
    ∧ ({ onSlice {} with cur := { here with s := 1 } } : State).cur.s % 2 = 1 := by decide
theorem wit_IntegerProducts : entryType ((onSlice {}).tab.entry 5 0) = 5 ∧ entryType ((onSlice {}).tab.entry 8 0) = 8
    ∧ (⟨0, 0x3A, 0, 0x48, 0, 5, 0, 0, 0, 0, 0⟩ : MF).ty ≠ 15
    ∧ (let s := withTab { fmt := [(0, 5)] } (onSlice {})
       entryType (s.tab.entry 15 0) = 5 ∧ s.mscale ⟨0, 0x3A, 0, 0x48, 0, 15, 0, 0, 0, 0, 0⟩ = 0) := by decide +kernel
theorem wit_CopyAndBankForms : (onSlice {}).cur.slot ≠ 3 := by decide
theorem wit_BankWords : (onSlice {}).cur.fl.rt = none ∧ (onSlice {}).cur.fl.wt = none := by decide

/-- A write that context 1 owes from die 0, slice 0. -/
def owed1 (d : Dest) : Owed := ⟨5, 101, false, 100, 0, 0, 0, false, false, d, 100⟩
/-- The machine in which it alone is owed. -/
def owing (d : Dest) (l : Slice := {}) : State := mk { acc := 102, dies := [(0, {})], slices := [(0, l)], owed := [owed1 d] }

theorem wit_pays (d : Dest) (l : Slice) : (owing d l).pays (owed1 d) :=
  ⟨List.mem_singleton.mpr rfl, fun _ h _ => List.mem_singleton.mp h, rfl, rfl⟩

theorem wit_WritesOfADie : csrTable.map (fun r => r.1) = [0x10, 0x11, 0x12, 0x14, 0x20, 0x21, 0x22, 0x23, 0x24, 0x25, 0x26, 0x27, 0x31, 0x32,
    0x33, 0x34, 0x35, 0x60, 0x61, 0x62, 0x63, 0x64, 0x65, 0x66, 0x67] ∧ ({ owed1 (.tab (.csr 0x20 1 100)) with hnd := true } : Owed).hnd = true := by
  decide

theorem wit_WritesOfASlice : (SMap.get [] ([(15, [1, 2, 3])] : SMap (List Rank)) 15).length < 4 ∧ (SMap.get [] ([(15, [1, 2, 3, 4])] : SMap (List Rank)) 15).length ≥ 4
    ∧ (64 + 64 ≤ 128) ∧ (let u : RowUpdate := ⟨3, 31, true, true, 1, 0, false, List.replicate 32 .nan, []⟩
        u.isInt = true ∧ u.row < 32 ∧ u.s0.length = 32 ∧ u.s1 = []) ∧ 3 < 4 ∧ ((0x100 : Nat) ≠ 16 * 8191 + 15 ∧ 0x101 ≠ 16 * 8191 + 15) := by decide

theorem wit_WritesOfASlice_float : let u : RowUpdate := ⟨3, 31, false, false, 4, 3, false, List.replicate 32 .nan, List.replicate 32 (.inf true)⟩
    u.isInt = false ∧ u.row < 32 ∧ u.s0.length = 32 ∧ u.s1.length = 32 ∧ u.s1 ≠ [] ∧ u.clamp = false ∧ negVar 0xFF800000 = true := by decide +kernel

/-- A HATOM of context 1 with one pair. -/
def atom (remote : Bool) (got : List (Nat × Word × Bool)) : Hatom :=
  { tag := 3, cid := 1, ctx := here, op := 8, home := 0, pairs := [(0, 64, 1)], fetch := [(0, 17, none)], remote := remote, retry := false, got := got }
/-- The machine with it on its way. -/
def flying (remote : Bool) (known : List Nat) : State :=
  { mk { acc := 502, dies := [(0, {})], hatoms := [atom remote []] } with hub := { performed := known } }
/-- The machine with it at its home. -/
def atHome (h : Hatom) (ended : Bool) : State :=
  { mk { acc := 902, dies := [(0, { dieEnd := ended })] } with hub := { hatoms := [h] } }

theorem wit_MemoryOperations_word : 64 ∉ (owing (.hbm 64 0 0 1 false)).here.homeWords ∧ 64 ∈ (mk { homeWords := [64] }).here.homeWords
    ∧ (owing (.hbm 64 0 0 1 false)).Anew 64 := by
  refine ⟨by decide, by decide, ?_⟩
  intro e he; cases he
theorem wit_MemoryOperations_stands : ¬(mk { acc := 102 } { runner with stands := [(102, 64, [1])] }).Anew 64 := fun h => h _ (List.mem_singleton.mpr rfl) ⟨rfl, rfl⟩
theorem wit_MemoryOperations_home : (flying false []).here.hatom 3 = some (atom false []) ∧ (flying false []).parks (atom false []) = false
    ∧ ((flying true []).here.hatom 3 = some (atom true []) ∧ (flying true []).parks (atom true []) = true ∧ (flying true []).hub.knows 3 = false)
    ∧ (flying true [3]).hub.knows 3 = true := by decide
theorem wit_MemoryOperations_replayed : let h := { atom false [] with withdrawn := true }
    let s := mk { acc := 502, dies := [(0, {})], hatoms := [h] } { runner with replaying := true }
    s.here.hatom 3 = some h ∧ s.parks h = true ∧ s.hub.knows 3 = false ∧ (s.ctx h.cid).replaying = true ∧ h.fetch ≠ [] := by decide
theorem wit_MemoryOperations_replay : (∀ r ∈ [false, true], ((atHome (atom r []) false).hub.hatoms.find? fun x => x.tag == 3 && x.home == 0 && x.got.isEmpty) = some (atom r []))
    ∧ (∀ x ∈ (flying false [3]).hub.hatoms, x.tag ≠ 3) ∧ 3 ∈ (flying false [3]).hub.performed := by decide
theorem wit_MemoryOperations_landing : ∀ e ∈ [false, true], let s := atHome (atom false [(0, 7, false)]) e
    (s.hub.hatoms.find? fun x => x.tag == 3 && x.cid == 1 && !x.got.isEmpty) = some (atom false [(0, 7, false)]) ∧ SMap.has s.cores 1 = true
    ∧ ((s.core 1).die 0).dieEnd = e := by decide
theorem wit_Unrecorded : (mk {}).Unrecorded 1 := ⟨rfl, fun _ => (by decide : ({} : DieHw).trKinds.getLsbD 8 = false)⟩

theorem wit_CycleAndColumns : let s := { mk { acc := 5, dies := [(0, { pc := 0x1000, next := 5 })] } { runner with text := [(0x1000, oneSnop)], quantumOut := true } with cur := {} }
    s.agenda = [] ∧ s.inputs = [] ∧ s.hub.powered = true ∧ s.parts.map Prod.fst = [0] ∧ ((s.part 0).running = some 1 ∧ (s.ctx 1).state = .running)
    ∧ (s.ctx 1).kernel = .running ∧ (s.ctx 1).canopy ≠ 0 ∧ (s.ctx 1).replaying = false ∧ (s.core 1).forming = [] ∧ s.cur.row = 0
    ∧ s.linkDue = none ∧ s.dispatcher 0 = none ∧ (s.core 1).dueBundle 0 = some 0x1000 := by decide +kernel
theorem wit_CycleAndColumns_adjoint : let s := reversing 0 []
    s.cur.fl.inv = none ∧ ((s.core 1).die 0).rev ≠ none ∧ (s.core 1).dueAdjoint 0 = true := by decide

/-- The machine at a phase of its boundary. -/
def phaseOf (row : Nat) (c : Core) : State := atRow (mk c) row 0

theorem wit_Crossing : ∀ h ∈ [false, true], (phaseOf 1 { handler := h }).runs 0 1 ∧ (phaseOf 1 { handler := h }).cur.row = 1 ∧ (phaseOf 1 { handler := h }).here.handler = h := by
  unfold State.runs; decide

/-- A trap of the bundle issued at T = 100. -/
def trap0 (h : Bool) : Trap := ⟨100, 3, 0, 0, none, 0, false, false, 0, 0, h⟩
/-- A core that found it, with the boundary before it kept. -/
def trapped (vec : DWord) (h : Bool) : State :=
  phaseOf 2 { acc := 101, handler := h, traps := [trap0 h], dies := [(0, { tvec := vec })] }

theorem wit_TrapsAreTaken_found : (trapped 0x2000 false).runs 0 1 ∧ (trapped 0x2000 false).cur.row = 2 ∧ (trapped 0x2000 false).here.foundTraps ≠ []
    ∧ (trapped 0x2000 true).here.foundTraps ≠ [] ∧ (trapped 0x2000 true).here.handler = true ∧ (trapped 0 false).here.handler = false := by
  unfold State.runs; decide +kernel
theorem wit_TrapsAreTaken_vector : ((((trapped 0x2000 false).rewind 1 100).core 1).die 0).tvec ≠ 0 ∧ ((((trapped 0x2000 false).rewind 1 100).core 1).die 0).rev = none
    ∧ ((((trapped 0 false).rewind 1 100).core 1).die 0).tvec = 0 := by decide +kernel
/-- A load of a handler that has still to sample. -/
def lateLoad : Task := ⟨3, { here with fl := { flight with hnd := true } }, .ldd ⟨1, 2, 0⟩⟩
/-- A step of a slice syllable of a handler. -/
def tried : Task := { lateLoad with ctx := { lateLoad.ctx with slot := 4 } }
/-- A write that a handler owes. -/
def lateWrite : Owed := { owed1 (.x 3 7) with hnd := true }
theorem wit_TrapsAreTaken_settles : let s := fun (h inS : Bool) (l : List Task) => phaseOf 2 { handler := h, dies := [(0, { inS := inS })], tasks := l }
    let inHandler := fun (s : State) => ∃ d ∈ s.diesOf 0, (s.here.die d).inS = true ∧ (s.here.die d).ended = none
    (∀ h ∈ [false, true], (s h false []).here.foundTraps = [] ∧ ¬inHandler (s h false []) ∧ ¬∃ e ∈ (s h false []).here.tasks, e.ctx.fl.hnd = true)
    ∧ ((s true true []).here.foundTraps = [] ∧ inHandler (s true true []))
    ∧ ((s true false [lateLoad]).here.foundTraps = [] ∧ ¬inHandler (s true false [lateLoad]) ∧ ∃ e ∈ (s true false [lateLoad]).here.tasks, e.ctx.fl.hnd = true) := by
  decide
theorem wit_Drains : let c (ts : List Task) (os : List Owed) : Core := { handler := true, tasks := ts, owed := os, traps := [trap0 true] }
    (∀ C, ¬(c [lateLoad] []).HandlerOwes (· ≠ 0) C) ∧ ((c [tried] []).HandlerOwes (· ≠ 0) 3 ∧ ∀ k, (c [tried] []).HandlerOwes (· ≠ 0) k → 3 ≤ k)
    ∧ ((c [lateLoad] []).HandlerOwes (fun _ => True) 3 ∧ ∀ k, (c [lateLoad] []).HandlerOwes (fun _ => True) k → 3 ≤ k)
    ∧ ((c [] [lateWrite]).HandlerOwes (fun _ => True) lateWrite.due ∧ ∀ k, (c [] [lateWrite]).HandlerOwes (fun _ => True) k → lateWrite.due ≤ k) := by
  refine ⟨?_, ⟨.inl ⟨_, List.mem_singleton.mpr rfl, rfl, by decide, rfl⟩, ?_⟩, ⟨.inl ⟨_, List.mem_singleton.mpr rfl, rfl, trivial, rfl⟩, ?_⟩,
    ⟨.inr ⟨_, List.mem_singleton.mpr rfl, rfl, trivial, rfl⟩, ?_⟩⟩
  · rintro C (⟨e, he, -, hp, -⟩ | ⟨o, ho, -⟩)
    · cases List.mem_singleton.mp he; exact hp rfl
    · cases ho
  all_goals
    rintro k (⟨e, he, -, -, h⟩ | ⟨o, ho, -, -, h⟩)
    · first | (cases List.mem_singleton.mp he; exact h.le) | cases he
    · first | (cases List.mem_singleton.mp ho; exact h.le) | cases ho
theorem wit_TrapsAreTaken_rewind : let s : State := { mk { acc := 101 } { runner with marks := [(100, { acc := 100, seen := 1 })], applied := [(0, .shootdown 0 0)], undo := [(101, 8, [1], [2])] } with hbm := [(8, 2)] }
    ((s.ctx 1).marks.find? fun m => m.1 == 100) = some (100, { acc := 100, seen := 1 }) ∧ (s.ctx 1).replayLog = [] ∧ (s.part (s.ctx 1).p).traceAt = 0
    ∧ (∀ e ∈ (s.ctx 1).applied, e.1 < 1) ∧ ((s.rewind 1 100).ctx 1).stands = (s.ctx 1).stands := by decide +kernel
theorem wit_TrapsAreTaken_phases : (phaseOf 3 {}).runs 0 1 ∧ (phaseOf 3 {}).cur.row = 3 ∧ (phaseOf 3 {}).here.handler = false ∧ ((phaseOf 3 {}).ctx 1).stepTo = none
    ∧ (phaseOf 4 { handler := true, dies := [(0, {})] }).runs 0 1
    ∧ SMap.has (phaseOf 4 { handler := true, dies := [(0, {})] }).here.dies 0 = true := by unfold State.runs; decide

/-- The running context under holds. -/
def held (hs : List Hold) : State := mk { acc := 100, dies := [(0, {})] } { runner with state := .held, holds := hs }

theorem wit_Holds_begin : (∀ h ∈ ([⟨10, 0, .debug⟩, ⟨9, 0, .preempt⟩, ⟨6, 7, .bank 1⟩] : List Hold), h.kind < 16 ∧ h.die < 8) ∧ ((held []).ctx 1).p < 8
    ∧ ∀ x ∈ ([.parked, .saved, .restoring, .running] : List CtxState), ((mk {} { runner with state := x }).ctx 1).state = x := by decide
theorem wit_Holds_walk : let w := fun (h : Hold) => h.die == 0 && match h.on with | .walk _ _ _ => true | _ => false
    (held [⟨1, 0, .walk 0x10000 1 (some 3)⟩]).holding 1 ⟨1, 0, .walk 0x10000 1 (some 3)⟩ w ∧ (held []).walk 0 0x10000 = .notMapped
    ∧ ({ held [] with hbm := [(0, 1), (7, 1)] } : State).walk 0 0x10000 = .malformed
    ∧ ((held []).dieHw 0).trKinds.getLsbD 4 = false := by unfold State.holding; decide +kernel
theorem wit_Holds_services :
    (held [⟨2, 0, .imiss [64, 65]⟩]).holding 1 ⟨2, 0, .imiss [64, 65]⟩ (fun h => h.die == 0 && h.kind == 2)
    ∧ (held [⟨3, 0, .late 100⟩]).holding 1 ⟨3, 0, .late 100⟩ (fun h => h.kind == 3)
    ∧ (held [⟨5, 0, .align 0 4⟩]).holding 1 ⟨5, 0, .align 0 4⟩ (fun h => h.die == 0 && h.kind == 5) ∧ 0 ≤ (held []).hub.wac.toNat
    ∧ (mk {} runner { part0 with running := none }).part 0 = { part0 with running := none } ∧ part0.running = some 1 ∧ part0.n ≠ 0 := by unfold State.holding; decide
/-- A HATOM of this cycle that meets a memory-side fault at a home whose queue is full. -/
def crowded (n : Nat) : State :=
  { mk { acc := 502, hatoms := [{ atom false [] with retry := true }] } { runner with state := .held, holds := [⟨3, 0, .late 100⟩] } with
    hub := { homes := [(0, List.range n)] } }
theorem wit_Holds_late : (crowded 64).holding 1 ⟨3, 0, .late 100⟩ (fun h => h.kind == 3) ∧ (crowded 64).homeFull 1 ≠ none
    ∧ (crowded 63).homeFull 1 = none ∧ (crowded 63).lateNow 1 = none := by unfold State.holding; decide +kernel

/-- A page fault that was posted and waits for its answer. -/
def faulted : State :=
  { held [⟨8, 0, .fault 0x10000 1 none 2 5 false⟩] with parts := [(0, { part0 with pf := [⟨5, BitVec.ofNat 256 (2 ^ 65), true⟩] })] }
theorem wit_Holds_answers : (faulted.part 0).openEntry 5 = some ⟨5, BitVec.ofNat 256 (2 ^ 65), true⟩ ∧ (faulted.part 0).openEntry 6 = none
    ∧ ((faulted.ctxs.find? fun y => y.2.p == 0 && y.2.alive && y.2.holds.any (Hold.ofSeq 5)).map Prod.fst) = some 1 := by decide +kernel

/-- Page 0 of partition 0 is mapped at frame 1, with R and W: three levels of tables, all at the same place. -/
def paged (bits : Nat) (m : List Migration) : State :=
  { mk {} { runner with ptbase := 0x20000 } { part0 with make := { part0.make with ptbase := 0x20000, queueArea := 0x50000, faultQueue := 0x60000 } } with
    hbm := [(0x20000, 1), (0x20002, 3), (0x30000, 1), (0x30002, 4), (0x40000, BitVec.ofNat 8 bits), (0x40002, 1)], hub := { barOpen := true, migrations := m } }

theorem wit_Holds_migration : (paged 7 []).walk ((paged 7 []).rootFor 0 0) 0 = .leaf 0x10007 0 0x40000 ∧ (0x10007 : BitVec 64).getLsbD 10 = false
    ∧ (0x10007 : BitVec 64).getLsbD 11 = false ∧ 0x70000 % 2 ^ pageBits 0 = 0 := by decide +kernel
theorem wit_Holds_migrated : let m : Migration := ⟨0, 0, 0x40000, 0x70000⟩
    (paged 7 [m]).Safe ∧ m ∈ (paged 7 [m]).hub.migrations ∧ (paged 7 [m]).walk ((paged 7 [m]).rootFor 0 0) 0 = .leaf 0x10007 0 0x40000 ∧ ((paged 7 [m]).hub.migrations.find? fun m => m.p == 0 && m.va == 0) = some m
    ∧ (paged 7 [m]).frameRests 0 (2 ^ 16) (pteBase 0x10007) = true ∧ (paged 7 [m]).hub.badWords = [] := by unfold State.Safe; decide +kernel

/-- Page 0 is mapped, and a TRANS or a fetch of it is under a walk. -/
def walking (n : Option Nat) : State :=
  { paged 7 [] with ctxs := [(1, { runner with state := .held, ptbase := 0x20000, holds := [⟨1, 0, .walk 0 1 n⟩] })] }
theorem wit_Holds_walked : let w := fun (h : Hold) => h.die == 0 && match h.on with | .walk _ _ _ => true | _ => false
    (∀ n ∈ [none, some 3], (walking n).holding 1 ⟨1, 0, .walk 0 1 n⟩ w ∧ (walking n).walk ((walking n).ctx 1).ptbase 0 = .leaf 0x10007 0 0x40000
      ∧ ((walking n).dieHw 0).trKinds.getLsbD 4 = false ∧ (((walking n).dieHw 0).itlb.filter TlbEntry.pinned).length < 256) := by
  unfold State.holding; decide +kernel
theorem wit_Holds_handle : let s : State := { walking none with cores := [(1, { forming := [⟨118, false, ⟨1, 0, .walk 0 1 (some 3)⟩⟩] })] }
    (s.core 1).forming = [⟨118, false, ⟨1, 0, .walk 0 1 (some 3)⟩⟩] ∧ s.walk (s.ctx 1).ptbase 0 = .leaf 0x10007 0 0x40000 := by decide +kernel

theorem wit_SyncWordsAndMailbox_word : ((mk {}).ctx 1).alive = true ∧ ((mk {}).ctx 1).replaying = false ∧ ((mk {}).ctx 2).alive = false
    ∧ ((mk {} { runner with replaying := true }).ctx 1).replaying = true ∧ (2 ^ 32 : Nat) % 2 ^ 32 = 0 ∧ (1 : Nat) % 2 ^ 32 ≠ 0 := by decide
theorem wit_SyncWordsAndMailbox_mailbox : let s := paged 7 []
    State.reset.hub.barOpen = false ∧ s.hub.barOpen = true ∧ 63 + ([1] : List Byte).length ≤ 64 ∧ 63 + ([1, 2] : List Byte).length > 64
    ∧ s.hostPa 0 0x10000 2 = none ∧ s.hostPa 0 63 2 = some 0x1003F ∧ s.queueAt 0x1003F = none ∧ s.faultBlockAt 0x1003F = none ∧ s.inReplay 0 = false := by
  decide +kernel
theorem wit_SyncWordsAndMailbox_words : (9 = 9 ∧ 16 ≤ 16 + 8 * 1 + 7) ∧ 12 % 4 = 0 ∧ ([1, 2, 3, 4] : List Byte).length = 4 := by decide

/-- Partition 0 with a queue of 2 records: LOG2N, TAIL and HEAD as given, and the dispatcher's copy. -/
def queued (log tail head : Byte) (q : Queue) : State :=
  { mk {} runner { n := 1, make := { part0.make with queueArea := 0x1000 }, queues := [(0, q)] } with
    hbm := ([(0x1008, log), (0x1010, head), (0x1014, tail)] : List Host.Cell).filter fun c => c.2 != 0 }

theorem wit_QueuesAndContexts_tail : (queued 0 0 0 {}).qLog 0 0 = 0 ∧ (queued 1 1 0 {}).qLog 0 0 = 1
    ∧ (let d := fun v => (v % 2 ^ 32 + 2 ^ 32 - (queued 1 1 0 {}).qHead 0 0) % 2 ^ 32
       d 3 > 2 ^ 1 ∧ ¬d 2 > 2 ^ 1 ∧ ((queued 1 1 0 {}).qTail 0 0 + 2 ^ 32 - (queued 1 1 0 {}).qHead 0 0) % 2 ^ 32 > d 0
        ∧ ¬((queued 1 1 0 {}).qTail 0 0 + 2 ^ 32 - (queued 1 1 0 {}).qHead 0 0) % 2 ^ 32 > d 2) := by decide +kernel
theorem wit_QueuesAndContexts_states : ((queued 1 1 0 { state := .errored }).queue 0 0).state = .errored ∧ ((queued 1 1 0 { state := .ready }).queue 0 0).state = .ready
    ∧ ((queued 1 1 0 { state := .suspended }).queue 0 0).state = .suspended ∧ ((queued 1 1 0 { state := .suspended }).queue 0 0).launch = none
    ∧ (let s := queued 1 1 0 { state := .suspended, launch := some 1 }
       (s.queue 0 0).launch = some 1 ∧ (s.ctx 1).alive = true)
    ∧ ((mk {}).part 0).running = some 1 ∧ ((mk {}).ctx 1).quantumOut = false
    ∧ ((mk {}).ctx 1).started + 1000 * recField ((mk {}).ctx 1).launch 288 32 ≤ (mk {}).hub.wac.toNat := by decide +kernel
theorem wit_QueuesAndContexts_age : let s : State := { queued 1 1 0 { state := .ready } with hub := { wac := 50000000 } }
    (s.queue 0 0).state = .ready ∧ s.qRead 0 0 9 1 = 0 ∧ (s.queue 0 0).since + 1000000 * 50 ≤ s.hub.wac.toNat := by decide +kernel
theorem wit_QueuesAndContexts_dispatch : (queued 1 1 0 { state := .ready }).pickQueue 0 = some 0 ∧ ((queued 1 1 0 { state := .ready }).part 0).next = none
    ∧ ((queued 1 1 0 { state := .ready }).queue 0 0).launch = none ∧ ((queued 1 1 0 {}).ctx 9).state = .empty
    ∧ ((queued 1 1 0 { state := .ready, launch := some 1 }).queue 0 0).launch = some 1
    ∧ (queued 1 1 0 { state := .ready, launch := some 1 }).pickQueue 0 = some 0
    ∧ ∀ x ∈ ([.parked, .saved] : List CtxState), ((mk {} { runner with state := x } { part0 with running := none }).part 0).running = none
      ∧ ((mk {} { runner with state := x } { part0 with running := none }).ctx 1).state = x := by decide +kernel

/-- A prologue entry of one word for slice 0, from page 0. -/
def entry0 (stage : Nat) : Prologue := ⟨0, 1, 0, 0, 0, 0, 0, 1, true, 0, stage, 5⟩
/-- A context that loads, with set 0 of block 0 of slice 0. -/
def loading (stage : Nat) : State :=
  { paged 7 [] with
    cores := [(1, { planes := 0 })]
    parts := [(0, { ((paged 7 []).part 0) with running := none, next := some 1 })]
    ctxs := [(1, { runner with state := .loading, kernel := .admitted, ptbase := 0x20000, sets := [(0, [(0, 1)])], prologue := [entry0 stage] })] }

theorem wit_QueuesAndContexts_prologue : ((loading 0).ctx 1).state = .loading ∧ ((loading 0).ctx 1).prologue[0]? = some (entry0 0)
    ∧ ((loading 0).part ((loading 0).ctx 1).p).running = none ∧ ((loading 0).claimSet 1 0 []).prologueOwned 1 (entry0 0) = true
    ∧ (∀ f ∈ ((loading 0).ctx 1).prologue, ¬(f.stage = 1 ∧ f.chan = 5 ∧ f.die = 0)) ∧ ((loading 1).ctx 1).prologue[0]? = some (entry0 1)
    ∧ (entry0 0).after = true ∧ ((loading 0).ctx 5).alive = false ∧ (entry0 1).words ≤ 131072
    ∧ ∀ m ∈ (entry0 1).slices, ∀ k ∈ (entry0 1).ks, ((loading 1).prologueSource 0x20000 (entry0 1) (colOf m) k).isSome = true := by decide +kernel
theorem wit_QueuesAndContexts_start : let s := loading 2
    let c := s.ctx 1
    (s.part c.p).next = some 1 ∧ (s.part c.p).running = none ∧ c.state = .loading ∧ (∀ e ∈ c.prologue, e.stage = 2)
    ∧ (s.claimSet 1 0 []).ownsSet 1 0 = true := by decide +kernel
theorem wit_QueuesAndContexts_storage : ((mk {}).part 0).running = some 1 ∧ ((mk {}).ctx 1).p = 0 ∧ ((mk {}).ctx 1).debugged = false
    ∧ (((held [⟨6, 0, .bank 1⟩]).ctx 1).holds.findSome? fun h => match h.on with | .bank n => some n | _ => none) = some 1
    ∧ (let s := mk {} { runner with state := .restoring } { part0 with running := none, next := some 1 }
       (s.part 0).next = some 1 ∧ (s.part 0).running = none ∧ (s.ctx 1).state = .restoring)
    ∧ ((mk {}).ctx 1).state ∈ [CtxState.running, .held, .frozen] ∧ ((mk {}).part 0).next ≠ some 1 := by decide
theorem wit_QueuesAndContexts_end : ((mk {} { runner with state := .retired }).ctx 1).state = .retired
    ∧ (let s := mk { acc := 276, dies := [(0, { ended := some 100 })] } { runner with kernel := .ending }
       (s.core 1).dieZero (s.ctx 1) 0 = true ∧ (s.core 1).dieDue (s.ctx 1) 0 = true)
    ∧ (let s := mk {} { runner with kernel := .ending, canopy := 0 }
       (s.ctx 1).state = .running ∧ (s.ctx 1).kernel = .ending ∧ (s.ctx 1).canopy = 0 ∧ s.parkedHatom 1 = false) := by decide +kernel

/-- The machine with an open BAR and partition 0. -/
def host (h : Hub) : State := { mk {} with hub := { h with barOpen := true } }

theorem wit_StewardCommands : State.reset.hub.barOpen = false ∧ (host {}).partOf 0 = some 0 ∧ (host {}).partOf 7 = none
    ∧ (0xFFFF0000 % 65536 = 0 ∧ 1 % 65536 ≠ 0) ∧ (0 ∈ (host {}).partsNamed 0xFF ∧ 0 ∈ (host {}).diesOf 0) ∧ (host {}).partsNamed 7 = []
    ∧ ((paged 7 []).partOf 0 = some 0 ∧ (paged 7 []).translate ((paged 7 []).rootFor 0 64) 64 = some (0x10007, 0x10040)) ∧ (3 ≤ 64 + 32 ∧ (64 + 2) % 64 < 3 ∧ 32 < 33 % 64) ∧ bitAt 0x8001 15 = true
    ∧ (∀ e ∈ (host {}).ctxs, (host {}).concerned e.1 0 0x10000 = false) ∧ (paged 7 []).translate ((paged 7 []).rootFor 0 0x10000) 0x10000 = none := by decide +kernel
theorem wit_StewardCommands_poison : (paged 7 []).leavesOf (64 * 1024) = [(0, ⟨0, 0, 0x40000⟩)] ∧ (∀ d, ((paged 7 []).dieHw d).trKinds.getLsbD 3 = false)
    ∧ ((paged 7 []).part ((paged 7 []).ctx 1).p).running = some 1 ∧ ((paged 7 []).ctx 1).state = .running := by
  exact ⟨by decide +kernel, fun _ => (by decide : ({} : DieHw).trKinds.getLsbD 3 = false), by decide, by decide⟩
theorem wit_StewardCommands_takes : (host {}).Takes 8 5 ∧ (host { stat := 1, cmd := 0x50001 }).Takes 1 5 ∧ ¬(host { stat := 1, cmd := 0x50001 }).Takes 2 5 := by
  unfold State.Takes State.busyNow; decide
theorem wit_StewardCommands_cmd : ¬(host {}).busyNow ∧ (host { stat := 1 }).busyNow ∧ ofLeBytes [9, 0, 5, 0] % 256 = 9 ∧ ofLeBytes [8, 0, 5, 0] % 256 = 8
    ∧ ofLeBytes [0, 0, 5, 0] % 256 = 0 ∧ ([8, 0, 5, 0] : List Byte).length = 4 := by unfold State.busyNow; decide
theorem wit_StewardCommands_shootdown : let x : Shootdown := ⟨4, 0x10000, 0x10000, [1], 0⟩
    let s := host { shootdowns := [x] }
    (s.hub.shootdowns.find? fun y => y.id == x.id && y.left.contains 1) = some x ∧ (s.ctx 1).alive = true ∧ (s.ctx 1).replaying = false := by decide
theorem wit_StewardCommands_concerned : (paged 7 []).concerned 1 0 0x10000 = true ∧ SMap.has (paged 7 []).ctxs 1 = true := by decide +kernel
theorem wit_StewardCommands_scrub : SMap.has (mk {}).cores 1 = true ∧ 15 < 16 ∧ 8191 < 8192 ∧ (7 < 8 ∧ 4095 < 4096) ∧ 5 ∉ (mk {}).hub.poison := by decide

/-- Context 1 under a debug stop, with the port open. -/
def stopped : State := { mk { owned := [(0, 1)] } { runner with state := .frozen, holds := [⟨10, 0, .debug⟩] } with hub := { debugOpen := true } }

theorem wit_DebugPort : State.reset.hub.debugOpen = false ∧ stopped.hub.debugOpen = true ∧ (stopped.part 0).running = some 1
    ∧ (stopped.ctx 1).debugged = true ∧ (stopped.ctx 1).recording = false ∧ ((mk {}).ctx 1).debugged = false ∧ (0 ∈ stopped.diesOf 0 ∧ dieOf 511 = 0)
    ∧ (SMap.get 0 (stopped.core 1).owned 0).getLsbD (63 / 64) = true ∧ (SMap.get 0 (stopped.core 1).owned 0).getLsbD (64 / 64) = false
    ∧ (∀ h ∈ ((mk {}).ctx 1).holds, h.kind ≠ 9) ∧ ((mk {}).ctx 1).state ∉ [CtxState.parked, .saved, .restoring]
    ∧ ((mk {}).ctx 1).alive = true ∧ ((mk {}).ctx 1).replaying = false ∧ ({ stopped with hub := { stat := 1 } } : State).busyNow ∧ ¬stopped.busyNow := by
  unfold State.busyNow; decide
theorem wit_DebugPort_marked : let s : State := { stopped with ctxs := stopped.ctxs.map fun e => (e.1, { e.2 with recording := true }) }
    let t : State := { s with parts := s.parts.map fun e => (e.1, { e.2 with make := { e.2.make with replayLen := 4096 } }) }
    (t.ctx 1).recording = true ∧ ∀ e : ReplayEntry, e.payload.length = 16 → (((t.ctx 1).replayLog ++ [e]).map ReplayEntry.bytes).flatten.length ≤ (t.part 0).make.replayLen := by
  refine ⟨by decide, fun e h => ?_⟩
  show (([e].map ReplayEntry.bytes).flatten).length ≤ 4096
  simp [ReplayEntry.bytes, leBytes, h]
/-- A context in replay at ACC 9 whose log has one entry. -/
def replays (cls : Nat) (stop : Option Nat) : State :=
  mk { acc := 9 } { runner with replaying := true, truncated := stop
                                replayLog := if cls = 3 then [] else [⟨9, cls, 0, [], [.hbm 64 [1]]⟩] }
theorem wit_DebugPort_replay : (∀ k ∈ [6, 1], ((replays k none).ctx 1).alive = true ∧ ((replays k none).ctx 1).replaying = true ∧ ((replays k none).core 1).handler = false
      ∧ (((replays k none).ctx 1).replayLog.find? fun e => e.cls != 3) = some ⟨9, k, 0, [], [.hbm 64 [1]]⟩ ∧ ((replays k none).core 1).acc.toNat = 9)
    ∧ (((replays 3 (some 9)).ctx 1).replayLog.find? fun e => e.cls != 3) = none ∧ ((replays 3 (some 9)).ctx 1).truncated = some 9
    ∧ (∀ d, (replays 1 none).Untraced d) := by
  exact ⟨by decide, by decide, by decide, fun _ => (by decide : ({} : DieHw).trKinds.getLsbD 8 = false)⟩
theorem wit_DebugPort_expiry : let s := mk { acc := 9 } { runner with stepTo := some 9 }
    (s.ctx 1).stepTo = some (s.core 1).acc.toNat ∧ (s.ctx 1).state = .running := by decide
theorem wit_DebugPort_tokens : (host { tokenFails := 15 }).hub.tokenFails < 16 ∧ (host { tokenFails := 16 }).hub.tokenFails ≥ 16 := by decide

/-- The slot register for peer 7. -/
def slot7 : SlotReg := ⟨7, 3, true, 0⟩
/-- A port with one slot for peer 7, in a state, and keys held for peer 7; WAC stands in the slot's data part. -/
def ported (st : PortState) (l : Link) (fails : SMap Nat := []) : State :=
  { State.reset with
    hub := { wac := 1000 }
    link := { l with keys := [(7, 5)], ports := [(31, { state := st, en := true, slots := [slot7], noSlotYet := st == .live, fails := fails })] } }

theorem wit_slot7 : (ported .live {}).port 31 = { state := .live, en := true, slots := [slot7], noSlotYet := true } := by decide
theorem wit_Ports_states : (State.reset.port 31).state = .down ∧ ((ported .training {}).port 31).state = .training
    ∧ ((ported .quarantined {}).port 31).state = .quarantined ∧ (63 < 64 ∧ 500 < 10000)
    ∧ (((ported .live {}).port 31).state = .live ∧ ((ported .live {}).port 31).start ≤ 1000 ∧ ((ported .live {}).port 31).noSlotYet = true) := by decide
theorem wit_Ports_identity : let s := ported .identityCheck { acks := [(7, [4, 5])] }
    let x := s.port 31
    let r := x.slots.getD (x.slot % (x.nslot + 1)) ⟨0, 0, false, 0⟩
    x.state = .identityCheck ∧ x.noSlotYet = false ∧ r.v = true ∧ r.peer = 7 ∧ r.pid = 0 ∧ SMap.has s.link.keys r.peer = true
    ∧ s.link.acks = [(7, [4, 5])] ∧ s.link.refusals = [] := by decide
/-- A schedule of one slot, for package 7. -/
def sched7 : PortSchedule := ⟨0, 10000, 500, 0, [slot7], 1, [7]⟩
theorem wit_Ports_schedule : sched7.guard % 2 ^ 16 < sched7.slotLen % 2 ^ 24 ∧ (ported .live {}).link.sendQ = []
    ∧ (let s := ported .live {}
       let x := s.port 31
       let r := x.slots.getD ((s.hub.wac.toNat - x.start) / max 1 x.slotLen % (x.nslot + 1)) ⟨0, 0, false, 0⟩
       r.v = true ∧ SMap.has s.link.keys r.peer = true) := by decide
theorem wit_Ports_schedule_unkeyed : let s := ported .live {}
    let t : State := { s with link := { s.link with keys := [] } }
    ((t.port 31).state = .live ∧ SMap.has t.link.keys 7 = false) := by decide

/-- A packet whose tag is right under key 5, or is not. -/
def pkt (k : Packet) (good : Bool) : Packet :=
  let k1 := unsealed 5 k
  { k with tag := Config.gcmTag 5 (packetNonce k1) (packetHeader k1 ++ k1.payload) % 2 ^ 128 + if good then 0 else 1 }

theorem wit_Ports_authentic (k : Packet) : authentic 5 (unsealed 5 (pkt k true)) = true ∧ authentic 5 (unsealed 5 (pkt k false)) = false := by
  constructor
  · simp [authentic, unsealed, pkt, packetNonce, packetHeader, dataFlits]
  · simp [authentic, unsealed, pkt, packetNonce, packetHeader, dataFlits]

/-- A packet of one byte. -/
def byte1 (dst kind vint : Nat) : Packet := ⟨7, dst, 4, vint, kind, 0, 9, 0, 0, [1]⟩
theorem wit_Ports_packets : let s := ported .live { seqIn := [(7, 4)], early := [⟨7, 0, 5, 0, 0, 0, 9, 0, 0, [1]⟩] }
    (s.port 31).open = true ∧ s.link.accepting = true ∧ SMap.has s.link.keys 7 = true ∧ (State.reset.link.accepting = true ∧ SMap.has State.reset.link.keys 0 = false)
    ∧ ((byte1 0 0 0).vint = s.link.vint ∧ (byte1 0 0 0).dst = s.hub.pkg.toNat ∧ (4 + 2 ^ 32 - SMap.get 0 s.link.seqIn 7) % 2 ^ 32 = 0 ∧ s.bufferFull (byte1 0 0 0) = false)
    ∧ ((5 + 2 ^ 32 - SMap.get 0 s.link.seqIn 7) % 2 ^ 32 < 2 ^ 31 ∧ ∃ e ∈ s.link.early, e.src = 7 ∧ e.seq = 5)
    ∧ 2 ^ 31 ≤ (3 + 2 ^ 32 - SMap.get 0 s.link.seqIn 7) % 2 ^ 32
    ∧ (byte1 8 0 0).dst ≠ s.hub.pkg.toNat ∧ newer (byte1 0 0 1).vint s.link.vint = true ∧ newer (byte1 0 0 65535).vint s.link.vint = false := by decide

/-- A part of a collective that context 1 posted on die 0: one byte of an all-gather. -/
def coll0 (done : Bool) : Coll :=
  { id := 0, cid := 1, die := 0, post := ⟨0, 100, BitVec.ofNat 512 (2 ^ 192), 0x30000, 0⟩, members := [(0, 0)], source := [], cursor := 0, written := 0, done := done }
/-- A packet for it. -/
def collPacket (bs : List Byte) : Packet := ⟨7, 0, 4, 0, 0, 0, (coll0 false).number, 0, 0, bs⟩
/-- The machine in which the debugger has stopped its context. -/
def stoppedColl : State := { stopped with link := { colls := [coll0 false], keys := [] } }
/-- A packet of its number is for it, whatever it carries. -/
theorem stoppedColl_collOf (bs : List Byte) : stoppedColl.collOf (collPacket bs) = some (coll0 false) := by
  have h : ((coll0 false).number == (coll0 false).number && !(coll0 false).done) = true := by decide +kernel
  exact List.find?_cons_of_pos h
theorem wit_Ports_collective : stoppedColl.collOf (collPacket [1]) = some (coll0 false) ∧ (collPacket [1]).kind = 0 ∧ (collPacket [1]).dst = stoppedColl.hub.pkg.toNat := by
  decide +kernel
theorem wit_Ports_bufferFull : stoppedColl.bufferFull (collPacket (List.replicate 8388609 0)) = true := by
  have h : stoppedColl.contextOf (collPacket (List.replicate 8388609 0)) = some 1 := by
    have c : stoppedColl.collOf (collPacket (List.replicate 8388609 0)) = some (coll0 false) := stoppedColl_collOf _
    have z : (coll0 false).number ≠ 0 := by decide +kernel
    simp only [State.contextOf, c, Option.map_some]
    exact if_neg z
  have l : (collPacket (List.replicate 8388609 (0 : Byte))).payload.length = 8388609 := List.length_replicate ..
  have w : stoppedColl.link.waiting = [] := rfl
  have d : stoppedColl.stoppedFor 1 = true := by decide
  simp only [State.bufferFull, h, l, w, d, Bool.true_and]
  decide

/-- A packet that waits for its acknowledgement. -/
def sent1 (dst : Nat) : Sent := { pkt := byte1 dst 0 0, coll := some 0 }
theorem wit_Ports_refusal : let s := ported .live { unacked := [sent1 8], tables := [(2, ⟨[7], []⟩), (3, ⟨[8], []⟩)] }
    let r : Nat → Packet := fun v => ⟨8, 0, 4, v, 2, 8, 9, 0, 0, []⟩
    (∀ v < 4, (s.link.unacked.find? fun e => e.pkt.seq == (r v).seq && e.pkt.cid == (r v).cid && e.pkt.dst == (r v).daddr) = some (sent1 8))
    ∧ newer 0 (sent1 8).pkt.vint = false ∧ (∀ v ∈ [1, 2, 3], newer v (sent1 8).pkt.vint = true) ∧ SMap.has s.link.tables 1 = false
    ∧ (8 ∈ (SMap.get ⟨[], []⟩ s.link.tables 3).members) ∧ (SMap.has s.link.tables 2 = true ∧ 8 ∉ (SMap.get ⟨[], []⟩ s.link.tables 2).members)
    ∧ (∀ e ∈ (ported .live {}).link.unacked, ¬(e.pkt.seq = 4 ∧ e.pkt.cid = 9 ∧ e.pkt.dst = 8))
    ∧ (s.link.unacked.find? fun u => u.pkt.dst == 8 && u.pkt.seq == 4) = some (sent1 8) ∧ (sent1 8).due ≤ s.hub.wac.toNat := by decide
theorem wit_Ports_send : let s := ported .live { fwdQ := [(7, [byte1 7 0 0])] }
    let t := ported .live { sendQ := [(7, [sent1 7])] }
    s.canSend 31 7 = true ∧ (s.port 31).reg.peer = 7 ∧ SMap.get [] s.link.fwdQ 7 = [byte1 7 0 0]
    ∧ (t.canSend 31 7 = true ∧ SMap.get [] t.link.fwdQ 7 = [] ∧ SMap.get [] t.link.sendQ 7 = [sent1 7]) := by decide
theorem wit_Ports_vintage : SMap.has (ported .live { tables := [(1, ⟨[7], [(31, sched7)]⟩)] }).link.tables 1 = true ∧ newer 1 0 = true
    ∧ ((⟨[7], [(31, sched7)]⟩ : Vintage).ports.map Prod.fst).Nodup ∧ SMap.has (ported .live {}).link.tables 1 = false ∧ newer 0 0 = false := by decide

/-- A posted COLL of die 0. -/
def post0 : CollPost := ⟨0, 100, 0, 0x30000, 0⟩
theorem wit_Collectives : let s := mk { acc := 276, posts := [post0] }
    ((s.core 1).posts.find? fun q => q.die == 0 && decide (q.T + 176 ≤ (s.core 1).acc.toNat)) = some post0
    ∧ ((s.group 1 (post0.desc.toNat % 256)).dies.getLsbD 0 = true ∧ ∀ e ∈ s.link.colls, ¬(e.cid = 1 ∧ e.die = 0))
    ∧ (∀ d ∈ [false, true], (({ s with link := { colls := [coll0 d] } } : State).link.colls.find? fun c => c.id == 0) = some (coll0 d) ∧ (coll0 d).done = d)
    ∧ (let u := ({ s with link := { early := [byte1 0 0 0], seqIn := [(7, 4)] } } : State)
       u.link.accepting = true ∧ u.nextWaiting = none ∧ (u.link.early.find? fun e => e.src == 7 && e.seq == SMap.get 0 u.link.seqIn 7) = some (byte1 0 0 0)) := by
  refine ⟨by decide +kernel, ⟨by decide +kernel, fun e h => by cases h⟩, by decide +kernel, by decide, by decide, by decide⟩
theorem wit_Collectives_waiting : let w : Packet := ⟨7, 0, 4, 0, 0, 0, 0, 0, 0, [1]⟩
    ({ mk {} with link := { waiting := [w] } } : State).nextWaiting = some w ∧ ({ mk {} with link := { accepting := false } } : State).link.accepting = false := by
  decide +kernel
/-- A part of an all-gather of one byte whose source is here, in a context whose page 0 is mapped. -/
def gathers : Coll := { coll0 false with post := ⟨0, 100, BitVec.ofNat 512 (2 ^ 192 + 5 * 2 ^ 16 + 2 ^ 8), 0x30000, 0⟩, source := [9] }
theorem wit_Collectives_write : let s : State := { paged 7 [] with link := { colls := [gathers] } }
    (s.link.colls.find? fun c => c.id == 0) = some gathers ∧ gathers.done = false
    ∧ gathers.nextRun s.me (gathers.index s.me) gathers.runs gathers.cursor = some 0
    ∧ s.supply gathers (gathers.index s.me) 0 (gathers.run (gathers.index s.me) 0) = some [9] ∧ (s.linkLookup 1 0 (gathers.field 128 64 + 0) 2).1 = some 0x10000
    ∧ namesSync gathers.post.sync ∧ s.Unrecorded 1 ∧ (s.ctx 1).alive = true ∧ (s.ctx 1).replaying = false := by
  refine ⟨by decide +kernel, by decide, by decide +kernel, by decide +kernel, by decide +kernel, by unfold namesSync; decide, ⟨rfl, fun _ => (by decide : ({} : DieHw).trKinds.getLsbD 8 = false)⟩, by decide, by decide⟩
theorem wit_Collectives_failure : stoppedColl.unfinished (coll0 false) = [coll0 false] ∧ ((stoppedColl.unfinished (coll0 false)).map Coll.die).Nodup
    ∧ (stoppedColl.ctx 1).alive = true ∧ (stoppedColl.ctx 1).replaying = false ∧ (coll0 false).failed = false
    ∧ (coll0 false).total - (coll0 false).written < 2 ^ 32 ∧ ({ gathers with members := [(0, 0), (4, 0)] } : Coll).members.any (fun m => m.1 != (mk {}).me) := by
  decide +kernel
theorem wit_Collectives_failed : (∃ e ∈ [{ coll0 true with failed := true }], e.cid = 1 ∧ e.group = post0.desc.toNat % 256 ∧ e.post.k % 2 ^ 21 = post0.k % 2 ^ 21 ∧ e.failed = true)
    ∧ ∃ d < 8, matchNumber 0 d post0.k ∈ [matchNumber 0 3 0] := by
  refine ⟨⟨_, List.mem_singleton.2 rfl, by decide +kernel⟩, 3, by decide, by decide +kernel⟩

theorem wit_ResetAndPower : (∃ s, s = State.reset) ∧ (∃ b : BootPolicy, b.parts = []) ∧ (4 ∈ [1, 2, 4, 8] ∧ 4 % 4 = 0 ∧ 4 + 4 ≤ 8)
    ∧ (∀ d < 8, (State.reset.dieHw d).degraded = false) ∧ (∀ e ∈ State.reset.ctxs, e.2.state = .empty)
    ∧ (0x1000 + 512 ≤ 0x1200) ∧ (7 < 8 ∧ 3 < 4 ∧ 131 < 132 ∧ 19 < 20 ∧ State.reset.onDies [7] CtxState.keepsDie = false)
    ∧ (0 ∈ (mk {}).diesOf 0 ∧ State.reset.hub.powered = true)
    ∧ ((mk {}).ctx 1).alive = true ∧ ((mk {}).ctx 1).state ≠ .loading ∧ ((mk {} { runner with state := .loading }).ctx 1).state = .loading ∧ ((mk {}).ctx 2).alive = false := by
  refine ⟨⟨_, rfl⟩, ⟨⟨[], [], 0, [], 0, [], [], false⟩, rfl⟩, by decide⟩
theorem wit_ResetAndPower_checkpoint : let k : Checkpoint := { (⟨0, [], [(1, {})], []⟩ : Checkpoint) with digest := Config.sha3 (⟨0, [], [(1, {})], []⟩ : Checkpoint).bytes }
    let s : State := { State.reset with hub := { powered := false, checkpoint := some k } }
    s.hub.powered = false ∧ s.hub.checkpoint = some k ∧ k.digest = Config.sha3 k.bytes ∧ (k.cores.map Prod.fst).Nodup := ⟨rfl, rfl, rfl, by decide⟩

theorem test_reset_wf : State.reset.hbmWf = true := by decide

end Sys2Proof.Tests
end

section
/-!
PROOF of O50. The order of a cycle's steps, the slice steps of a bundle, and what each step of a cycle needs to complete.
-/
namespace Sys2Proof.Machine

/-- What every step of a fold leaves, the fold leaves. -/
theorem foldl_keeps {α β γ : Type} (g : β → γ) (f : β → α → β) (h : ∀ b a, g (f b a) = g b) (l : List α) (b : β) :
    g (l.foldl f b) = g b := by
  induction l generalizing b with
  | nil => rfl
  | cons a r ih => rw [List.foldl_cons, ih, h]

/-! ### The order of a cycle's steps -/

theorem mem_insertStable {α : Type} (lt : α → α → Bool) (a x : α) (l : List α) :
    x ∈ sortBy.insertStable lt a l ↔ x = a ∨ x ∈ l := by
  induction l with
  | nil => simp [sortBy.insertStable]
  | cons b r ih =>
    unfold sortBy.insertStable
    split
    · simp only [List.mem_cons, ih]; tauto
    · simp

/-- A sort neither loses nor adds an element. -/
@[simp] theorem mem_sortBy {α : Type} (lt : α → α → Bool) (x : α) (l : List α) : x ∈ sortBy lt l ↔ x ∈ l := by
  unfold sortBy
  induction l with
  | nil => simp
  | cons a r ih => rw [List.foldr_cons, mem_insertStable, ih, List.mem_cons]

/-! ### The slice steps of a bundle (R3, R18, R200) -/

/-- A bundle's M syllable is latched exactly where the bundle holds a FILLM. -/
theorem isSome_latchRanks (t : Tables) (syl : List (Nat × Instr)) :
    (latchRanks t syl).isSome = true ↔ ∃ z ∈ syl, ∃ g, z.2 = .fillm g := by
  unfold latchRanks
  rw [List.isSome_findSome?, List.any_eq_true]
  refine exists_congr fun z => and_congr_right fun _ => ?_
  split
  · rename_i g h; simp [h]
  · rename_i h; simpa using h

theorem mem_columnSlices (d col n : Nat) : n ∈ columnSlices d col ↔ ∃ r < 4, n = 512 * d + 128 * r + col := by
  simp [columnSlices, eq_comm]

/-- The slice syllables that a bundle's columns run: all but an M syllable that a FILLM latches. -/
theorem mem_unlatched (f : Flight) (y : Nat × Instr) :
    y ∈ f.syl.filter (fun e => e.1 != 0 && !(e.1 == 3 && (latchRanks f.tab f.syl).isSome))
      ↔ y ∈ f.syl ∧ y.1 ≠ 0 ∧ (y.1 = 3 → ∀ z ∈ f.syl, ∀ g, z.2 ≠ .fillm g) := by
  have h := isSome_latchRanks f.tab f.syl
  rw [List.mem_filter, and_congr_right_iff]
  intro _
  rw [Bool.and_eq_true, bne_iff_ne, Bool.not_eq_true', Bool.and_eq_false_imp, beq_iff_eq]
  refine and_congr_right fun _ => imp_congr_right fun _ => ?_
  rw [← Bool.not_eq_true, h]
  push Not
  rfl

/-- The steps of a bundle in cycle C. -/
theorem Core.mem_flightTasks (c : Core) (cid p C : Nat) (f : Flight) (e : Task) :
    e ∈ c.flightTasks cid p C f ↔ ∃ r < 4, ∃ y ∈ f.syl, let n := 512 * f.die + 128 * r + (C - f.T - 2)
      f.T + 2 ≤ C ∧ C ≤ f.T + 129 ∧ c.member f.grp n = true ∧ y.1 ≠ 0 ∧ (y.1 = 3 → ∀ z ∈ f.syl, ∀ g, z.2 ≠ .fillm g)
      ∧ e = ⟨C, { cid := cid, p := p, d := f.die, s := n, slot := y.1, X := C, fl := f }, if f.inv.isSome then .adjointBundleIssue p f.die else y.2⟩ := by
  unfold Core.flightTasks
  split
  · rename_i h
    simp only [List.not_mem_nil, false_iff]
    rintro ⟨r, -, y, -, h1, h2, -⟩
    omega
  · rename_i h
    simp only [List.mem_flatten, List.mem_map, List.mem_filter (p := c.member f.grp), mem_columnSlices]
    constructor
    · rintro ⟨_, ⟨n, ⟨⟨r, hr, rfl⟩, hm⟩, rfl⟩, he⟩
      obtain ⟨y, hy, rfl⟩ := List.mem_map.mp he
      obtain ⟨hy, h0, h3⟩ := (mem_unlatched f y).mp hy
      exact ⟨r, hr, y, hy, by omega, by omega, hm, h0, h3, rfl⟩
    · rintro ⟨r, hr, y, hy, -, -, hm, h0, h3, rfl⟩
      exact ⟨_, ⟨_, ⟨⟨r, hr, rfl⟩, hm⟩, rfl⟩, List.mem_map.mpr ⟨y, (mem_unlatched f y).mpr ⟨hy, h0, h3⟩, rfl⟩⟩

/-! ### What the column work leaves of the agenda -/

theorem State.trapTWhen_agenda (s : State) (b : Bool) (code val : Nat) : (s.trapTWhen b code val).agenda = s.agenda := by
  unfold State.trapTWhen; split <;> rfl

theorem State.spillFindings_agenda (s : State) (f : Flight) : (s.spillFindings f).agenda = s.agenda := by
  unfold State.spillFindings
  split
  · rfl
  · refine foldl_keeps State.agenda _ (fun st e => ?_) _ _
    dsimp only
    split
    · exact trapTWhen_agenda _ _ _ _
    · rfl

theorem State.staticFindings_agenda (s : State) (cid : Nat) (f : Flight) : (s.staticFindings cid f).agenda = s.agenda := by
  unfold State.staticFindings
  split
  · rfl
  · dsimp only; split <;> rfl

theorem State.formLog_agenda (s : State) (f : Flight) : (s.formLog f).agenda = s.agenda := by
  unfold State.formLog
  refine (foldl_keeps State.agenda _ (fun st l => ?_) _ _).trans rfl
  dsimp only
  split
  · rfl
  · refine (foldl_keeps State.agenda _ (fun st _ => ?_) _ _).trans (State.owe_agenda _ _ _)
    exact foldl_keeps State.agenda _ (fun _ _ => State.owe_agenda _ _ _) _ st

theorem State.profile_agenda (s : State) (cid p C : Nat) (ts : List Task) : (s.profile cid p C ts).agenda = s.agenda := by
  unfold State.profile; dsimp only; split <;> rfl

/-- The steps that the columns of a cycle run, in their order. -/
def Core.columnTasks (c : Core) (cid p : Nat) : List Task :=
  sortBy taskBefore ((c.tasks.filter fun t => t.cyc == c.now && t.ctx.fl.hnd == c.handler)
    ++ if c.handler then [] else (c.flights.map (c.flightTasks cid p c.now)).flatten)

/-- Phase 0 puts the steps of the columns before the crossing, and leaves the rest of the agenda. -/
theorem State.columnWork_agenda (s : State) (cid p : Nat) :
    (s.columnWork cid p).agenda = (s.core cid).columnTasks cid p ++ [phase cid p 1] ++ s.agenda := by
  unfold State.columnWork Core.columnTasks
  extract_lets c C isDue issued new all tried s1 s2 s3 s4
  have h2 : s2.agenda = s.agenda :=
    foldl_keeps State.agenda _ (fun st f => (staticFindings_agenda _ cid f).trans (spillFindings_agenda st f)) _ _
  have h3 : s3.agenda = s.agenda := by
    unfold s3
    split
    · exact h2
    · exact (foldl_keeps State.agenda _ formLog_agenda _ _).trans h2
  have h4 : s4.agenda = s.agenda := by
    unfold s4
    split
    · exact h3
    · exact (profile_agenda _ _ _ _ _).trans h3
  change all ++ [phase cid p 1] ++ s4.agenda = _
  rw [h4]

/-- The steps of a cycle's columns: those kept for this cycle, and those of the bundles in the rows. -/
theorem Core.mem_columnTasks (c : Core) (cid p : Nat) (e : Task) :
    e ∈ c.columnTasks cid p ↔ (e ∈ c.tasks ∧ e.cyc = c.now ∧ e.ctx.fl.hnd = c.handler)
      ∨ c.handler = false ∧ ∃ f ∈ c.flights, e ∈ c.flightTasks cid p c.now f := by
  unfold Core.columnTasks
  rw [mem_sortBy, List.mem_append, List.mem_filter]
  refine or_congr (by simp) ?_
  cases c.handler <;> simp

/-! ### When the steps of a cycle complete (R18, R20, R88, R350) -/

/-- P of a header is the byte at its top. -/
theorem Header.ofWord_p_eq_zero (w : DWord) : (Header.ofWord w).p = 0 ↔ w.toNat / 2 ^ 56 = 0 := by
  have hw := w.isLt
  rw [← BitVec.toNat_inj]
  simp only [Header.ofWord, BitVec.extractLsb'_toNat, Nat.shiftRight_eq_div_pow]
  simp
  omega

/-- CYCLE_BOUNDARY completes while its partition runs. -/
theorem State.runs.cycleBoundary {s : State} {p cid : Nat} (h : s.runs p cid) : Completes (.cycleBoundary p) s := by
  obtain ⟨hp, hc⟩ := h
  show ∃ t, execCycleBoundary p s = .next t
  simp only [execCycleBoundary, hp, hc, ne_eq, not_true_eq_false, if_false]
  split <;> exact ⟨_, rfl⟩

/-- The phase that runs the columns. -/
theorem State.runs.columns {s : State} {p cid : Nat} (h : s.runs p cid) (h0 : s.cur.row = 0) :
    exec (.cycleBoundary p) s = .next (s.columnWork cid p) := by
  obtain ⟨hp, hc⟩ := h
  show execCycleBoundary p s = _
  simp [execCycleBoundary, hp, hc, h0]

theorem State.runs.issuing {s : State} {p cid d a : Nat} (h : s.runs p cid) (ha : (s.core cid).dueBundle d = some a) :
    s.issuing p d = some (cid, s.fetchBundle cid a) := by
  obtain ⟨hp, hc⟩ := h
  simp [State.issuing, hp, hc, ha]

/-- A due bundle issues, as a delay bundle where its header is alone. -/
theorem State.runs.bundle {s : State} {p cid d a : Nat} (h : s.runs p cid) (ha : (s.core cid).dueBundle d = some a) :
    Completes (if (s.fetchWord cid a).toNat / 2 ^ 56 = 0 then .delayBundle p d else .bundleIssue p d) s := by
  have hp : (s.fetchBundle cid a).hdr.p = 0 ↔ (s.fetchWord cid a).toNat / 2 ^ 56 = 0 := Header.ofWord_p_eq_zero _
  split
  · rename_i h0
    refine ⟨s.issue cid p d (s.fetchBundle cid a), ?_⟩
    show execDelayBundle p d s = _
    simp only [execDelayBundle, h.issuing ha, if_pos (hp.mpr h0)]
  · rename_i h0
    refine ⟨s.issue cid p d (s.fetchBundle cid a), ?_⟩
    show execBundleIssue p d s = _
    simp only [execBundleIssue, h.issuing ha, if_neg (mt hp.mp h0)]

/-- The adjoint bundle of a due record issues. -/
theorem State.runs.adjoint {s : State} {p cid d : Nat} (h : s.runs p cid) (hi : s.cur.fl.inv = none)
    (hr : ((s.core cid).die d).rev ≠ none) (hd : (s.core cid).dueAdjoint d = true) : Completes (.adjointBundleIssue p d) s := by
  obtain ⟨hp, hc⟩ := h
  obtain ⟨rr, hr⟩ := Option.ne_none_iff_exists'.mp hr
  refine ⟨s.adjointIssue cid p d rr, ?_⟩
  show execAdjointBundleIssue p d s = _
  simp only [execAdjointBundleIssue, hi, hp, hr, hc, hd, and_self, if_true]

/-! ### A cycle begins (R15, R20) -/

/-- What a die issues in the cycle about to run. -/
def State.issueOf (s : State) (cid p d : Nat) : List Instr :=
  if (s.core cid).dueAdjoint d then [.adjointBundleIssue p d]
  else match (s.core cid).dueBundle d with
    | some a => [if (s.fetchWord cid a).toNat / 2 ^ 56 = 0 then .delayBundle p d else .bundleIssue p d]
    | none => []

theorem State.issueTask_instr (s : State) (cid p d : Nat) :
    (s.issueTask cid p d).toList.map Task.instr = s.issueOf cid p d := by
  unfold State.issueTask State.issueOf
  dsimp only
  split
  · rfl
  · cases (s.core cid).dueBundle d with
    | none => rfl
    | some a =>
      simp only [Option.map_some, Header.ofWord_p_eq_zero]
      split <;> rfl

/-- The steps of a cycle: the dies issue in ascending order, then the boundary. -/
theorem State.cycleTasks_instr (s : State) (cid p : Nat) :
    (s.cycleTasks cid p).map Task.instr = ((s.diesOf p).map (s.issueOf cid p)).flatten ++ [.cycleBoundary p] := by
  unfold State.cycleTasks
  rw [List.map_append]
  congr 1
  induction s.diesOf p with
  | nil => rfl
  | cons d r ih =>
    rw [List.map_cons, List.flatten_cons, ← ih, ← issueTask_instr]
    cases h : s.issueTask cid p d <;> simp [h]

/-- What a running partition under no hold goes on with: its next cycle. -/
theorem State.work_of_runs {s : State} {p cid : Nat} (h : s.runs p cid) (hk : (s.ctx cid).kernel = .running)
    (hy : (s.ctx cid).canopy ≠ 0) (hr : (s.ctx cid).replaying = false) (hf : (s.core cid).forming = []) (hd : s.dispatcher p = none) :
    s.work p = some (some cid, s.cycleTasks cid p) := by
  obtain ⟨hp, hc⟩ := h
  have h1 : s.replayDue cid = false := by simp [State.replayDue, hr]
  have h2 : s.retires cid = false := by simp [State.retires, hk]
  simp [State.work, hd, hp, h1, h2, hc, hy, hf]

/-- With one partition's cycle to go on with, its first step runs. -/
theorem State.choose_cycle {s : State} {p cid : Nat} (ha : s.agenda = []) (hi : s.inputs = []) (hw : s.works = [(some cid, s.cycleTasks cid p)])
    (hf : (s.core cid).forming = []) : ∃ e r, s.cycleTasks cid p = e :: r
      ∧ s.choose = some (e.instr, { s.passTime with agenda := r, cur := e.ctx }) := by
  have hne : s.cycleTasks cid p ≠ [] := by simp [State.cycleTasks]
  obtain ⟨e, r, he⟩ := List.exists_cons_of_ne_nil hne
  have hform : s.passTime.formResults cid = s.passTime := by
    have hf' : (s.passTime.core cid).forming = [] := hf
    simp [State.formResults, hf']
  exact ⟨e, r, he, by simp [State.choose, ha, hi, State.takeDue, hw, State.pickWork, hform, he]⟩

/-- Settles O50: the phase of the columns by the members of its list of steps, the beginning of a cycle by the one work there is. -/
theorem cycleAndColumns : Obligations.CycleAndColumns := by
  refine ⟨fun s p cid d h => ⟨h.cycleBoundary, fun a => h.bundle, h.adjoint⟩, ?_, ?_⟩
  · intro s p cid ha hi hpow hparts h hk hy hr hf hl hd issue
    have hw : s.works = [(some cid, s.cycleTasks cid p)] := by
      simp [State.works, hpow, hl, hparts, State.work_of_runs h hk hy hr hf hd]
    obtain ⟨e, r, he, hch⟩ := State.choose_cycle ha hi hw hf
    refine ⟨e.instr, { s.passTime with agenda := r, cur := e.ctx }, by rw [step, hch], rfl, rfl, rfl, ?_⟩
    exact (congrArg (List.map Task.instr) he).symm.trans (s.cycleTasks_instr cid p)
  · intro s p cid h h0 c C
    refine ⟨_, h.columns h0, c.columnTasks cid p, s.columnWork_agenda cid p, fun e => ?_⟩
    rw [Core.mem_columnTasks]
    exact or_congr Iff.rfl (and_congr_right fun _ => exists_congr fun f => and_congr_right fun _ => c.mem_flightTasks cid p C f e)

end Sys2Proof.Machine
end

section
/-!
PROOF of O60, first part. Rows that spares cover, spares and margins.
-/
namespace Sys2Proof.SMap

variable {α β : Type}

/-- What stands under a key is an entry of the map, or the default under a key that has none. -/
theorem mem_or_get_eq (d : α) (m : SMap α) (n : Nat) : (n, get d m n) ∈ m ∨ n ∉ m.map Prod.fst ∧ get d m n = d := by
  induction m with
  | nil => simp [get]
  | cons e r ih =>
    obtain ⟨k, v⟩ := e
    by_cases h : k = n
    · subst h; simp [get]
    · simpa [get, h, Ne.symm h] using ih

theorem get_of_not_mem {d : α} {m : SMap α} {n : Nat} (h : n ∉ m.map Prod.fst) : get d m n = d :=
  (mem_or_get_eq d m n).elim (fun hm => absurd (List.mem_map_of_mem (f := Prod.fst) hm) h) And.right

/-- Changing every entry by a function that fixes the default changes what stands under every key. -/
theorem get_map {d : α} {e : β} (f : α → β) (hd : f d = e) (m : SMap α) (n : Nat) :
    get e (m.map fun x => (x.1, f x.2)) n = f (get d m n) := by
  induction m with
  | nil => exact hd.symm
  | cons x r ih =>
    simp only [List.map_cons, get]
    split
    · rfl
    · exact ih

theorem not_mem_of_has {m : SMap α} {n : Nat} (h : has m n = false) : n ∉ m.map Prod.fst := by
  induction m with
  | nil => exact List.not_mem_nil
  | cons x r ih =>
    obtain ⟨hx, hr⟩ := Bool.or_eq_false_iff.mp h
    exact List.not_mem_cons_of_ne_of_not_mem (fun e => by simp [e] at hx) (ih hr)

/-- Entries put one after the other leave what stands under any other key. -/
theorem get_foldl_put_of_not_mem (d : α) {l : SMap α} {n : Nat} (h : n ∉ l.map Prod.fst) (m : SMap α) :
    get d (l.foldl (fun m e => put m e.1 e.2) m) n = get d m n := by
  induction l generalizing m with
  | nil => rfl
  | cons x r ih =>
    simp only [List.map_cons, List.mem_cons, not_or] at h
    rw [List.foldl_cons, ih h.2, get_put_of_ne d m x.2 h.1]

/-- Entries of different keys, put one after the other, all stand. -/
theorem get_foldl_put_of_mem (d : α) {l : SMap α} (hl : (l.map Prod.fst).Nodup) {e : Nat × α} (he : e ∈ l) (m : SMap α) :
    get d (l.foldl (fun m e => put m e.1 e.2) m) e.1 = e.2 := by
  induction l generalizing m with
  | nil => simp at he
  | cons x r ih =>
    rw [List.map_cons, List.nodup_cons] at hl
    rw [List.foldl_cons]
    rcases List.mem_cons.mp he with rfl | he
    · rw [get_foldl_put_of_not_mem d hl.1, get_put_self]
    · exact ih hl.2 he _

end Sys2Proof.SMap

namespace Sys2Proof.Machine

/-! ### Rows that spares cover (R13) -/

/-- The good places of a row from place i up to place j. -/
def goodPlaces (out : List Nat) (i j : Nat) : Finset Nat := (Finset.Ico i j).filter (· ∉ out)

/-- No two neighbours from place i up to place j are out together. -/
def spanned (out : List Nat) (i j : Nat) : Prop := ∀ a, i ≤ a → a + 1 < j → ¬(a ∈ out ∧ a + 1 ∈ out)

/-- Some stretch that ends before place j has m good places. -/
def reaches (out : List Nat) (j m : Nat) : Prop := ∃ i, spanned out i j ∧ m ≤ (goodPlaces out i j).card

theorem goodPlaces_succ_of_mem {out : List Nat} {j : Nat} (h : j ∈ out) (i : Nat) : goodPlaces out i (j + 1) = goodPlaces out i j := by
  ext a
  simp only [goodPlaces, Finset.mem_filter, Finset.mem_Ico]
  constructor
  · rintro ⟨⟨h1, h2⟩, h3⟩
    have : a ≠ j := fun e => h3 (e ▸ h)
    exact ⟨⟨h1, by omega⟩, h3⟩
  · rintro ⟨⟨h1, h2⟩, h3⟩
    exact ⟨⟨h1, by omega⟩, h3⟩

theorem card_goodPlaces_succ {out : List Nat} {i j : Nat} (h : j ∉ out) (hij : i ≤ j) :
    (goodPlaces out i (j + 1)).card = (goodPlaces out i j).card + 1 := by
  have hins : goodPlaces out i (j + 1) = insert j (goodPlaces out i j) := by
    ext a
    simp only [goodPlaces, Finset.mem_filter, Finset.mem_Ico, Finset.mem_insert]
    constructor
    · rintro ⟨⟨h1, h2⟩, h3⟩
      by_cases e : a = j
      · exact .inl e
      · exact .inr ⟨⟨h1, by omega⟩, h3⟩
    · rintro (rfl | ⟨⟨h1, h2⟩, h3⟩)
      · exact ⟨⟨hij, by omega⟩, h⟩
      · exact ⟨⟨h1, by omega⟩, h3⟩
  rw [hins, Finset.card_insert_of_notMem (by simp [goodPlaces])]

theorem goodPlaces_of_le {out : List Nat} {i j : Nat} (h : j ≤ i) : goodPlaces out i j = ∅ := by
  rw [goodPlaces, Finset.Ico_eq_empty_of_le h, Finset.filter_empty]

theorem spanned.mono {out : List Nat} {i j : Nat} (h : spanned out i (j + 1)) : spanned out i j :=
  fun a h1 h2 => h a h1 (by omega)

/-- A stretch of one place or none is spanned, so no good place at all is always reached. -/
theorem reaches_zero (out : List Nat) (j : Nat) : reaches out j 0 := ⟨j, fun a h1 h2 => by omega, Nat.zero_le _⟩

/-- Behind two neighbours that are out together the stretch begins anew. -/
theorem reaches_succ_of_pair {out : List Nat} {j : Nat} (h : j ∈ out) (h' : j + 1 ∈ out) (m : Nat) : reaches out (j + 2) m ↔ m = 0 := by
  refine ⟨?_, fun e => e ▸ reaches_zero out _⟩
  rintro ⟨i, hs, hm⟩
  have hi : j < i := by
    by_contra hle
    exact hs j (by omega) (by omega) ⟨h, h'⟩
  rw [goodPlaces_succ_of_mem h', goodPlaces_of_le (by omega)] at hm
  simpa using hm

/-- A place that is out and whose left neighbour is good ends no stretch. -/
theorem reaches_succ_of_out {out : List Nat} {j : Nat} (h : j ∈ out) (h' : ∀ a, a + 1 = j → a ∉ out) (m : Nat) :
    reaches out (j + 1) m ↔ reaches out j m := by
  unfold reaches
  refine exists_congr fun i => ?_
  rw [goodPlaces_succ_of_mem h]
  refine and_congr_left fun _ => ⟨spanned.mono, fun hs a h1 h2 => ?_⟩
  by_cases e : a + 1 = j
  · exact fun hc => h' a e hc.1
  · exact hs a h1 (by omega)

/-- A good place lengthens every stretch. -/
theorem reaches_succ_of_good {out : List Nat} {j : Nat} (h : j ∉ out) (m : Nat) : reaches out (j + 1) (m + 1) ↔ reaches out j m := by
  constructor
  · rintro ⟨i, hs, hm⟩
    by_cases hij : i ≤ j
    · rw [card_goodPlaces_succ h hij] at hm
      exact ⟨i, hs.mono, by omega⟩
    · rw [goodPlaces_of_le (by omega)] at hm
      simp at hm
  · rintro ⟨i, hs, hm⟩
    by_cases hij : i ≤ j
    · refine ⟨i, fun a h1 h2 => ?_, by rw [card_goodPlaces_succ h hij]; omega⟩
      by_cases e : a + 1 = j
      · exact fun hc => h (e ▸ hc.2)
      · exact hs a h1 (by omega)
    · rw [goodPlaces_of_le (by omega), Finset.card_empty, Nat.le_zero] at hm
      subst hm
      exact ⟨j, fun a h1 h2 => by omega, by rw [card_goodPlaces_succ h le_rfl]; omega⟩

/-- One place of the scan of a row: the longest stretch so far, the present one, and whether the last place was out. -/
def scanPlace (out : List Nat) (a : Nat × Nat × Bool) (k : Nat) : Nat × Nat × Bool :=
  if out.contains k then (a.1, if a.2.2 then 0 else a.2.1, true) else (max a.1 (a.2.1 + 1), a.2.1 + 1, false)

/-- The scan of a row has seen the places before k. -/
structure Scanned (out : List Nat) (k : Nat) (a : Nat × Nat × Bool) : Prop where
  best : ∀ m, m ≤ a.1 ↔ ∃ j ≤ k, reaches out j m
  here : ∀ m, m ≤ a.2.1 ↔ reaches out k m
  last : a.2.2 = true ↔ ∃ j, j + 1 = k ∧ j ∈ out

theorem Scanned.zero (out : List Nat) : Scanned out 0 (0, 0, false) := by
  have h (m : Nat) : m ≤ 0 ↔ reaches out 0 m :=
    ⟨fun h => Nat.le_zero.mp h ▸ reaches_zero out 0, fun ⟨i, _, hm⟩ => by simpa [goodPlaces_of_le (Nat.zero_le i)] using hm⟩
  exact ⟨fun m => by simpa using h m, h, by simp⟩

/-- The longest stretch up to a place, from the longest before it and the one that the place ends. -/
theorem le_max_iff_reaches {out : List Nat} {k b c : Nat} (hb : ∀ m, m ≤ b ↔ ∃ j ≤ k, reaches out j m)
    (hc : ∀ m, m ≤ c ↔ reaches out (k + 1) m) (m : Nat) : m ≤ max b c ↔ ∃ j ≤ k + 1, reaches out j m := by
  rw [le_max_iff, hb, hc]
  constructor
  · rintro (⟨j, hj, hr⟩ | hr)
    · exact ⟨j, by omega, hr⟩
    · exact ⟨k + 1, le_rfl, hr⟩
  · rintro ⟨j, hj, hr⟩
    rcases Nat.lt_or_ge k j with h | h
    · obtain rfl : j = k + 1 := by omega
      exact .inr hr
    · exact .inl ⟨j, h, hr⟩

theorem Scanned.succ {out : List Nat} {k : Nat} {a : Nat × Nat × Bool} (h : Scanned out k a) : Scanned out (k + 1) (scanPlace out a k) := by
  obtain ⟨b, c, l⟩ := a
  obtain ⟨hb, hc, hl⟩ := h
  have hcb : c ≤ b := (hb c).mpr ⟨k, le_rfl, (hc c).mp le_rfl⟩
  simp only at hb hc hl
  by_cases hk : k ∈ out
  · -- a place that is out: the present stretch ends only behind another one
    have hc' : ∀ m, m ≤ (if l then 0 else c) ↔ reaches out (k + 1) m := by
      intro m
      cases l with
      | true =>
        obtain ⟨j, rfl, hj⟩ := hl.mp rfl
        rw [reaches_succ_of_pair hj hk]
        exact Nat.le_zero
      | false =>
        rw [reaches_succ_of_out hk fun j hj hm => by simpa using hl.mpr ⟨j, hj, hm⟩]
        exact hc m
    have hmax : max b (if l then 0 else c) = b := max_eq_left (by split <;> omega)
    have hs : scanPlace out (b, c, l) k = (b, if l then 0 else c, true) := by simp [scanPlace, hk]
    rw [hs]
    refine ⟨fun m => ?_, hc', by simpa using hk⟩
    rw [← le_max_iff_reaches hb hc', hmax]
  · have hc' : ∀ m, m ≤ c + 1 ↔ reaches out (k + 1) m := by
      intro m
      cases m with
      | zero => simpa using reaches_zero out (k + 1)
      | succ m => rw [reaches_succ_of_good hk, ← hc]; omega
    have hs : scanPlace out (b, c, l) k = (max b (c + 1), c + 1, false) := by simp [scanPlace, hk]
    rw [hs]
    exact ⟨le_max_iff_reaches hb hc', hc', by simpa using hk⟩

theorem scanned_range (out : List Nat) (k : Nat) : Scanned out k ((List.range k).foldl (scanPlace out) (0, 0, false)) := by
  induction k with
  | zero => exact .zero out
  | succ k ih =>
    rw [List.range_succ, List.foldl_append]
    exact ih.succ

/-- The good places of a stretch as a list without repetition. -/
theorem card_goodPlaces_iff (out : List Nat) (i j m : Nat) : m ≤ (goodPlaces out i j).card ↔
    ∃ good : List Nat, good.Nodup ∧ good.length = m ∧ ∀ a ∈ good, i ≤ a ∧ a < j ∧ a ∉ out := by
  constructor
  · intro h
    obtain ⟨t, hs, rfl⟩ := Finset.exists_subset_card_eq h
    refine ⟨t.toList, t.nodup_toList, t.length_toList, fun a ha => ?_⟩
    have := hs (Finset.mem_toList.mp ha)
    simpa [goodPlaces, and_assoc] using this
  · rintro ⟨good, hn, rfl, hg⟩
    rw [← List.toFinset_card_of_nodup hn]
    refine Finset.card_le_card fun a ha => ?_
    simpa [goodPlaces, and_assoc] using hg a (List.mem_toFinset.mp ha)

/-- A row is found covered exactly where spares can cover it. -/
theorem rowCovered_iff (out : List Nat) : rowCovered out = true ↔ coverable fun a => a ∈ out := by
  have hb : rowCovered out = true ↔ 128 ≤ ((List.range 132).foldl (scanPlace out) (0, 0, false)).1 := decide_eq_true_iff
  rw [hb, (scanned_range out 132).best]
  constructor
  · rintro ⟨j, hj, i, hs, hm⟩
    exact ⟨i, j, hj, hs, (card_goodPlaces_iff out i j 128).mp hm⟩
  · rintro ⟨i, j, hj, hs, hg⟩
    exact ⟨j, hj, i, hs, (card_goodPlaces_iff out i j 128).mpr hg⟩

/-! ### Spares and margins -/

/-- A die is degraded where the slices mapped out of one of its rows cannot be covered, or its spare channels do not suffice. -/
theorem State.coverDie_degraded (s : State) (die : Nat) (out : List (Nat × Nat)) (chans : List Nat) :
    ((s.coverDie die out chans).dieHw die).degraded = true
      ↔ (∃ r < 4, ¬coverable fun a => (r, a) ∈ out) ∨ Config.spareChannels < chans.length := by
  have hrow (r : Nat) : rowCovered ((out.filter fun e => e.1 == r).map Prod.snd) = true ↔ coverable fun a => (r, a) ∈ out := by
    rw [rowCovered_iff]
    exact iff_of_eq (congrArg coverable (funext fun a => by simp))
  unfold State.coverDie
  extract_lets bad s1
  have hd : ((if bad = true then s1.steward 9 die else s1).dieHw die).degraded = bad := by
    have h1 : (s1.dieHw die).degraded = bad := by simp [s1]
    split
    · exact h1
    · exact h1
  rw [hd]
  simp only [bad, Bool.or_eq_true, decide_eq_true_iff, Bool.not_eq_true', ← Bool.not_eq_true, List.all_eq_true, List.mem_range, hrow]
  push Not
  rfl

theorem State.coverDie_dieHw (s : State) (die : Nat) (out : List (Nat × Nat)) (chans : List Nat) :
    ((s.coverDie die out chans).dieHw die).out = out ∧ ((s.coverDie die out chans).dieHw die).chanOut = chans := by
  have h (b : Bool) (u : State) : (if b = true then u.steward 9 die else u).dieHw die = u.dieHw die := by cases b <;> rfl
  unfold State.coverDie
  extract_lets bad s1
  rw [h]
  simp [s1]

theorem State.coverDie_untouched (s : State) (die : Nat) (out : List (Nat × Nat)) (chans : List Nat) :
    s.Untouched (s.coverDie die out chans) := by
  unfold State.coverDie
  dsimp only
  split <;> exact ⟨rfl, rfl, rfl⟩

/-- SPARE_MAP of a slice or a channel of a die that is not in use. -/
theorem execSpareMap_die {s : State} {die row phys : Nat} (out : Bool) (hd : die < 8) (hi : s.onDies [die] CtxState.keepsDie = false)
    (hr : row < 5) (hp : phys < if row = 4 then 20 else 132) :
    exec (.spareMap die row phys out) s = .next (if row = 4 then s.coverDie die (s.dieHw die).out (mapOut (s.dieHw die).chanOut phys out)
      else s.coverDie die (mapOut (s.dieHw die).out (row, phys) out) (s.dieHw die).chanOut) := by
  show execSpareMap die row phys out s = _
  have hbad : ¬(die ≥ 8 ∨ row ≥ 5 ∨ phys ≥ if row = 4 then 20 else 132) := by omega
  rw [execSpareMap, if_neg (by omega), if_neg hbad, hi]
  rfl

@[simp] theorem State.port_onPort (s : State) (n k : Nat) (f : Port → Port) :
    (s.onPort n f).port k = if k = n then f (s.port n) else s.port k := by
  simp [State.port, State.onPort, State.onLink, SMap.get_put]

@[simp] theorem State.port_steward (s : State) (kind arg k : Nat) : (s.steward kind arg).port k = s.port k := rfl

/-- SPARE_MAP of a lane of a port in training. -/
theorem execSpareMap_lane {s : State} {n : Nat} (lane : Nat) (out : Bool) (hn : n < 32) (ht : (s.port n).state = .training) :
    let l := mapOut (s.port n).lanesOut lane out
    Runs (.spareMap n 5 lane out) s fun t => s.PortOnly t n fun x =>
      { x with lanesOut := l, state := if l.length ≤ Config.spareLanes then .training else .down } := by
  intro l
  let s1 := s.onPort n fun x => { x with lanesOut := l }
  refine ⟨if l.length ≤ Config.spareLanes then s1 else (s1.onPort n fun x => { x with state := .down }).steward 11 n, ?_, ?_⟩
  · show execSpareMap n 5 lane out s = _
    simp only [execSpareMap, if_true, State.portEvent, if_neg (show ¬n ≥ 32 by omega), ht, beq_self_eq_true]
    rfl
  · refine ⟨by split <;> exact ⟨rfl, rfl, rfl⟩, fun k => ?_⟩
    by_cases hk : k = n
    · subst hk
      split <;> simp [s1, ht]
    · split <;> simp [s1, hk]

/-- MARGIN_REPLAN of a die that is not in use. -/
theorem execMarginReplan_next {s : State} {die age mhz : Nat} (hd : die < 8) (ha : age ≤ 2) (h0 : 0 < mhz) (hm : mhz ≤ 1800)
    (hi : s.onDies [die] CtxState.keepsDie = false) : Runs (.marginReplan die age mhz) s fun t =>
      s.Untouched t ∧ t.hub = s.hub ∧ (t.dieHw die).monitors.length = 64
        ∧ t.dieHw die = { s.dieHw die with age := age, mhz := mhz, monitors := (t.dieHw die).monitors } := by
  refine ⟨s.fresh.2.onHw die fun h => { h with age := age, mhz := mhz, monitors := (List.range 64).map (Config.pathMonitor die · s.fresh.1) },
    ?_, ⟨rfl, rfl, rfl⟩, rfl, ?_, ?_⟩
  · show execMarginReplan die age mhz s = _
    rw [execMarginReplan, hi, if_neg (by simp; omega)]
  · rw [State.dieHw_onHw, if_pos rfl]
    simp
  · rw [State.dieHw_onHw, if_pos rfl]
    rfl

end Sys2Proof.Machine
end

section
/-!
PROOF of O60, second part. Partitions, and how power failure and return leave contexts.
-/
namespace Sys2Proof.Machine

/-! ### Partitions (R14, R15) -/

/-- No context stands on the dies in a state that keeps their division. -/
theorem State.onDies_keepsDivision {s : State} (dies : List Nat)
    (h : ∀ e ∈ s.ctxs, e.2.state = .empty ∨ e.2.state = .saved ∨ e.2.state = .retired ∨ e.2.state = .failed) :
    s.onDies dies CtxState.keepsDivision = false := by
  refine List.any_eq_false.mpr fun e he => ?_
  rcases h e he with h | h | h | h <;> simp [h, CtxState.keepsDivision]

/-- Aligned good dies make a partition. -/
theorem State.partOk_of_good {s : State} {p n : Nat} (hn : n ∈ [1, 2, 4, 8]) (hp : p % n = 0) (h8 : p + n ≤ 8)
    (hg : ∀ d, p ≤ d → d < p + n → (s.dieHw d).degraded = false) : s.partOk p n = true := by
  have hany : ((List.range n).any fun d => (s.dieHw (p + d)).degraded) = false :=
    List.any_eq_false.mpr fun d hd => by simp [hg (p + d) (by omega) (by simp at hd; omega)]
  have hn' : (n == 1 || n == 2 || n == 4 || n == 8) = true := by simpa [or_assoc] using hn
  simp [State.partOk, hany, hn', hp, h8]

/-- The state with the partitions that some dies cut dissolved. -/
def State.cutParts (s : State) (dies : List Nat) : State :=
  { s with parts := s.parts.filter fun e => !(s.parts.filter fun e => (s.diesOf e.1).any dies.contains).any fun c => c.1 == e.1 }

/-- The dies that a PARTITION_CHANGE names. -/
def changedDies (p n : Nat) : List Nat := (List.range (max 1 n)).map (p + ·)

/-- PARTITION_CHANGE dissolves what its dies cut, and makes a partition where it names one. -/
theorem execPartitionChange_next {s : State} {p n : Nat} (mk : PartMake)
    (h : ∀ e ∈ s.ctxs, e.2.state = .empty ∨ e.2.state = .saved ∨ e.2.state = .retired ∨ e.2.state = .failed)
    (hn : n = 0 ∨ s.partOk p n = true) : exec (.partitionChange p n mk) s =
      .next (if n = 0 then s.cutParts (changedDies p n) else (s.cutParts (changedDies p n)).createPart p n mk) := by
  show execPartitionChange p n mk s = _
  have h2 : (n != 0 && !s.partOk p n) = false := by rcases hn with rfl | hn <;> simp [*]
  simp only [execPartitionChange, State.onDies_keepsDivision _ h, h2, Bool.or_false, Bool.false_eq_true, if_false]
  rfl

/-- A partition that holds a die of those that cut is there no more. -/
theorem State.cutParts_part {s : State} {dies : List Nat} {q d : Nat} (hd : d ∈ dies) (hq : d ∈ s.diesOf q) :
    (s.cutParts dies).part q = {} := by
  refine SMap.get_of_not_mem fun hm => ?_
  obtain ⟨e, he, rfl⟩ := List.mem_map.mp hm
  obtain ⟨he, hcut⟩ := List.mem_filter.mp he
  rw [Bool.not_eq_true', List.any_eq_false] at hcut
  refine hcut e (List.mem_filter.mpr ⟨he, List.any_eq_true.mpr ⟨d, hq, ?_⟩⟩) (beq_self_eq_true _)
  simpa using hd

theorem State.createPart_part (s : State) (p n : Nat) (mk : PartMake) : (s.createPart p n mk).part p =
    { n := n, make := mk, rate := BitVec.ofNat 32 mk.rate, cap := BitVec.ofNat 32 mk.cap, allow := dw (mk.cap % 2 ^ 32 * 65536) } :=
  SMap.get_put_self _ _ _ _

/-- A new partition's control blocks and page-fault block are zero. -/
theorem State.createPart_hbmByte (s : State) (p n : Nat) (mk : PartMake) (a : Nat) : (s.createPart p n mk).hbmByte a =
    if mk.queueArea ≤ a ∧ a < mk.queueArea + 512 ∨ mk.faultQueue ≤ a ∧ a < mk.faultQueue + 64 then 0 else s.hbmByte a := by
  have hz (k j : Nat) : (List.replicate k (0 : Byte)).getD j 0 = 0 := by
    rw [List.getD_eq_getElem?_getD, List.getElem?_replicate]
    split <;> rfl
  unfold State.createPart
  simp only [State.hbmByte_hbmWrite, List.length_replicate, hz]
  split
  · rw [if_pos (.inr ‹_›)]
  · split
    · rw [if_pos (.inl ‹_›)]
    · rw [if_neg (by tauto)]
      rfl

/-! ### What the services of the hub and of the dispatcher leave -/

/-- The link engine and power stand, no partition has another launch selected than before, and so do all contexts but those of `P`. -/
structure State.Serves (P : Nat → Prop) (s t : State) : Prop where
  link : t.link = s.link
  powered : t.hub.powered = s.hub.powered
  next : ∀ p, (t.part p).next = none ∨ (t.part p).next = (s.part p).next
  ctx : ∀ k, ¬P k → t.ctx k = s.ctx k

variable {P : Nat → Prop}

theorem State.Serves.refl (s : State) : State.Serves P s s := ⟨rfl, rfl, fun _ => .inr rfl, fun _ _ => rfl⟩

theorem State.Serves.trans {s t u : State} (h : State.Serves P s t) (k : State.Serves P t u) : State.Serves P s u where
  link := k.link.trans h.link
  powered := k.powered.trans h.powered
  next p := (k.next p).elim .inl fun e => (h.next p).imp (e.trans ·) (e.trans ·)
  ctx c hc := (k.ctx c hc).trans (h.ctx c hc)

theorem State.Serves.ite {s t u : State} (b : Prop) [Decidable b] (h : State.Serves P s t) (k : State.Serves P s u) :
    State.Serves P s (if b then t else u) := by
  split
  · exact h
  · exact k

/-- A fold of services is a service. -/
theorem State.Serves.foldl {α : Type} (f : State → α → State) (h : ∀ s a, State.Serves P s (f s a)) (l : List α) (s : State) :
    State.Serves P s (l.foldl f s) := by
  induction l generalizing s with
  | nil => exact .refl s
  | cons a r ih => exact (h s a).trans (ih _)

theorem State.Serves.onPart (s : State) (p : Nat) (f : Part → Part) (h : ∀ q, (f q).next = none ∨ (f q).next = q.next) :
    State.Serves P s (s.onPart p f) where
  link := rfl
  powered := rfl
  next k := by
    rw [State.part_onPart]
    split
    · rename_i e; subst e; exact h _
    · exact .inr rfl
  ctx _ _ := rfl

theorem State.Serves.onQueue (s : State) (p q : Nat) (f : Queue → Queue) : State.Serves P s (s.onQueue p q f) :=
  .onPart s p _ fun _ => .inr rfl

theorem State.Serves.hbmWrite (s : State) (pa : Nat) (bs : List Byte) : State.Serves P s (s.hbmWrite pa bs) :=
  ⟨rfl, rfl, fun _ => .inr rfl, fun _ _ => rfl⟩

theorem State.Serves.onHub (s : State) (f : Hub → Hub) (h : (f s.hub).powered = s.hub.powered) : State.Serves P s (s.onHub f) :=
  ⟨rfl, h, fun _ => .inr rfl, fun _ _ => rfl⟩

theorem State.Serves.qWrite (s : State) (p q off n v : Nat) : State.Serves P s (s.qWrite p q off n v) := .hbmWrite s _ _

theorem State.Serves.qState (s : State) (p q : Nat) (st : QueueState) : State.Serves P s (s.qState p q st) := by
  unfold State.qState
  extract_lets s1
  have h : State.Serves P s s1 := (State.Serves.onQueue s p q _).trans (.qWrite _ p q 12 1 st.code)
  exact .ite _ h (h.trans (.qWrite s1 p q 13 1 0))

theorem State.Serves.qError (s : State) (p q code : Nat) : State.Serves P s (s.qError p q code) :=
  (qState s p q _).trans (.qWrite _ _ _ _ _ _)

theorem State.Serves.qFollow (s : State) (p q : Nat) (st : QueueState) : State.Serves P s (s.qFollow p q st) :=
  .ite _ (.refl s) (.qState s p q st)

theorem State.Serves.wakeQueues (s : State) : State.Serves P s s.wakeQueues := by
  unfold State.wakeQueues
  refine .foldl _ (fun s e => .foldl _ (fun s q => ?_) _ s) _ s
  dsimp only
  split
  · exact .qState s e.1 q .ready
  · exact .refl s

theorem State.Serves.complete (s : State) (r : BitVec 512) (err : Bool) : State.Serves P s (s.complete r err) := by
  have h : State.Serves P s (if recField r 271 1 = 1 then s.launchArrival (recField r 256 10) 1 err 0 else s) :=
    .ite _ ((State.Serves.onHub s _ rfl).trans (wakeQueues _)) (.refl s)
  exact .ite _ (h.trans (.onHub _ _ rfl)) h

theorem State.Serves.headRecord (s : State) (p q : Nat) : State.Serves P s (s.headRecord p q) := by
  unfold State.headRecord
  refine .ite _ (.qFollow s p q _) ?_
  dsimp only
  split
  · exact .qError s p q _
  · exact .ite _ ((State.Serves.onQueue s p q _).trans (.qError _ p q _)) ((State.Serves.onQueue s p q _).trans (.qFollow _ p q _))

theorem State.Serves.advanceHead (s : State) (p q : Nat) : State.Serves P s (s.advanceHead p q) := by
  have h := (State.Serves.qWrite (P := P) s p q 16 4 (s.qHead p q + 1)).trans (.onQueue _ p q fun x => { x with launch := none })
  exact .ite _ h (h.trans (.headRecord _ p q))

theorem State.Serves.traceInsert (s : State) (p own acc : Nat) (key : List Nat) (bytes : List Byte) :
    State.Serves P s (s.traceInsert p own acc key bytes) := by
  unfold State.traceInsert
  exact (State.Serves.hbmWrite s _ _).trans (.onPart _ p _ fun _ => .inr rfl)

theorem State.Serves.trace (s : State) (cid die kind addr acc : Nat) (slice : Option Nat) (data : Nat) :
    State.Serves P s (s.trace cid die kind addr acc slice data) := by
  unfold State.trace
  exact .ite _ (.ite _ (.traceInsert s _ _ _ _ _) (.onPart s _ _ fun _ => .inr rfl)) (.refl s)

theorem State.Serves.setCtx (s : State) (cid : Nat) (c : Context) : State.Serves (· = cid) s (s.setCtx cid c) :=
  ⟨rfl, rfl, fun _ => .inr rfl, fun k hk => by rw [State.ctx_setCtx, if_neg hk]⟩

theorem State.Serves.setCore (s : State) (cid : Nat) (c : Core) : State.Serves P s (s.setCore cid c) :=
  ⟨rfl, rfl, fun _ => .inr rfl, fun _ _ => rfl⟩

theorem State.Serves.fresh (s : State) : State.Serves P s s.fresh.2 := ⟨rfl, rfl, fun _ => .inr rfl, fun _ _ => rfl⟩

theorem State.Serves.writeSave (s : State) (cid : Nat) : State.Serves P s (s.writeSave cid) :=
  (State.Serves.fresh s).trans (.hbmWrite _ _ _)

/-- No partition has a launch selected. -/
def State.NoneSelected (s : State) : Prop := ∀ p, (s.part p).next = none

theorem State.Serves.noneSelected {s t : State} (h : State.Serves P s t) (hs : s.NoneSelected) : t.NoneSelected :=
  fun p => (h.next p).elim id fun e => e.trans (hs p)

/-! ### How a context ends or is parked (R244, R245, R247, R254) -/

theorem State.beginRestore_of_none {s : State} {p : Nat} (h : (s.part p).next = none) : s.beginRestore p = s := by
  unfold State.beginRestore
  rw [h]
  split <;> simp_all

/-- A launch that comes back was stored, and it is alive before and after. -/
theorem State.beginRestore_alive (s : State) (p k : Nat) : ((s.beginRestore p).ctx k).alive = (s.ctx k).alive := by
  unfold State.beginRestore
  split
  · rename_i cid _ _
    split
    · rename_i h
      rw [State.ctx_onCtx]
      split
      · rename_i e
        subst e
        rcases h with h | h <;> simp [Context.alive, h]
      · rfl
    · rfl
  · rfl

theorem State.beginRestore_link (s : State) (p : Nat) : (s.beginRestore p).link = s.link ∧ (s.beginRestore p).hub = s.hub := by
  unfold State.beginRestore
  split
  · split <;> exact ⟨rfl, rfl⟩
  · exact ⟨rfl, rfl⟩

/-- A context ends, and then a launch that waits for its partition may come back. -/
theorem State.endContext_eq (s : State) (cid : Nat) (st : CtxState) (k : KernelState) : ∃ u : State,
    s.endContext cid st k = u.beginRestore (s.ctx cid).p ∧ State.Serves (· = cid) s u ∧ (u.ctx cid).state = st := by
  unfold State.endContext
  extract_lets cx s1 hub s2 s3 s4
  have h2 : State.Serves (· = cid) s s2 := ((State.Serves.setCore s cid _).trans (.setCtx _ cid _)).trans ⟨rfl, rfl, fun _ => .inr rfl, fun _ _ => rfl⟩
  have h4 (P : Nat → Prop) : State.Serves P s2 s4 :=
    (State.Serves.onPart s2 cx.p _ fun q => by dsimp only; split <;> simp).trans (.complete _ _ _)
  have h5 (P : Nat → Prop) : State.Serves P s2 (if (s4.queue cx.p cx.queue).launch = some cid then s4.advanceHead cx.p cx.queue else s4) :=
    (h4 P).trans (.ite _ (.advanceHead _ _ _) (.refl _))
  refine ⟨_, rfl, h2.trans (h5 _), ?_⟩
  rw [(h5 fun _ => False).ctx cid not_false]
  show ((State.setCtx _ cid _).ctx cid).state = st
  rw [State.ctx_setCtx, if_pos rfl]

/-- With no launch selected, a context that fails fails alone. -/
theorem State.failContext_serves {s : State} (hs : s.NoneSelected) (cid : Nat) :
    State.Serves (· = cid) s (s.failContext cid) ∧ ((s.failContext cid).ctx cid).state = .failed := by
  obtain ⟨u, he, hu, hst⟩ := s.endContext_eq cid .failed .faulted
  rw [State.failContext, he, State.beginRestore_of_none (hu.noneSelected hs _)]
  exact ⟨hu, hst⟩

/-- A context that fails lives no more, and the others live as before. -/
theorem State.failContext_alive (s : State) (cid k : Nat) :
    ((s.failContext cid).ctx k).alive = if k = cid then false else (s.ctx k).alive := by
  obtain ⟨u, he, hu, hst⟩ := s.endContext_eq cid .failed .faulted
  rw [State.failContext, he, State.beginRestore_alive]
  split
  · rename_i e
    rw [e, Context.alive, hst]
  · rw [hu.ctx k ‹_›]

theorem State.failContext_link (s : State) (cid : Nat) :
    (s.failContext cid).link = s.link ∧ (s.failContext cid).hub.powered = s.hub.powered := by
  obtain ⟨u, he, hu, -⟩ := s.endContext_eq cid .failed .faulted
  rw [State.failContext, he]
  obtain ⟨hl, hh⟩ := u.beginRestore_link (s.ctx cid).p
  exact ⟨hl.trans hu.link, (congrArg Hub.powered hh).trans hu.powered⟩

/-- The preempt hold begins. -/
theorem State.beginPreempt_serves (s : State) (cid p : Nat) : State.Serves (· = cid) s (s.beginHolds cid [⟨9, p, .preempt⟩]) :=
  (State.Serves.setCtx s cid _).trans (.trace _ _ _ _ _ _ _ _)

/-- With no launch selected, parking a context leaves the others. -/
theorem State.parkContext_serves {s : State} (hs : s.NoneSelected) (cid : Nat) (plan : List ParkMove) :
    State.Serves (· = cid) s (s.parkContext cid plan) := by
  obtain ⟨u, q, he, hu⟩ : ∃ (u : State) (q : Nat), s.parkContext cid plan = (u.qFollow (s.ctx cid).p q .ready).beginRestore (s.ctx cid).p
      ∧ State.Serves (· = cid) s u := by
    refine ⟨_, _, rfl, ?_⟩
    exact ((((State.Serves.fresh s).trans (beginPreempt_serves _ cid _)).trans (.setCtx _ cid _)).trans (.writeSave _ cid)).trans
      (.onPart _ _ _ fun _ => .inr rfl)
  have h := hu.trans (.qFollow u (s.ctx cid).p q .ready)
  rw [he, State.beginRestore_of_none (h.noneSelected hs _)]
  exact h

/-! ### Power fails (R388) -/

/-- Where power failure leaves a context: saved where it lives, but failed where it was still loading. -/
def CtxState.unpowered : CtxState → CtxState
  | .loading | .failed => .failed
  | .empty => .empty
  | .retired => .retired
  | _ => .saved

theorem CtxState.unpowered_idem (st : CtxState) : st.unpowered.unpowered = st.unpowered := by cases st <;> rfl

theorem CtxState.unpowered_of_alive {c : Context} (h : c.alive = true) (hl : c.state ≠ .loading) : c.state.unpowered = .saved := by
  unfold Context.alive at h
  cases hs : c.state <;> simp_all [CtxState.unpowered]

theorem CtxState.unpowered_of_dead {c : Context} (h : c.alive = false) : c.state.unpowered = c.state := by
  unfold Context.alive at h
  cases hs : c.state <;> simp_all [CtxState.unpowered]

/-- Power failure saves one context. -/
def State.saveOne (s : State) (cid : Nat) : State :=
  let c := s.ctx cid
  if c.state = .loading then s.failContext cid
  else if c.alive then
    let s1 := if (s.part c.p).running = some cid then s.parkContext cid [] else s
    let s2 := (s1.onCtx cid fun x => { x with state := .saved, spill := spillOut [] (fun _ _ => true) x.spill }).writeSave cid
    s2.setCore cid { s2.core cid with owned := [], planes := 0 }
  else s

theorem State.saveOne_serves {s : State} (hs : s.NoneSelected) (cid : Nat) :
    State.Serves (· = cid) s (s.saveOne cid) ∧ ((s.saveOne cid).ctx cid).state = (s.ctx cid).state.unpowered := by
  unfold State.saveOne
  extract_lets c s1 s2
  by_cases hl : c.state = .loading
  · obtain ⟨h, hst⟩ := State.failContext_serves hs cid
    rw [if_pos hl]
    exact ⟨h, by rw [hst, show (s.ctx cid).state = .loading from hl]; rfl⟩
  rw [if_neg hl]
  by_cases ha : c.alive = true
  · have h1 : State.Serves (· = cid) s s1 := .ite _ (State.parkContext_serves hs cid []) (.refl s)
    rw [if_pos ha, CtxState.unpowered_of_alive ha hl]
    refine ⟨((h1.trans (.setCtx _ cid _)).trans (.writeSave _ cid)).trans (.setCore _ cid _), ?_⟩
    show ((s1.onCtx cid fun x => { x with state := .saved, spill := spillOut [] (fun _ _ => true) x.spill }).ctx cid).state = _
    rw [State.ctx_onCtx, if_pos rfl]
  · rw [if_neg ha, CtxState.unpowered_of_dead (Bool.not_eq_true _ ▸ ha)]
    exact ⟨.refl s, rfl⟩

/-- Power failure saves the contexts of a list, one after the other. -/
theorem State.foldl_saveOne (l : List Nat) {s : State} (hs : s.NoneSelected) : let t := l.foldl State.saveOne s
    t.link = s.link ∧ ∀ k, (t.ctx k).state = if k ∈ l then (s.ctx k).state.unpowered else (s.ctx k).state := by
  induction l generalizing s with
  | nil => simp
  | cons c r ih =>
    obtain ⟨h, hst⟩ := State.saveOne_serves hs c
    obtain ⟨hl, hr⟩ := ih (h.noneSelected hs)
    refine ⟨hl.trans h.link, fun k => (hr k).trans ?_⟩
    by_cases hk : k = c
    · subst hk
      simp [hst, CtxState.unpowered_idem]
    · simp [h.ctx k hk, hk]

/-- A partition with no launch selected. -/
def Part.deselected (q : Part) : Part := { q with next := none }

/-- The state in which power failure begins to save: no partition has a launch selected. -/
def State.deselected (s : State) : State := { s with parts := s.parts.map fun e => (e.1, e.2.deselected) }

theorem State.deselected_noneSelected (s : State) : s.deselected.NoneSelected := fun p => by
  have h : s.deselected.part p = (s.part p).deselected := SMap.get_map (d := ({} : Part)) (e := ({} : Part)) Part.deselected rfl s.parts p
  rw [h]
  rfl

/-- Every context is saved, or fails where it was loading. -/
theorem State.saveAll_ctx (s : State) : s.saveAll.link = s.link ∧ ∀ k, (s.saveAll.ctx k).state = (s.ctx k).state.unpowered := by
  obtain ⟨hl, hk⟩ := State.foldl_saveOne (s.ctxs.map Prod.fst) s.deselected_noneSelected
  refine ⟨hl, fun k => (hk k).trans ?_⟩
  split
  · rfl
  · rename_i hn
    have h : s.ctx k = {} := SMap.get_of_not_mem hn
    rw [h]
    exact congrArg Context.state h

theorem State.Serves.requeueSaved (s : State) : State.Serves P s s.requeueSaved :=
  .foldl _ (fun s _ => .ite _ (.qState s _ _ _) (.refl s)) _ s

/-- At a power failure a checkpoint stands, and every context is left as `unpowered` says. -/
theorem execPowerFail_runs {s : State} (hp : s.hub.powered = true) : Runs .powerFail s fun t =>
    t.hub.powered = false ∧ t.link.accepting = false ∧ (∃ k, t.hub.checkpoint = some k ∧ k.pages = t.hbm ∧ k.digest = Config.sha3 k.bytes)
      ∧ ∀ cid, (t.ctx cid).state = (s.ctx cid).state.unpowered := by
  let s0 := s.onLink fun l => { l with accepting := false }
  let s1 := s0.saveAll.requeueSaved
  have h1 : State.Serves (fun _ => False) s0.saveAll s1 := .requeueSaved _
  obtain ⟨hl, hc⟩ := s0.saveAll_ctx
  refine ⟨s1.onHub fun h => { h with powered := false, checkpoint := some s1.checkpointNow }, ?_, rfl, ?_, ⟨_, rfl, rfl, rfl⟩, fun cid => ?_⟩
  · show execPowerFail s = _
    simp only [execPowerFail, hp, Bool.not_true, Bool.false_eq_true, if_false]
    rfl
  · exact congrArg Link.accepting (h1.link.trans hl)
  · exact (congrArg Context.state (h1.ctx cid not_false)).trans (hc cid)

/-! ### Power returns (R389) -/

theorem Checkpoint.matches_iff (k : Checkpoint) : k.matches = true ↔ k.digest = Config.sha3 k.bytes := beq_iff_eq

/-- What the return of power brings back before the checkpoint is read. -/
def State.repowered (s : State) : State :=
  (({ s with hw := s.hw.map fun e => (e.1, e.2.cold) } : State).onLink fun l => { l with accepting := true }).onHub fun h =>
    { h with powered := true, checkpoint := none }

/-- The contexts that live fail, one after the other, and none lives any more. -/
theorem State.foldl_failContext (l : List Nat) (s : State) : let t := l.foldl (fun s c => s.failContext c) s
    t.link = s.link ∧ t.hub.powered = s.hub.powered ∧ ∀ k, (t.ctx k).alive = if k ∈ l then false else (s.ctx k).alive := by
  induction l generalizing s with
  | nil => simp
  | cons c r ih =>
    obtain ⟨hl, hp, hr⟩ := ih (s.failContext c)
    obtain ⟨hl', hp'⟩ := s.failContext_link c
    refine ⟨hl.trans hl', hp.trans hp', fun k => (hr k).trans ?_⟩
    rw [State.failContext_alive]
    by_cases hk : k = c <;> simp [hk]

/-- With a record that matches, what it holds comes back. -/
theorem execPowerReturn_good {s : State} (hp : s.hub.powered = false) {k : Checkpoint} (hk : s.hub.checkpoint = some k)
    (hd : k.digest = Config.sha3 k.bytes) : exec (.powerReturn true) s = .next (s.repowered.fromCheckpoint k) := by
  show execPowerReturn true s = _
  have hm : k.matches = true := k.matches_iff.mpr hd
  simp only [execPowerReturn, hp, Bool.false_eq_true, if_false, hk, Option.filter, Bool.true_and, hm, if_true]
  rfl

/-- Without a record that matches, power comes back and every context fails. -/
theorem execPowerReturn_bad {s : State} (hp : s.hub.powered = false) {valid : Bool}
    (hv : valid = false ∨ ∀ k, ¬(s.hub.checkpoint = some k ∧ k.digest = Config.sha3 k.bytes)) : Runs (.powerReturn valid) s fun t =>
      t.hub.powered = true ∧ t.link.accepting = true ∧ ∀ cid, (t.ctx cid).alive = false := by
  have hnone : (s.hub.checkpoint.filter fun k => valid && k.matches) = none := by
    rw [Option.filter_eq_none_iff]
    rintro k hk
    rcases hv with rfl | hv
    · simp
    · simp only [Bool.and_eq_true, k.matches_iff, not_and]
      exact fun _ hd => hv k ⟨hk, hd⟩
  let s3 : State := { s.repowered with hbm := [] }
  obtain ⟨hl, hpow, halive⟩ := State.foldl_failContext ((s.ctxs.filter fun e => e.2.alive).map Prod.fst) s3
  refine ⟨_, ?_, hpow.trans rfl, (congrArg Link.accepting hl).trans rfl, fun cid => (halive cid).trans ?_⟩
  · show execPowerReturn valid s = _
    simp only [execPowerReturn, hp, Bool.false_eq_true, if_false, hnone]
    rfl
  · split
    · rfl
    · rename_i hn
      show (s.ctx cid).alive = false
      by_contra hc
      rcases SMap.mem_or_get_eq {} s.ctxs cid with hm | ⟨-, he⟩
      · exact hn (List.mem_map.mpr ⟨_, List.mem_filter.mpr ⟨hm, Bool.not_eq_false _ ▸ hc⟩, rfl⟩)
      · exact hc (congrArg Context.alive he)

end Sys2Proof.Machine
end

section
/-!
PROOF of O60, third part. Reset and bring-up, and the statement.
-/
namespace Sys2Proof.Machine

/-! ### Reset and bring-up (R7, R393) -/

/-- What bring-up has settled once firmware runs and neither ports nor partitions change: all but events, ports, tables, HBM and
partitions. -/
def State.booted (s : State) : SMap Context × SMap Core × SMap DieHw × Hub × SMap Nat × Nat :=
  (s.ctxs, s.cores, s.hw, { s.hub with events := [] }, s.link.keys, s.link.vint)

theorem State.trainPort_booted (s : State) (n : Nat) (sch : PortSchedule) (ok : Bool) : (s.trainPort n sch ok).booted = s.booted := by
  unfold State.trainPort
  dsimp only
  split <;> rfl

theorem State.trainPort_parts (s : State) (n : Nat) (sch : PortSchedule) (ok : Bool) :
    ((s.trainPort n sch ok).parts, (s.trainPort n sch ok).hbm) = (s.parts, s.hbm) := by
  unfold State.trainPort
  dsimp only
  split <;> rfl

/-- A port that bring-up has trained: enabled, with its schedule, at its identity check or down. -/
def Port.trained (x : Port) (sch : PortSchedule) (ok : Bool) : Port :=
  { x.take (heldSchedule sch) with en := true, state := if ok then .identityCheck else .down }

/-- Training changes its own port, and no other. -/
theorem State.trainPort_port (s : State) (n k : Nat) (sch : PortSchedule) (ok : Bool) :
    (s.trainPort n sch ok).port k = if k = n then (s.port n).trained sch ok else s.port k := by
  rw [← State.port_onPort s n k fun x => x.trained sch ok]
  cases ok <;> rfl

/-- The ports of a list train, in its order. -/
def State.trainPorts (s : State) (l : List (Nat × PortSchedule × Bool)) : State := l.foldl (fun s e => s.trainPort e.1 e.2.1 e.2.2) s

theorem State.trainPorts_booted (s : State) (l : List (Nat × PortSchedule × Bool)) : (s.trainPorts l).booted = s.booted :=
  foldl_keeps State.booted (fun s (e : Nat × PortSchedule × Bool) => s.trainPort e.1 e.2.1 e.2.2) (fun s e => s.trainPort_booted e.1 e.2.1 e.2.2) l s

theorem State.trainPorts_parts (s : State) (l : List (Nat × PortSchedule × Bool)) :
    ((s.trainPorts l).parts, (s.trainPorts l).hbm) = (s.parts, s.hbm) :=
  foldl_keeps (fun s => (s.parts, s.hbm)) (fun s (e : Nat × PortSchedule × Bool) => s.trainPort e.1 e.2.1 e.2.2) (fun s e => s.trainPort_parts e.1 e.2.1 e.2.2) l s

theorem State.trainPorts_port_other {l : List (Nat × PortSchedule × Bool)} {k : Nat} (h : ∀ e ∈ l, e.1 ≠ k) (s : State) :
    (s.trainPorts l).port k = s.port k := by
  induction l generalizing s with
  | nil => rfl
  | cons a r ih =>
    refine (ih (fun e he => h e (List.mem_cons_of_mem a he)) _).trans ?_
    rw [State.trainPort_port, if_neg (h a List.mem_cons_self).symm]

/-- A port that is named once stands as its training leaves it. -/
theorem State.trainPorts_port {l : List (Nat × PortSchedule × Bool)} {e : Nat × PortSchedule × Bool}
    (h : l.filter (fun x => x.1 == e.1) = [e]) (s : State) :
    ((s.trainPorts l).port e.1).en = true ∧ ((s.trainPorts l).port e.1).state = if e.2.2 then .identityCheck else .down := by
  induction l generalizing s with
  | nil => simp at h
  | cons a r ih =>
    show (((s.trainPort a.1 a.2.1 a.2.2).trainPorts r).port e.1).en = true ∧ (((s.trainPort a.1 a.2.1 a.2.2).trainPorts r).port e.1).state = _
    by_cases ha : a.1 = e.1
    · rw [List.filter_cons_of_pos (by simpa using ha), List.cons.injEq, List.filter_eq_nil_iff] at h
      obtain ⟨rfl, hr⟩ := h
      rw [State.trainPorts_port_other fun x hx => by simpa using hr x hx, State.trainPort_port, if_pos rfl]
      exact ⟨rfl, rfl⟩
    · rw [List.filter_cons_of_neg (by simpa using ha)] at h
      exact ih h _

/-- The partitions of a boot policy, each where its dies are good and free. -/
def State.bootParts (s : State) (l : List (Nat × Nat × PartMake)) : State :=
  l.foldl (fun s e => if s.partOk e.1 e.2.1 && !s.parts.any (fun q => decide (e.1 < q.1 + q.2.n ∧ q.1 < e.1 + e.2.1))
    then s.createPart e.1 e.2.1 e.2.2 else s) s

theorem State.bootParts_booted (s : State) (l : List (Nat × Nat × PartMake)) :
    ((s.bootParts l).booted, (s.bootParts l).link) = (s.booted, s.link) := by
  unfold State.bootParts
  refine foldl_keeps (fun s => (s.booted, s.link)) _ (fun s e => ?_) l s
  split <;> rfl

/-- The state in which firmware that verifies starts: measured, with the package's identifier and vintage. -/
def State.bootStart (s : State) (b : BootPolicy) : State :=
  (((Config.sha3 b.firmware :: b.measure).foldl (fun s d => s.extend d) (s.rootstock b)).onHub fun h =>
    { h with pkg := BitVec.ofNat 32 b.pkg }).onLink fun l => { l with vint := b.vint % 65536 }

/-- Extending the measurement register changes nothing else. -/
theorem State.foldl_extend (l : List (BitVec 256)) (s : State) : l.foldl (fun s d => s.extend d) s = s.onHub fun h =>
    { h with measure := l.foldl (fun m d => Config.sha3 (leBytes 32 m.toNat ++ leBytes 32 d.toNat)) h.measure } := by
  induction l generalizing s with
  | nil => rfl
  | cons d r ih => rw [List.foldl_cons, ih]; rfl

/-- Firmware that does not verify starts nothing. -/
theorem State.bringUp_rejected {s : State} {b : BootPolicy}
    (h : Config.mldsaVerify Config.firmwareKey b.signature (Config.sha3 b.firmware) = false) : s.bringUp b = s.rootstock b := by
  simp [State.bringUp, h]

/-- Firmware that verifies trains the ports, makes the partitions and opens the BAR. -/
theorem State.bringUp_verified {s : State} {b : BootPolicy}
    (h : Config.mldsaVerify Config.firmwareKey b.signature (Config.sha3 b.firmware) = true) :
    s.bringUp b = (((s.bootStart b).trainPorts (b.ports.filter fun e => decide (e.1 < 32))).bootParts b.parts).onHub fun h =>
      { h with barOpen := true } := by
  unfold State.bringUp
  simp only [h, Bool.not_true, Bool.false_eq_true, if_false]
  rfl

/-- What the Rootstock keeps of a die: its spares, but nothing that came in through use. -/
theorem State.rootstock_dieHw (s : State) (b : BootPolicy) (d : Nat) : ((s.rootstock b).dieHw d).out = (s.dieHw d).out
    ∧ ((s.rootstock b).dieHw d).dtlb = [] ∧ ((s.rootstock b).dieHw d).icache = [] := by
  have h : (s.rootstock b).dieHw d = _ := SMap.get_map (d := ({} : DieHw)) (e := ({} : DieHw)) (fun h : DieHw =>
    { out := h.out, chanOut := h.chanOut, degraded := h.degraded, age := h.age, mhz := h.mhz, monitors := h.monitors
      corrected := h.corrected }) rfl s.hw d
  rw [h]
  exact ⟨rfl, rfl, rfl⟩

/-- What every reset leaves, whatever its firmware. -/
structure State.ResetTo (s t : State) (ok : Bool) : Prop where
  ctxs : t.ctxs = []
  cores : t.cores = []
  debugOpen : t.hub.debugOpen = false
  barOpen : t.hub.barOpen = ok
  keys : t.link.keys = []
  sync : t.hub.sync = []
  hw : ∀ b, t.hw = (s.rootstock b).hw

theorem State.rootstock_resetTo (s : State) (b : BootPolicy) : s.ResetTo (s.rootstock b) false := ⟨rfl, rfl, rfl, rfl, rfl, rfl, fun _ => rfl⟩

/-- What stands at the end of a bring-up whose firmware verifies. -/
theorem State.bringUp_booted {s : State} {b : BootPolicy}
    (h : Config.mldsaVerify Config.firmwareKey b.signature (Config.sha3 b.firmware) = true) : let t := s.bringUp b
    s.ResetTo t true ∧ t.hub.pkg = BitVec.ofNat 32 b.pkg ∧ t.link.vint = b.vint % 65536
      ∧ t.hub.measure = (Config.sha3 b.firmware :: b.measure).foldl (fun m d => Config.sha3 (leBytes 32 m.toNat ++ leBytes 32 d.toNat)) 0 := by
  intro t
  let u := ((s.bootStart b).trainPorts (b.ports.filter fun e => decide (e.1 < 32))).bootParts b.parts
  have ht : t = u.onHub fun h => { h with barOpen := true } := State.bringUp_verified h
  have hu : u.booted = (s.bootStart b).booted := (congrArg Prod.fst (State.bootParts_booted _ _)).trans (State.trainPorts_booted _ _)
  rw [State.bootStart, State.foldl_extend] at hu
  simp only [State.booted, Prod.mk.injEq] at hu
  obtain ⟨hctx, hcore, hhw, hhub, hkey, hv⟩ := hu
  rw [ht]
  refine ⟨⟨hctx, hcore, ?_, rfl, hkey, ?_, fun _ => hhw⟩, ?_, hv, ?_⟩
  · exact congrArg Hub.debugOpen hhub
  · exact congrArg Hub.sync hhub
  · exact congrArg Hub.pkg hhub
  · exact congrArg Hub.measure hhub

/-- The ports at the end of a bring-up whose firmware verifies. -/
theorem State.bringUp_port {s : State} {b : BootPolicy}
    (h : Config.mldsaVerify Config.firmwareKey b.signature (Config.sha3 b.firmware) = true) (n : Nat) :
    (s.bringUp b).port n = ((s.bootStart b).trainPorts (b.ports.filter fun e => decide (e.1 < 32))).port n := by
  rw [State.bringUp_verified h]
  exact congrArg (fun l : Link => SMap.get {} l.ports n) (congrArg Prod.snd (State.bootParts_booted _ _))

/-- Before its ports train, a package that starts has every port down. -/
theorem State.bootStart_port (s : State) (b : BootPolicy) (n : Nat) : (s.bootStart b).port n = {} := by
  rw [State.bootStart, State.foldl_extend]
  rfl

/-- Before its ports train, a package that starts has no partition, and its HBM as it was. -/
theorem State.bootStart_parts (s : State) (b : BootPolicy) : ((s.bootStart b).parts, (s.bootStart b).hbm) = ([], s.hbm) := by
  rw [State.bootStart, State.foldl_extend]
  rfl

/-- Without partitions to make, bring-up leaves HBM and makes none. -/
theorem State.bringUp_hbm {s : State} {b : BootPolicy}
    (h : Config.mldsaVerify Config.firmwareKey b.signature (Config.sha3 b.firmware) = false ∨ b.parts = []) :
    (s.bringUp b).hbm = s.hbm ∧ (s.bringUp b).parts = [] := by
  cases hv : Config.mldsaVerify Config.firmwareKey b.signature (Config.sha3 b.firmware) with
  | false => rw [State.bringUp_rejected hv]; exact ⟨rfl, rfl⟩
  | true =>
    have hp : b.parts = [] := h.resolve_left (by simp [hv])
    have ht := (State.trainPorts_parts _ (b.ports.filter fun e => decide (e.1 < 32))).trans (s.bootStart_parts b)
    rw [State.bringUp_verified hv, hp]
    exact ⟨congrArg Prod.snd ht, congrArg Prod.fst ht⟩

/-- What DEVICE_RESET leaves, whether or not its firmware verifies. -/
theorem State.bringUp_resetTo (s : State) (b : BootPolicy) :
    s.ResetTo (s.bringUp b) (Config.mldsaVerify Config.firmwareKey b.signature (Config.sha3 b.firmware)) := by
  cases hv : Config.mldsaVerify Config.firmwareKey b.signature (Config.sha3 b.firmware) with
  | false => rw [State.bringUp_rejected hv]; exact s.rootstock_resetTo b
  | true => exact (State.bringUp_booted hv).1

theorem State.ResetTo.dieHw {s t : State} {ok : Bool} (h : s.ResetTo t ok) (b : BootPolicy) (d : Nat) :
    (t.dieHw d).out = (s.dieHw d).out ∧ (t.dieHw d).dtlb = [] ∧ (t.dieHw d).icache = [] := by
  have e : t.dieHw d = (s.rootstock b).dieHw d := congrArg (fun m => SMap.get ({} : DieHw) m d) (h.hw b)
  rw [e]
  exact s.rootstock_dieHw b d

/-- Settles O60: what the Rootstock keeps and bring-up adds, the longest stretch of a row that spares cover, and the contexts that power
failure saves one after the other. -/
theorem resetAndPower : Obligations.ResetAndPower := by
  refine ⟨?_, ?_, ?_, ?_, ?_, ?_, ?_, ?_, ?_⟩
  · rintro s rfl
    exact ⟨rfl, fun _ => rfl, fun _ => rfl, fun _ => rfl, fun _ => ⟨rfl, rfl⟩, rfl, rfl, rfl, rfl, rfl, rfl⟩
  · intro s b digest ok
    have h := s.bringUp_resetTo b
    refine ⟨s.bringUp b, rfl, h.ctxs, h.cores, h.debugOpen, h.barOpen, h.keys, fun n => by rw [State.launchWord, h.sync]; rfl, h.dieHw b,
      State.bringUp_hbm, fun hv => ?_⟩
    obtain ⟨-, hpkg, hvint, hm⟩ := State.bringUp_booted (s := s) hv
    refine ⟨by rw [hpkg, BitVec.toNat_ofNat], hvint, hm, fun e _ h32 he => ?_, fun n hn => ?_⟩
    · rw [State.bringUp_port hv]
      refine State.trainPorts_port ?_ _
      rw [List.filter_filter, ← he]
      exact List.filter_congr fun x _ => by by_cases hx : x.1 = e.1 <;> simp [hx, h32]
    · rw [State.bringUp_port hv, State.trainPorts_port_other fun e he => hn e (List.mem_filter.mp he).1, State.bootStart_port]
      exact ⟨rfl, rfl⟩
  · intro s p n mk hn hp h8 hg hc
    have hrun := execPartitionChange_next mk hc (.inr (State.partOk_of_good hn hp h8 hg))
    have h0 : n ≠ 0 := by rintro rfl; simp at hn
    rw [if_neg h0] at hrun
    refine ⟨⟨_, hrun⟩, fun _ => ⟨_, hrun, ?_⟩⟩
    dsimp only
    rw [State.createPart_part]
    refine ⟨rfl, rfl, ?_, rfl, rfl, State.createPart_hbmByte _ p n mk⟩
    simp only [dw, BitVec.toNat_ofNat]
    omega
  · intro s p mk hc
    exact ⟨_, execPartitionChange_next mk hc (.inl rfl), ⟨rfl, rfl, rfl⟩, fun q hq =>
      congrArg Part.n (State.cutParts_part (by simp [changedDies]) hq)⟩
  · intro s die row phys out hd hi h
    constructor
    · intro hr hp l
      have hrun := execSpareMap_die (row := row) out hd hi (by omega) (by rwa [if_neg (by omega)])
      rw [if_neg (by omega)] at hrun
      obtain ⟨hout, hchan⟩ := s.coverDie_dieHw die l h.chanOut
      exact ⟨_, hrun, s.coverDie_untouched _ _ _, hout, hchan, s.coverDie_degraded _ _ _⟩
    · intro hp l
      have hrun := execSpareMap_die (row := 4) out hd hi (by omega) (by rwa [if_pos rfl])
      obtain ⟨hout, hchan⟩ := s.coverDie_dieHw die h.out l
      exact ⟨_, hrun, s.coverDie_untouched _ _ _, hout, hchan, s.coverDie_degraded _ _ _⟩
  · exact fun s n lane out => execSpareMap_lane lane out
  · exact fun s die age mhz => execMarginReplan_next
  · intro s hp
    obtain ⟨t, hrun, hpow, hacc, hk, hc⟩ := execPowerFail_runs hp
    refine ⟨t, hrun, hpow, hacc, hk, ?_⟩
    intro cid x
    refine ⟨fun ha hl => ?_, fun hl => ?_, fun ha => ?_⟩
    · rw [hc, CtxState.unpowered_of_alive ha hl]
    · rw [hc, show (s.ctx cid).state = .loading from hl]; rfl
    · rw [hc, CtxState.unpowered_of_dead ha]
  · intro s hp good
    refine ⟨fun k hk => ?_, fun valid hv => execPowerReturn_bad hp hv⟩
    refine ⟨_, execPowerReturn_good hp hk.1 hk.2, rfl, rfl, rfl, rfl, fun cid hn => ?_, fun hn e he => ?_⟩
    · exact SMap.get_foldl_put_of_not_mem _ (SMap.not_mem_of_has hn) _
    · exact SMap.get_foldl_put_of_mem _ hn he _

end Sys2Proof.Machine
end

section
/-!
PROOF of O1 and REFUTATION of O2. Reset, and the return of power from a checkpoint whose pages are not in canonical form.

`State.Safe` speaks of the listed bytes of HBM only. POWER_RETURN (R389) replaces HBM by the pages of the checkpoint in the cellar tier,
and its commit record digests those pages as they are listed: it matches a list that is not in canonical form as well.
-/
namespace Sys2Proof.Machine

/-- Memory that lists no byte is in canonical form. -/
theorem State.safe_of_hbm_nil {s : State} (h : s.hbm = []) : s.Safe := by
  simp [State.Safe, State.hbmWf, h, SMap.wf, SMap.sortedFrom]

/-- The head of the agenda runs; where its bundle's record keeps no operands, it runs on the state as it stands. -/
theorem step_agendaHead {s : State} {e : Task} {r : List Task} (ha : s.agenda = e :: r) (hl : e.ctx.fl.logs = []) :
    step s = exec e.instr { s with agenda := r, cur := e.ctx } := by
  simp [step, State.choose, ha, State.saveOperands, hl]

/-- What a checkpoint brings back is safe just when its pages are in canonical form. -/
theorem State.fromCheckpoint_safe_iff (s : State) (k : Checkpoint) : (s.fromCheckpoint k).Safe ↔ SMap.wf (0 : Byte) k.pages = true :=
  Iff.rfl

/-- A checkpoint that lists one byte that reads as an unlisted one does, with the commit record of just these pages. -/
def zeroListedCheckpoint : Checkpoint :=
  let k : Checkpoint := ⟨0, [(0, 0)], [], []⟩
  { k with digest := Config.sha3 k.bytes }

theorem zeroListedCheckpoint_digest : zeroListedCheckpoint.digest = Config.sha3 zeroListedCheckpoint.bytes := rfl

theorem zeroListedCheckpoint_pages_not_wf : ¬ SMap.wf (0 : Byte) zeroListedCheckpoint.pages = true := by
  simp [zeroListedCheckpoint, SMap.wf]

/-- The machine without power, HBM empty, that checkpoint in the cellar tier and `i` next. -/
def zeroListedBefore (i : Instr) : State :=
  { State.reset with
    agenda := [⟨0, {}, i⟩]
    hub := { powered := false, checkpoint := some zeroListedCheckpoint } }

theorem zeroListedBefore_safe (i : Instr) : (zeroListedBefore i).Safe := State.safe_of_hbm_nil rfl

/-- With the return of power next, the step brings HBM back as that checkpoint lists it. -/
theorem step_zeroListedBefore_powerReturn :
    ∃ u : State, step (zeroListedBefore (.powerReturn true)) = .next (u.fromCheckpoint zeroListedCheckpoint) :=
  ⟨_, (step_agendaHead rfl rfl).trans (execPowerReturn_good rfl rfl zeroListedCheckpoint_digest)⟩

/-- Settles O1: no byte is listed at reset. -/
theorem resetIsSafe : Obligations.ResetIsSafe := State.safe_of_hbm_nil rfl

/-- Refutes O2: from a safe state whose checkpoint lists a zero byte, and whose commit record matches, the return of power lists that
byte in HBM. -/
theorem not_stepKeepsSafe : ¬ Obligations.StepKeepsSafe := by
  intro h
  obtain ⟨u, hu⟩ := step_zeroListedBefore_powerReturn
  have hsafe : (u.fromCheckpoint zeroListedCheckpoint).Safe := h _ _ (zeroListedBefore_safe _) hu
  exact zeroListedCheckpoint_pages_not_wf ((u.fromCheckpoint_safe_iff _).mp hsafe)

end Sys2Proof.Machine
end

section
/-!
PROOF of O3. What a step prepares before it runs: it owes the operands that a record saves.
-/
namespace Sys2Proof.Machine

theorem State.Saves.refl (s : State) : s.Saves s := ⟨.refl s, rfl, [], s.here.nextId, by simp, by simp⟩

theorem State.Saves.trans {s t u : State} (h : s.Saves t) (k : t.Saves u) : s.Saves u := by
  obtain ⟨hout, hcur, os, n, hhere, hlog⟩ := h
  obtain ⟨kout, kcur, os', m, khere, klog⟩ := k
  refine ⟨.trans hcur hout kout, kcur.trans hcur, os ++ os', m, by rw [khere, hhere, List.append_assoc], fun o ho => ?_⟩
  exact (List.mem_append.mp ho).elim (hlog o) (klog o)

/-- Owing bytes of the log is a preparation. -/
theorem State.owe_log_saves (s : State) (due pa : Nat) (bs : List Byte) : s.Saves (s.owe due (.log pa bs)) :=
  ⟨.onCore s _, rfl, _, _, State.here_onCore s _, by simp⟩

/-- A fold of preparations is one. -/
theorem State.foldl_saves {α : Type} {f : State → α → State} (hf : ∀ (t : State) e, t.Saves (f t e)) (l : List α) (s : State) :
    s.Saves (l.foldl f s) := by
  induction l generalizing s with
  | nil => exact .refl s
  | cons e r ih => exact (hf s e).trans (ih _)

/-- What a step prepares: only bytes of the log are owed (R346). -/
theorem State.saveOperands_saves (s : State) (i : Instr) : s.Saves (s.saveOperands i) := by
  unfold State.saveOperands
  split
  · exact .refl s
  · exact foldl_saves (fun t _ => t.owe_log_saves _ _ _) _ s

/-- Where the bundle's record keeps nothing of the slot, nothing is prepared. -/
theorem State.saveOperands_of_unrecorded {s : State} (h : ∀ l ∈ s.cur.fl.logs, l.1 ≠ s.cur.slot) (i : Instr) : s.saveOperands i = s := by
  have : s.cur.fl.logs.find? (fun l => l.1 == s.cur.slot) = none := by simpa using h
  simp [State.saveOperands, this]

/-- Settles O3: the head of the agenda is what `choose` takes, after what `saveOperands` prepares. -/
theorem stepRunsTheHead : Obligations.StepRunsTheHead := by
  refine ⟨fun s e r ha => ?_, fun s nbits w i hl hd => ?_⟩
  · intro s'
    have hstep : step s = exec e.instr (s'.saveOperands e.instr) := by simp [step, State.choose, ha, s']
    exact ⟨⟨_, s'.saveOperands_saves _, hstep⟩, fun h => by rw [hstep, State.saveOperands_of_unrecorded h]⟩
  · have hw : s.withFetchWord nbits w = { s with agenda := ⟨0, s.cur, i⟩ :: s.agenda } := by rw [State.withFetchWord, hd]
    rw [hw]
    exact step_agendaHead (s := { s with agenda := ⟨0, s.cur, i⟩ :: s.agenda }) rfl hl

end Sys2Proof.Machine
end

section
/-!
SUPPORT. Little-endian bytes, and what a read of HBM returns after a write.
-/
namespace Sys2Proof

@[simp] theorem length_leBytes (n x : Nat) : (leBytes n x).length = n := by
  induction n generalizing x with
  | zero => rfl
  | succ n ih => rw [leBytes, List.length_cons, ih]

theorem ofLeBytes_append (a b : List Byte) : ofLeBytes (a ++ b) = ofLeBytes a + 256 ^ a.length * ofLeBytes b := by
  induction a with
  | nil => simp [ofLeBytes]
  | cons x r ih => simp only [List.cons_append, ofLeBytes, ih, List.length_cons, pow_succ]; ring

theorem ofLeBytes_leBytes (n x : Nat) : ofLeBytes (leBytes n x) = x % 256 ^ n := by
  induction n generalizing x with
  | zero => simp [leBytes, ofLeBytes, Nat.mod_one]
  | succ n ih =>
    rw [leBytes, ofLeBytes, ih, BitVec.toNat_ofNat, pow_succ' 256 n, Nat.mod_mul (a := 256)]

theorem bitsOf_eq (x lo w : Nat) : bitsOf x lo w = x / 2 ^ lo % 2 ^ w := by rw [bitsOf, Nat.shiftRight_eq_div_pow]

namespace Machine

/-- A read of the first bytes of what was just written. -/
theorem State.hbmRead_hbmWrite (s : State) (pa : Nat) (bs rest : List Byte) :
    (s.hbmWrite pa (bs ++ rest)).hbmRead pa bs.length = ofLeBytes bs := by
  unfold State.hbmRead
  congr 1
  refine List.ext_getElem (by simp) fun i h _ => ?_
  have hi : i < bs.length := by simpa using h
  rw [List.getElem_map, List.getElem_range, hbmByte_hbmWrite, if_pos ⟨by omega, by rw [List.length_append]; omega⟩, Nat.add_sub_cancel_left,
    List.getD_append _ _ _ _ hi, List.getD_eq_getElem _ _ hi]

@[simp] theorem State.hbmRead_onPart (s : State) (p : Nat) (f : Part → Part) (pa n : Nat) : (s.onPart p f).hbmRead pa n = s.hbmRead pa n := rfl

end Machine
end Sys2Proof
end

section
/-!
PROOF of O22. A wall reading: what it notes in the trace and in the replay log, and the value that it gives.
-/
namespace Sys2Proof.Machine

/-! ### The trace (R376) -/

theorem State.tracePlace_le (s : State) (p own acc : Nat) (key : List Nat) (n : Nat) : s.tracePlace p own acc key n ≤ n := by
  induction n with
  | zero => exact Nat.le_refl _
  | succ n ih =>
    unfold State.tracePlace
    dsimp only
    split
    · exact Nat.le_succ_of_le ih
    · exact Nat.le_refl _

/-- A trace record changes the ring's HBM and its partition's counters, and nothing else. -/
structure State.TraceOnly (s t : State) : Prop where
  rest : { t with parts := [], hbm := [] } = { s with parts := [], hbm := [] }
  make : ∀ p, (t.part p).make = (s.part p).make

theorem State.TraceOnly.refl (s : State) : s.TraceOnly s := ⟨rfl, fun _ => rfl⟩

theorem State.trace_only (s : State) (cid die kind addr acc : Nat) (slice : Option Nat) (data : Nat) :
    s.TraceOnly (s.trace cid die kind addr acc slice data) := by
  unfold State.trace
  dsimp only
  split
  · split
    · refine ⟨rfl, fun p => ?_⟩
      unfold State.traceInsert
      rw [part_onPart]
      split <;> rename_i h
      · rw [h]; rfl
      · rfl
    · refine ⟨rfl, fun p => ?_⟩
      rw [part_onPart]
      split <;> rename_i h
      · rw [h]
      · rfl
  · exact .refl s

section
variable {s t : State} (h : s.TraceOnly t)
include h

theorem State.TraceOnly.cur : t.cur = s.cur := congrArg (·.cur) h.rest
theorem State.TraceOnly.cores : t.cores = s.cores := congrArg (·.cores) h.rest
theorem State.TraceOnly.ctxs : t.ctxs = s.ctxs := congrArg (·.ctxs) h.rest
theorem State.TraceOnly.ctx (c : Nat) : t.ctx c = s.ctx c := by rw [State.ctx, State.ctx, h.ctxs]
theorem State.TraceOnly.here : t.here = s.here := by rw [State.here, State.here, State.core, State.core, h.cores, h.cur]

end

/-- A die that traces no external input notes none. -/
theorem State.trace_untraced {s : State} {d : Nat} (h : s.Untraced d) (cid addr acc : Nat) (slice : Option Nat) (data : Nat) :
    s.trace cid d 8 addr acc slice data = s := by
  unfold State.Untraced at h
  simp only [State.trace, h, Bool.false_and]
  rfl

/-- The fields of a record of no slice, of kind 8 and DATA 3. -/
theorem bitsOf_traceBytes {acc addr die : Nat} (ha : acc < 2 ^ 64) (hd : die < 8) : let r := ofLeBytes (State.traceBytes acc addr 0 false die 8 3)
    bitsOf r 0 64 = acc ∧ bitsOf r 64 64 = addr % 2 ^ 64 ∧ bitsOf r 141 3 = die ∧ bitsOf r 144 8 = 8 ∧ bitsOf r 160 96 = 3 := by
  simp only [State.traceBytes, ofLeBytes_append, ofLeBytes_leBytes, length_leBytes, List.length_append, bitsOf_eq, packLe, b2n,
    Nat.shiftLeft_eq]
  norm_num
  omega

/-- A record stands at its place in the ring. -/
theorem State.traceInsert_spec (s : State) (p own acc : Nat) (key : List Nat) {bytes : List Byte} (h : bytes.length = 32) :
    ((s.traceInsert p own acc key bytes).part p).traceAt = (s.part p).traceAt + 1
      ∧ ∃ k ≤ (s.part p).traceAt, (s.traceInsert p own acc key bytes).hbmRead ((s.part p).make.traceRing + 32 * k) 32 = ofLeBytes bytes := by
  unfold State.traceInsert
  dsimp only
  refine ⟨by rw [part_onPart, if_pos rfl]; rfl, s.tracePlace p own acc key (s.part p).traceAt, tracePlace_le _ _ _ _ _ _, ?_⟩
  have hread := s.hbmRead_hbmWrite
  rw [hbmRead_onPart, ← hread _ bytes, h]

/-- A record of an external input in a ring that is not full stands at its place. -/
theorem State.trace_records {s : State} {cid die addr acc data : Nat} (h : ¬s.Untraced die)
    (hroom : 32 * (s.part (s.ctx cid).p).traceAt + 32 ≤ (s.part (s.ctx cid).p).make.traceLen) :
    let p := (s.ctx cid).p
    let t := s.trace cid die 8 addr acc none data
    (t.part p).traceAt = (s.part p).traceAt + 1
      ∧ ∃ k ≤ (s.part p).traceAt, t.hbmRead ((s.part p).make.traceRing + 32 * k) 32 = ofLeBytes (State.traceBytes acc addr 0 false die 8 data) := by
  have hk : (s.dieHw die).trKinds.getLsbD 8 = true := by simpa [State.Untraced] using h
  intro p t
  have ht : t = s.traceInsert p (cid + 1) acc [die, 0, 8] (State.traceBytes acc addr 0 false die 8 data) := by
    simp [t, p, State.trace, hk, hroom]
  rw [ht]
  exact s.traceInsert_spec _ _ _ _ (by simp [State.traceBytes])

/-- In a full ring it is dropped and counted. -/
theorem State.trace_drops {s : State} {cid die addr acc data : Nat} (h : ¬s.Untraced die)
    (hfull : 32 * (s.part (s.ctx cid).p).traceAt + 32 > (s.part (s.ctx cid).p).make.traceLen) :
    let p := (s.ctx cid).p
    let t := s.trace cid die 8 addr acc none data
    (t.part p).traceAt = (s.part p).traceAt ∧ (t.part p).traceDropped = (s.part p).traceDropped + 1 := by
  have hk : (s.dieHw die).trKinds.getLsbD 8 = true := by simpa [State.Untraced] using h
  have hn : ¬32 * (s.part (s.ctx cid).p).traceAt + 32 ≤ (s.part (s.ctx cid).p).make.traceLen := by omega
  intro p t
  have ht : t = s.onPart p fun q => { q with traceDropped := q.traceDropped + 1 } := by simp [t, p, State.trace, hk, hn]
  rw [ht, part_onPart, if_pos rfl]
  exact ⟨rfl, rfl⟩

/-! ### The replay log (R379) -/

/-- A context that does not record keeps no entry. -/
theorem State.record_off {s : State} {cid : Nat} (h : (s.ctx cid).recording = false) (acc cls die : Nat) (pl : List Byte) (is : List CoreInput) :
    s.record cid acc cls die pl is = s := by
  simp [State.record, h]

/-- Recording leaves the timed cores. -/
theorem State.record_cores (s : State) (cid acc cls die : Nat) (pl : List Byte) (is : List CoreInput) :
    (s.record cid acc cls die pl is).cores = s.cores ∧ (s.record cid acc cls die pl is).cur = s.cur := by
  unfold State.record
  split
  · unfold State.storeReplay
    dsimp only
    split <;> exact ⟨rfl, rfl⟩
  · exact ⟨rfl, rfl⟩

/-- The bytes of a context's replay log. -/
def Context.replayBytes (c : Context) : List Byte := (c.replayLog.map ReplayEntry.bytes).flatten

/-- A log that its partition's bytes hold stands in them. -/
theorem State.storeReplay_fits {s : State} {cid : Nat} (h : (s.ctx cid).replayBytes.length ≤ (s.part (s.ctx cid).p).make.replayLen) :
    (s.storeReplay cid).ctx cid = s.ctx cid ∧ ∀ k < (s.ctx cid).replayBytes.length,
      (s.ctx cid).replayBytes[k]? = some ((s.storeReplay cid).hbmByte ((s.part (s.ctx cid).p).make.replayLog + k)) := by
  have hs : s.storeReplay cid = (s.hbmWrite (s.part (s.ctx cid).p).make.replayLog (s.ctx cid).replayBytes).onPart (s.ctx cid).p
      fun q => { q with replayAt := (s.ctx cid).replayBytes.length, log := (s.ctx cid).replayLog, logEnd := none } := if_neg (Nat.not_lt.mpr h)
  rw [hs]
  refine ⟨rfl, fun k hk => ?_⟩
  change _ = some (State.hbmByte (State.hbmWrite _ _ _) _)
  rw [hbmByte_hbmWrite, if_pos ⟨by omega, by omega⟩, Nat.add_sub_cancel_left, List.getElem?_eq_getElem hk, List.getD_eq_getElem _ _ hk]

/-- A log too long for them ends the recording, at the ACC of the entry that is one too many. -/
theorem State.storeReplay_full {s : State} {cid : Nat} (h : (s.ctx cid).replayBytes.length > (s.part (s.ctx cid).p).make.replayLen) :
    (s.storeReplay cid).ctx cid =
      { s.ctx cid with
        recording := false
        truncated := some (((s.ctx cid).replayLog.getLast?.map ReplayEntry.acc).getD 0)
        replayLog := (s.ctx cid).replayLog.dropLast } := by
  have hs : (s.storeReplay cid).ctx cid = (s.onCtx cid fun c =>
      { c with
        recording := false
        truncated := some (((s.ctx cid).replayLog.getLast?.map ReplayEntry.acc).getD 0)
        replayLog := c.replayLog.dropLast }).ctx cid := by unfold State.storeReplay; exact (congrArg (State.ctx · cid) (if_pos h)).trans rfl
  rw [hs, ctx_onCtx, if_pos rfl]

/-- What a recorded input leaves: the log with its entry in the partition's bytes, or, where they do not hold it, the end of recording. -/
theorem State.record_on {s : State} {cid : Nat} (h : (s.ctx cid).recording = true) (acc cls die : Nat) (pl : List Byte) (is : List CoreInput) :
    let cx := s.ctx cid
    let mk := (s.part cx.p).make
    let l := cx.replayLog ++ [⟨acc, cls, die, pl, is⟩]
    let bytes := (l.map ReplayEntry.bytes).flatten
    let t := s.record cid acc cls die pl is
    (bytes.length ≤ mk.replayLen → (t.ctx cid).replayLog = l ∧ (t.ctx cid).recording = true
      ∧ ∀ k < bytes.length, bytes[k]? = some (t.hbmByte (mk.replayLog + k)))
    ∧ (bytes.length > mk.replayLen → (t.ctx cid).replayLog = cx.replayLog ∧ (t.ctx cid).recording = false ∧ (t.ctx cid).truncated = some acc) := by
  intro cx mk l bytes t
  let u := s.onCtx cid fun c => { c with replayLog := c.replayLog ++ [⟨acc, cls, die, pl, is⟩] }
  have hu : u.ctx cid = { cx with replayLog := l } := by simp [u, cx, l]
  have ht : t = u.storeReplay cid := by simp [t, State.record, h, u]
  have hb : (u.ctx cid).replayBytes = bytes := by rw [hu]; rfl
  have hm : (u.part (u.ctx cid).p).make = mk := by rw [hu]; rfl
  rw [ht]
  constructor
  · intro hle
    obtain ⟨hc, hbytes⟩ := storeReplay_fits (s := u) (cid := cid) (by rwa [hb, hm])
    rw [hb, hm] at hbytes
    rw [hc, hu]
    exact ⟨rfl, h, hbytes⟩
  · intro hgt
    rw [storeReplay_full (s := u) (cid := cid) (by rwa [hb, hm]), hu]
    simp [l]

/-! ### The reading (R34, R149, R154, R380) -/

/-- What a form of a wall reading does: the reading, whose value xd takes. -/
def State.readsWall (s : State) (xd : BitVec 5) (reg : Nat) (v : DWord) : State :=
  (s.wallReading reg v).2.retX xd (s.wallReading reg v).1 1

/-- The allowance once the cycle's cost is debited. -/
theorem State.allowT_eq (s : State) : s.allowT = dw ((s.part s.cur.p).allow.toNat - s.cycleCost s.cur.cid) := by
  unfold State.allowT
  have := (s.part s.cur.p).allow.isLt
  apply BitVec.eq_of_toNat_eq
  simp only [dw, BitVec.toNat_sub, BitVec.toNat_ofNat]
  omega

theorem exec_enrd (s : State) (f : SR) :
    exec (.enrd f) s = .next (s.readsWall f.xd 0x40 (dw ((s.part s.cur.p).allow.toNat - s.cycleCost s.cur.cid))) := by
  rw [← s.allowT_eq]; rfl

theorem exec_cfgr_wall {s : State} {f : SC} {e : Nat × DWord} (he : e ∈ s.wallTable) (hf : e.1 = f.csr.toNat) :
    exec (.cfgr f) s = .next (s.readsWall f.xd e.1 e.2) := by
  change execCfgr f s = _
  simp only [State.wallTable, List.mem_cons, List.not_mem_nil, or_false] at he
  unfold execCfgr State.readsWall
  rcases he with rfl | rfl | rfl <;> rw [← hf] <;> rfl

/-- What notes the reading leaves the timed cores. -/
theorem State.noteInput_cores (s : State) (cid cls d : Nat) (pl : List Byte) (is : List CoreInput) :
    (s.noteInput cid cls d pl is).cores = s.cores ∧ (s.noteInput cid cls d pl is).cur = s.cur := by
  unfold State.noteInput
  extract_lets acc s1
  have h1 : s.TraceOnly s1 := trace_only s _ _ _ _ _ _ _
  split
  · exact ⟨h1.cores, h1.cur⟩
  · exact ⟨(record_cores _ _ _ _ _ _ _).1.trans h1.cores, (record_cores _ _ _ _ _ _ _).2.trans h1.cur⟩

/-- An input that is neither traced nor recorded leaves no note. -/
theorem State.noteInput_silent {s : State} {cid d : Nat} (ht : s.Untraced d) (hr : (s.ctx cid).replaying = true ∨ (s.ctx cid).recording = false)
    (cls : Nat) (pl : List Byte) (is : List CoreInput) : s.noteInput cid cls d pl is = s := by
  unfold State.noteInput
  simp only [trace_untraced ht]
  split
  · rfl
  · exact record_off (hr.resolve_left ‹_›) _ _ _ _ _

theorem State.wallReading_live {s : State} (h : (s.ctx s.cur.cid).replaying = false) (reg : Nat) (v : DWord) :
    s.wallReading reg v = (v, s.noteInput s.cur.cid 3 s.cur.d (wallPayload reg v) []) := by
  simp [State.wallReading, h]

theorem State.wallReading_replay {s : State} (h : (s.ctx s.cur.cid).replaying = true) (reg : Nat) (v : DWord) :
    s.wallReading reg v = (s.noteInput s.cur.cid 3 s.cur.d (wallPayload reg v) []).takeLogged
      (s.loggedReading s.cur.cid s.cur.d reg s.cur.fl.hnd) v := by
  simp [State.wallReading, h]

theorem State.mem_hits_iff (s : State) (reg : Nat) (e : ReplayEntry) :
    e ∈ ((s.ctx s.cur.cid).replayLog.filter fun e =>
      e.cls == 3 && e.acc == (s.core s.cur.cid).acc.toNat && e.die == s.cur.d && e.payload.take 8 == leBytes 8 reg) ↔ s.Logged reg e := by
  simp [State.Logged, State.here, and_assoc]

/-- A kernel reading takes the one entry that the log has for it. -/
theorem State.loggedReading_unique {s : State} {reg : Nat} {l : ReplayEntry} (h : s.Logged reg l) (hu : ∀ k, s.Logged reg k → k = l) :
    s.loggedReading s.cur.cid s.cur.d reg false = some l := by
  unfold State.loggedReading
  simp only [Bool.false_eq_true, if_false]
  have hl := (s.mem_hits_iff reg l).mpr h
  rw [List.getLast?_eq_some_getLast (List.ne_nil_of_mem hl)]
  exact congrArg some (hu _ ((s.mem_hits_iff reg _).mp (List.getLast_mem _)))

theorem State.loggedReading_none {s : State} {reg : Nat} (h : ∀ l, ¬s.Logged reg l) (hnd : Bool) :
    s.loggedReading s.cur.cid s.cur.d reg hnd = none := by
  unfold State.loggedReading
  rw [List.eq_nil_iff_forall_not_mem.mpr fun e he => h e ((s.mem_hits_iff reg e).mp he)]
  simp

/-- A reading whose notes leave the state as it is gives its value. -/
theorem State.readsWall_gives {s : State} {xd : BitVec 5} {reg : Nat} {v w : DWord} (h : s.wallReading reg v = (w, s)) :
    s.Gives (s.readsWall xd reg v) xd w s.cur.fl.T := by
  unfold State.readsWall
  rw [h]
  exact (State.Quiet.refl s).gives xd w 1

/-- Outside replay a reading notes its input, and gives the value. -/
theorem State.readsWall_live {s : State} (h : (s.ctx s.cur.cid).replaying = false) (xd : BitVec 5) (reg : Nat) (v : DWord) :
    s.readsWall xd reg v = (s.noteInput s.cur.cid 3 s.cur.d (wallPayload reg v) []).retX xd v 1 := by
  unfold State.readsWall; rw [wallReading_live h]

@[simp] theorem State.here_steward (s : State) (kind arg : Nat) : (s.steward kind arg).here = s.here := rfl

/-- What the value of an S syllable leaves outside the timed core. -/
theorem State.retX_outside (s : State) (xd : BitVec 5) (v : DWord) (lat : Nat) : s.CoreOnly (s.retX xd v lat) := (s.retX_quiet xd v lat).outside

theorem State.retX_reqs (s : State) (xd : BitVec 5) (v : DWord) (lat : Nat) : (s.retX xd v lat).here.reqs = s.here.reqs := by
  obtain ⟨os, tr, ac, fl, n, -, -, -, h⟩ := (s.retX_quiet xd v lat).here
  rw [h]

/-- After the notes, the value goes where it goes without them. -/
theorem State.retX_owesHere {s u : State} (hc : u.cores = s.cores) (hcur : u.cur = s.cur) (xd : BitVec 5) (v : DWord) :
    s.OwesHere (u.retX xd v 1) (xdWrite xd v s.cur.fl.T) ∧ s.XsIs (u.retX xd v 1) v := by
  have hh : u.here = s.here := by unfold State.here State.core; rw [hc, hcur]
  constructor
  · have := (u.retX_quiet xd v 1).here
    unfold State.OwesHere at this ⊢
    rwa [hh, hcur] at this
  · intro f hf hm
    exact u.retX_xs xd v 1 f hf (by unfold State.isMine at hm ⊢; rwa [hcur])

section
variable {s : State} (xd : BitVec 5) (reg : Nat) (v : DWord)

/-- In replay a kernel bundle's reading gives the logged value. -/
theorem State.readsWall_logged (hr : (s.ctx s.cur.cid).replaying = true) (ht : s.Untraced s.cur.d) (hk : s.cur.fl.hnd = false)
    {l : ReplayEntry} (h : s.Logged reg l) (hu : ∀ k, s.Logged reg k → k = l) :
    s.Gives (s.readsWall xd reg v) xd (dw (ofLeBytes (l.payload.drop 8))) s.cur.fl.T := by
  refine readsWall_gives ?_
  rw [wallReading_replay hr, noteInput_silent ht (.inl hr), hk, loggedReading_unique h hu]
  simp [State.takeLogged, hk]

/-- With no entry in its log, a debug hold is asked for. -/
theorem State.readsWall_unlogged (hr : (s.ctx s.cur.cid).replaying = true) (hnow : s.here.now ≤ s.cur.fl.T) (h : ∀ l, ¬s.Logged reg l) :
    let t := s.readsWall xd reg v
    t.here.reqs = s.here.reqs ++ [⟨s.cur.fl.T + 1, s.cur.fl.hnd, ⟨10, s.cur.p, .debug⟩⟩] ∧ (3, s.here.acc.toNat) ∈ t.hub.events := by
  obtain ⟨hc, hcur⟩ := s.noteInput_cores s.cur.cid 3 s.cur.d (wallPayload reg v) []
  intro t
  have hw := wallReading_replay hr reg v
  rw [loggedReading_none h] at hw
  generalize s.noteInput s.cur.cid 3 s.cur.d (wallPayload reg v) [] = u at hc hcur hw
  have hh : u.here = s.here := by unfold State.here State.core; rw [hc, hcur]
  have hle : ¬u.here.now > u.T := by rw [hh, State.T, hcur]; exact Nat.not_lt.mpr hnow
  have htake : u.takeLogged none v = (v, (u.onCore fun c =>
      { c with reqs := c.reqs ++ [⟨u.T + 1, u.cur.fl.hnd, ⟨10, u.cur.p, .debug⟩⟩] }).steward 3 u.here.acc.toNat) := by
    simp only [State.takeLogged, if_neg hle]
  have ht : t = ((u.onCore fun c =>
      { c with reqs := c.reqs ++ [⟨u.T + 1, u.cur.fl.hnd, ⟨10, u.cur.p, .debug⟩⟩] }).steward 3 u.here.acc.toNat).retX xd v 1 := by
    simp only [t, State.readsWall, hw, htake]
  rw [ht]
  constructor
  · rw [retX_reqs]
    rw [here_steward, here_onCore, hh, State.T, hcur]
  · rw [(retX_outside _ _ _ _).hub, ← hh]
    exact List.mem_append_right _ (List.mem_singleton.mpr rfl)

/-- A recorded launch's log gains the reading. -/
theorem State.readsWall_recorded (hrec : (s.ctx s.cur.cid).recording = true) (hr : (s.ctx s.cur.cid).replaying = false) :
    let cx := s.ctx s.cur.cid
    let mk := (s.part cx.p).make
    let l := cx.replayLog ++ [⟨s.here.acc.toNat, 3, s.cur.d, wallPayload reg v, []⟩]
    let bytes := (l.map ReplayEntry.bytes).flatten
    let t := s.readsWall xd reg v
    (bytes.length ≤ mk.replayLen → (t.ctx s.cur.cid).replayLog = l ∧ (t.ctx s.cur.cid).recording = true
      ∧ ∀ k < bytes.length, bytes[k]? = some (t.hbmByte (mk.replayLog + k)))
    ∧ (bytes.length > mk.replayLen → (t.ctx s.cur.cid).replayLog = cx.replayLog ∧ (t.ctx s.cur.cid).recording = false
      ∧ (t.ctx s.cur.cid).truncated = some s.here.acc.toNat) := by
  intro cx mk l bytes t
  have ht : t = _ := readsWall_live hr xd reg v
  have hout := retX_outside (s.noteInput s.cur.cid 3 s.cur.d (wallPayload reg v) []) xd v 1
  have hctx : t.ctx s.cur.cid = (s.noteInput s.cur.cid 3 s.cur.d (wallPayload reg v) []).ctx s.cur.cid := by
    rw [ht]; unfold State.ctx; rw [hout.ctxs]
  rw [hctx]
  simp only [fun a => (ht ▸ hout.hbm a : t.hbmByte a = _)]
  unfold State.noteInput
  rw [hr]
  have hto := s.trace_only s.cur.cid s.cur.d 8 ((s.core s.cur.cid).nextAddr s.cur.d) (s.core s.cur.cid).acc.toNat none 3
  have := record_on (s := s.trace s.cur.cid s.cur.d 8 ((s.core s.cur.cid).nextAddr s.cur.d) (s.core s.cur.cid).acc.toNat none 3)
    (cid := s.cur.cid) (by rw [hto.ctx]; exact hrec) s.here.acc.toNat 3 s.cur.d (wallPayload reg v) []
  dsimp only at this
  rw [hto.ctx, hto.make] at this
  exact this

/-- A die that traces inputs gains a record of the reading, or drops it. -/
theorem State.readsWall_traced (hp : (s.ctx s.cur.cid).Plain) (hu : ¬s.Untraced s.cur.d) (hd : s.cur.d < 8) :
    let pt := s.part (s.ctx s.cur.cid).p
    let t := s.readsWall xd reg v
    let q := t.part (s.ctx s.cur.cid).p
    (32 * pt.traceAt + 32 ≤ pt.make.traceLen → q.traceAt = pt.traceAt + 1 ∧ ∃ k ≤ pt.traceAt,
      let r := t.hbmRead (pt.make.traceRing + 32 * k) 32
      bitsOf r 0 64 = s.here.acc.toNat ∧ bitsOf r 64 64 = s.here.nextAddr s.cur.d % 2 ^ 64 ∧ bitsOf r 141 3 = s.cur.d
      ∧ bitsOf r 144 8 = 8 ∧ bitsOf r 160 96 = 3)
    ∧ (32 * pt.traceAt + 32 > pt.make.traceLen → q.traceAt = pt.traceAt ∧ q.traceDropped = pt.traceDropped + 1) := by
  obtain ⟨hrec, hr⟩ := hp
  let u := s.trace s.cur.cid s.cur.d 8 (s.here.nextAddr s.cur.d) s.here.acc.toNat none 3
  have hto : s.TraceOnly u := s.trace_only _ _ _ _ _ _ _
  have hnote : s.noteInput s.cur.cid 3 s.cur.d (wallPayload reg v) [] = u := by
    have := record_off (s := u) (cid := s.cur.cid) (by rw [hto.ctx]; exact hrec) s.here.acc.toNat 3 s.cur.d (wallPayload reg v) []
    unfold State.noteInput
    rw [hr]
    exact this
  intro pt t q
  have hout := retX_outside u xd v 1
  have ht : t = u.retX xd v 1 := by rw [← hnote]; exact readsWall_live hr xd reg v
  have hq : q = u.part (s.ctx s.cur.cid).p := by simp only [q, ht, State.part, hout.parts]
  have hread : ∀ a n, t.hbmRead a n = u.hbmRead a n := fun a n => by simp only [ht, State.hbmRead, hout.hbm]
  rw [hq]
  constructor
  · intro hroom
    obtain ⟨hat, k, hk, hrd⟩ := trace_records hu hroom (addr := s.here.nextAddr s.cur.d) (acc := s.here.acc.toNat) (data := 3)
    refine ⟨hat, k, hk, ?_⟩
    rw [hread]
    simp only [u, pt, hrd]
    exact bitsOf_traceBytes s.here.acc.isLt hd
  · exact trace_drops hu

end

/-- Settles O22: what each form does is one reading, whose notes and value the lemmas above give. -/
theorem wallReadings : Obligations.WallReadings := by
  intro f g s cx pt left forms e he
  obtain ⟨i, xd, reg, v⟩ := e
  have hrun : exec i s = .next (s.readsWall xd reg v) := by
    rcases List.mem_cons.mp he with h | h
    · cases h; exact exec_enrd s g
    · obtain ⟨a, ha, h⟩ := List.mem_map.mp h
      cases h
      obtain ⟨ha, hf⟩ := List.mem_filter.mp ha
      exact exec_cfgr_wall ha (by simpa using hf)
  refine ⟨fun hp hu => ⟨_, hrun, State.readsWall_gives ?_⟩, fun hr => ⟨_, hrun, ?_⟩, fun hr hu hk l hl hone => ⟨_, hrun, ?_⟩,
    fun hr hnow hno => ⟨_, hrun, ?_⟩, fun hrec hr => ⟨_, hrun, ?_⟩, fun hp hu hd => ⟨_, hrun, ?_⟩⟩
  · obtain ⟨hrec, hr⟩ := hp
    rw [State.wallReading_live hr, State.noteInput_silent hu (.inr hrec)]
  · obtain ⟨hc, hcur⟩ := s.noteInput_cores s.cur.cid 3 s.cur.d (wallPayload reg v) []
    rw [State.readsWall_live hr]
    exact State.retX_owesHere hc hcur xd v
  · exact State.readsWall_logged xd reg v hr hu hk hl hone
  · exact State.readsWall_unlogged xd reg v hr hnow hno
  · exact State.readsWall_recorded xd reg v hrec hr
  · exact State.readsWall_traced xd reg v hp hu hd

end Sys2Proof.Machine
end

section
/-!
PROOF of O4. The words of a bundle by its header, and what its issue leaves in the rows.
-/
namespace Sys2Proof.Machine

/-! ### The words of a bundle (R85, R86) -/

/-- The place of an element in a filtered range is the number of those before it. -/
theorem mem_zipIdx_filter_range (P : Nat → Bool) (m n k : Nat) :
    (n, k) ∈ ((List.range m).filter P).zipIdx ↔ n < m ∧ P n = true ∧ k = (List.range n).countP P := by
  induction m with
  | zero => simp
  | succ m ih =>
    rw [List.range_succ, List.filter_append, List.zipIdx_append, List.mem_append, ih, Nat.zero_add, ← List.countP_eq_length_filter]
    by_cases hP : P m = true
    · simp only [List.filter_cons, hP, if_true, List.filter_nil, List.zipIdx_singleton, List.mem_singleton, Prod.mk.injEq]
      constructor
      · rintro (⟨h, hn, hk⟩ | ⟨rfl, rfl⟩)
        · exact ⟨by omega, hn, hk⟩
        · exact ⟨by omega, hP, rfl⟩
      · rintro ⟨h, hn, hk⟩
        rcases Nat.lt_succ_iff_lt_or_eq.mp h with h | rfl
        · exact .inl ⟨h, hn, hk⟩
        · exact .inr ⟨rfl, hk⟩
    · simp only [List.filter_cons, hP, List.filter_nil, List.zipIdx_nil, List.not_mem_nil, or_false, if_neg, Bool.false_eq_true, not_false_iff]
      refine and_congr_left fun ⟨hn, _⟩ => ⟨fun h => by omega, fun h => ?_⟩
      rcases Nat.lt_succ_iff_lt_or_eq.mp h with h | rfl
      · exact h
      · exact absurd hn hP

/-- Bit 7 - n of P is bit 63 - n of the header. -/
theorem Header.ofWord_p_bit (w : DWord) {n : Nat} (hn : n < 8) :
    (Header.ofWord w).p.getLsbD (7 - n) = decide (w.toNat / 2 ^ (63 - n) % 2 = 1) := by
  rw [Header.ofWord, BitVec.getLsbD_extractLsb', show 56 + (7 - n) = 63 - n by omega, BitVec.getLsbD, Nat.testBit_eq_decide_div_mod_eq]
  simp
  omega

theorem Header.ofWord_slots (w : DWord) :
    (Header.ofWord w).slots = (List.range 8).filter fun n => decide (w.toNat / 2 ^ (63 - n) % 2 = 1) :=
  List.filter_congr fun _ hn => Header.ofWord_p_bit w (List.mem_range.mp hn)

/-- The words of a bundle: that of each present slot. -/
theorem State.mem_fetchBundle_words (s : State) (cid a n : Nat) (w : DWord) :
    (n, w) ∈ (s.fetchBundle cid a).words ↔ n < 8 ∧ (s.fetchWord cid a).toNat / 2 ^ (63 - n) % 2 = 1 ∧ w = slotWord s cid a n := by
  simp only [State.fetchBundle, List.mem_map, Prod.exists, Header.ofWord_slots, mem_zipIdx_filter_range, Prod.mk.injEq, slotWord]
  constructor
  · rintro ⟨n, k, ⟨hn, hp, rfl⟩, rfl, rfl⟩
    exact ⟨hn, by simpa using hp, by rw [Nat.add_comm 1]⟩
  · rintro ⟨hn, hp, rfl⟩
    exact ⟨n, _, ⟨hn, by simpa using hp, rfl⟩, rfl, by rw [Nat.add_comm 1]⟩

theorem State.fetchBundle_bytes (s : State) (cid a : Nat) :
    (s.fetchBundle cid a).bytes = 8 * (1 + (List.range 8).countP fun k => (s.fetchWord cid a).toNat / 2 ^ (63 - k) % 2 = 1) := by
  simp [Bundle.bytes, State.fetchBundle, Header.ofWord_slots, List.countP_eq_length_filter]

/-- The syllables of a bundle: what each word of a slot below 6 decodes to. -/
theorem Bundle.mem_decoded (b : Bundle) (n : Nat) (i : Instr) :
    (n, i) ∈ b.decoded ↔ n < 6 ∧ ∃ w, (n, w) ∈ b.words ∧ decodeSlot n w = .ok i := by
  simp only [Bundle.decoded, List.mem_filterMap, Prod.exists]
  constructor
  · rintro ⟨m, w, hw, h⟩
    split at h
    · rename_i hm
      cases hd : decodeSlot m w with
      | error e => simp [hd, Except.toOption] at h
      | ok j =>
        simp only [hd, Except.toOption, Option.map_some, Option.some.injEq, Prod.mk.injEq] at h
        obtain ⟨rfl, rfl⟩ := h
        exact ⟨hm, w, hw, hd⟩
    · cases h
  · rintro ⟨hn, w, hw, hd⟩
    exact ⟨n, w, hw, by simp [hn, hd, Except.toOption]⟩

/-- Where R96 finds nothing, every syllable decodes. -/
theorem Bundle.decodes_of_findings {b : Bundle} {c : Context} (h : b.findings c = []) {n : Nat} {w : DWord} (hn : n < 6) (hw : (n, w) ∈ b.words) :
    ∃ i, (n, i) ∈ b.decoded := by
  unfold Bundle.findings at h
  have hu : b.undecoded = [] := (List.append_eq_nil_iff.mp (List.append_eq_nil_iff.mp h).1).2
  have hb := List.filterMap_eq_nil_iff.mp hu _ hw
  cases hd : decodeSlot n w with
  | error e => simp [hn, hd, Except.toOption] at hb
  | ok i => exact ⟨i, (b.mem_decoded n i).mpr ⟨hn, w, hw, hd⟩⟩

/-! ### What the checks of an issue leave -/

/-- The running context and the bundles in the rows stand. -/
structure State.KeepsRows (s t : State) : Prop where
  cur : t.cur = s.cur
  flights : t.here.flights = s.here.flights

theorem State.KeepsRows.refl (s : State) : s.KeepsRows s := ⟨rfl, rfl⟩

theorem State.KeepsRows.trans {s t u : State} (h : s.KeepsRows t) (k : t.KeepsRows u) : s.KeepsRows u :=
  ⟨k.cur.trans h.cur, k.flights.trans h.flights⟩

theorem State.KeepsRows.onCore (s : State) (f : Core → Core) (h : (f s.here).flights = s.here.flights) : s.KeepsRows (s.onCore f) :=
  ⟨rfl, by rw [here_onCore, h]⟩

theorem State.KeepsRows.foldl {α : Type} {f : State → α → State} (hf : ∀ (s : State) a, s.KeepsRows (f s a)) (l : List α) (s : State) :
    s.KeepsRows (l.foldl f s) := by
  induction l generalizing s with
  | nil => exact .refl s
  | cons a r ih => exact (hf s a).trans (ih _)

/-- The trap of one finding. -/
def State.findingTrap (s : State) (e : Finding) : Trap :=
  ⟨s.cur.fl.T, e.1, e.2.1, s.cur.d, none, e.2.2, s.cur.fl.inv.isSome, false, 0, 0, s.cur.fl.hnd⟩

theorem State.trapAt_eq (s : State) (e : Finding) :
    s.trapAt e.2.2 e.1 e.2.1 = s.onCore fun c => { c with traps := c.traps ++ [s.findingTrap e] } := rfl

theorem State.trapAll_keepsRows (s : State) (l : List Finding) : s.KeepsRows (s.trapAll l) :=
  .foldl (fun s e => by rw [trapAt_eq]; exact .onCore s _ rfl) l s

/-- Every finding becomes a trap. -/
theorem State.trapAll_traps (s : State) (l : List Finding) : (s.trapAll l).here.traps = s.here.traps ++ l.map s.findingTrap := by
  unfold State.trapAll
  induction l generalizing s with
  | nil => simp
  | cons e r ih =>
    rw [List.foldl_cons, trapAt_eq, ih, here_onCore, List.map_cons, List.append_assoc]
    rfl

section
variable {s t : State} (h : s.KeepsRows t)
include h

theorem State.KeepsRows.trapAll (l : List Finding) : s.KeepsRows (t.trapAll l) := h.trans (t.trapAll_keepsRows l)

theorem State.KeepsRows.trapAllIf (c : Bool) (l : List Finding) : s.KeepsRows (if c then t.trapAll l else t) := by
  split
  · exact h.trapAll l
  · exact h

theorem State.KeepsRows.setCore {k : Core} (hk : k.flights = t.here.flights) : s.KeepsRows (t.setCore s.cur.cid k) := by
  refine ⟨h.cur, ?_⟩
  rw [State.here, setCore_cur, h.cur, core_setCore, if_pos rfl, hk, h.flights]

theorem State.KeepsRows.conflicts (l : List Conflict) : s.KeepsRows (l.foldl State.trapConflict t) :=
  h.trans (.foldl (fun u _ => .onCore u _ rfl) l t)

end

/-- The checks of an issue record traps and port uses; the rows stand. -/
theorem State.issueChecks_keepsRows (s : State) (b : Bundle) (syl : List (Nat × Instr)) : s.KeepsRows (s.issueChecks s.cur.cid b syl) := by
  unfold State.issueChecks
  dsimp only
  refine .trapAll (.trapAll (.conflicts (.setCore ?_ ?_) _) _) _
  · exact .trapAll (.trapAll (.trapAllIf (.trapAllIf (.refl s) _ _) _ _) _) _
  · rfl

theorem State.trapTWhen_flights (s : State) (b : Bool) (code val k : Nat) : ((s.trapTWhen b code val).core k).flights = (s.core k).flights := by
  unfold State.trapTWhen State.trapT
  split
  · rw [core_onCore]; split
    · rename_i h; rw [h]; rfl
    · rfl
  · rfl

/-- A logging bundle takes log places, and owes LOGPTR; the rows stand. -/
theorem State.logIssue_spec (s : State) (syl : List (Nat × Instr)) :
    ∃ places pa, (s.logIssue syl).cur = { s.cur with fl := { s.cur.fl with logs := places, logPa := pa } }
      ∧ (s.logIssue syl).here.flights = s.here.flights := by
  unfold State.logIssue
  split
  · exact ⟨s.cur.fl.logs, s.cur.fl.logPa, rfl, rfl⟩
  · dsimp only
    refine ⟨_, _, rfl, ?_⟩
    change (State.core (State.oweTab _ _) s.cur.cid).flights = _
    refine (owe_flights _ _ _).trans ?_
    change (State.core (State.trapTWhen _ _ _ _) s.cur.cid).flights = _
    simp only [trapTWhen_flights]
    rfl

/-! ### The issue (R20, R94) -/

/-- The machine as a die's sequencer issues a bundle: the bundle is the running one. -/
def State.issuing0 (s : State) (cid p d : Nat) (b : Bundle) : State :=
  { s with cur := { cid := cid, p := p, d := d, slot := 15, X := ((s.core cid).newFlight d b).T, fl := (s.core cid).newFlight d b } }

/-- What comes before the checks of an issue: port uses end, the trace, the debugger's stop, the debit. -/
def State.issueBegins (s : State) (cid p d : Nat) (b : Bundle) (padded : Bool) : State :=
  let c := s.core cid
  let fl := c.newFlight d b
  ((((s.issuing0 cid p d b).onCore Core.pruneUses).trace cid d 1 b.addr c.acc.toNat none 0).onDie fun x =>
    if b.hasBrk && !padded then x else { x with skip := false }).debit (c.bundleCost d fl.tab padded b)

theorem State.debit_keepsRows (s : State) (cost : Nat) : s.KeepsRows (s.debit cost) := by
  unfold State.debit
  exact .trans (t := s.onPart _ _) ⟨rfl, rfl⟩ (.onCore _ _ rfl)

theorem State.issueBegins_keepsRows (s : State) (cid p d : Nat) (b : Bundle) (padded : Bool) :
    (s.issuing0 cid p d b).KeepsRows (s.issueBegins cid p d b padded) := by
  unfold State.issueBegins
  have htrace : ∀ (u : State) a b c d e f g, u.KeepsRows (u.trace a b c d e f g) := fun u a b c d e f g =>
    have h := u.trace_only a b c d e f g
    ⟨h.cur, by rw [h.here]⟩
  exact .trans (.onCore _ _ rfl) (.trans (htrace _ _ _ _ _ _ _ _) (.trans (.onCore _ _ rfl) (debit_keepsRows _ _)))

/-- A badly encoded bundle traps, once for each finding, and enters nothing. -/
theorem State.issue_bad {s : State} {cid : Nat} {b : Bundle} (p d : Nat) (h : s.encodingFindings cid b ≠ []) :
    ((s.issue cid p d b).core cid).flights = (s.core cid).flights ∧
      ∀ e ∈ s.encodingFindings cid b, (s.issuing0 cid p d b).findingTrap e ∈ ((s.issue cid p d b).core cid).traps := by
  let begun := s.issueBegins cid p d b (((s.core cid).newFlight d b).tab.padded && !((s.core cid).newFlight d b).hnd)
  have hk : (s.issuing0 cid p d b).KeepsRows begun := s.issueBegins_keepsRows cid p d b _
  have hi : s.issue cid p d b = begun.trapAll (s.encodingFindings cid b) := by
    unfold State.issue
    obtain ⟨f, r, hf⟩ := List.exists_cons_of_ne_nil h
    dsimp only
    rw [hf]
    rfl
  have hcid : (begun.trapAll (s.encodingFindings cid b)).cur.cid = cid := by
    rw [(trapAll_keepsRows _ _).cur, hk.cur]; rfl
  have hhere : (s.issue cid p d b).core cid = (begun.trapAll (s.encodingFindings cid b)).here := by
    rw [State.here, hcid, hi]
  rw [hhere]
  refine ⟨(hk.trapAll _).flights, fun e he => ?_⟩
  rw [trapAll_traps]
  refine List.mem_append_right _ (List.mem_map.mpr ⟨e, he, ?_⟩)
  rw [State.findingTrap, hk.cur]
  rfl

/-- The die of an issued bundle goes on: the walker, and under RECORD the last result cycle. -/
def Die.issued (x : Die) (b : Bundle) (T : Nat) (hnd logs : Bool) (reach : Nat) : Die :=
  let y := x.advance b T hnd
  if logs then { y with recEnd := max y.recEnd reach } else y

theorem Die.issued_next (x : Die) (b : Bundle) (T : Nat) (logs : Bool) (reach : Nat) :
    (x.issued b T false logs reach).next = T + 1 + b.hdr.stall.toNat := by
  unfold Die.issued
  dsimp only
  split <;> rfl

/-- The machine after the checks of a bundle that issues outside padded passes. -/
def State.issueChecked (s : State) (cid p d : Nat) (b : Bundle) : State :=
  ((s.issueBegins cid p d b false).issueChecks cid b b.decoded).logIssue b.decoded

theorem State.issueChecked_spec (s : State) (cid p d : Nat) (b : Bundle) : ∃ places pa,
    (s.issueChecked cid p d b).cur
      = { (s.issuing0 cid p d b).cur with fl := { (s.core cid).newFlight d b with logs := places, logPa := pa } }
    ∧ (s.issueChecked cid p d b).here.flights = (s.core cid).flights := by
  let s3 := (s.issueBegins cid p d b false).issueChecks cid b b.decoded
  have h3 : (s.issuing0 cid p d b).KeepsRows s3 := by
    have hk := s.issueBegins_keepsRows cid p d b false
    have := (s.issueBegins cid p d b false).issueChecks_keepsRows b b.decoded
    rw [hk.cur] at this
    exact hk.trans this
  obtain ⟨places, pa, hcur, hfl⟩ := s3.logIssue_spec b.decoded
  rw [h3.cur] at hcur
  exact ⟨places, pa, hcur, hfl.trans h3.flights⟩

/-- A well-encoded bundle outside padded passes enters the rows after its checks, and the die goes on. -/
theorem State.issue_core {s : State} {cid d : Nat} {b : Bundle} (p : Nat) (h : s.encodingFindings cid b = [])
    (hpad : (((s.core cid).newFlight d b).tab.padded && !((s.core cid).newFlight d b).hnd) = false) : ∃ logs reach,
    (s.issue cid p d b).core cid = (((s.issueChecked cid p d b).onCore fun c =>
        { c with flights := c.flights ++ [{ (s.issueChecked cid p d b).cur.fl with syl := b.decoded }] }).onDie fun x =>
        x.issued b ((s.core cid).newFlight d b).T ((s.core cid).newFlight d b).hnd logs reach).core cid := by
  unfold State.issue
  dsimp only
  rw [h]
  dsimp only
  rw [hpad]
  let fl := (s.core cid).newFlight d b
  refine ⟨fl.tab.amode == 1 && !((s.core cid).members fl.grp d).isEmpty, bundleReach fl.tab fl.T (b.decoded.filter fun e => e.1 != 0), ?_⟩
  split <;> rfl

/-- A well-encoded bundle of an unpadded pass enters the rows with all its syllables, and the next bundle of the die follows after STALL. -/
theorem State.issue_good {s : State} {cid d : Nat} {b : Bundle} (p : Nat) (h : s.encodingFindings cid b = [])
    (hh : (s.core cid).handler = false) (hp : ((s.core cid).die d).tab.padded = false) :
    ∃ places pa, ((s.issue cid p d b).core cid).flights
        = (s.core cid).flights ++ [{ (s.core cid).newFlight d b with logs := places, logPa := pa, syl := b.decoded }]
      ∧ (((s.issue cid p d b).core cid).die d).next = (s.core cid).acc.toNat + 1 + b.hdr.stall.toNat := by
  have hpad : (((s.core cid).newFlight d b).tab.padded && !((s.core cid).newFlight d b).hnd) = false := by
    simp [Core.newFlight, hp]
  obtain ⟨logs, reach, hcore⟩ := issue_core p h hpad
  obtain ⟨places, pa, hcur, hfl⟩ := s.issueChecked_spec cid p d b
  have hcid : cid = (s.issueChecked cid p d b).cur.cid := by rw [hcur]; rfl
  have hd : (s.issueChecked cid p d b).cur.d = d := by rw [hcur]; rfl
  refine ⟨places, pa, ?_, ?_⟩
  · rw [hcore, State.onDie, core_onCore, onCore_cur, if_pos hcid, here_onCore]
    change Core.flights _ ++ _ = _
    rw [hfl, hcur]
  · have hfh : ((s.core cid).newFlight d b).hnd = false := hh
    have hfT : ((s.core cid).newFlight d b).T = (s.core cid).acc.toNat := by simp [Core.newFlight, Core.now, hh]
    rw [hcore, State.onDie, core_onCore, onCore_cur, if_pos hcid, hd, Core.die_onDie, if_pos rfl, hfh, Die.issued_next, hfT]

theorem State.exec_issue {s : State} {p cid d a : Nat} (hp : (s.part p).running = some cid) (hc : (s.ctx cid).state = .running)
    (ha : (s.core cid).dueBundle d = some a) :
    exec (if (s.fetchWord cid a).toNat / 2 ^ 56 = 0 then .delayBundle p d else .bundleIssue p d) s
      = .next (s.issue cid p d (s.fetchBundle cid a)) := by
  have hz : (s.fetchBundle cid a).hdr.p = 0 ↔ (s.fetchWord cid a).toNat / 2 ^ 56 = 0 := Header.ofWord_p_eq_zero _
  have hi := State.runs.issuing ⟨hp, hc⟩ ha
  split <;> rename_i h0
  · change execDelayBundle p d s = _
    simp only [execDelayBundle, hi, if_pos (hz.mpr h0)]
  · change execBundleIssue p d s = _
    simp only [execBundleIssue, hi, if_neg (mt hz.mp h0)]

theorem Header.ofWord_fields (w : DWord) : (Header.ofWord w).grp.toNat = w.toNat / 2 ^ 48 % 256 ∧ (Header.ofWord w).stall.toNat = w.toNat / 2 ^ 42 % 64
    ∧ (Header.ofWord w).lit.toNat = w.toNat % 2 ^ 32 := by
  simp only [Header.ofWord, BitVec.extractLsb'_toNat, Nat.shiftRight_eq_div_pow]
  norm_num

/-- Settles O4: the header's fields and words, and what an issue does with and without findings. -/
theorem issueDecodesTheBundle : Obligations.IssueDecodesTheBundle := by
  intro s p d cid a hp hc ha hh hpad h b i
  have hrun : exec i s = .next (s.issue cid p d b) := State.exec_issue hp hc ha
  obtain ⟨hgrp, hstall, hlit⟩ := Header.ofWord_fields (s.fetchWord cid a)
  constructor
  · intro hfind hv
    have henc : s.encodingFindings cid b = [] := by
      unfold State.encodingFindings
      change _ ++ (if (s.group cid (Header.ofWord _).grp.toNat).v = true then _ else _) = _
      rw [hgrp, if_pos hv, hfind]
      rfl
    obtain ⟨places, pa, hfl, hnext⟩ := State.issue_good p henc hh hpad
    have hsyl : ∀ n i, (n, i) ∈ b.decoded ↔ n < 6 ∧ h / 2 ^ (63 - n) % 2 = 1 ∧ decodeSlot n (slotWord s cid a n) = .ok i := fun n i => by
      rw [Bundle.mem_decoded]
      refine and_congr_right fun hn => ?_
      simp only [b, s.mem_fetchBundle_words]
      exact ⟨fun ⟨w, ⟨_, hp, hw⟩, hd⟩ => ⟨hp, hw ▸ hd⟩, fun ⟨hp, hd⟩ => ⟨_, ⟨by omega, hp, rfl⟩, hd⟩⟩
    refine ⟨_, hrun, _, hfl, ?_, rfl, rfl, hh, hlit, hgrp, s.fetchBundle_bytes cid a, hsyl, fun n hn hpres => ?_, ?_⟩
    · simp [Core.newFlight, Core.now, hh]
    · exact Bundle.decodes_of_findings hfind hn ((s.mem_fetchBundle_words cid a n _).mpr ⟨by omega, hpres, rfl⟩)
    · rw [hnext]; exact congrArg _ hstall
  · intro hfind
    have henc : ∀ e ∈ b.findings (s.ctx cid), e ∈ s.encodingFindings cid b := fun e he => List.mem_append_left _ he
    obtain ⟨e, he⟩ := List.exists_mem_of_ne_nil _ hfind
    obtain ⟨hfl, htr⟩ := State.issue_bad p d (List.ne_nil_of_mem (henc e he))
    refine ⟨_, hrun, hfl, fun e he => ⟨_, htr e (henc e he), ?_, rfl, rfl, rfl⟩⟩
    simp [State.findingTrap, State.issuing0, Core.newFlight, Core.now, hh]

end Sys2Proof.Machine
end

section
/-!
PROOF of O51. The crossing: where the streams go, and the writes that it lets perform.
-/
namespace Sys2Proof.SMap

variable {α : Type}

/-- Entries that move to another key, each key to one of its own: a key holds what its only source held. -/
theorem get_filterMap_key (d : α) (m : SMap α) (φ : Nat → Option Nat) {k k' : Nat} (h : ∀ n, φ n = some k ↔ n = k') :
    get d (m.filterMap fun e => (φ e.1).map fun j => (j, e.2)) k = get d m k' := by
  induction m with
  | nil => rfl
  | cons e r ih =>
    obtain ⟨n, v⟩ := e
    simp only [List.filterMap_cons, get]
    cases hφ : φ n with
    | none => rw [if_neg (by rintro rfl; simp [(h n).mpr rfl] at hφ)]; exact ih
    | some j =>
      by_cases hj : j = k
      · subst hj
        simp [get, (h n).mp hφ]
      · rw [if_neg (by rintro rfl; exact hj (Option.some.inj (hφ.symm.trans ((h n).mpr rfl))))]
        simp only [Option.map_some, get, if_neg hj]
        exact ih

/-- A key to which none moves reads as an unlisted one. -/
theorem get_filterMap_no_key (d : α) (m : SMap α) (φ : Nat → Option Nat) {k : Nat} (h : ∀ n, φ n ≠ some k) :
    get d (m.filterMap fun e => (φ e.1).map fun j => (j, e.2)) k = d := by
  refine get_of_not_mem fun hk => ?_
  obtain ⟨e, he, rfl⟩ := List.mem_map.mp hk
  obtain ⟨x, -, hx⟩ := List.mem_filterMap.mp he
  obtain ⟨j, hj, rfl⟩ := Option.map_eq_some_iff.mp hx
  exact h _ hj

end Sys2Proof.SMap

namespace Sys2Proof.Machine

/-! ### The streams (R22, R148) -/

/-- Where a hop register's value goes: the next column of its channel. -/
def hopNext (k : Nat) : Option Nat :=
  if k / 128 % 32 < 16 then (if k % 128 = 127 then none else some (k + 1)) else if k % 128 = 0 then none else some (k - 1)

/-- The sink that a hop register's value enters. -/
def hopSink (k : Nat) : Option Nat :=
  if k % 128 = 0 ∧ k / 128 % 32 ≥ 16 then some (k / 4096 * 16 + (k / 128 % 32 - 16)) else none

theorem shiftHops_eq (m : SMap Rank) : shiftHops m = m.filterMap fun e => (hopNext e.1).map fun j => (j, e.2) := by
  unfold shiftHops hopNext
  refine List.filterMap_congr fun e _ => ?_
  dsimp only
  split <;> split <;> rfl

theorem sinksFrom_eq (m : SMap Rank) : sinksFrom m = m.filterMap fun e => (hopSink e.1).map fun j => (j, e.2) := by
  unfold sinksFrom hopSink
  refine List.filterMap_congr fun e _ => ?_
  dsimp only
  split <;> rfl

theorem hopNext_eq_some_iff (n k : Nat) : hopNext n = some k ↔
    (n / 128 % 32 < 16 ∧ n % 128 ≠ 127 ∧ k = n + 1) ∨ (16 ≤ n / 128 % 32 ∧ n % 128 ≠ 0 ∧ k = n - 1) := by
  unfold hopNext
  split <;> split <;> simp <;> omega

theorem hopSink_eq_some_iff (n k : Nat) : hopSink n = some k ↔ n % 128 = 0 ∧ 16 ≤ n / 128 % 32 ∧ k = n / 4096 * 16 + (n / 128 % 32 - 16) := by
  unfold hopSink
  split <;> simp <;> omega

section
variable (m : SMap Rank) (d row ch col : Nat)

theorem shiftHops_east (hc : ch < 16) (hl : col < 127) :
    SMap.get 0 (shiftHops m) (hopKey d row ch (col + 1)) = SMap.get 0 m (hopKey d row ch col) := by
  rw [shiftHops_eq]
  refine SMap.get_filterMap_key 0 m hopNext fun n => ?_
  rw [hopNext_eq_some_iff]
  unfold hopKey
  omega

theorem shiftHops_west (hc : ch < 16) (hl : col < 127) :
    SMap.get 0 (shiftHops m) (hopKey d row (16 + ch) col) = SMap.get 0 m (hopKey d row (16 + ch) (col + 1)) := by
  rw [shiftHops_eq]
  refine SMap.get_filterMap_key 0 m hopNext fun n => ?_
  rw [hopNext_eq_some_iff]
  unfold hopKey
  omega

theorem shiftHops_first_east (hc : ch < 16) : SMap.get 0 (shiftHops m) (hopKey d row ch 0) = 0 := by
  rw [shiftHops_eq]
  refine SMap.get_filterMap_no_key 0 m hopNext fun n hn => ?_
  rw [hopNext_eq_some_iff] at hn
  unfold hopKey at hn
  omega

theorem shiftHops_last_west (hc : ch < 16) : SMap.get 0 (shiftHops m) (hopKey d row (16 + ch) 127) = 0 := by
  rw [shiftHops_eq]
  refine SMap.get_filterMap_no_key 0 m hopNext fun n hn => ?_
  rw [hopNext_eq_some_iff] at hn
  unfold hopKey at hn
  omega

theorem sinksFrom_west (hc : ch < 16) : SMap.get 0 (sinksFrom m) (sinkKey d row ch) = SMap.get 0 m (hopKey d row (16 + ch) 0) := by
  rw [sinksFrom_eq]
  refine SMap.get_filterMap_key 0 m hopSink fun n => ?_
  rw [hopSink_eq_some_iff]
  unfold hopKey sinkKey
  omega

end

/-! ### The writes due (R29) -/

/-- The step in which a pending write performs. -/
theorem Core.performTask_eq_some_iff (c : Core) (cid p : Nat) (o : Owed) (e : Task) : c.performTask cid p o = some e ↔
    (o.isHatom = false ∧ e = ⟨0, o.ctx cid p, .owedWritePerforms o.id⟩)
      ∨ ∃ ch tag h, o.dest = .hatom ch tag ∧ c.hatom tag = some h ∧ e = ⟨0, h.ctx, .hatomHomeOperation tag⟩ := by
  unfold Core.performTask Owed.isHatom
  cases o.dest <;> simp [eq_comm]

theorem State.runs.crossing {s : State} {p cid : Nat} (h : s.runs p cid) (h1 : s.cur.row = 1) :
    exec (.cycleBoundary p) s = .next (s.cross cid p) := by
  obtain ⟨hp, hc⟩ := h
  show execCycleBoundary p s = _
  simp [execCycleBoundary, hp, hc, h1]

/-- The core on the other side of the crossing. -/
def Core.across (c : Core) : Core :=
  let c1 : Core := { c with owed := c.owed.filter fun o => !(o.isHatom && o.hnd == c.handler && o.due == c.now) }
  if c.handler then { c1 with hclk := c1.hclk + 1 } else c1.crossed c.now

theorem State.core_cross (s : State) (cid p : Nat) : (s.cross cid p).core cid = (s.core cid).across := by
  change (s.setCore cid (s.core cid).across).core cid = _
  rw [core_setCore, if_pos rfl]

theorem Core.across_handler {c : Core} (h : c.handler = true) : c.across.acc = c.acc ∧ c.across.hclk = c.hclk + 1 ∧ c.across.hops = c.hops := by
  unfold Core.across
  dsimp only
  rw [if_pos h]
  exact ⟨rfl, rfl, rfl⟩

theorem Core.across_kernel {c : Core} (h : c.handler = false) :
    c.across.acc = c.acc + 1 ∧ c.across.hclk = c.hclk ∧ c.across.hops = shiftHops c.hops ∧ c.across.sinks = sinksFrom c.hops := by
  unfold Core.across
  dsimp only
  rw [if_neg (by simp [h])]
  exact ⟨rfl, rfl, rfl, rfl⟩

theorem Core.across_rest (c : Core) :
    c.across.owed = c.owed.filter (fun o => !(o.isHatom && o.hnd == c.handler && o.due == c.now)) ∧ c.across.dies = c.dies := by
  unfold Core.across
  dsimp only
  split <;> exact ⟨rfl, rfl⟩

/-- The steps after the crossing are those of the writes due, and none other. -/
theorem State.cross_then (s : State) (cid p : Nat) : let c := s.core cid
    s.Then (s.cross cid p) p cid 2 fun e => ∃ o ∈ c.owed, o.hnd = c.handler ∧ o.due = c.now ∧ c.barred o = false ∧ c.performTask cid p o = some e := by
  intro c
  refine ⟨(sortBy owedBefore (c.owed.filter fun o => o.hnd == c.handler && o.due == c.now && !c.barred o)).filterMap (c.performTask cid p), rfl, ?_⟩
  intro e
  simp only [List.mem_filterMap, mem_sortBy, List.mem_filter, Bool.and_eq_true, beq_iff_eq, Bool.not_eq_true', and_assoc]

/-- Settles O51: the streams by where each key's value comes from, the writes by the steps that the crossing puts on the agenda. -/
theorem cycleCrossing : Obligations.CycleCrossing := by
  intro s p cid h h1 c C
  obtain ⟨howed, hdies⟩ := c.across_rest
  refine ⟨_, h.crossing h1, ?_⟩
  dsimp only
  rw [State.core_cross]
  refine ⟨?_, fun o => ?_, hdies, rfl, Core.across_handler, fun hk => ?_⟩
  · obtain ⟨ts, hts, hmem⟩ := s.cross_then cid p
    refine ⟨ts, hts, fun e => (hmem e).trans ?_⟩
    simp only [Core.performTask_eq_some_iff]
    rfl
  · change o ∈ c.across.owed ↔ _
    rw [howed, List.mem_filter]
    refine and_congr_right fun _ => ?_
    simp only [Bool.not_eq_true', ← Bool.not_eq_true, Bool.and_eq_true, beq_iff_eq, and_assoc]
    rfl
  · obtain ⟨hacc, hclk, hhops, hsinks⟩ := Core.across_kernel hk
    rw [hhops, hsinks]
    exact ⟨hacc, hclk, fun d row ch col _ hc hl => shiftHops_east _ d row ch col hc hl,
      fun d row ch col _ hc hl => shiftHops_west _ d row ch col hc hl,
      fun d row ch _ hc => ⟨shiftHops_first_east _ d row ch hc, shiftHops_last_west _ d row ch hc, sinksFrom_west _ d row ch hc⟩⟩

end Sys2Proof.Machine
end

section
/-!
SUPPORT. The rules of a pending write that performs: on its die, on every die of its partition, in one column, in its slice.
-/
namespace Sys2Proof.Machine

theorem Sets.set {α : Type} [DecidableEq α] (d : α) (m : SMap α) (n : Nat) (v : α) : Sets d (SMap.set d m n v) m n v :=
  fun k => SMap.get_set d m n k v

theorem Sets.put {α : Type} (d : α) (m : SMap α) (n : Nat) (v : α) : Sets d (SMap.put m n v) m n v := fun k => SMap.get_put d m n k v

/-! ### The step (R29) -/

/-- The machine once a pending write is owed no longer. -/
def State.without (s : State) (o : Owed) : State := s.onCore (·.without o)

@[simp] theorem State.without_cur (s : State) (o : Owed) : (s.without o).cur = s.cur := rfl
@[simp] theorem State.without_here (s : State) (o : Owed) : (s.without o).here = s.here.without o := s.here_onCore _
@[simp] theorem State.without_slice (s : State) (o : Owed) : (s.without o).slice = s.slice := by simp [State.slice, Core.slice, Core.without]

section
variable {s : State} {o : Owed} (h : s.pays o)
include h

theorem State.pays.exec : exec (.owedWritePerforms o.id) s = .next ((s.without o).perform o) := by
  obtain ⟨hmem, hone, -, -⟩ := h
  have hfind : s.here.owed.find? (fun x => x.id == o.id) = some o := by
    rw [List.find?_eq_some_iff_append]
    refine ⟨beq_self_eq_true _, ?_⟩
    obtain ⟨l, r, hlr, hl⟩ := List.eq_append_cons_of_mem hmem
    refine ⟨l, r, hlr, fun x hx => ?_⟩
    simp only [Bool.not_eq_true', beq_eq_false_iff_ne]
    exact fun hid => hl (hone x (hlr ▸ List.mem_append_left _ hx) hid ▸ hx)
  change execOwedWritePerforms o.id s = _
  simp only [execOwedWritePerforms, hfind]
  rfl

theorem State.pays.cur_d : s.cur.d = o.die := h.2.2.1
theorem State.pays.cur_s : s.cur.s = o.s := h.2.2.2

/-- What a performing write does to the timed core alone. -/
theorem State.pays.core {f : Core → Core} (hp : (s.without o).perform o = (s.without o).onCore f) {P : Core → Prop} (hP : P (f (s.here.without o))) :
    s.CorePays o P := by
  refine ⟨_, h.exec, ?_⟩
  rw [hp]
  refine ⟨⟨?_, fun _ => rfl, fun _ => rfl⟩, by rwa [here_onCore, without_here]⟩
  exact .trans (t := s.without o) rfl (.onCore s _) (.onCore _ f)

/-- What it does to its die alone. -/
theorem State.pays.die {g : Die → Die} (hp : (s.without o).perform o = (s.without o).onDie g) {P : Die → Prop} (hP : P (g s.die)) : s.DiePays o P := by
  refine h.core (f := (·.onDie s.cur.d g)) hp ⟨⟨rfl, fun k hk => ?_⟩, ?_⟩
  · rw [Core.die_onDie, if_neg (by rwa [h.cur_d])]
  · rw [Core.die_onDie, h.cur_d, if_pos rfl]
    rwa [State.die, h.cur_d] at hP

/-- What it does to its slice alone. -/
theorem State.pays.slice {g : Slice → Slice} (hp : (s.without o).perform o = (s.without o).onSlice g) {P : Slice → Prop} (hP : P (g s.slice)) :
    s.SlicePays o P := by
  refine ⟨_, h.exec, ?_⟩
  have hcore : s.CoreOnly ((s.without o).onSlice g) := .trans (t := s.without o) rfl (.onCore s _) (.onCore _ _)
  rw [hp]
  refine ⟨hcore, ⟨?_, fun k hk => ?_⟩, ?_⟩
  · rw [here_onSlice, without_here]; rfl
  · rw [here_onSlice, without_here, Core.slice_onSlice, if_neg (by rwa [without_cur, h.cur_s])]
  · rw [here_onSlice, without_here, Core.slice_onSlice, without_cur, h.cur_s, if_pos rfl]
    rwa [State.slice, h.cur_s] at hP

/-! ### Table writes (R359) -/

/-- What a table write does to the timed core. A handler's also reaches the boundaries that a rewind may return to. -/
theorem State.pays.tab {w : TabWrite} (hw : o.dest = .tab w) {P : Core → Prop}
    (hP : P ((s.here.without o).tabWrite (s.ctx s.cur.cid) (s.diesOf (s.ctx s.cur.cid).p) o.die w)) : s.CorePays o P := by
  let f : Core → Core := fun c => c.tabWrite (s.ctx s.cur.cid) (s.diesOf (s.ctx s.cur.cid).p) o.die w
  have hper : (s.without o).perform o = (s.without o).performTab o w := by simp only [State.perform, hw]
  have hcore : s.CoreOnly ((s.without o).onCore f) := .trans (t := s.without o) rfl (.onCore s _) (.onCore _ f)
  have hP' : P ((s.without o).onCore f).here := by rwa [here_onCore, without_here]
  refine ⟨_, h.exec, ?_⟩
  rw [hper]
  unfold State.performTab
  dsimp only
  split
  · rename_i hs
    refine ⟨⟨hcore, fun c => ?_, fun hno => ?_⟩, hP'⟩
    · rw [ctx_onCtx]
      split
      · rename_i hc; subst hc; rfl
      · rfl
    · simp [hno w hw] at hs
  · exact ⟨⟨hcore, fun _ => rfl, fun _ => rfl⟩, hP'⟩

/-- A handler's write of a register or a handle stands in every such boundary. -/
theorem State.pays.marks {w : TabWrite} (hw : o.dest = .tab w) (hh : o.hnd = true) (hs : w.survives = true) {P : Core → Prop}
    (hP : ∀ c : Core, P (c.tabWrite (s.ctx s.cur.cid) (s.diesOf (s.ctx s.cur.cid).p) o.die w)) :
    Runs (.owedWritePerforms o.id) s fun t => ∀ m ∈ (t.ctx s.cur.cid).marks, P m.2 := by
  refine ⟨_, h.exec, fun m hm => ?_⟩
  have hper : (s.without o).perform o = (s.without o).performTab o w := by simp only [State.perform, hw]
  rw [hper] at hm
  unfold State.performTab at hm
  simp only [hh, hs, Bool.and_self, ctx_onCtx, without_cur, if_pos] at hm
  obtain ⟨n, -, rfl⟩ := List.mem_map.mp hm
  exact hP _

/-- A table write of one die. -/
theorem State.pays.tabDie {w : TabWrite} (hw : o.dest = .tab w) {g : Die → Die}
    (hg : ∀ c : Core, c.tabWrite (s.ctx s.cur.cid) (s.diesOf (s.ctx s.cur.cid).p) o.die w = c.onDie o.die g) {P : Die → Prop} (hP : P (g s.die)) :
    s.DiePays o P := by
  refine h.tab hw ?_
  rw [hg]
  refine ⟨⟨rfl, fun k hk => by rw [Core.die_onDie, if_neg hk]⟩, ?_⟩
  rw [Core.die_onDie, if_pos rfl]
  rwa [State.die, h.cur_d] at hP

/-- A table write of every die of the partition. -/
theorem State.pays.tabDies {w : TabWrite} (hw : o.dest = .tab w) {g : Die → Die}
    (hg : ∀ c : Core, c.tabWrite (s.ctx s.cur.cid) (s.diesOf (s.ctx s.cur.cid).p) o.die w
      = (s.diesOf (s.ctx s.cur.cid).p).foldl (fun c e => c.onDie e g) c) {P : Die → Die → Prop} (hP : ∀ x, P x (g x)) : s.DiesPay o P := by
  have hfold : ∀ (l : List Nat) (c : Core), l.Nodup → { l.foldl (fun c e => c.onDie e g) c with dies := [] } = { c with dies := [] }
      ∧ ∀ k, (l.foldl (fun c e => c.onDie e g) c).die k = if k ∈ l then g (c.die k) else c.die k := by
    intro l
    induction l with
    | nil => exact fun c _ => ⟨rfl, fun k => by simp⟩
    | cons a r ih =>
      intro c hn
      obtain ⟨ha, hr⟩ := List.nodup_cons.mp hn
      obtain ⟨h1, h2⟩ := ih (c.onDie a g) hr
      refine ⟨h1, fun k => ?_⟩
      rw [List.foldl_cons, h2, Core.die_onDie]
      by_cases hk : k = a
      · subst hk; simp [ha]
      · simp [hk]
  have hnodup : (s.diesOf (s.ctx s.cur.cid).p).Nodup := by
    unfold State.diesOf
    exact List.Nodup.map (fun a b h => Nat.add_left_cancel h) List.nodup_range
  unfold State.DiesPay
  refine h.tab hw ?_
  rw [hg]
  obtain ⟨h1, h2⟩ := hfold _ (s.here.without o) hnodup
  refine ⟨h1, fun k => ?_⟩
  rw [h2]
  split
  · exact hP _
  · rfl

/-- A table write of the four slices of a column. -/
theorem State.pays.tabColumn {w : TabWrite} (hw : o.dest = .tab w) {col : Nat} (hcol : col < 128) {g : Slice → Slice}
    (hg : ∀ c : Core, c.tabWrite (s.ctx s.cur.cid) (s.diesOf (s.ctx s.cur.cid).p) o.die w
      = (List.range 4).foldl (fun c r => c.onSlice (512 * o.die + 128 * r + col) g) c) : s.ColumnPays o col g := by
  refine h.tab hw ?_
  rw [hg]
  refine ⟨rfl, fun k => ?_⟩
  have hmem : dieOf k = o.die ∧ colOf k = col ↔ ∃ r < 4, k = 512 * o.die + 128 * r + col := by
    unfold dieOf colOf
    exact ⟨fun ⟨h1, h2⟩ => ⟨k / 128 % 4, by omega, by omega⟩, fun ⟨r, hr, hk⟩ => by omega⟩
  have hlist : List.range 4 = [0, 1, 2, 3] := rfl
  simp only [hlist, List.foldl_cons, List.foldl_nil, Core.slice_onSlice]
  by_cases hk : dieOf k = o.die ∧ colOf k = col
  · rw [if_pos hk]
    obtain ⟨r, hr, rfl⟩ := hmem.mp hk
    interval_cases r <;> simp <;> rfl
  · rw [if_neg hk]
    have hne : ∀ r < 4, k ≠ 512 * o.die + 128 * r + col := fun r hr e => hk (hmem.mpr ⟨r, hr, e⟩)
    have h0 : k ≠ 512 * o.die + col := hne 0 (by omega)
    simp [h0, hne 1, hne 2, hne 3]
    rfl

end

end Sys2Proof.Machine
end

section
/-!
PROOF of O47. Bytes and sync words of SMEM, the control registers of a die, and the bank-mask sets.
-/
namespace Sys2Proof

/-- Byte `k` of the bytes of a number. -/
theorem getD_leBytes {n k : Nat} (hk : k < n) (x : Nat) : (leBytes n x).getD k 0 = BitVec.ofNat 8 (x / 2 ^ (8 * k)) := by
  induction n generalizing k x with
  | zero => omega
  | succ n ih =>
    cases k with
    | zero => simp [leBytes]
    | succ k =>
      rw [leBytes, List.getD_cons_succ, ih (by omega), Nat.div_div_eq_div_mul, show 8 * (k + 1) = 8 + 8 * k by ring, pow_add]
      rfl

/-! ### Packed fields -/

/-- The lowest of packed fields. -/
theorem bitsOf_packLe_head (w v : Nat) (r : List (Nat × Nat)) : bitsOf (packLe ((w, v) :: r)) 0 w = v % 2 ^ w := by
  rw [bitsOf_eq, packLe, Nat.shiftLeft_eq, pow_zero, Nat.div_one, Nat.add_mul_mod_self_right, Nat.mod_mod]

/-- The fields above the lowest. -/
theorem bitsOf_packLe_tail (w v : Nat) (r : List (Nat × Nat)) (lo n : Nat) : bitsOf (packLe ((w, v) :: r)) (w + lo) n = bitsOf (packLe r) lo n := by
  rw [bitsOf_eq, bitsOf_eq, packLe, Nat.shiftLeft_eq, pow_add, ← Nat.div_div_eq_div_mul, Nat.add_mul_div_right _ _ (by positivity),
    Nat.div_eq_of_lt (Nat.mod_lt _ (by positivity)), Nat.zero_add]

/-- A field of a bit vector made of a number. -/
theorem toNat_extractLsb'_ofNat {w lo n : Nat} (h : lo + n ≤ w) (x : Nat) : ((BitVec.ofNat w x).extractLsb' lo n).toNat = bitsOf x lo n := by
  rw [BitVec.extractLsb'_toNat, BitVec.toNat_ofNat, bitsOf_eq, Nat.shiftRight_eq_div_pow]
  obtain ⟨k, rfl⟩ := Nat.exists_eq_add_of_le h
  rw [Nat.add_assoc, pow_add, Nat.mod_mul_right_div_self, Nat.mod_mod_of_dvd _ (Nat.pow_dvd_pow 2 (Nat.le_add_right n k))]

namespace Machine

/-! ### SMEM (R68) -/

/-- The bytes that a write of SMEM leaves. -/
theorem Die.smemByte_smemWrite (d : Die) (a : Nat) (bs : List Byte) (k : Nat) :
    (d.smemWrite a bs).smemByte k = if a ≤ k ∧ k < a + bs.length then bs.getD (k - a) 0 else d.smemByte k :=
  State.hbmByte_hbmWrite { State.reset with hbm := d.smem } a bs k

theorem Die.smemWrite_leBytes (d : Die) (a n v k : Nat) :
    ((d.smemWrite a (leBytes n v)).smemByte k).toNat = if a ≤ k ∧ k < a + n then byteOf v (k - a) else (d.smemByte k).toNat := by
  rw [smemByte_smemWrite, length_leBytes]
  split
  · rw [getD_leBytes (by omega)]; simp [byteOf]
  · rfl

theorem Die.mem_smemBad_smemWrite (d : Die) (a : Nat) (bs : List Byte) (w : Nat) :
    w ∈ (d.smemWrite a bs).smemBad ↔ w ∈ d.smemBad ∧ (4 * w + 4 ≤ a ∨ a + bs.length ≤ 4 * w) := by
  simp [Die.smemWrite]

/-- What a sync word holds after its write, and that nothing else of the die changes. -/
theorem Die.syncAt_setSync (d : Die) (a : Nat) (w : BitVec 128) : (d.setSync a w).syncAt a = w := by
  have hbytes : (List.range 16).map (fun i => (d.setSync a w).smemByte (a + i)) = leBytes 16 w.toNat := by
    refine List.ext_getElem (by simp) fun i h _ => ?_
    have hi : i < 16 := by simpa using h
    rw [List.getElem_map, List.getElem_range, Die.setSync, smemByte_smemWrite, length_leBytes, if_pos ⟨by omega, by omega⟩,
      Nat.add_sub_cancel_left, List.getD_eq_getElem]
  have hw := w.isLt
  unfold Die.syncAt Die.smemRead
  rw [hbytes, ofLeBytes_leBytes]
  apply BitVec.eq_of_toNat_eq
  rw [BitVec.toNat_ofNat]
  omega

theorem Die.setSync_smemByte (d : Die) {a k : Nat} (w : BitVec 128) (h : k < a ∨ a + 16 ≤ k) : (d.setSync a w).smemByte k = d.smemByte k := by
  rw [Die.setSync, smemByte_smemWrite, length_leBytes, if_neg (by omega)]

/-! ### Sync words (R285, R287, R289) -/

/-- The fields of a made sync word. -/
theorem swMake_fields (t c g st : Nat) : swTarget (swMake t c g st) = t % 2 ^ 32 ∧ swCount (swMake t c g st) = c % 2 ^ 32
    ∧ swGen (swMake t c g st) = g % 2 ^ 32 ∧ swStatus (swMake t c g st) = st % 2 ^ 32 := by
  unfold swTarget swCount swGen swStatus swMake
  refine ⟨?_, ?_, ?_, ?_⟩ <;> rw [toNat_extractLsb'_ofNat (by decide)]
  · exact bitsOf_packLe_head 32 t _
  · exact (bitsOf_packLe_tail 32 t _ 0 32).trans (bitsOf_packLe_head 32 c _)
  · exact (bitsOf_packLe_tail 32 t _ 32 32).trans ((bitsOf_packLe_tail 32 c _ 0 32).trans (bitsOf_packLe_head 32 g _))
  · exact (bitsOf_packLe_tail 32 t _ 64 32).trans ((bitsOf_packLe_tail 32 c _ 32 32).trans
      ((bitsOf_packLe_tail 32 g _ 0 32).trans (bitsOf_packLe_head 32 st _)))

theorem swField_lt (w : BitVec 128) : swTarget w < 2 ^ 32 ∧ swCount w < 2 ^ 32 ∧ swGen w < 2 ^ 32 ∧ swStatus w < 2 ^ 32 :=
  ⟨BitVec.isLt _, BitVec.isLt _, BitVec.isLt _, BitVec.isLt _⟩

/-- ARM: the target, and the generations that the count holds of it. -/
theorem swArm_fields (x : BitVec 128) {v : Nat} (hv : v < 2 ^ 32) : swTarget (swArm x v) = v ∧ swStatus (swArm x v) = swStatus x
    ∧ (swCount (swArm x v), swGen (swArm x v)) = if v = 0 then (swCount x, swGen x) else (swCount x % v, (swGen x + swCount x / v) % 2 ^ 32) := by
  obtain ⟨-, hc, hg, hs⟩ := swField_lt x
  have hm := swMake_fields v (swCount x) (swGen x) (swStatus x)
  rw [Nat.mod_eq_of_lt hv, Nat.mod_eq_of_lt hc, Nat.mod_eq_of_lt hg, Nat.mod_eq_of_lt hs] at hm
  obtain ⟨ht, hc', hg', hs'⟩ := hm
  unfold swArm swAdvance
  rw [ht, hc', hg', hs']
  dsimp only
  split
  · rw [ht, hc', hg', hs']; exact ⟨rfl, rfl, rfl⟩
  · obtain ⟨k1, k2, k3, k4⟩ := swMake_fields v (swCount x % v) ((swGen x + swCount x / v) % 2 ^ 32) (swStatus x)
    rw [k1, k2, k3, k4, Nat.mod_eq_of_lt hv, Nat.mod_eq_of_lt hs, Nat.mod_mod, Nat.mod_eq_of_lt (lt_of_le_of_lt (Nat.mod_le _ _) hc)]
    exact ⟨rfl, rfl, rfl⟩

/-- LAPPED is bit 2 of STATUS. -/
theorem swLapped_fields (x : BitVec 128) : swTarget (swLapped x) = swTarget x ∧ swCount (swLapped x) = swCount x
    ∧ swGen (swLapped x) = swGen x ∧ swStatus (swLapped x) = swStatus x ||| 4 := by
  have hor : ∀ lo : Nat, (swLapped x).extractLsb' lo 32 = x.extractLsb' lo 32 ||| (BitVec.ofNat 128 (2 ^ 98)).extractLsb' lo 32 :=
    fun lo => by unfold swLapped; rw [BitVec.extractLsb'_or]
  unfold swTarget swCount swGen swStatus
  simp only [hor]
  simp

/-! ### Control registers (R81, R45) -/

theorem Die.csrWrite_watch (d : Die) {k : Nat} (hk : k < 8) (v : DWord) (T : Nat) : d.csrWrite (0x60 + k) v T =
    { d with tab := { d.tab with watch := SMap.set 0 d.tab.watch k (v &&& 0x3FFFFFFFFFFFFFFF) } } := by
  interval_cases k <;> rfl

/-- The flag bits that a CFGR at T returns after some of them were cleared at T. -/
theorem Die.visible_clearVisible (d : Die) (T : Nat) (mask : BitVec 9) : (d.clearVisible T mask).visible T = d.visible T &&& ~~~mask := by
  have hbits : ∀ w : BitVec 9, w.extractLsb' 5 4 ++ w.extractLsb' 0 5 = w := by decide
  have hfold : ∀ (l : List (Nat × BitVec 9)) (b : BitVec 9), (∀ e ∈ l, T < e.1 + 256) →
      l.foldl (fun a e => if e.1 + 256 ≤ T then a ||| e.2 else a) b = b := by
    intro l
    induction l with
    | nil => exact fun _ _ => rfl
    | cons e r ih =>
      intro b hl
      rw [List.foldl_cons, if_neg (by have := hl e (List.mem_cons_self ..); omega), ih b fun x hx => hl x (List.mem_cons_of_mem _ hx)]
  unfold Die.visible
  rw [hfold _ _ fun e he => by simpa using (List.mem_filter.mp he).2]
  exact hbits _

/-- A register of n bits keeps the low n bits of what is written. -/
theorem toNat_setWidth_low (v : DWord) {n : Nat} (hn : n ≤ 64) : ((v.setWidth n).setWidth 64).toNat = (v &&& BitVec.ofNat 64 (2 ^ n - 1)).toNat := by
  have hp : 2 ^ n ≤ 2 ^ 64 := Nat.pow_le_pow_right (by decide) hn
  have h0 : 0 < 2 ^ n := by positivity
  rw [BitVec.toNat_and, BitVec.toNat_ofNat, Nat.mod_eq_of_lt (by omega), Nat.and_two_pow_sub_one_eq_mod, BitVec.toNat_setWidth, BitVec.toNat_setWidth,
    Nat.mod_eq_of_lt ((Nat.mod_lt _ h0).trans_le hp)]

theorem toNat_boolW_low (v : DWord) : (boolW (v.getLsbD 0)).toNat = (v &&& BitVec.ofNat 64 1).toNat := by
  rw [BitVec.toNat_and, BitVec.toNat_ofNat, show 1 % 2 ^ 64 = 1 from rfl, Nat.and_one_is_mod, BitVec.getLsbD, Nat.testBit_zero, boolW]
  rcases Nat.mod_two_eq_zero_or_one v.toNat with h | h <;> simp [h]

theorem toNat_and_full (v : DWord) : v.toNat = (v &&& BitVec.ofNat 64 (2 ^ 64 - 1)).toNat := by
  rw [BitVec.toNat_and, BitVec.toNat_ofNat, show (2 ^ 64 - 1) % 2 ^ 64 = 2 ^ 64 - 1 from rfl, Nat.and_two_pow_sub_one_eq_mod, Nat.mod_eq_of_lt v.isLt]

/-- A register reads as the bits that it keeps. -/
theorem Die.csrWrite_read (d : Die) (v : DWord) (T : Nat) :
    ∀ r ∈ csrTable, (r.2.2.1 (d.csrWrite r.1 v T)).toNat = (v &&& BitVec.ofNat 64 r.2.1).toNat := by
  simp only [csrTable, List.forall_mem_append, List.forall_mem_cons, List.forall_mem_map, List.mem_range]
  have hfull := toNat_and_full v
  refine ⟨⟨toNat_setWidth_low v (n := 2) (by decide), toNat_setWidth_low v (n := 8) (by decide), toNat_setWidth_low v (n := 3) (by decide),
    toNat_boolW_low v, rfl, hfull, hfull, hfull, rfl, hfull, rfl, hfull, rfl, rfl, rfl, rfl, rfl, by simp⟩, fun k hk => ?_⟩
  rw [csrWrite_watch d hk, SMap.get_set, if_pos rfl]
  rfl

theorem Die.csrWrite_rest (d : Die) (v : DWord) (T : Nat) : ∀ r ∈ csrTable, r.2.2.2 (d.csrWrite r.1 v T) = r.2.2.2 d := by
  simp only [csrTable, List.forall_mem_append, List.forall_mem_cons, List.forall_mem_map, List.mem_range]
  refine ⟨⟨rfl, rfl, rfl, rfl, rfl, rfl, rfl, rfl, rfl, rfl, rfl, rfl, rfl, rfl, rfl, rfl, rfl, by simp⟩, fun k hk => ?_⟩
  rw [csrWrite_watch d hk]

/-- A write of one register leaves the others, but that LOGBASE sets LOGPTR. -/
theorem Die.csrWrite_others (d : Die) (v : DWord) (T : Nat) : ∀ r ∈ csrTable, ∀ q ∈ csrTable, q.1 ≠ r.1 → ¬(r.1 = 0x31 ∧ q.1 = 0x33) →
    q.2.2.1 (d.csrWrite r.1 v T) = q.2.2.1 d := by
  have hw : ∀ k < 8, ∀ q ∈ csrTable, q.1 ≠ 0x60 + k → q.2.2.1 (d.csrWrite (0x60 + k) v T) = q.2.2.1 d := by
    intro k hk
    rw [csrWrite_watch d hk]
    simp only [csrTable, List.forall_mem_append, List.forall_mem_cons, List.forall_mem_map, List.mem_range]
    refine ⟨by simp, fun j _ hne => ?_⟩
    rw [SMap.get_set, if_neg (by omega)]
  intro r hr
  rw [csrTable, List.mem_append] at hr
  rcases hr with hr | hr
  · revert r
    simp only [csrTable, List.forall_mem_append, List.forall_mem_cons, List.forall_mem_map, List.mem_range]
    simp [Die.csrWrite]
  · obtain ⟨k, hk, rfl⟩ := List.mem_map.mp hr
    exact fun q hq hne _ => hw k (List.mem_range.mp hk) q hq hne

/-! ### Bank-mask sets (R266, R272) -/

theorem getLsbD_ofNat_two_pow {w n : Nat} (k : Nat) (hk : k < w) : (BitVec.ofNat w (2 ^ n)).getLsbD k = decide (k = n) := by
  rw [BitVec.getLsbD_ofNat, Nat.testBit_two_pow]
  simp [hk, eq_comm]

theorem mem_onesOf (w x b : Nat) : b ∈ onesOf w x ↔ b < w ∧ x.testBit b = true := by
  simp [onesOf, bitAt, bitsOf_eq, Nat.testBit_eq_decide_div_mod_eq]

theorem getLsbD_foldl_or {α : Type} {w : Nat} (f : α → BitVec w) (l : List α) (b : BitVec w) (i : Nat) :
    (l.foldl (fun a k => a ||| f k) b).getLsbD i = (b.getLsbD i || l.any fun k => (f k).getLsbD i) := by
  induction l generalizing b with
  | nil => simp
  | cons a r ih => rw [List.foldl_cons, ih]; simp [Bool.or_assoc]

/-- The sets that keep what they name when set n is released: set 0, and the others still acquired. -/
def Context.keeps (cx : Context) (acq : BitVec 16) (k : Nat) : Prop := k < cx.sets.length ∧ (k = 0 ∨ acq.getLsbD k = true)

theorem Context.mem_kept (cx : Context) (acq : BitVec 16) (e : (BitVec 8 × SMap (BitVec 128)) × Nat) :
    e ∈ cx.sets.zipIdx.filter (fun e => e.2 == 0 || acq.getLsbD e.2) ↔ cx.keeps acq e.2 ∧ e.1 = cx.set e.2 := by
  obtain ⟨x, k⟩ := e
  rw [List.mem_filter, List.mem_zipIdx_iff_getElem?]
  simp only [Context.keeps, Context.set, Bool.or_eq_true, beq_iff_eq]
  constructor
  · rintro ⟨hk, hor⟩
    obtain ⟨hlt, rfl⟩ := List.getElem?_eq_some_iff.mp hk
    exact ⟨⟨hlt, hor⟩, (List.getD_eq_getElem _ _ hlt).symm⟩
  · rintro ⟨⟨hlt, hor⟩, rfl⟩
    exact ⟨by rw [List.getElem?_eq_getElem hlt, List.getD_eq_getElem _ _ hlt], hor⟩

/-- A bit that none of the kept sets has, in a field of the sets which an absent set has empty. -/
theorem Context.kept_or_eq_false {w : Nat} (cx : Context) (acq : BitVec 16) (f : BitVec 8 × SMap (BitVec 128) → BitVec w) (hf : f (0, []) = 0)
    (i : Nat) :
    ((cx.sets.zipIdx.filter fun e => e.2 == 0 || acq.getLsbD e.2).foldl (fun a k => a ||| f k.1) 0).getLsbD i = false
      ↔ ∀ k, k = 0 ∨ acq.getLsbD k = true → (f (cx.set k)).getLsbD i = false := by
  have h0 : (0 : BitVec w).getLsbD i = false := BitVec.getLsbD_zero
  rw [getLsbD_foldl_or, h0, Bool.false_or, List.any_eq_false]
  constructor
  · intro h k hk
    by_cases hlt : k < cx.sets.length
    · simpa using h (cx.set k, k) ((cx.mem_kept acq _).mpr ⟨⟨hlt, hk⟩, rfl⟩)
    · rw [Context.set, List.getD_eq_default _ _ (Nat.not_lt.mp hlt), hf, h0]
  · intro h e he
    obtain ⟨⟨-, hk⟩, heq⟩ := (cx.mem_kept acq e).mp he
    rw [heq]
    simpa using h e.2 hk

/-- Set n is acquired: the bits of the acquired sets. -/
theorem Core.acquireSet_acquired (c : Core) (cx : Context) {n k : Nat} (hk : k < 16) :
    (c.acquireSet cx n).acquired.getLsbD k = (c.acquired.getLsbD k || k == n) := by
  unfold Core.acquireSet
  rw [BitVec.getLsbD_or, getLsbD_ofNat_two_pow k hk]
  rfl

theorem Core.releaseSet_acquired (c : Core) (cx : Context) (n k : Nat) :
    (c.releaseSet cx n).acquired.getLsbD k = (c.acquired.getLsbD k && k != n) := by
  unfold Core.releaseSet
  rw [BitVec.getLsbD_and, BitVec.getLsbD_not]
  by_cases hk : k < 16
  · rw [getLsbD_ofNat_two_pow k hk]; simp [hk]; rfl
  · simp [hk, BitVec.getLsbD_of_ge c.acquired k (by omega)]

/-- A bit of a word that is masked off. -/
theorem getLsbD_and_not {w : Nat} (x y : BitVec w) (b : Nat) : (x &&& ~~~y).getLsbD b = true ↔ x.getLsbD b = true ∧ y.getLsbD b = false := by
  rw [BitVec.getLsbD_and, BitVec.getLsbD_not]
  by_cases hb : b < w
  · simp [hb]
  · simp [hb, BitVec.getLsbD_of_ge x b (by omega)]

theorem mem_onesOf_toNat {w : Nat} (x : BitVec w) (b : Nat) : b ∈ onesOf w x.toNat ↔ x.getLsbD b = true := by
  rw [mem_onesOf]
  exact ⟨fun h => h.2, fun h => ⟨BitVec.lt_of_getLsbD h, h⟩⟩

/-- What the release of set n gives back: the blocks and planes that no kept set has. -/
theorem Core.releaseSet_releasing (c : Core) (cx : Context) (n : Nat) :
    let stays := fun k => k = 0 ∨ k ≠ n ∧ c.acquired.getLsbD k = true
    ∃ l, (c.releaseSet cx n).releasing = c.releasing ++ l ∧ ∀ m b, (m, b) ∈ l ↔
      (∃ v, (m, v) ∈ (cx.set n).2 ∧ v.getLsbD b = true ∧ ∀ k, stays k → (SMap.get 0 (cx.set k).2 m).getLsbD b = false)
        ∨ m = 4096 ∧ (cx.set n).1.getLsbD b = true ∧ ∀ k, stays k → (cx.set k).1.getLsbD b = false := by
  intro stays
  have hstays : ∀ k, k = 0 ∨ (c.releaseSet cx n).acquired.getLsbD k = true ↔ stays k := fun k => by
    rw [releaseSet_acquired]; simp [stays, and_comm]
  refine ⟨_, List.append_assoc _ _ _, fun m b => ?_⟩
  rw [List.mem_append]
  refine or_congr ?_ ?_
  · rw [List.mem_flatten]
    constructor
    · rintro ⟨_, hl, hb⟩
      obtain ⟨⟨m', v⟩, hv, rfl⟩ := List.mem_map.mp hl
      obtain ⟨b', hb', heq⟩ := List.mem_map.mp hb
      obtain ⟨rfl, rfl⟩ : m' = m ∧ b' = b := Prod.mk.inj heq
      rw [mem_onesOf_toNat, getLsbD_and_not, cx.kept_or_eq_false _ (fun x => SMap.get 0 x.2 m') rfl] at hb'
      exact ⟨v, hv, hb'.1, fun k hk => hb'.2 k ((hstays k).mpr hk)⟩
    · rintro ⟨v, hv, hb, hfree⟩
      refine ⟨_, List.mem_map.mpr ⟨(m, v), hv, rfl⟩, List.mem_map.mpr ⟨b, ?_, rfl⟩⟩
      rw [mem_onesOf_toNat, getLsbD_and_not, cx.kept_or_eq_false _ (fun x => SMap.get 0 x.2 m) rfl]
      exact ⟨hb, fun k hk => hfree k ((hstays k).mp hk)⟩
  · rw [List.mem_map]
    constructor
    · rintro ⟨b', hb', heq⟩
      obtain ⟨rfl, rfl⟩ : 4096 = m ∧ b' = b := Prod.mk.inj heq
      rw [mem_onesOf_toNat, getLsbD_and_not, cx.kept_or_eq_false _ Prod.fst rfl] at hb'
      exact ⟨rfl, hb'.1, fun k hk => hb'.2 k ((hstays k).mpr hk)⟩
    · rintro ⟨rfl, hb, hfree⟩
      refine ⟨b, ?_, rfl⟩
      rw [mem_onesOf_toNat, getLsbD_and_not, cx.kept_or_eq_false _ Prod.fst rfl]
      exact ⟨hb, fun k hk => hfree k ((hstays k).mp hk)⟩

/-- A register of `csrTable` belongs to one die. -/
theorem Core.csrWrite_table {r : Nat × Nat × (Die → DWord) × (Die → Die)} (hr : r ∈ csrTable) (c : Core) (dies : List Nat) (d : Nat) (v : DWord)
    (T : Nat) : c.csrWrite dies d r.1 v T = c.onDie d (·.csrWrite r.1 v T) := by
  have hn : r.1 ≠ 0x42 ∧ r.1 < 0x100 := by
    rw [csrTable, List.mem_append] at hr
    rcases hr with hr | hr
    · revert r
      simp
    · obtain ⟨k, hk, rfl⟩ := List.mem_map.mp hr
      have := List.mem_range.mp hk
      dsimp only
      omega
  unfold Core.csrWrite
  rw [if_neg hn.1, if_neg (by omega)]

/-- XFLAGS stands in the upper four bits of the nine, NF in the lower five. -/
theorem xflagsMask_eq (v : BitVec 64) : v.setWidth 4 ++ 0#5 = (v.setWidth 4).setWidth 9 <<< 5 := by
  generalize v.setWidth 4 = m
  revert m
  decide

theorem nfMask_eq (v : BitVec 64) : 0#4 ++ v.setWidth 5 = (v.setWidth 5).setWidth 9 := by
  generalize v.setWidth 5 = m
  revert m
  decide

/-- Settles O47: each write's effect on the part of the state that its kind names, by the rules above. -/
theorem writesOfADie : Obligations.WritesOfADie := by
  intro s o h d cx swRest
  refine ⟨?_, ?_, ?_, ?_, ?_, ?_, ?_, ?_, ?_, ?_, ?_, ?_, ?_, ?_, ?_, ?_, ?_, ?_, ?_, ?_, ?_, ?_, ?_⟩
  · intro n v hd
    exact h.die (g := fun e => { e with x := SMap.set 0 e.x n v }) (by simp only [State.perform, hd]) ⟨.set _ _ _ _, rfl⟩
  · intro a n v hd
    refine h.die (g := fun e => e.smemWrite a (leBytes n v)) (by simp only [State.perform, hd]) ⟨rfl, d.smemWrite_leBytes a n v, fun w => ?_⟩
    rw [Die.mem_smemBad_smemWrite, length_leBytes]
  · intro r hr v T hd
    refine h.tabDie hd (fun c => Core.csrWrite_table hr c _ _ v T)
      ⟨d.csrWrite_read v T r hr, d.csrWrite_rest v T r hr, ?_, d.csrWrite_others v T r hr⟩
    intro hlog
    rw [hlog]; rfl
  · refine fun hh => ⟨fun r hr v T hd => ?_, fun n v hd => ?_⟩
    · refine h.marks hd hh rfl (P := fun c => (r.2.2.1 (c.die o.die)).toNat = _) fun c => ?_
      change (r.2.2.1 ((Core.csrWrite _ _ _ _ _ _).die _)).toNat = _
      rw [Core.csrWrite_table hr, Core.die_onDie, if_pos rfl]
      exact Die.csrWrite_read _ v T r hr
    · refine h.marks hd hh rfl (P := fun c => SMap.get {} (c.die o.die).tab.handles n = v) fun c => ?_
      change SMap.get {} ((Core.onDie _ _ _).die _).tab.handles n = v
      rw [Core.die_onDie, if_pos rfl]
      exact SMap.get_put_self _ _ _ _
  · intro k hk v T hd
    refine h.tabDies hd (g := fun x => { x with tab := { x.tab with fmt := SMap.set 0 x.tab.fmt k (v.setWidth 16 &&& 0x7FFF) } }) (fun c => ?_)
      fun x => ⟨.set _ _ _ _, rfl⟩
    change Core.csrWrite _ _ _ _ _ _ = _
    unfold Core.csrWrite
    rw [if_neg (by omega), if_pos (by omega), Nat.add_sub_cancel_left]
  · intro n v hd
    refine h.tabDies hd (fun _ => rfl) fun x => ?_
    exact ⟨.set _ _ _ _, rfl⟩
  · intro v T hd
    exact h.tab hd rfl
  · intro v T hd
    refine h.tabDie hd (g := fun x => x.clearVisible T (v.setWidth 4 ++ 0#5)) (fun _ => rfl) ⟨?_, rfl⟩
    rw [Die.visible_clearVisible, xflagsMask_eq]
  · intro v T hd
    refine h.tabDie hd (g := fun x => x.clearVisible T (0#4 ++ v.setWidth 5)) (fun _ => rfl) ⟨?_, rfl⟩
    rw [Die.visible_clearVisible, nfMask_eq]
  · intro n v hd
    exact h.tabDie hd (g := fun x => { x with tab := { x.tab with it := SMap.set 0 x.tab.it n v } }) (fun _ => rfl) ⟨.set _ _ _ _, rfl⟩
  · intro n v hd
    exact h.tabDie hd (g := fun x => { x with tab := { x.tab with sk := SMap.set 0 x.tab.sk n v } }) (fun _ => rfl) ⟨.set _ _ _ _, rfl⟩
  · intro n v hd
    exact h.tabDie hd (g := fun x => { x with tab := { x.tab with fslot := SMap.set 0 x.tab.fslot n v } }) (fun _ => rfl) ⟨.set _ _ _ _, rfl⟩
  · intro n v hd
    exact h.tabDie hd (g := fun x => { x with tab := { x.tab with tsh := SMap.set 0 x.tab.tsh n v } }) (fun _ => rfl) ⟨.set _ _ _ _, rfl⟩
  · intro n v hd
    exact h.tabDie hd (g := fun x => { x with tab := { x.tab with shape := SMap.set 0 x.tab.shape n v } }) (fun _ => rfl) ⟨.set _ _ _ _, rfl⟩
  · intro n v hd
    exact h.tabDie hd (g := fun x => { x with tab := { x.tab with handles := SMap.put x.tab.handles n v } }) (fun _ => rfl) ⟨.put _ _ _ _, rfl⟩
  · intro n hd
    exact h.tabDie hd (g := fun x => { x with tab := { x.tab with handles := SMap.put x.tab.handles n { SMap.get {} x.tab.handles n with v := false } } }) (fun _ => rfl) ⟨.put _ _ _ _, rfl⟩
  · intro v hd
    exact h.tabDie hd (g := fun x => { x with tab := { x.tab with amode := v } }) (fun _ => rfl) rfl
  · intro a v hv hd
    refine h.tabDie hd (g := fun x => x.setSync a (swArm (x.syncAt a) v)) (fun _ => rfl) ?_
    dsimp only
    rw [Die.syncAt_setSync]
    exact ⟨⟨rfl, fun k hk => Die.setSync_smemByte _ _ hk⟩, swArm_fields _ hv⟩
  · intro a hd
    refine h.tabDie hd (g := fun x => x.setSync a (swLapped (x.syncAt a))) (fun _ => rfl) ?_
    dsimp only
    rw [Die.syncAt_setSync]
    exact ⟨⟨rfl, fun k hk => Die.setSync_smemByte _ _ hk⟩, swLapped_fields _⟩
  · exact fun n hn hd => h.tab hd ⟨rfl, fun k hk => Core.acquireSet_acquired _ _ hk⟩
  · intro n hn hd
    exact h.tab hd ⟨rfl, fun k _ => Core.releaseSet_acquired _ _ n k, Core.releaseSet_releasing _ _ n⟩
  · exact fun col v hcol hd => h.tabColumn hd hcol fun _ => rfl
  · exact fun col hcol hd => h.tabColumn hd hcol fun _ => rfl

end Machine
end Sys2Proof
end

section
/-!
SUPPORT for O48. Bits and elements of what a field or a sum of fields writes, and F32 and I32 results that stand in 32 bits.
-/
namespace Sys2Proof

theorem testBit_putBits (x lo w v i : Nat) :
    (putBits x lo w v).testBit i = if lo ≤ i ∧ i < lo + w then v.testBit (i - lo) else x.testBit i := by
  have hlow : x % 2 ^ lo + (v % 2 ^ w) <<< lo < 2 ^ (lo + w) := by
    have h1 := Nat.mod_lt x (Nat.two_pow_pos lo)
    have h2 := Nat.mod_lt v (Nat.two_pow_pos w)
    have h3 : (v % 2 ^ w + 1) * 2 ^ lo ≤ 2 ^ w * 2 ^ lo := Nat.mul_le_mul_right _ h2
    rw [Nat.shiftLeft_eq, pow_add]
    linarith
  have hput : putBits x lo w v = 2 ^ (lo + w) * (x >>> (lo + w)) + (2 ^ lo * (v % 2 ^ w) + x % 2 ^ lo) := by
    rw [putBits, Nat.shiftLeft_eq, Nat.shiftLeft_eq]; ring
  rw [Nat.shiftLeft_eq, add_comm, mul_comm] at hlow
  rw [hput, Nat.testBit_two_pow_mul_add _ hlow, Nat.testBit_two_pow_mul_add _ (Nat.mod_lt _ (Nat.two_pow_pos _)), Nat.testBit_shiftRight,
    Nat.testBit_mod_two_pow, Nat.testBit_mod_two_pow]
  by_cases h1 : i < lo
  · simp [h1, show i < lo + w by omega, show ¬lo ≤ i by omega]
  · by_cases h2 : i < lo + w
    · simp [h1, h2, show lo ≤ i by omega, show i - lo < w by omega]
    · simp [h2, show lo + w + (i - (lo + w)) = i by omega]

theorem f32_overflow_lt (rm : Nat) (neg : Bool) : f32.overflow rm neg < 2 ^ 32 := by
  unfold Layout.overflow
  cases neg <;> split_ifs <;> decide

/-- A rounded magnitude is a zero of its sign, the overflow result, or its bits below those of infinity. -/
theorem Layout.roundMag_cases (l : Layout) (rm : Nat) (fr neg : Bool) (m : Nat) (e : Int) (fl : Nat) : let r := ((l.roundMag rm fr neg m e).run fl).1
    r = b2n neg * l.signBit ∨ r = l.overflow rm neg ∨ ∃ bits < l.infBits, r = bits + b2n neg * l.signBit := by
  simp only [Layout.roundMag]
  split
  · exact .inl rfl
  · by_cases htop : (m.log2 : Int) + e < 1 - l.bias
    all_goals
      simp only [htop, if_true, if_false]
      split
      · exact .inr (.inl rfl)
      · exact .inr (.inr ⟨_, not_le.mp ‹_›, rfl⟩)

namespace Machine

theorem testBit_elemOf (w i x b : Nat) : (elemOf w i x).testBit b = (decide (b < w) && x.testBit (w * i + b)) := by
  rw [elemOf, Nat.testBit_mod_two_pow, Nat.testBit_div_two_pow, add_comm]

theorem elemAt_eq_elemOf (w i x : Nat) : elemAt w i x = elemOf w i x := bitsOf_eq x (w * i) w

theorem byteOf_eq_elemOf (v k : Nat) : byteOf v k = elemOf 8 k v := rfl

theorem elemOf_lt (w i x : Nat) : elemOf w i x < 2 ^ w := Nat.mod_lt _ (Nat.two_pow_pos w)

@[simp] theorem elemOf_zero (w i : Nat) : elemOf w i 0 = 0 := by simp [elemOf]

/-- An element that lies within `n` bits is that of the low `n` bits. -/
theorem elemOf_mod_two_pow {w i n : Nat} (h : w * (i + 1) ≤ n) (x : Nat) : elemOf w i (x % 2 ^ n) = elemOf w i x := by
  refine Nat.eq_of_testBit_eq fun b => ?_
  rw [testBit_elemOf, testBit_elemOf, Nat.testBit_mod_two_pow]
  by_cases hb : b < w
  · rw [Nat.mul_add, Nat.mul_one] at h
    simp [hb, show w * i + b < n by omega]
  · simp [hb]

theorem elemOf_toNat_ofNat {w i n : Nat} (h : w * (i + 1) ≤ n) (x : Nat) : elemOf w i (BitVec.ofNat n x).toNat = elemOf w i x := by
  rw [BitVec.toNat_ofNat, elemOf_mod_two_pow h]

/-- Elements `lo` to `lo + n - 1` are replaced. -/
theorem elemOf_putBits (w x lo n v k : Nat) :
    elemOf w k (putBits x (w * lo) (w * n) v) = if lo ≤ k ∧ k < lo + n then elemOf w (k - lo) v else elemOf w k x := by
  refine Nat.eq_of_testBit_eq fun b => ?_
  by_cases hb : b < w
  · have hiff : (w * lo ≤ w * k + b ∧ w * k + b < w * lo + w * n) ↔ lo ≤ k ∧ k < lo + n := by
      constructor
      · rintro ⟨h1, h2⟩
        constructor
        · by_contra hlt
          nlinarith [Nat.mul_le_mul_left w (show k + 1 ≤ lo by omega)]
        · by_contra hge
          nlinarith [Nat.mul_le_mul_left w (show lo + n ≤ k by omega)]
      · rintro ⟨h1, h2⟩
        exact ⟨by nlinarith [Nat.mul_le_mul_left w h1], by nlinarith [Nat.mul_le_mul_left w (show k + 1 ≤ lo + n by omega)]⟩
    rw [testBit_elemOf, testBit_putBits]
    by_cases hk : lo ≤ k ∧ k < lo + n
    · rw [if_pos (hiff.mpr hk), if_pos hk, testBit_elemOf, Nat.mul_sub, Nat.sub_add_comm (Nat.mul_le_mul_left w hk.1)]
    · rw [if_neg (fun h => hk (hiff.mp h)), if_neg hk, testBit_elemOf]
  · split <;> simp [testBit_elemOf, hb]

/-- The elements of a number built from its digits. -/
theorem elemOf_ofDigits (w : Nat) (l : List Nat) (hl : ∀ x ∈ l, x < 2 ^ w) (j : Nat) : elemOf w j (Nat.ofDigits (2 ^ w) l) = l.getD j 0 := by
  unfold elemOf
  rw [pow_mul]
  induction l generalizing j with
  | nil => simp
  | cons x r ih =>
    have hx := hl x List.mem_cons_self
    rw [Nat.ofDigits_cons]
    cases j with
    | zero => simp [Nat.add_mul_mod_self_left, Nat.mod_eq_of_lt hx]
    | succ k =>
      rw [pow_succ', ← Nat.div_div_eq_div_mul, Nat.add_mul_div_left _ _ (Nat.two_pow_pos w), Nat.div_eq_of_lt hx, Nat.zero_add, List.getD_cons_succ]
      exact ih (fun y hy => hl y (List.mem_cons_of_mem _ hy)) k

/-- A sum of shifted elements, as the fold over their indices builds it. -/
theorem foldl_add_shift {α : Type} (w : Nat) (f : α × Nat → Nat) (l : List α) (i a : Nat) :
    (l.zipIdx i).foldl (fun n e => n + f e <<< (w * e.2)) a = a + 2 ^ (w * i) * Nat.ofDigits (2 ^ w) ((l.zipIdx i).map f) := by
  induction l generalizing i a with
  | nil => simp
  | cons x r ih =>
    simp only [List.zipIdx_cons, List.foldl_cons, List.map_cons, Nat.ofDigits_cons]
    rw [ih, Nat.shiftLeft_eq, Nat.mul_succ, pow_add]
    ring

/-! ### One rounding (R44, R58) -/

/-- Flags that stand do not enter a rounding, a sum or a cell: they only gather. -/
theorem round_run_fst (lay : Layout) (rm : Nat) (fr : Bool) (x : Num) (fl : Nat) : ((lay.round rm fr x).run fl).1 = roundTo lay rm fr x := by
  cases x with
  | nan s => cases s <;> rfl
  | inf n => rfl
  | fin n m e =>
    cases m with
    | zero => rfl
    | succ m =>
      simp only [roundTo, Layout.round, Layout.roundMag]
      split_ifs <;> rfl

theorem cellF32_run_fst (rm : Nat) (fl : BitVec 8) (cell : Nat) (sum : ExactSum) :
    ((cellF32 rm fl cell sum).run 0).1 = roundTo f32 rm (fl.getLsbD 1) (sumOf (rm == 4) (f32.decode (fl.getLsbD 0) cell) sum.num) :=
  round_run_fst f32 rm _ _ _

theorem roundTo_f32_lt (rm : Nat) (fr : Bool) (x : Num) : roundTo f32 rm fr x < 2 ^ 32 := by
  have hsign : ∀ b, b2n b * f32.signBit ≤ 2 ^ 31 := by decide
  have hinf : f32.infBits < 2 ^ 31 := by decide
  cases x with
  | nan s => cases s <;> exact (by decide : f32.nanBits < 2 ^ 32)
  | inf n =>
    have hn := hsign n
    exact (by omega : f32.infBits + b2n n * f32.signBit < 2 ^ 32)
  | fin n m e =>
    have hn := hsign n
    cases m with
    | zero => exact (by omega : b2n n * f32.signBit < 2 ^ 32)
    | succ m =>
      change ((f32.roundMag rm fr n (m + 1) e).run 0).1 < 2 ^ 32
      obtain h | h | ⟨bits, hb, h⟩ := f32.roundMag_cases rm fr n (m + 1) e 0
      · omega
      · rw [h]; exact f32_overflow_lt rm n
      · omega

theorem wrapInt_lt (w : Nat) (x : Int) : wrapInt w x < 2 ^ w := by
  have hpos : (0 : Int) < (2 ^ w : Nat) := by positivity
  have h1 := Int.emod_lt_of_pos x hpos
  have h2 := Int.emod_nonneg x hpos.ne'
  unfold wrapInt
  omega

theorem cellI32_lt (rm : Nat) {cell : Nat} (h : cell < 2 ^ 32) (sum : ExactSum) : cellI32 rm cell sum < 2 ^ 32 := by
  unfold cellI32
  split
  · exact wrapInt_lt 32 _
  · exact h

end Machine
end Sys2Proof
end

section
/-!
PROOF of O48. What a write that performs leaves in its slice.
-/
namespace Sys2Proof.Machine

/-! ### Accumulator rows (R54, R58) -/

/-- What cell `j` of an old row adds to: 0 where the row is fresh. -/
def RowUpdate.start (u : RowUpdate) (old : TileRow) (j : Nat) : Nat := if u.fresh then 0 else elemOf 32 j old.toNat

/-- One cell of an updated row: the sum `e.1` added to element `e.2` of the old row. -/
def RowUpdate.cell (u : RowUpdate) (old : TileRow) (e : ExactSum × Nat) : Nat :=
  if u.isInt then cellI32 u.rm (u.start old e.2) e.1
  else roundTo f32 u.rm (u.flush.getLsbD 1) (sumOf (u.rm == 4) (f32.decode (u.flush.getLsbD 0) (u.start old e.2)) e.1.num)

theorem RowUpdate.start_lt (u : RowUpdate) (old : TileRow) (j : Nat) : u.start old j < 2 ^ 32 := by
  unfold RowUpdate.start
  split
  · decide
  · exact elemOf_lt 32 _ _

theorem RowUpdate.cell_lt (u : RowUpdate) (old : TileRow) (e : ExactSum × Nat) : u.cell old e < 2 ^ 32 := by
  unfold RowUpdate.cell
  split
  · exact cellI32_lt _ (u.start_lt old _) _
  · exact roundTo_f32_lt _ _ _

theorem RowUpdate.plane_fst (u : RowUpdate) (old : TileRow) (sums : List ExactSum) :
    (u.plane old sums).1 = Nat.ofDigits (2 ^ 32) (sums.zipIdx.map (u.cell old)) := by
  have hstep : (u.plane old sums).1 = sums.zipIdx.foldl (fun n e => n + u.cell old e <<< (32 * e.2)) 0 := by
    refine (List.foldl_hom Prod.fst (fun a e => ?_)).symm
    unfold RowUpdate.cell RowUpdate.start
    cases u.isInt
    · simp only [elemAt_eq_elemOf]
      rw [← cellF32_run_fst]
      rfl
    · simp only [elemAt_eq_elemOf]
      rfl
  rw [hstep, foldl_add_shift]
  simp

/-- Integer cells raise no flag. -/
theorem RowUpdate.plane_snd {u : RowUpdate} (h : u.isInt = true) (old : TileRow) (sums : List ExactSum) : (u.plane old sums).2 = (0, 0) := by
  unfold RowUpdate.plane
  refine List.foldlRecOn (motive := fun a : Nat × Nat × Nat => a.2 = (0, 0)) _ _ rfl fun a ha e _ => ?_
  obtain ⟨n, f, k⟩ := a
  cases ha
  simp [h]

theorem RowUpdate.elemOf_plane (u : RowUpdate) (old : TileRow) {sums : List ExactSum} (hl : sums.length = 32) {j : Nat} (hj : j < 32) :
    elemOf 32 j (u.plane old sums).1 = u.cell old (sums.getD j .nan, j) := by
  rw [u.plane_fst, elemOf_ofDigits]
  · simp [hl, hj]
  · intro x hx
    obtain ⟨e, -, rfl⟩ := List.mem_map.mp hx
    exact u.cell_lt old e

/-- The cells with a negative variance. -/
theorem RowUpdate.mem_clampRow (u : RowUpdate) (row j : Nat) : j ∈ (u.clampRow row).2 ↔ j < 32 ∧ negVar (elemOf 32 j row) = true := by
  simp [RowUpdate.clampRow, elemAt_eq_elemOf]

/-- Zeros put on the elements that a list names. -/
theorem elemOf_foldl_zero (l : List Nat) (row j : Nat) :
    elemOf 32 j (l.foldl (fun r k => putBits r (32 * k) 32 0) row) = if j ∈ l then 0 else elemOf 32 j row := by
  induction l generalizing row with
  | nil => simp
  | cons k l ih =>
    have hput := elemOf_putBits 32 row k 1 0 j
    rw [Nat.mul_one] at hput
    rw [List.foldl_cons, ih, hput]
    by_cases hj : j ∈ l
    · simp [hj]
    · by_cases hk : j = k
      · simp [hk]
      · rw [if_neg hj, if_neg (by omega), if_neg (by simp [hj, hk])]

theorem RowUpdate.elemOf_clampRow (u : RowUpdate) (row : Nat) {j : Nat} (hj : j < 32) :
    elemOf 32 j (u.clampRow row).1 = if (negVar (elemOf 32 j row) && u.clamp) = true then 0 else elemOf 32 j row := by
  have hmem := u.mem_clampRow row j
  unfold RowUpdate.clampRow at hmem ⊢
  dsimp only at hmem ⊢
  by_cases hc : u.clamp = true
  · rw [if_pos hc, elemOf_foldl_zero, hc, Bool.and_true]
    simp only [hmem, hj, true_and]
  · simp [hc]

theorem State.CoreOnly.onSlice (s : State) (f : Slice → Slice) : s.CoreOnly (s.onSlice f) := .onCore s _

/-- Nothing outside the timed core changes, and no slice of it. -/
structure State.SlicesStay (s t : State) : Prop where
  core : s.CoreOnly t
  cur : t.cur = s.cur
  slices : t.here.slices = s.here.slices

theorem State.SlicesStay.trans {s t u : State} (h : s.SlicesStay t) (k : t.SlicesStay u) : s.SlicesStay u :=
  ⟨.trans h.cur h.core k.core, k.cur.trans h.cur, k.slices.trans h.slices⟩

theorem State.SlicesStay.slice {s t : State} (h : s.SlicesStay t) (n : Nat) : t.here.slice n = s.here.slice n := by
  rw [Core.slice, Core.slice, h.slices]

theorem State.event_slicesStay (s : State) (f nf cyc : Nat) : s.SlicesStay (s.event f nf cyc) := by
  unfold State.event
  dsimp only
  split
  · exact ⟨.refl s, rfl, rfl⟩
  · exact ⟨.onCore s _, rfl, by rw [here_onDie]; rfl⟩

theorem State.trapS_slicesStay (s : State) (cyc code val : Nat) : s.SlicesStay (s.trapS cyc code val) :=
  ⟨.onCore s _, rfl, by rw [State.trapS, here_onCore]⟩

/-- The trap that a slice finds. -/
theorem State.trapS_found (s : State) (cyc code val : Nat) :
    ∃ x ∈ (s.trapS cyc code val).here.traps, x.code = code ∧ x.val = val ∧ x.slice = some s.cur.s ∧ x.die = s.cur.d := by
  rw [State.trapS, here_onCore]
  exact ⟨_, List.mem_append_right _ (List.mem_singleton.mpr rfl), rfl, rfl, rfl, rfl⟩

/-- A slice with one accumulator row replaced. -/
def Slice.setAcc (k row : Nat) (sl : Slice) : Slice := { sl with acc := SMap.set 0 sl.acc k (BitVec.ofNat 1024 row) }

theorem Slice.get_setAcc (k row : Nat) (sl : Slice) (j : Nat) :
    SMap.get (0 : TileRow) (sl.setAcc k row).acc j = if j = k then BitVec.ofNat 1024 row else SMap.get 0 sl.acc j := SMap.get_set _ _ _ _ _

section
variable (s : State) (o : Owed) (u : RowUpdate)

/-- The updated row of plane 0. -/
def State.row0 : Nat := (u.plane (SMap.get 0 s.slice.acc (64 * u.a + u.row)) u.s0).1

/-- The updated row of plane 1, before its variances are checked. -/
def State.row1 : Nat := (u.plane (SMap.get 0 s.slice.acc (64 * u.a + u.row + 32)) u.s1).1

theorem State.performRow_one (h : u.s1 = []) : ∃ e, s.SlicesStay e ∧ s.performRow o u = e.onSlice (Slice.setAcc (64 * u.a + u.row) (s.row0 u)) := by
  let r := u.plane (SMap.get 0 s.slice.acc (64 * u.a + u.row)) u.s0
  refine ⟨s.event r.2.1 r.2.2 (o.due + 1), s.event_slicesStay _ _ _, ?_⟩
  unfold State.performRow
  simp only [h, List.isEmpty_nil, if_true]
  rfl

/-- An update of integer cells changes its row alone. -/
theorem State.performRow_int (hi : u.isInt = true) (h : u.s1 = []) : s.performRow o u = s.onSlice (Slice.setAcc (64 * u.a + u.row) (s.row0 u)) := by
  unfold State.performRow
  simp only [h, List.isEmpty_nil, if_true, RowUpdate.plane_snd hi]
  rfl

/-- Both planes are updated; a negative variance that no clamp takes away is a trap. -/
theorem State.performRow_two (h : u.s1 ≠ []) : ∃ e e', s.SlicesStay e ∧ (e.onSlice (Slice.setAcc (64 * u.a + u.row) (s.row0 u))).SlicesStay e'
    ∧ s.performRow o u = e'.onSlice (Slice.setAcc (64 * u.a + u.row + 32) (u.clampRow (s.row1 u)).1)
    ∧ ((u.clampRow (s.row1 u)).2 ≠ [] → u.clamp = false → ∃ x ∈ e'.here.traps, x.code = 0x14 ∧ x.slice = some s.cur.s ∧ x.die = s.cur.d) := by
  have he : u.s1.isEmpty = false := by simpa using h
  let r := u.plane (SMap.get 0 s.slice.acc (64 * u.a + u.row)) u.s0
  have h0 := s.event_slicesStay r.2.1 r.2.2 (o.due + 1)
  refine ⟨s.event r.2.1 r.2.2 (o.due + 1), ?_⟩
  unfold State.performRow
  simp only [he, Bool.false_eq_true, if_false]
  unfold State.row1
  generalize hb : u.clampRow (u.plane (SMap.get 0 s.slice.acc (64 * u.a + u.row + 32)) u.s1).1 = rb
  obtain ⟨row, bad⟩ := rb
  dsimp only
  split
  · refine ⟨_, h0, (State.event_slicesStay _ _ _ _).trans (State.trapS_slicesStay _ _ _ _), rfl, fun _ _ => ?_⟩
    obtain ⟨x, hx, hcode, -, hs, hd⟩ := State.trapS_found _ _ _ _
    refine ⟨x, hx, hcode, ?_, ?_⟩
    · rw [hs, (State.event_slicesStay _ _ _ _).cur, onSlice_cur, h0.cur]
    · rw [hd, (State.event_slicesStay _ _ _ _).cur, onSlice_cur, h0.cur]
  · rename_i hno
    refine ⟨_, h0, State.event_slicesStay _ _ _ _, rfl, fun hne hc => ?_⟩
    obtain ⟨j, r, rfl⟩ := List.exists_cons_of_ne_nil hne
    exact (hno j r rfl hc).elim

/-- An accumulator row is updated, both planes where there are sums for both, and nothing else of the machine but flags and traps. -/
structure State.RowDone (t : State) : Prop where
  core : s.CoreOnly t
  others : ∀ n, n ≠ s.cur.s → t.here.slice n = s.here.slice n
  rest : { t.here.slice s.cur.s with acc := [] } = { s.slice with acc := [] }
  acc : ∀ k, SMap.get (0 : TileRow) (t.here.slice s.cur.s).acc k =
    if u.s1 ≠ [] ∧ k = 64 * u.a + u.row + 32 then BitVec.ofNat 1024 (u.clampRow (s.row1 u)).1
    else if k = 64 * u.a + u.row then BitVec.ofNat 1024 (s.row0 u) else SMap.get 0 s.slice.acc k
  trap : u.s1 ≠ [] → (u.clampRow (s.row1 u)).2 ≠ [] → u.clamp = false →
    ∃ x ∈ t.here.traps, x.code = 0x14 ∧ x.slice = some s.cur.s ∧ x.die = s.cur.d

theorem State.performRow_done : s.RowDone u (s.performRow o u) := by
  by_cases h : u.s1 = []
  · obtain ⟨e, he, hp⟩ := s.performRow_one o u h
    have hcur := congrArg Ctx.s he.cur
    have hslice : ∀ n, (s.performRow o u).here.slice n = if n = s.cur.s then (s.slice).setAcc (64 * u.a + u.row) (s.row0 u) else s.here.slice n := by
      intro n
      rw [hp, here_onSlice, Core.slice_onSlice, hcur, he.slice, he.slice]
      rfl
    refine ⟨?_, fun n hn => ?_, ?_, fun k => ?_, fun hne => (hne h).elim⟩
    · rw [hp]
      exact .trans he.cur he.core (.onSlice e _)
    · rw [hslice, if_neg hn]
    · rw [hslice, if_pos rfl]
      rfl
    · rw [hslice, if_pos rfl, Slice.get_setAcc, if_neg (fun hk : u.s1 ≠ [] ∧ _ => hk.1 h)]
  · obtain ⟨e, e', he, he', hp, htrap⟩ := s.performRow_two o u h
    have hcur := congrArg Ctx.s he.cur
    have hcur' : e'.cur.s = s.cur.s := (congrArg Ctx.s he'.cur).trans hcur
    have hslice : ∀ n, (s.performRow o u).here.slice n = if n = s.cur.s
        then (s.slice.setAcc (64 * u.a + u.row) (s.row0 u)).setAcc (64 * u.a + u.row + 32) (u.clampRow (s.row1 u)).1 else s.here.slice n := by
      intro n
      rw [hp, here_onSlice, Core.slice_onSlice, hcur', he'.slice, he'.slice, here_onSlice, Core.slice_onSlice, Core.slice_onSlice, hcur, he.slice, he.slice,
        if_pos rfl]
      by_cases hn : n = s.cur.s
      · rw [if_pos hn, if_pos hn]; rfl
      · rw [if_neg hn, if_neg hn, if_neg hn]
    refine ⟨?_, fun n hn => ?_, ?_, fun k => ?_, fun _ hbad hc => ?_⟩
    · rw [hp]
      exact .trans he.cur he.core (.trans (t := e.onSlice _) rfl (.onSlice e _) (.trans he'.cur he'.core (.onSlice e' _)))
    · rw [hslice, if_neg hn]
    · rw [hslice, if_pos rfl]
      rfl
    · rw [hslice, if_pos rfl, Slice.get_setAcc, Slice.get_setAcc]
      simp only [h, ne_eq, not_false_eq_true, true_and]
    · rw [hp, here_onSlice]
      exact htrap hbad hc

end

/-! ### Fields of rows and metadata -/

theorem byteOf_putRow (old v : TileRow) (lo len : Nat) {k : Nat} (hk : k < 128) :
    byteOf (putRow old lo len v).toNat k = if lo ≤ k ∧ k < lo + len then byteOf v.toNat (k - lo) else byteOf old.toNat k := by
  simp only [byteOf_eq_elemOf]
  rw [putRow, elemOf_toNat_ofNat (by omega), elemOf_putBits]

theorem getLsbD_putQuarter (old : BitVec 2048) (v : Rank) {k i : Nat} (hi : i < 2048) :
    (BitVec.ofNat 2048 (putBits old.toNat (512 * k) 512 v.toNat)).getLsbD i = if i / 512 = k then v.getLsbD (i % 512) else old.getLsbD i := by
  rw [BitVec.getLsbD_ofNat, testBit_putBits, decide_eq_true hi, Bool.true_and]
  by_cases hk : i / 512 = k
  · rw [if_pos (by omega), if_pos hk, show i - 512 * k = i % 512 by omega]
    rfl
  · rw [if_neg (by omega), if_neg hk]
    rfl

/-- A bank word with its tape entry, which stands in two other words (R340). -/
theorem Slice.writeWord_tape (l : Slice) {key a : Nat} (v : Word) (tag : BitVec 2) (h1 : a ≠ key) (h2 : a + 1 ≠ key) :
    let e := l.writeWord key v tag (some (4 * a))
    SMap.get 0 e.bank key = v ∧ SMap.get 0 e.bank a = SMap.get 0 l.bank key ∧ SMap.get 0 e.tag a = SMap.get 0 l.tag key
      ∧ (SMap.get 0 e.bank (a + 1)).toNat = 4 * key % 2 ^ 32
      ∧ ∀ k, k ≠ key → k ≠ a → k ≠ a + 1 → SMap.get 0 e.bank k = SMap.get 0 l.bank k := by
  have ha : 4 * a / 4 = a := Nat.mul_div_cancel_left a (by decide)
  simp only [Slice.writeWord, ha, SMap.get_set, h1, h2, if_true, if_false]
  refine ⟨trivial, by simp [Slice.word], by simp [Slice.poison], BitVec.toNat_ofNat _ _, fun k hk hka hka1 => by simp [hk, hka, hka1]⟩

/-! ### O48 -/

theorem State.performSpec_queue (s : State) (o : Owed) {n : Nat} (hn : n < 16) (v : Rank) : s.performSpec o n v =
    if (SMap.get [] s.slice.q n).length ≥ 4 then s.trapS (o.due + 1) 5 n
    else s.onSlice fun e => { e with q := SMap.set [] e.q n (SMap.get [] s.slice.q n ++ [v]) } := by
  unfold State.performSpec
  rw [if_pos (by simp [specQ, hn])]

theorem State.performSpec_stream (s : State) (o : Owed) {n : Nat} (hn : n < 32) (v : Rank) : s.performSpec o (0x10 + n) v =
    s.onCore fun c => { c with hops := SMap.set 0 c.hops (((dieOf s.cur.s * 4 + Machine.rowOf s.cur.s) * 32 + n) * 128 + colOf s.cur.s) v } := by
  have hkey : specHop s.cur.s (0x10 + n) = ((dieOf s.cur.s * 4 + Machine.rowOf s.cur.s) * 32 + n) * 128 + colOf s.cur.s := by
    simp [specHop, hopKey]
  unfold State.performSpec
  rw [if_neg (by simp [specQ]), if_pos (by simp [specStream]; omega), hkey]

theorem State.performSpec_z (s : State) (o : Owed) {n : Nat} (hn : n < 4) (v : Rank) :
    s.performSpec o (0x54 + n) v = s.onSlice fun e => { e with z := SMap.set 0 e.z n (v.extractLsb' 0 56) } := by
  interval_cases n <;> rfl

theorem State.performSpec_k (s : State) (o : Owed) {n : Nat} (h0 : 0 < n) (hn : n < 8) (v : Rank) :
    s.performSpec o (0x58 + n) v = s.onSlice fun e => { e with k := SMap.set 0 e.k n (v.extractLsb' 0 128) } := by
  interval_cases n <;> rfl

/-- Writes to the zero specifier and to k0 are discarded. -/
theorem State.performSpec_discard (s : State) (o : Owed) (v : Rank) : ∀ code ∈ [0x3A, 0x58], s.performSpec o code v = s := by
  intro code hc
  fin_cases hc <;> rfl

/-- A write that is discarded is owed no longer, and leaves its slice. -/
theorem State.pays.discards {s : State} {o : Owed} (h : s.pays o) (hp : (s.without o).perform o = s.without o) {P : Slice → Prop} (hP : P s.slice) :
    s.SlicePays o P := by
  refine ⟨_, h.exec, ?_⟩
  rw [hp]
  refine ⟨.onCore s _, ?_, ?_⟩
  · rw [State.without_here]
    exact ⟨rfl, fun _ _ => rfl⟩
  · rw [State.without_here]
    rwa [State.slice, h.cur_s] at hP

/-- Settles O48. -/
theorem writesOfASlice : Obligations.WritesOfASlice := by
  intro s o h l q
  have hspec : ∀ {code v}, o.dest = .spec code v → (s.without o).perform o = (s.without o).performSpec o code v := fun hd => by
    simp only [State.perform, hd]
  refine ⟨?_, ?_, ?_, ?_, ?_, ?_, ?_, ?_, ?_, ?_, ?_, ?_, ?_, ?_, ?_, ?_, ?_, ?_, ?_⟩
  · intro n v hn hq hd
    refine h.slice (g := fun e => { e with q := SMap.set [] e.q n (q n ++ [v]) }) ?_ ⟨.set _ _ _ _, rfl⟩
    rw [hspec hd, State.performSpec_queue _ _ hn, State.without_slice, if_neg (not_le.mpr hq)]
  · intro n v hn hq hd
    refine ⟨_, h.exec, ?_⟩
    rw [hspec hd, State.performSpec_queue _ _ hn, State.without_slice, if_pos hq]
    have hstay := (s.without o).trapS_slicesStay (o.due + 1) 5 n
    obtain ⟨x, hx, hcode, hval, hs, hdie⟩ := (s.without o).trapS_found (o.due + 1) 5 n
    refine ⟨.trans (t := s.without o) rfl (.onCore s _) hstay.core, ?_, x, hx, hcode, hval, ?_, ?_⟩
    · rw [hstay.slices, State.without_here]; rfl
    · rw [hs, State.without_cur, h.cur_s]
    · rw [hdie, State.without_cur, h.cur_d]
  · intro n v hn hd
    refine ⟨_, h.exec, ?_⟩
    rw [hspec hd, State.performSpec_stream _ _ hn, State.without_cur, h.cur_s]
    refine ⟨.trans (t := s.without o) rfl (.onCore s _) (.onCore _ _), ?_, ?_⟩
    · rw [State.here_onCore, State.without_here]
    · rw [State.here_onCore, State.without_here]
      exact .set _ _ _ _
  · exact fun v hd => h.slice (g := fun e => { e with tw := v }) (hspec hd) rfl
  · intro v hd
    refine h.discards ?_ rfl
    obtain hd | hd := hd
    · rw [hspec hd]; exact State.performSpec_discard _ _ _ _ (by simp)
    · rw [hspec hd]; exact State.performSpec_discard _ _ _ _ (by simp)
  · intro n v hn hd
    exact h.slice ((hspec hd).trans (State.performSpec_z _ _ hn v)) ⟨.set _ _ _ _, rfl⟩
  · intro n v h0 hn hd
    exact h.slice ((hspec hd).trans (State.performSpec_k _ _ h0 hn v)) ⟨.set _ _ _ _, rfl⟩
  · exact fun v hd => h.slice (g := fun e => { e with tl := (o.due + 1, v) }) (by simp only [State.perform, hd]) rfl
  · intro b line v tag hd
    exact h.slice (g := fun e => e.writeWord (wordKey b line) v tag none) (by simp only [State.perform, hd]) ⟨.set _ _ _ _, .set _ _ _ _, rfl⟩
  · intro b line v tag a hd h1 h2
    exact h.slice (g := fun e => e.writeWord (wordKey b line) v tag (some (4 * a))) (by simp only [State.perform, hd])
      (l.writeWord_tape v tag h1 h2)
  · intro n v hd
    exact h.slice (g := fun e => { e with m := SMap.set 0 e.m n v }) (by simp only [State.perform, hd]) ⟨.set _ _ _ _, rfl⟩
  · intro n row lo len v hlen hd
    refine h.slice (g := fun e => { e with t := SMap.set 0 e.t (32 * n + row) (putRow (e.tileRow n row) lo len v) }) (by simp only [State.perform, hd])
      ⟨rfl, fun k hk => ?_, fun k hk => ?_⟩
    · exact (SMap.get_set _ _ _ _ _).trans (if_neg hk)
    · rw [SMap.get_set, if_pos rfl, byteOf_putRow _ _ _ _ hk]
      rfl
  · intro a row hrow hd
    refine h.slice (g := fun e => { e with acc := SMap.set 0 (SMap.set 0 e.acc (64 * a + row) 0) (64 * a + 32 + row) 0 }) (by simp only [State.perform, hd])
      ⟨rfl, fun k => ?_⟩
    rw [SMap.get_set, SMap.get_set]
    by_cases h1 : k = 64 * a + 32 + row
    · rw [if_pos h1, if_pos (.inr h1)]
    · by_cases h0 : k = 64 * a + row
      · rw [if_neg h1, if_pos h0, if_pos (.inl h0)]
      · rw [if_neg h1, if_neg h0, if_neg (not_or.mpr ⟨h0, h1⟩)]
  · intro u hd hint hrow hlen h1
    refine h.slice (g := Slice.setAcc (64 * u.a + u.row) (s.row0 u)) ?_ ⟨rfl, fun k hk => ?_, fun j hj => ?_⟩
    · simp only [State.perform, hd]
      rw [State.performRow_int _ _ _ hint h1]
      simp only [State.row0, State.without_slice]
    · rw [Slice.get_setAcc, if_neg hk]
    · rw [Slice.get_setAcc, if_pos rfl, elemOf_toNat_ofNat (by omega)]
      refine (u.elemOf_plane _ hlen hj).trans ?_
      rw [RowUpdate.cell, if_pos hint]
      rfl
  · intro u hd hint hrow h0 h1
    have hp : (s.without o).perform o = (s.without o).performRow o u := by simp only [State.perform, hd]
    obtain ⟨hcore, hothers, hrest, hacc, htrap⟩ := (s.without o).performRow_done o u
    rw [← hp] at hcore hothers hrest hacc htrap
    simp only [State.without_cur, h.cur_s, h.cur_d, State.without_slice] at hothers hrest hacc htrap
    have hrow0 : (s.without o).row0 u = s.row0 u := by simp only [State.row0, State.without_slice]
    have hrow1 : (s.without o).row1 u = s.row1 u := by simp only [State.row1, State.without_slice]
    have hcell : ∀ (old : TileRow) {sums : List ExactSum} {j : Nat}, sums.length = 32 → j < 32 → elemOf 32 j (u.plane old sums).1
        = roundTo f32 u.rm (u.flush.getLsbD 1) (sumOf (u.rm == 4) (f32.decode (u.flush.getLsbD 0) (u.start old j)) (sums.getD j .nan).num) := by
      intro old sums j hl hj
      rw [u.elemOf_plane old hl hj, RowUpdate.cell, hint]
      rfl
    rw [hrow1] at htrap
    rw [hrow0, hrow1] at hacc
    refine ⟨_, h.exec, .trans (t := s.without o) rfl (.onCore s _) hcore, fun n hn => ?_, hrest, fun k hk hk1 => ?_, fun j hj => ?_, fun hs j hj => ⟨?_, fun hneg hc => ?_⟩⟩
    · rw [hothers n hn, State.without_here]; rfl
    · rw [hacc, if_neg fun hk' => hk1 hk'.1 hk'.2, if_neg hk]
    · dsimp only
      rw [hacc, if_neg (by omega), if_pos rfl, elemOf_toNat_ofNat (by omega)]
      exact hcell _ h0 hj
    · dsimp only
      rw [hacc, if_pos ⟨hs, rfl⟩, elemOf_toNat_ofNat (by omega), u.elemOf_clampRow _ hj]
      simp only [State.row1, hcell _ (h1.resolve_left hs) hj]
      rfl
    · refine htrap hs (List.ne_nil_of_mem ((u.mem_clampRow _ j).mpr ⟨hj, ?_⟩)) hc
      rw [State.row1, hcell _ (h1.resolve_left hs) hj]
      exact hneg
  · intro n k v hk hd
    refine h.slice (g := fun e => { e with d := SMap.set 0 e.d n (BitVec.ofNat 2048 (putBits (SMap.get (0 : BitVec 2048) e.d n).toNat (512 * k) 512 v.toNat)) })
      (by simp only [State.perform, hd]) ⟨rfl, fun j hj => ?_, fun i hi => ?_⟩
    · rw [SMap.get_set, if_neg hj]
    · simp only [SMap.get_set, if_true, getLsbD_putQuarter _ _ hi]
      rfl
  · exact fun b hd => h.slice (g := fun e => { e with b := b }) (by simp only [State.perform, hd]) rfl
  · intro row v hd
    exact h.slice (g := fun e => { e with byp := SMap.set 0 e.byp row v }) (by simp only [State.perform, hd]) ⟨.set _ _ _ _, rfl⟩
  · exact fun v hd => h.slice (g := fun e => { e with tp := v }) (by simp only [State.perform, hd]) rfl

end Sys2Proof.Machine
end

section
/-!
SUPPORT for O33, O41 and O45. What a slice syllable can do in its own step: the operations it is made of, as one relation that composes.
-/
namespace Sys2Proof.Machine

/-- The running context but for what a step carries to its later rows. -/
structure Ctx.Same (c e : Ctx) : Prop where
  cid : e.cid = c.cid
  d : e.d = c.d
  s : e.s = c.s
  slot : e.slot = c.slot
  X : e.X = c.X
  row : e.row = c.row
  fl : e.fl = c.fl
  issueT : e.issueT = c.issueT

theorem Ctx.Same.refl (c : Ctx) : c.Same c := ⟨rfl, rfl, rfl, rfl, rfl, rfl, rfl, rfl⟩

theorem Ctx.Same.trans {a b c : Ctx} (h : a.Same b) (k : b.Same c) : a.Same c :=
  ⟨k.cid.trans h.cid, k.d.trans h.d, k.s.trans h.s, k.slot.trans h.slot, k.X.trans h.X, k.row.trans h.row, k.fl.trans h.fl, k.issueT.trans h.issueT⟩

theorem Ctx.Same.of_aux {c e : Ctx} (h : e = { c with aux := e.aux }) : c.Same e := by
  rw [h]
  exact ⟨rfl, rfl, rfl, rfl, rfl, rfl, rfl, rfl⟩

theorem Ctx.Same.owes {c e : Ctx} (h : c.Same e) : e.owes = c.owes := by
  funext x o
  simp only [Ctx.owes, h.d, h.s, h.slot, h.fl, h.issueT]

/-- A slice step owes exactly the writes of `l`, in order, and changes beside them only what a slice syllable may change. -/
structure State.SliceStep (s t : State) (near : List Nat) (l : List (Nat × Dest)) : Prop where
  cur : s.cur.Same t.cur
  frame : s.SliceFrame t near fun due d => (due, d) ∈ l
  hub : t.hub = s.hub
  hatoms : t.here.hatoms = s.here.hatoms
  owes : ∃ os, t.here.owed = s.here.owed ++ os ∧ List.Forall₂ s.cur.owes l os

theorem State.SliceFrame.mono {s t : State} {near : List Nat} {W W' : Nat → Dest → Prop} (hW : ∀ due d, W due d → W' due d) (h : s.SliceFrame t near W) :
    s.SliceFrame t near W' := by
  obtain ⟨os, hos, hall⟩ := h.owed
  exact { h with owed := ⟨os, hos, fun o ho => ⟨hW _ _ (hall o ho).1, (hall o ho).2⟩⟩ }

theorem State.SliceFrame.trans {s t u : State} {near : List Nat} {W : Nat → Dest → Prop} (hc : s.cur.Same t.cur) (h : s.SliceFrame t near W)
    (k : t.SliceFrame u near W) : s.SliceFrame u near W where
  hbm a := (k.hbm a).trans (h.hbm a)
  others cid n := (k.others cid (by rwa [hc.cid])).trans (h.others cid n)
  ctxs := k.ctxs.trans h.ctxs
  parts := k.parts.trans h.parts
  hw := k.hw.trans h.hw
  link := k.link.trans h.link
  inputs := k.inputs.trans h.inputs
  agenda := k.agenda.trans h.agenda
  hub := k.hub.trans h.hub
  slices n hn := (k.slices n hn).trans (h.slices n hn)
  registers n := (k.registers n).trans (h.registers n)
  pops n q := by
    obtain ⟨a, ha⟩ := h.pops n q
    obtain ⟨b, hb⟩ := k.pops n q
    exact ⟨a + b, by rw [hb, ha, List.drop_drop]⟩
  dies d := (k.dies d).trans (h.dies d)
  otherDies d hd := (k.otherDies d (by rwa [hc.d])).trans (h.otherDies d hd)
  owed := by
    obtain ⟨os, hos, ho⟩ := h.owed
    obtain ⟨os', hos', ho'⟩ := k.owed
    rw [hc.issueT, hc.fl, hc.d, hc.s] at ho'
    exact ⟨os ++ os', by rw [hos', hos, List.append_assoc], fun o hm => (List.mem_append.mp hm).elim (ho o) (ho' o)⟩
  traps := by
    obtain ⟨a, ha⟩ := h.traps
    obtain ⟨b, hb⟩ := k.traps
    exact ⟨a ++ b, by rw [hb, ha, List.append_assoc]⟩
  tasks := by
    obtain ⟨a, ha⟩ := h.tasks
    obtain ⟨b, hb⟩ := k.tasks
    exact ⟨a ++ b, by rw [hb, ha, List.append_assoc]⟩
  acc := k.acc.trans h.acc
  handler := k.handler.trans h.handler
  hops := k.hops.trans h.hops
  sinks := k.sinks.trans h.sinks
  owned := k.owned.trans h.owned
  planes := k.planes.trans h.planes
  acquired := k.acquired.trans h.acquired
  ereserve := k.ereserve.trans h.ereserve

theorem State.SliceStep.trans {s t u : State} {near : List Nat} {l m : List (Nat × Dest)} (h : s.SliceStep t near l) (k : t.SliceStep u near m) :
    s.SliceStep u near (l ++ m) := by
  obtain ⟨os, hos, ho⟩ := h.owes
  obtain ⟨os', hos', ho'⟩ := k.owes
  rw [h.cur.owes] at ho'
  refine ⟨h.cur.trans k.cur, ?_, k.hub.trans h.hub, k.hatoms.trans h.hatoms, os ++ os', by rw [hos', hos, List.append_assoc], List.rel_append ho ho'⟩
  exact (h.frame.mono fun _ _ hm => List.mem_append_left _ hm).trans h.cur (k.frame.mono fun _ _ hm => List.mem_append_right _ hm)

/-- A step that owes nothing more. -/
theorem State.SliceStep.andThen {s t u : State} {near : List Nat} {l : List (Nat × Dest)} (h : s.SliceStep t near l) (k : t.SliceStep u near []) :
    s.SliceStep u near l := by
  simpa using h.trans k

/-- What of a core no slice step changes. -/
def Core.still (c : Core) := (c.acc, c.handler, c.hops, c.sinks, c.owned, c.planes, c.acquired, c.ereserve, c.hatoms)

/-- A change of the running core that a slice step may make. -/
structure Core.Step (c e : Core) (d : Nat) (near : List Nat) : Prop where
  slices : ∀ n, n ∉ near → e.slice n = c.slice n
  registers : ∀ n, (e.slice n).registers = (c.slice n).registers
  pops : ∀ n k, ∃ m, SMap.get [] (e.slice n).q k = (SMap.get [] (c.slice n).q k).drop m
  dies : ∀ k, { e.die k with evts := [] } = { c.die k with evts := [] }
  otherDies : ∀ k, k ≠ d → e.die k = c.die k
  traps : ∃ tr, e.traps = c.traps ++ tr
  tasks : ∃ ts, e.tasks = c.tasks ++ ts
  still : e.still = c.still

theorem exists_of_forall₂_mem {α β : Type} {R : α → β → Prop} {l : List α} {m : List β} (h : List.Forall₂ R l m) {b : β} (hb : b ∈ m) :
    ∃ a ∈ l, R a b := by
  induction h with
  | nil => cases hb
  | cons hr _ ih =>
    obtain rfl | hb := List.mem_cons.mp hb
    · exact ⟨_, List.mem_cons_self, hr⟩
    · obtain ⟨a, ha, hR⟩ := ih hb
      exact ⟨a, List.mem_cons_of_mem _ ha, hR⟩

/-- A step of the running core, with the writes that it owes. -/
theorem State.SliceStep.ofCore {s t : State} {near : List Nat} {l : List (Nat × Dest)} (hcur : t.cur = s.cur) (hout : s.CoreOnly t)
    (hcore : s.here.Step t.here s.cur.d near) (howed : ∃ os, t.here.owed = s.here.owed ++ os ∧ List.Forall₂ s.cur.owes l os) :
    s.SliceStep t near l := by
  have hstill := hcore.still
  simp only [Core.still, Prod.mk.injEq] at hstill
  obtain ⟨hacc, hhandler, hhops, hsinks, howned, hplanes, hacquired, hereserve, hhatoms⟩ := hstill
  refine ⟨hcur ▸ .refl _, ?_, hout.hub, hhatoms, howed⟩
  exact { hout with
          hub := by rw [hout.hub]
          slices := hcore.slices, registers := hcore.registers, pops := hcore.pops, dies := hcore.dies, otherDies := hcore.otherDies
          traps := hcore.traps, tasks := hcore.tasks, acc := hacc, handler := hhandler, hops := hhops, sinks := hsinks, owned := howned
          planes := hplanes, acquired := hacquired, ereserve := hereserve
          owed := by
            obtain ⟨os, hos, ho⟩ := howed
            refine ⟨os, hos, fun o hm => ?_⟩
            obtain ⟨e, he, hdue, hdest, hT, hd, -, hs, hhnd, hissued⟩ := exists_of_forall₂_mem ho hm
            exact ⟨by rw [hdue, hdest]; exact he, hT, hissued, hhnd, hd, hs⟩ }

theorem State.SliceStep.refl (s : State) (near : List Nat) : s.SliceStep s near [] :=
  .ofCore rfl (.refl s) ⟨fun _ _ => rfl, fun _ => rfl, fun _ _ => ⟨0, rfl⟩, fun _ => rfl, fun _ _ => rfl, ⟨[], (List.append_nil _).symm⟩,
    ⟨[], (List.append_nil _).symm⟩, rfl⟩ ⟨[], (List.append_nil _).symm, .nil⟩

theorem State.Quiet.sliceStep {s t : State} {l : List (Nat × Dest)} (h : s.Quiet t l) (near : List Nat) : s.SliceStep t near l := by
  obtain ⟨os, tr, ac, fl, n, -, hos, -, hhere⟩ := h.here
  refine .ofCore h.cur h.outside ?_ ⟨os, by rw [hhere], hos⟩
  rw [hhere]
  exact ⟨fun _ _ => rfl, fun _ => rfl, fun _ _ => ⟨0, rfl⟩, fun _ => rfl, fun _ _ => rfl, ⟨tr, rfl⟩, ⟨[], (List.append_nil _).symm⟩, rfl⟩

theorem State.Quiet.slice {s t : State} {l : List (Nat × Dest)} (h : s.Quiet t l) (n : Nat) : t.here.slice n = s.here.slice n := by
  obtain ⟨os, tr, ac, fl, k, -, -, -, hhere⟩ := h.here
  rw [hhere]
  rfl

/-- A change of the running core that owes nothing. -/
theorem State.SliceStep.onCore (s : State) {f : Core → Core} {near : List Nat} (hf : s.here.Step (f s.here) s.cur.d near)
    (howed : (f s.here).owed = s.here.owed) : s.SliceStep (s.onCore f) near [] := by
  refine .ofCore rfl (.onCore s f) (by rwa [here_onCore]) ⟨[], by rw [here_onCore, howed, List.append_nil], .nil⟩

/-- A change of one slice near by: its registers stand, and its queues lose at most their heads. -/
theorem State.SliceStep.sliceOf (s : State) {near : List Nat} {n : Nat} (hn : n ∈ near) {g : Slice → Slice}
    (hreg : (g (s.here.slice n)).registers = (s.here.slice n).registers)
    (hq : ∀ k, ∃ m, SMap.get [] (g (s.here.slice n)).q k = (SMap.get [] (s.here.slice n).q k).drop m) :
    s.SliceStep (s.onCore fun c => c.onSlice n g) near [] := by
  refine .onCore s ⟨fun k hk => ?_, fun k => ?_, fun k q => ?_, fun _ => rfl, fun _ _ => rfl, ⟨[], (List.append_nil _).symm⟩,
    ⟨[], (List.append_nil _).symm⟩, rfl⟩ rfl
  · rw [Core.slice_onSlice, if_neg fun e : k = n => hk (e ▸ hn)]
  · rw [Core.slice_onSlice]
    split
    · rename_i e
      rw [e, hreg]
    · rfl
  · rw [Core.slice_onSlice]
    split
    · rename_i e
      rw [e]
      exact hq q
    · exact ⟨0, rfl⟩

/-- A change of the running slice. -/
theorem State.SliceStep.ownSlice (s : State) {near : List Nat} (hn : s.cur.s ∈ near) {g : Slice → Slice} (hreg : (g s.slice).registers = s.slice.registers)
    (hq : ∀ k, ∃ m, SMap.get [] (g s.slice).q k = (SMap.get [] s.slice.q k).drop m) : s.SliceStep (s.onSlice g) near [] := sliceOf s hn hreg hq

section
variable {s t : State} {near : List Nat} {l : List (Nat × Dest)} (h : s.SliceStep t near l)
include h

/-! ### What stands along the way -/

theorem State.SliceStep.slice_registers : t.slice.registers = s.slice.registers := by
  rw [State.slice, State.slice, h.cur.s]
  exact h.frame.registers _

theorem State.SliceStep.cur_s : t.cur.s = s.cur.s := h.cur.s
theorem State.SliceStep.x : t.X = s.X := h.cur.X
theorem State.SliceStep.tab : t.tab = s.tab := congrArg Flight.tab h.cur.fl

/-! ### The operations of a slice step -/

theorem State.SliceStep.quiet {u : State} (k : t.Quiet u []) : s.SliceStep u near l := h.andThen (k.sliceStep near)

theorem State.SliceStep.sample (loc : Loc) (cyc : Nat) : s.SliceStep (t.sample loc cyc) near l := h.quiet (t.sample_quiet loc cyc)

theorem State.SliceStep.mark (loc : Loc) (r : Nat) : s.SliceStep (t.mark loc r) near l := h.quiet (t.mark_quiet loc r)

theorem State.SliceStep.owe (due : Nat) (d : Dest) : s.SliceStep (t.owe due d) near (l ++ [(due, d)]) := h.trans ((t.owe_quiet due d).sliceStep near)

theorem State.SliceStep.trapS (cyc code val : Nat) : s.SliceStep (t.trapS cyc code val) near l :=
  h.andThen (.onCore t ⟨fun _ _ => rfl, fun _ => rfl, fun _ _ => ⟨0, rfl⟩, fun _ => rfl, fun _ _ => rfl, ⟨_, rfl⟩, ⟨[], (List.append_nil _).symm⟩, rfl⟩ rfl)

theorem State.SliceStep.trapB (cyc code val : Nat) : s.SliceStep (t.trapB cyc code val) near l :=
  h.andThen (.onCore t ⟨fun _ _ => rfl, fun _ => rfl, fun _ _ => ⟨0, rfl⟩, fun _ => rfl, fun _ _ => rfl, ⟨_, rfl⟩, ⟨[], (List.append_nil _).symm⟩, rfl⟩ rfl)

theorem State.SliceStep.later (cyc row : Nat) (i : Instr) : s.SliceStep (t.later cyc row i) near l :=
  h.andThen (.onCore t ⟨fun _ _ => rfl, fun _ => rfl, fun _ _ => ⟨0, rfl⟩, fun _ => rfl, fun _ _ => rfl, ⟨[], (List.append_nil _).symm⟩, ⟨_, rfl⟩, rfl⟩ rfl)

theorem State.SliceStep.trapWhen (b : Bool) (cyc code val : Nat) : s.SliceStep (t.trapWhen b cyc code val) near l := by
  unfold State.trapWhen
  split
  · exact h.trapS _ _ _
  · exact h

theorem State.SliceStep.trapBWhen (b : Bool) (cyc code val : Nat) : s.SliceStep (t.trapBWhen b cyc code val) near l := by
  unfold State.trapBWhen
  split
  · exact h.trapB _ _ _
  · exact h

theorem State.SliceStep.event (f nf cyc : Nat) : s.SliceStep (t.event f nf cyc) near l := by
  unfold State.event
  dsimp only
  split
  · exact h
  · refine h.andThen (.onCore t ⟨fun _ _ => rfl, fun _ => rfl, fun _ _ => ⟨0, rfl⟩, fun k => ?_, fun k hk => ?_, ⟨[], (List.append_nil _).symm⟩,
      ⟨[], (List.append_nil _).symm⟩, rfl⟩ rfl)
    · rw [Core.die_onDie]
      split
      · rename_i e
        rw [e]
      · rfl
    · rw [Core.die_onDie, if_neg hk]

theorem State.SliceStep.eventWhen (b : Bool) (f nf cyc : Nat) : s.SliceStep (if b then t.event f nf cyc else t) near l := by
  split
  · exact h.event _ _ _
  · exact h

/-- The slice's own latches and tags change. -/
theorem State.SliceStep.onSlice (hn : s.cur.s ∈ near) {g : Slice → Slice} (hreg : ∀ e : Slice, (g e).registers = e.registers) (hq : ∀ e : Slice, (g e).q = e.q) :
    s.SliceStep (t.onSlice g) near l :=
  h.andThen (.sliceOf t (h.cur_s ▸ hn) (hreg _) fun _ => ⟨0, by rw [hq]; rfl⟩)

theorem State.SliceStep.readRank (hn : s.cur.s ∈ near) (c cyc : Nat) (peek : Bool) : s.SliceStep (t.readRank c cyc peek).2 near l := by
  unfold State.readRank
  split
  · split
    · exact h.trapS _ _ _
    · rename_i r rest hq
      dsimp only
      split
      · exact h.sample _ _
      · have hsm := t.sample_quiet (.reg t.cur.s c 0) cyc
        have hsl : (t.sample (.reg t.cur.s c 0) cyc).slice = t.slice := by rw [State.slice, State.slice, hsm.cur, hsm.slice]
        refine (h.sample _ _).andThen (.ownSlice _ (by rwa [hsm.cur, h.cur_s]) rfl fun k => ?_)
        rw [hsl, SMap.get_set]
        by_cases hk : k = c
        · exact ⟨1, by rw [if_pos hk, hk, hq]; rfl⟩
        · exact ⟨0, if_neg hk⟩
  · dsimp only
    split
    · exact h.sample _ _
    · exact h

theorem State.SliceStep.markRank (c result : Nat) : s.SliceStep (if specTracked c then t.mark (.reg t.cur.s c 0) result else t) near l := by
  split
  · exact h.mark _ _
  · exact h

/-- A negative variance is a flag event or a trap (R54). -/
theorem State.SliceStep.varianceOut (v place cyc : Nat) : s.SliceStep (t.varianceOut v place cyc).2 near l := by
  unfold State.varianceOut
  split
  · split
    · exact h.event flagIV 0 cyc
    · exact h.trapS cyc 0x14 place
  · exact h

theorem State.SliceStep.variance (v place cyc : Nat) : s.SliceStep (t.variance v place cyc).2 near l := by
  unfold State.variance
  split
  · split
    · exact h.event flagIV 0 cyc
    · exact h.trapS cyc 0x14 place
  · exact h

/-- The running context may carry another value on to its later rows. -/
theorem State.SliceStep.recur {c : Ctx} (hc : t.cur.Same c) : s.SliceStep { t with cur := c } near l := by
  have hhere : ({ t with cur := c } : State).here = t.here := congrArg t.core hc.cid
  refine ⟨h.cur.trans hc, ?_, h.hub, by rw [hhere]; exact h.hatoms, by rw [hhere]; exact h.owes⟩
  obtain ⟨_, _, _, _, _, _, _, _, _, _, _, _, _, _, _, _, _, _, _, _, _, _, _, _, _⟩ := h.frame
  constructor <;> try rw [hhere]
  all_goals assumption
end

/-- What owing a rank to a destination specifier adds: `zero` and k0 discard it (R76, R100). -/
def rankWrites (c due : Nat) (v : Rank) : List (Nat × Dest) := if c = 0x3A ∨ c = 0x58 then [] else [(due, .spec c v)]

theorem eq_of_mem_rankWrites {c due due' : Nat} {v : Rank} {d : Dest} (h : (due', d) ∈ rankWrites c due v) : due' = due ∧ d = .spec c v := by
  unfold rankWrites at h
  split at h
  · exact (List.not_mem_nil h).elim
  · exact Prod.mk.inj (List.mem_singleton.mp h)

section
variable {s t : State} {near : List Nat} {l : List (Nat × Dest)} (h : s.SliceStep t near l)
include h

theorem State.SliceStep.writeRank (c result : Nat) (v : Rank) : s.SliceStep (t.writeRank c result v) near (l ++ rankWrites c (result - 1) v) := by
  unfold State.writeRank rankWrites
  by_cases hc : c = 0x3A ∨ c = 0x58
  · rw [if_pos hc, if_pos (by simpa using hc), List.append_nil]
    exact h
  · rw [if_neg hc, if_neg (by simpa using hc)]
    exact (h.markRank c result).owe _ _

theorem State.SliceStep.writeM (c result v : Nat) : s.SliceStep (t.writeM c result v) near (l ++ [(result - 1, .mom (c - 0x30) (BitVec.ofNat 1024 v))]) :=
  (h.mark _ _).owe _ _

/-- A fold of steps that each owe one write. -/
theorem State.SliceStep.foldlOwes {α : Type} {f : State → α → State} {g : α → Nat × Dest} (xs : List α)
    (hf : ∀ (u : State) (m : List (Nat × Dest)) (a : α), s.SliceStep u near m → s.SliceStep (f u a) near (m ++ [g a])) :
    s.SliceStep (xs.foldl f t) near (l ++ xs.map g) := by
  induction xs generalizing t l with
  | nil => simpa using h
  | cons a xs ih =>
    have := ih (hf t l a h)
    rwa [List.append_assoc] at this

/-- A fold of steps that owe nothing. -/
theorem State.SliceStep.foldl {α : Type} {f : State → α → State} (xs : List α)
    (hf : ∀ (u : State) (a : α), s.SliceStep u near l → s.SliceStep (f u a) near l) : s.SliceStep (xs.foldl f t) near l :=
  List.foldlRecOn (motive := fun u => s.SliceStep u near l) xs f h fun u hu a _ => hf u a hu

end

end Sys2Proof.Machine
end

section
/-!
SUPPORT for O33. The targets that requests resolve to are a permutation (R186), and its setting stands in 56 bits (R187).
-/
namespace Sys2Proof.Machine

section
variable (valid : Nat → Bool) (req : Nat → Nat)

/-- An input is served: its request is valid, and no lower input has a valid one for the same target. -/
def routeServed (i : Nat) : Bool := valid i && (List.range i).all fun j => !(valid j && req j == req i)

/-- The targets that no served input takes, ascending. -/
def routeFree : List Nat := (List.range 16).filter fun t => (List.range 16).all fun j => !(routeServed valid req j && req j == t)

/-- How many inputs below `i` are not served. -/
def routeRank (i : Nat) : Nat := ((List.range i).filter fun j => !routeServed valid req j).length

theorem targetOf_eq (i : Nat) : targetOf valid req i = if routeServed valid req i then req i else (routeFree valid req).getD (routeRank valid req i) 0 := rfl

variable {valid req}

theorem routeServed_iff {i : Nat} : routeServed valid req i = true ↔ valid i = true ∧ ∀ j < i, valid j = true → req j ≠ req i := by
  simp [routeServed, or_iff_not_imp_left]

theorem not_routeServed_iff {i : Nat} (hv : valid i = true) : routeServed valid req i = false ↔ ∃ j < i, valid j = true ∧ req j = req i := by
  rw [← Bool.not_eq_true, routeServed_iff]
  simp [hv]

theorem routeServed_inj {i j : Nat} (hi : routeServed valid req i = true) (hj : routeServed valid req j = true) (h : req i = req j) : i = j := by
  obtain ⟨hvi, hli⟩ := routeServed_iff.mp hi
  obtain ⟨hvj, hlj⟩ := routeServed_iff.mp hj
  rcases Nat.lt_trichotomy i j with hlt | heq | hgt
  · exact (hlj i hlt hvi h).elim
  · exact heq
  · exact (hli j hgt hvj h.symm).elim

/-- The first of the inputs that ask for a target is served. -/
theorem exists_routeServed {j : Nat} (hv : valid j = true) : ∃ i ≤ j, routeServed valid req i = true ∧ req i = req j := by
  induction j using Nat.strong_induction_on with
  | _ j ih =>
    by_cases hs : routeServed valid req j = true
    · exact ⟨j, le_refl j, hs, rfl⟩
    · obtain ⟨k, hk, hvk, hreq⟩ := (not_routeServed_iff hv).mp (Bool.not_eq_true _ ▸ hs)
      obtain ⟨i, hi, hsi, hri⟩ := ih k hk hvk
      exact ⟨i, by omega, hsi, hri.trans hreq⟩

theorem mem_routeFree {t : Nat} : t ∈ routeFree valid req ↔ t < 16 ∧ ∀ j < 16, routeServed valid req j = true → req j ≠ t := by
  simp [routeFree, or_iff_not_imp_left]

variable (valid req)

/-! ### The model's procedure -/

/-- One input of the first pass. -/
def routeStep (acc : List (Option Nat) × List Nat) (i : Nat) : List (Option Nat) × List Nat :=
  if valid i && !acc.2.contains (req i) then (acc.1 ++ [some (req i)], req i :: acc.2) else (acc.1 ++ [none], acc.2)

/-- One input of the second pass. -/
def routeFill (acc : List Nat × List Nat) (x : Option Nat) : List Nat × List Nat :=
  match x with
  | some t => (acc.1 ++ [t], acc.2)
  | none => (acc.1 ++ [acc.2.headD 0], acc.2.tail)

/-- What the first pass gives an input. -/
def routeGot (i : Nat) : Option Nat := if routeServed valid req i then some (req i) else none

theorem routeStep_foldl (n : Nat) : ((List.range n).foldl (routeStep valid req) ([], [])).1 = (List.range n).map (routeGot valid req)
    ∧ ∀ t, t ∈ ((List.range n).foldl (routeStep valid req) ([], [])).2 ↔ ∃ j < n, valid j = true ∧ req j = t := by
  induction n with
  | zero => simp
  | succ n ih =>
    obtain ⟨h1, h2⟩ := ih
    rw [List.range_succ, List.foldl_append, List.foldl_cons, List.foldl_nil, List.map_append]
    generalize (List.range n).foldl (routeStep valid req) ([], []) = acc at h1 h2
    have hc : acc.2.contains (req n) = true ↔ ∃ j < n, valid j = true ∧ req j = req n := by rw [List.contains_iff_mem, h2]
    have hserved : (valid n && !acc.2.contains (req n)) = routeServed valid req n := by
      rw [Bool.eq_iff_iff, routeServed_iff, Bool.and_eq_true, Bool.not_eq_true', ← Bool.not_eq_true, hc]
      simp
    have hgot : routeGot valid req n = if routeServed valid req n then some (req n) else none := rfl
    unfold routeStep
    rw [hserved]
    by_cases hs : routeServed valid req n = true
    · rw [if_pos hs]
      refine ⟨by simp [h1, hgot, hs], fun t => ?_⟩
      rw [List.mem_cons, h2]
      constructor
      · rintro (rfl | ⟨j, hj, hv, hr⟩)
        · exact ⟨n, by omega, (routeServed_iff.mp hs).1, rfl⟩
        · exact ⟨j, by omega, hv, hr⟩
      · rintro ⟨j, hj, hv, hr⟩
        obtain hlt | rfl := Nat.lt_succ_iff_lt_or_eq.mp hj
        · exact .inr ⟨j, hlt, hv, hr⟩
        · exact .inl hr.symm
    · rw [if_neg hs]
      refine ⟨by simp [h1, hgot, hs], fun t => ?_⟩
      rw [h2]
      constructor
      · rintro ⟨j, hj, hv, hr⟩
        exact ⟨j, by omega, hv, hr⟩
      · rintro ⟨j, hj, hv, hr⟩
        obtain hlt | rfl := Nat.lt_succ_iff_lt_or_eq.mp hj
        · exact ⟨j, hlt, hv, hr⟩
        · obtain ⟨k, hk, hvk, hrk⟩ := (not_routeServed_iff hv).mp (Bool.not_eq_true _ ▸ hs)
          exact ⟨k, hk, hvk, hrk.trans hr⟩

theorem routeRank_succ (n : Nat) : routeRank valid req (n + 1) = routeRank valid req n + if routeServed valid req n then 0 else 1 := by
  unfold routeRank
  rw [List.range_succ, List.filter_append, List.length_append]
  cases hs : routeServed valid req n <;> simp [hs]

theorem routeFill_foldl (free : List Nat) (n : Nat) : ((List.range n).map (routeGot valid req)).foldl routeFill ([], free)
    = ((List.range n).map (fun i => if routeServed valid req i then req i else free.getD (routeRank valid req i) 0), free.drop (routeRank valid req n)) := by
  induction n with
  | zero => simp [routeRank]
  | succ n ih =>
    rw [List.range_succ, List.map_append, List.foldl_append, ih, List.map_append, routeRank_succ]
    unfold routeGot
    by_cases hs : routeServed valid req n = true
    · simp [routeFill, hs]
    · simp [routeFill, hs, List.headD_eq_head?_getD, List.head?_drop, List.getD_eq_getElem?_getD]

/-- A sum of distinct powers of two. -/
theorem testBit_foldl_pow (c : Nat → Bool) (n b : Nat) :
    ((List.range n).foldl (fun m i => if c i then m + 2 ^ i else m) 0).testBit b = (decide (b < n) && c b) := by
  have hlt : ∀ n, (List.range n).foldl (fun m i => if c i then m + 2 ^ i else m) 0 < 2 ^ n := by
    intro n
    induction n with
    | zero => simp
    | succ n ih =>
      rw [List.range_succ, List.foldl_append, List.foldl_cons, List.foldl_nil, pow_succ]
      split <;> omega
  induction n with
  | zero => simp
  | succ n ih =>
    rw [List.range_succ, List.foldl_append, List.foldl_cons, List.foldl_nil]
    have hx := hlt n
    generalize (List.range n).foldl (fun m i => if c i then m + 2 ^ i else m) 0 = x at ih hx
    have hbit : (if c n then x + 2 ^ n else x) = 2 ^ n * b2n (c n) + x := by
      cases c n <;> simp [b2n, add_comm]
    rw [hbit, Nat.testBit_two_pow_mul_add _ hx, ih]
    rcases Nat.lt_trichotomy b n with hb | rfl | hb
    · simp [hb, show b < n + 1 by omega]
    · cases c b <;> simp [b2n]
    · have h0 : (b2n (c n)).testBit (b - n) = false := by
        refine Nat.testBit_lt_two_pow ?_
        have := Nat.one_lt_two_pow (show b - n ≠ 0 by omega)
        cases c n
        · simp [b2n]
        · simpa [b2n] using by omega
      simp [h0, show ¬b < n by omega, show ¬b < n + 1 by omega]

/-- The targets are those of R186. -/
theorem resolveRoutes_fst : (resolveRoutes req valid).1 = (List.range 16).map (targetOf valid req) := by
  obtain ⟨h1, h2⟩ := routeStep_foldl valid req 16
  have hfree : (List.range 16).filter (fun t => !((List.range 16).foldl (routeStep valid req) ([], [])).2.contains t) = routeFree valid req := by
    refine List.filter_congr fun t _ => ?_
    rw [Bool.eq_iff_iff, Bool.not_eq_true', ← Bool.not_eq_true, List.contains_iff_mem, h2]
    simp only [not_exists, not_and, List.all_eq_true, List.mem_range, Bool.not_eq_true', Bool.and_eq_false_imp, beq_eq_false_iff_ne]
    constructor
    · exact fun h j hj hs => h j hj (routeServed_iff.mp hs).1
    · intro h j hj hv
      obtain ⟨i, hi, hs, hr⟩ := exists_routeServed hv
      exact fun e => h i (by omega) hs (hr.trans e)
  change (((List.range 16).foldl (routeStep valid req) ([], [])).1.foldl routeFill
    ([], (List.range 16).filter fun t => !((List.range 16).foldl (routeStep valid req) ([], [])).2.contains t)).1 = _
  rw [hfree, h1, routeFill_foldl]
  rfl

/-- The misses are the inputs that ask for a target which a lower one has. -/
theorem resolveRoutes_snd (i : Nat) : (resolveRoutes req valid).2.testBit i
    = (decide (i < 16) && valid i && (List.range i).any fun j => valid j && req j == req i) := by
  obtain ⟨h1, -⟩ := routeStep_foldl valid req 16
  have hzip : ((List.range 16).map (routeGot valid req)).zipIdx = (List.range 16).map fun i => (routeGot valid req i, i) := by
    refine List.ext_getElem (by simp) fun n _ _ => by simp
  change (((List.range 16).foldl (routeStep valid req) ([], [])).1.zipIdx.foldl (fun (m : Nat) (e : Option Nat × Nat) => if valid e.2 && e.1.isNone then m + 2 ^ e.2 else m) 0).testBit i = _
  have hgot : (routeGot valid req i).isNone = !routeServed valid req i := by
    unfold routeGot
    cases routeServed valid req i <;> rfl
  rw [h1, hzip, List.foldl_map, testBit_foldl_pow, Bool.and_assoc, hgot, routeServed, List.any_eq_not_all_not]
  cases valid i <;> rfl

/-! ### The targets are a permutation -/

variable {valid req}

theorem targetOf_lt (hreq : ∀ i, req i < 16) (i : Nat) : targetOf valid req i < 16 := by
  rw [targetOf_eq]
  split
  · exact hreq i
  · rw [List.getD_eq_getElem?_getD]
    cases hg : (routeFree valid req)[routeRank valid req i]? with
    | none => decide
    | some t => exact (mem_routeFree.mp (List.mem_of_getElem? hg)).1

/-- Each count below the last one is that of an input which is not served. -/
theorem exists_routeRank {n p : Nat} (h : p < routeRank valid req n) : ∃ i < n, routeServed valid req i = false ∧ routeRank valid req i = p := by
  induction n with
  | zero => simp [routeRank] at h
  | succ n ih =>
    rw [routeRank_succ] at h
    by_cases hp : p < routeRank valid req n
    · obtain ⟨i, hi, hs⟩ := ih hp
      exact ⟨i, by omega, hs⟩
    · cases hs : routeServed valid req n with
      | true => simp [hs] at h; omega
      | false => exact ⟨n, by omega, hs, by simp [hs] at h; omega⟩

theorem length_filter_range (p : Nat → Bool) (n : Nat) : ((List.range n).filter p).length = ((Finset.range n).filter fun i => p i = true).card := by
  rw [← List.toFinset_card_of_nodup (List.nodup_range.filter _), List.toFinset_filter, List.toFinset_range]

/-- As many targets are free as inputs are not served. -/
theorem length_routeFree (hreq : ∀ i, req i < 16) : (routeFree valid req).length = routeRank valid req 16 := by
  let S := (Finset.range 16).filter fun i => routeServed valid req i = true
  have hinj : Set.InjOn req S := fun i hi j hj h => routeServed_inj (Finset.mem_filter.mp hi).2 (Finset.mem_filter.mp hj).2 h
  have himg : S.image req ⊆ Finset.range 16 := fun t ht => by
    obtain ⟨i, -, rfl⟩ := Finset.mem_image.mp ht
    exact Finset.mem_range.mpr (hreq i)
  have hF : (Finset.range 16).filter (fun t => ((List.range 16).all fun j => !(routeServed valid req j && req j == t)) = true) = Finset.range 16 \ S.image req := by
    ext t
    simp [S, or_iff_not_imp_left]
  have hU : (Finset.range 16).filter (fun i => (!routeServed valid req i) = true) = Finset.range 16 \ S := by
    ext i
    simp only [S, Finset.mem_filter, Finset.mem_sdiff, Finset.mem_range, Bool.not_eq_true']
    cases routeServed valid req i <;> simp
  rw [routeFree, routeRank, length_filter_range, length_filter_range, hF, hU, Finset.card_sdiff_of_subset himg,
    Finset.card_sdiff_of_subset (Finset.filter_subset _ _), Finset.card_image_of_injOn hinj]

theorem exists_targetOf (hreq : ∀ i, req i < 16) {t : Nat} (ht : t < 16) : ∃ i < 16, targetOf valid req i = t := by
  by_cases hs : ∃ j < 16, routeServed valid req j = true ∧ req j = t
  · obtain ⟨j, hj, hs, hr⟩ := hs
    exact ⟨j, hj, by rw [targetOf_eq, if_pos hs, hr]⟩
  · have hmem : t ∈ routeFree valid req := mem_routeFree.mpr ⟨ht, fun j hj hsj hr => hs ⟨j, hj, hsj, hr⟩⟩
    obtain ⟨p, hp, hget⟩ := List.getElem_of_mem hmem
    obtain ⟨i, hi, hsi, hrank⟩ := exists_routeRank (length_routeFree hreq ▸ hp)
    refine ⟨i, hi, ?_⟩
    rw [targetOf_eq, hsi, hrank, if_neg (by decide), List.getD_eq_getElem?_getD, List.getElem?_eq_getElem hp, hget]
    rfl

/-- The model's inverse of the targets. -/
theorem inversePerm_targetOf (hreq : ∀ i, req i < 16) : inversePerm ((List.range 16).map (targetOf valid req))
    = (List.range 16).map fun t => ((List.range 16).find? fun i => targetOf valid req i == t).getD 0 := by
  unfold inversePerm
  rw [List.length_map, List.length_range]
  refine List.map_congr_left fun t ht => ?_
  obtain ⟨i, hi, hti⟩ := exists_targetOf (valid := valid) hreq (List.mem_range.mp ht)
  cases hf : (List.range 16).find? fun i => targetOf valid req i == t with
  | none =>
    have := List.find?_eq_none.mp hf i (List.mem_range.mpr hi)
    simp [hti] at this
  | some k =>
    obtain ⟨hpk, hk, hlow⟩ := List.find?_range_eq_some.mp hf
    rw [Option.getD_some]
    refine (List.findIdx_eq (by simpa using hk)).mpr ⟨by simpa using hpk, fun j hj => ?_⟩
    simpa using hlow j hj

end

/-! ### The setting of a permutation stands in 512 bits (R187) -/

theorem putBits_lt {x lo w n : Nat} (v : Nat) (hx : x < 2 ^ n) (h : lo + w ≤ n) : putBits x lo w v < 2 ^ n := by
  refine Nat.lt_pow_two_of_testBit _ fun i hi => ?_
  rw [testBit_putBits, if_neg (by omega)]
  exact Nat.testBit_lt_two_pow (hx.trans_le (Nat.pow_le_pow_right (by decide) hi))

theorem xor_one_lt {i n : Nat} (h : i < 2 * n) : Nat.xor i 1 < 2 * n := by
  change i ^^^ 1 < 2 * n
  have h1 : (i ^^^ 1) / 2 = i / 2 := by
    have := Nat.xor_div_two (a := i) (b := 1)
    simpa using this
  omega

theorem getD_lt {l : List Nat} {n : Nat} (h : ∀ x ∈ l, x < n + 1) (i : Nat) : l.getD i 0 < n + 1 := by
  rw [List.getD_eq_getElem?_getD]
  cases hg : l[i]? with
  | none => exact Nat.succ_pos n
  | some x => exact h x (List.mem_of_getElem? hg)

theorem solveLoop_lt {sig : List Nat} {s base : Nat} (hsig : ∀ x ∈ sig, x < 16) (hlen : sig.length ≤ 16) (hs : s ≤ 4) (hb : base ≤ 32) :
    ∀ (fuel i : Nat) (st : List (Option Bool) × Nat), i < 32 → st.2 < 2 ^ 512 → (solveLoop sig s base fuel i st).2 < 2 ^ 512 := by
  intro fuel
  induction fuel with
  | zero => exact fun i st _ h => h
  | succ fuel ih =>
    intro i st hi hst
    obtain ⟨side, sw⟩ := st
    have ho := getD_lt hsig i
    have h2 : putBits (putBits sw (8 * s + base / 2 + i / 2) 1 (i % 2)) (8 * (6 - s) + base / 2 + sig.getD i 0 / 2) 1 (sig.getD i 0 % 2) < 2 ^ 512 :=
      putBits_lt _ (putBits_lt _ hst (by omega)) (by omega)
    unfold solveLoop
    dsimp only
    split
    · exact h2
    · have hj : sig.idxOf (Nat.xor (sig.getD i 0) 1) < 2 * 16 := (List.idxOf_le_length).trans_lt (by omega)
      exact ih _ _ (xor_one_lt hj) h2

theorem solveRoutes_lt : ∀ (k : Nat) (sig : List Nat) (s base sw : Nat), (∀ x ∈ sig, x < 16) → sig.length ≤ 16 → k + s ≤ 4 → base + 2 ^ k ≤ 32 →
    sw < 2 ^ 512 → solveRoutes k sig s base sw < 2 ^ 512 := by
  intro k
  induction k with
  | zero => exact fun _ _ _ _ _ _ _ _ h => h
  | succ k ih =>
    intro sig s base sw hsig hlen hs hb hsw
    rw [pow_succ] at hb
    have hh : 2 ^ k ≤ 16 := by omega
    unfold solveRoutes
    split
    · exact putBits_lt _ hsw (by omega)
    · dsimp only
      have hstart : ∀ (st : List (Option Bool) × Nat), st.2 < 2 ^ 512 → ((List.range (2 ^ k)).foldl (fun st w =>
          if (st.1.getD (2 * w) none).isSome then st else solveLoop sig s base (2 ^ (k + 1)) (2 * w) st) st).2 < 2 ^ 512 := by
        intro st hst
        refine List.foldlRecOn (motive := fun st : List (Option Bool) × Nat => st.2 < 2 ^ 512) _ _ hst fun st hst w hw => ?_
        split
        · exact hst
        · exact solveLoop_lt hsig hlen (by omega) (by omega) _ _ _ (by have := List.mem_range.mp hw; omega) hst
      have hpick : ∀ (c : Nat → Prop) [DecidablePred c], ∀ x ∈ (List.range (2 ^ k)).map fun w =>
          (if c w then sig.getD (2 * w) 0 else sig.getD (2 * w + 1) 0) / 2, x < 16 := by
        intro c _ x hx
        obtain ⟨w, -, rfl⟩ := List.mem_map.mp hx
        have h0 := getD_lt hsig (2 * w)
        have h1 := getD_lt hsig (2 * w + 1)
        split <;> omega
      refine ih _ _ _ _ (hpick _) (by simpa using hh) (by omega) (by omega) (ih _ _ _ _ (hpick _) (by simpa using hh) (by omega) (by omega) ?_)
      exact hstart _ hsw

theorem routeSetting_lt {sig : List Nat} (hsig : ∀ x ∈ sig, x < 16) (hlen : sig.length ≤ 16) : routeSetting sig < 2 ^ 512 :=
  solveRoutes_lt 4 sig 0 0 0 hsig hlen (by decide) (by decide) (by positivity)


end Sys2Proof.Machine
end

section
/-!
PROOF of O33. Every V form is a slice step that owes its destination alone.
-/
namespace Sys2Proof.Machine

/-! ### Operands, flags and results -/

section
variable {s t : State} {near : List Nat} {l : List (Nat × Dest)} (h : s.SliceStep t near l) (hn : s.cur.s ∈ near)
include h

theorem State.SliceStep.view (f : VF) : s.SliceStep (t.view f).2 near l := by
  unfold State.view
  dsimp only
  split
  · exact h
  · exact h.sample _ _

theorem State.SliceStep.useMask (f : VF) : s.SliceStep (t.useMask f).2 near l := by
  unfold State.useMask
  dsimp only
  split
  · exact h
  · exact h.sample _ _

theorem State.SliceStep.useM (c : Nat) : s.SliceStep (t.useM c).2 near l := h.sample _ _

theorem State.SliceStep.vDone (dst : BitVec 7) (lat : Nat) (r : Nat × Nat) (nf : Nat) :
    s.SliceStep (t.vDone dst lat r nf) near (l ++ rankWrites dst.toNat (s.X + lat - 1) (BitVec.ofNat 512 r.1)) := by
  rw [← h.x]
  exact (h.event r.2 nf t.X).writeRank _ _ _

/-- The state of a pair whose first part the kernel must not compute. -/
theorem State.SliceStep.of_pair {x : Nat} {p : Nat × State} (hp : p = (x, t)) : s.SliceStep p.2 near l := hp ▸ h

/-- One pair as a syllable reads it. -/
theorem State.SliceStep.readPair (x j : Nat) : s.SliceStep (t.readPair x j).2.2 near l := h.variance _ _ _

include hn

theorem State.SliceStep.vA (f : VF) : s.SliceStep (t.vA f).2 near l := h.readRank hn _ _ _
theorem State.SliceStep.vB (f : VF) : s.SliceStep (t.vB f).2 near l := h.readRank hn _ _ _
theorem State.SliceStep.vC (f : VF) : s.SliceStep (t.vC f).2 near l := h.readRank hn _ _ _

/-- Source B where a form has one. -/
theorem State.SliceStep.vBWhen (c : Prop) [Decidable c] (f : VF) : s.SliceStep (if c then t.vB f else (0, t)).2 near l := by
  split
  · exact h.vB hn f
  · exact h

theorem State.SliceStep.vCWhen (c : Prop) [Decidable c] (f : VF) : s.SliceStep (if c then t.vC f else (0, t)).2 near l := by
  split
  · exact h.vC hn f
  · exact h

end

/-! ### The forms -/

/-- A V form ends in a step that owes its destination a rank or a moment register. -/
def State.VOwes (s : State) (i : Instr) (f : VF) (lat : Nat) : Prop :=
  ∃ t l, exec i s = .next t ∧ s.SliceStep t [s.cur.s] l
    ∧ ((∃ v, l = rankWrites f.dst.toNat (s.X + lat - 1) v) ∨ ∃ v, l = [(s.X + lat - 1, .mom (f.dst.toNat - 0x30) v)])

section
variable {s : State} {i : Instr} {f : VF}

theorem State.VOwes.rank {lat : Nat} {t : State} {dst : BitVec 7} {r : Nat × Nat} {nf : Nat} (hd : dst = f.dst) (he : exec i s = .next (t.vDone dst lat r nf))
    (h : s.SliceStep t [s.cur.s] []) : s.VOwes i f lat := by
  subst hd
  exact ⟨_, _, he, h.vDone _ _ _ _, .inl ⟨_, rfl⟩⟩

/-- A form of one to three sources that ends in a rank. -/
theorem State.VOwes.vForm {srcs : Nat} {lat : View → Nat} {nf : Bool} {op : ElemOp} (he : exec i s = .next (s.vForm f srcs lat nf op)) :
    s.VOwes i f (lat (s.view f).1) := by
  have hn : s.cur.s ∈ [s.cur.s] := List.mem_cons_self
  refine .rank rfl he ?_
  exact ((((State.SliceStep.refl s [s.cur.s]).view f).vA hn f).vBWhen hn (srcs ≥ 2) f).vCWhen hn (srcs ≥ 3) f

theorem State.VOwes.vFormAt {srcs n : Nat} {nf : Bool} {op : ElemOp} (he : exec i s = .next (s.vForm f srcs (fun _ => n) nf op)) : s.VOwes i f n :=
  .vForm he

/-- A form of source A alone. -/
theorem State.VOwes.formA {lat : Nat} {r : Nat × Nat} {nf : Nat} (he : exec i s = .next (((s.view f).2.vA f).2.vDone f.dst lat r nf)) : s.VOwes i f lat :=
  .rank rfl he (((State.SliceStep.refl s [s.cur.s]).view f).vA List.mem_cons_self f)

/-- A form of sources A and B. -/
theorem State.VOwes.formAB {lat : Nat} {r : Nat × Nat} {nf : Nat} (he : exec i s = .next ((((s.view f).2.vA f).2.vB f).2.vDone f.dst lat r nf)) :
    s.VOwes i f lat :=
  .rank rfl he ((((State.SliceStep.refl s [s.cur.s]).view f).vA List.mem_cons_self f).vB List.mem_cons_self f)

theorem State.VOwes.vcvtForm : s.VOwes (.vcvt f) f 3 :=
  .rank rfl rfl ((((State.SliceStep.refl s [s.cur.s]).view f).vA List.mem_cons_self f).vBWhen List.mem_cons_self (s.tab.cvtUsesB f = true) f)

theorem State.VOwes.kopForm : s.VOwes (.kop f) f 1 :=
  .rank rfl rfl (((State.SliceStep.refl s [s.cur.s]).vA List.mem_cons_self f).vBWhen List.mem_cons_self (f.imm.toNat % 8 < 4) f)

end

/-! ### Moment forms (R222 to R224) -/

section
variable {s t : State} {near : List Nat} {l : List (Nat × Dest)} (h : s.SliceStep t near l)
include h

theorem State.SliceStep.gPair (f : VF) (lat : Nat) (op : GOp) (a b k j : Nat) (two : Bool) : s.SliceStep (t.gPair f lat op a b k j two).2 near l := by
  have h1 := h.readPair a j
  unfold State.gPair
  cases two <;> simp only [Bool.false_eq_true, if_false, if_true] <;> split
  · exact h1.eventWhen _ _ _ _
  · generalize StateT.run _ _ = r
    obtain ⟨⟨mean, var⟩, fl⟩ := r
    exact ((h1.event _ _ _).varianceOut _ _ _).of_pair rfl
  · exact (h1.readPair b j).eventWhen _ _ _ _
  · generalize StateT.run _ _ = r
    obtain ⟨⟨mean, var⟩, fl⟩ := r
    exact (((h1.readPair b j).event _ _ _).varianceOut _ _ _).of_pair rfl

theorem State.SliceStep.gmakePair (a b j : Nat) : s.SliceStep (t.gmakePair a b j).2 near l := by
  have h1 := h.varianceOut (flushHalf (t.tab.flush.getLsbD 0) (elemAt 32 j b)) j (t.X + 4)
  unfold State.gmakePair
  dsimp only
  split
  · exact h1.eventWhen _ _ _ _
  · exact h1

theorem State.SliceStep.gcolLane (f : VF) (a z j : Nat) : s.SliceStep (t.gcolLane f a z j).2 near l := by
  have h1 := h.readPair a j
  unfold State.gcolLane
  dsimp only
  split
  · exact h1.eventWhen _ _ _ _
  · exact h1.event _ _ _

/-- A fold over the pairs under a mask. -/
theorem State.SliceStep.foldMasked {mask : BitVec 128} {one : State → Nat → Nat × State} {put : Nat → Nat → Nat → Nat}
    (hone : ∀ (u : State) (j : Nat), s.SliceStep u near l → s.SliceStep (one u j).2 near l) (js : List Nat) (a : Nat) :
    s.SliceStep (js.foldl (fun (acc : Nat × State) j => if mask.getLsbD j then (put acc.1 (one acc.2 j).1 j, (one acc.2 j).2) else acc) (a, t)).2 near l := by
  refine List.foldlRecOn (motive := fun acc : Nat × State => s.SliceStep acc.2 near l) _ _ h fun acc hacc j _ => ?_
  split
  · exact hone _ _ hacc
  · exact hacc

theorem State.SliceStep.gAll {mask : BitVec 128} {one : State → Nat → Nat × State}
    (hone : ∀ (u : State) (j : Nat), s.SliceStep u near l → s.SliceStep (one u j).2 near l) : s.SliceStep (gAll mask one t).2 near l :=
  h.foldMasked hone _ _ (put := fun a p j => a + p <<< (64 * j))

end

section
variable {s : State} {i : Instr} {f : VF}

theorem State.VOwes.moment {lat : Nat} {t : State} {v : Nat} (he : exec i s = .next (t.writeM f.dst.toNat (s.X + lat) v))
    (h : s.SliceStep t [s.cur.s] []) : s.VOwes i f lat := ⟨_, _, he, h.writeM _ _ _, .inr ⟨_, rfl⟩⟩

theorem State.VOwes.gForm {lat : Nat} {two scal : Bool} {op : GOp} (he : exec i s = .next (s.gForm f lat two scal op)) : s.VOwes i f lat := by
  have h1 := ((State.SliceStep.refl s [s.cur.s]).useMask f).useM f.a.toNat
  unfold State.gForm at he
  dsimp only at he
  refine .moment he (State.SliceStep.event ?_ _ _ _)
  refine State.SliceStep.gAll ?_ fun u j hu => hu.gPair _ _ _ _ _ _ _ _
  split
  · exact h1.useM _
  · exact h1.vBWhen List.mem_cons_self _ f

theorem State.VOwes.gmakeForm : s.VOwes (.gmake f) f 4 := by
  have h1 := (((State.SliceStep.refl s [s.cur.s]).useMask f).vA List.mem_cons_self f).vB List.mem_cons_self f
  have he : exec (.gmake f) s = execGmake f s := rfl
  unfold execGmake at he
  dsimp only at he
  refine .moment he (State.SliceStep.event ?_ _ _ _)
  exact h1.gAll fun u j hu => hu.gmakePair _ _ j

theorem State.VOwes.gcolForm : s.VOwes (.gcol f) f 4 := by
  have h1 := (((State.SliceStep.refl s [s.cur.s]).useMask f).useM f.a.toNat).vBWhen List.mem_cons_self (f.imm = 3) f
  have he : exec (.gcol f) s = execGcol f s := rfl
  unfold execGcol at he
  dsimp only at he
  refine .rank rfl he ?_
  exact h1.foldMasked (one := fun u j => u.gcolLane f _ _ j) (fun u j hu => hu.gcolLane f _ _ j) _ _ (put := fun a p j => a + p <<< (32 * j))

theorem State.VOwes.vmovForm : s.VOwes (.vmov f) f 1 := by
  by_cases hm : specM f.a.toNat = true
  · have he : exec (.vmov f) s = .next (s.movMoment f) := congrArg Host.Outcome.next (if_pos hm)
    unfold State.movMoment at he
    dsimp only at he
    refine .moment he ?_
    have h1 := ((State.SliceStep.refl s [s.cur.s]).view f).sample (.reg s.cur.s f.a.toNat 0) s.X
    let x := s.mreg (f.a.toNat - 0x30)
    exact h1.foldMasked (one := fun u j => u.varianceOut (pairVar x j) j (s.X + 1)) (fun u j hu => hu.varianceOut _ _ _) _ _
      (put := fun a p j => a + (pairMean x j + p * 2 ^ 32) <<< (64 * j))
  · exact State.VOwes.formA (congrArg Host.Outcome.next (if_neg hm))

end

/-! ### What a form of the family is -/

theorem State.latFI_view (s : State) (f : VF) : latFI (s.view f).1 = if s.vType f < 3 then 4 else 2 := by
  change (if decide (s.vType f < 3) = true then 4 else 2) = _
  simp only [decide_eq_true_eq]

theorem State.vForms_owe (s : State) (f : VF) : ∀ e ∈ vForms f (if s.vType f < 3 then 4 else 2), s.VOwes e.1 f e.2 := by
  rw [← s.latFI_view f]
  simp only [vForms, List.forall_mem_cons]
  refine ⟨.vForm rfl, .vForm rfl, .vForm rfl, .vForm rfl, .vForm rfl, .vForm rfl, .vForm rfl, .vForm rfl, .formAB rfl,
    .vFormAt rfl, .vFormAt rfl, .vFormAt rfl, .vFormAt rfl, .vFormAt rfl, .vFormAt rfl, .vFormAt rfl, .vFormAt rfl, .vFormAt rfl,
    .formAB rfl, .vFormAt rfl, .vFormAt rfl, .formAB rfl, .vFormAt rfl,
    .vFormAt rfl, .vFormAt rfl, .vFormAt rfl, .vFormAt rfl, .vFormAt rfl, .vFormAt rfl, .vFormAt rfl,
    .vcvtForm, .formAB rfl, .formA rfl, .vmovForm, .formA rfl, .kopForm, .formA rfl, .formA rfl, .formAB rfl, .formA rfl,
    .gForm rfl, .gForm rfl, .gForm rfl, .gForm rfl, .gcolForm, .gmakeForm, .gForm rfl,
    .gForm rfl, .gForm rfl, .gForm rfl, .gForm rfl, fun _ h => (List.not_mem_nil h).elim⟩

theorem State.VOwes.runs {s : State} {i : Instr} {f : VF} {lat : Nat} (h : s.VOwes i f lat) : Runs i s fun t =>
    s.SliceFrame t [s.cur.s] (fun due d => due = s.cur.X + lat - 1 ∧ vWrites f d)
    ∧ (f.dst.toNat ≠ 0x3A → f.dst.toNat ≠ 0x58 → t.here.owed.length = s.here.owed.length + 1) := by
  obtain ⟨t, l, he, ht, hl⟩ := h
  obtain ⟨os, hos, hall⟩ := ht.owes
  have hlen : t.here.owed.length = s.here.owed.length + l.length := by rw [hos, List.length_append, hall.length_eq]
  refine ⟨t, he, ht.frame.mono fun due d hm => ?_, fun h1 h2 => ?_⟩
  · obtain ⟨v, rfl⟩ | ⟨v, rfl⟩ := hl
    · obtain ⟨rfl, rfl⟩ := eq_of_mem_rankWrites hm
      exact ⟨rfl, .inl ⟨v, rfl⟩⟩
    · obtain ⟨rfl, rfl⟩ := Prod.mk.inj (List.mem_singleton.mp hm)
      exact ⟨rfl, .inr ⟨v, rfl⟩⟩
  · rw [hlen]
    obtain ⟨v, rfl⟩ | ⟨v, rfl⟩ := hl
    · rw [rankWrites, if_neg (not_or.mpr ⟨h1, h2⟩)]
      rfl
    · rfl

/-! ### O33 -/

/-- The permutation whose setting a VROUTE gives: that of the targets, or its inverse. -/
def State.routePerm (s : State) (f : VF) : List Nat :=
  let out := targetOf (fun i => (s.slice.mask f.mask.toNat).getLsbD i) fun i => elemOf 32 i (s.srcA f) % 16
  (List.range 16).map fun i => if f.imm.getLsbD 0 then out i else ((List.range 16).find? fun j => out j == i).getD 0

/-- The inputs of a VROUTE that miss their target. -/
def State.routeMiss (s : State) (f : VF) : Nat :=
  (resolveRoutes (fun i => elemOf 32 i (s.srcA f) % 16) fun i => (s.slice.mask f.mask.toNat).getLsbD i).2

theorem exec_vroute (f : VF) (s : State) : exec (.vroute f) s = .next (((((s.view f).2.vA f).2.vDone f.dst 12 (routeSetting (s.routePerm f), 0) 0).writeRank
    (0x58 + f.imm.toNat / 2 % 8) (s.X + 12) (BitVec.ofNat 512 (s.routeMiss f)))) := by
  let valid := fun i => (s.slice.mask f.mask.toNat).getLsbD i
  let req := fun i => elemOf 32 i (s.srcA f) % 16
  have hreq : (fun i => elemAt 32 i ((s.view f).2.vA f).1 % 16) = req := funext fun i => by rw [elemAt_eq_elemOf]; rfl
  have hperm : (if f.imm.getLsbD 0 then (resolveRoutes req valid).1 else inversePerm (resolveRoutes req valid).1) = s.routePerm f := by
    rw [resolveRoutes_fst, inversePerm_targetOf fun i => Nat.mod_lt _ (by decide)]
    unfold State.routePerm
    cases f.imm.getLsbD 0 <;> rfl
  have hn : (f.imm.extractLsb' 1 3).toNat = f.imm.toNat / 2 % 8 := by
    rw [BitVec.extractLsb'_toNat, Nat.shiftRight_eq_div_pow]
  change execVroute f s = _
  unfold execVroute
  simp only [hreq, hn]
  change Host.Outcome.next (State.writeRank (State.vDone _ _ _ (routeSetting (if f.imm.getLsbD 0 then (resolveRoutes req valid).1
    else inversePerm (resolveRoutes req valid).1), 0) _) _ _ _) = _
  rw [hperm]
  rfl

theorem State.routePerm_lt (s : State) (f : VF) : ∀ x ∈ s.routePerm f, x < 16 := by
  intro x hx
  obtain ⟨i, -, rfl⟩ := List.mem_map.mp hx
  split
  · exact targetOf_lt (fun _ => Nat.mod_lt _ (by decide)) i
  · cases hf : (List.range 16).find? fun j => targetOf (fun i => (s.slice.mask f.mask.toNat).getLsbD i) (fun i => elemOf 32 i (s.srcA f) % 16) j == i with
    | none => decide
    | some k => exact List.mem_range.mp (List.mem_of_find?_eq_some hf)

/-- Settles O33. -/
theorem vectorForms : Obligations.VectorForms := by
  intro f s
  refine ⟨fun e he => (s.vForms_owe f e he).runs, ?_, s, rfl, rfl⟩
  have hz : (BitVec.ofNat 512 (routeSetting (s.routePerm f))).toNat = routeSetting (s.routePerm f) :=
    (BitVec.toNat_ofNat _ _).trans (Nat.mod_eq_of_lt (routeSetting_lt (s.routePerm_lt f) (by simp [State.routePerm])))
  have hstep := (((State.SliceStep.refl s [s.cur.s]).view f).vA List.mem_cons_self f).vDone f.dst 12 (routeSetting (s.routePerm f), 0) 0
  have hstep := hstep.writeRank (0x58 + f.imm.toNat / 2 % 8) (s.X + 12) (BitVec.ofNat 512 (s.routeMiss f))
  refine ⟨_, BitVec.ofNat 512 (s.routeMiss f), hz, fun i => ?_, _, exec_vroute f s, ?_, ?_⟩
  · rw [BitVec.getLsbD_ofNat, State.routeMiss, resolveRoutes_snd]
    by_cases hi : i < 16
    · simp [hi, show i < 512 by omega]
    · simp [hi]
  · refine hstep.frame.mono fun due d hm => ?_
    obtain hm | hm := List.mem_append.mp hm
    · obtain ⟨hdue, hd⟩ := eq_of_mem_rankWrites hm
      exact ⟨hdue, .inl hd⟩
    · obtain ⟨hdue, hd⟩ := eq_of_mem_rankWrites hm
      exact ⟨hdue, .inr hd⟩
  · obtain ⟨os, hos, hall⟩ := hstep.owes
    refine ⟨os, hos, ?_⟩
    have hk : 0x58 + f.imm.toNat / 2 % 8 ≠ 0x3A := by omega
    simp only [rankWrites, hk, false_or, List.nil_append] at hall
    exact hall

end Sys2Proof.Machine
end

section
/-!
PROOF of O41. Every M form is a slice step that owes its own part of the destination.
-/
namespace Sys2Proof.Machine

section
variable {s t : State} {near : List Nat} {l : List (Nat × Dest)} (h : s.SliceStep t near l)
include h

/-! ### Rows, tiles and tags -/

theorem State.SliceStep.mrow (f : MF) : t.mrow f = s.mrow f := congrArg (f.row0.toNat + ·) h.cur.row

theorem State.SliceStep.mMarks (i : Instr) (x : Nat) : s.SliceStep (t.mMarks i x) near l := h.foldl _ fun _ _ hu => hu.mark _ _

theorem State.SliceStep.mrows (f : MF) (i : Instr) : s.SliceStep (t.mrows f i) near l := by
  unfold State.mrows
  split
  · exact (h.mMarks i t.X).foldl _ fun _ _ hu => hu.later _ _ _
  · exact h

theorem State.SliceStep.readTile (n row : Nat) : s.SliceStep (t.readTile n row).2 near l := h.sample _ _

theorem State.SliceStep.writeTile (n row lo len result v : Nat) :
    s.SliceStep (t.writeTile n row lo len result v) near (l ++ [(result - 1, .tile n row lo len (BitVec.ofNat 1024 v))]) := h.owe _ _

theorem State.SliceStep.useB (ty : Nat) (sparse west : Bool) : s.SliceStep (t.useB ty sparse west).2 near l := by
  unfold State.useB
  dsimp only
  split
  · exact h.sample _ _
  · exact h.trapWhen _ _ _ _

theorem State.SliceStep.oweRow (f : MF) (result : Nat) (isInt fresh : Bool) (s0 s1 : List ExactSum) :
    ∃ u : RowUpdate, u.a = f.acc.toNat - 0x48 ∧ u.row = s.mrow f ∧ s.SliceStep (t.oweRow f result isInt fresh s0 s1) near (l ++ [(result - 1, .row u)]) :=
  ⟨_, rfl, h.mrow f, h.owe _ _⟩

theorem State.SliceStep.takeTag (f : MF) : s.SliceStep (t.takeTag f) near l := by
  unfold State.takeTag
  split
  · exact h.recur ⟨rfl, rfl, rfl, rfl, rfl, rfl, rfl, rfl⟩
  · exact h

theorem State.SliceStep.drain (f : MF) : s.SliceStep (t.drain f).2 near l := (h.sample _ _).event _ _ _

theorem State.SliceStep.drainPairs (f : MF) : s.SliceStep (t.drainPairs f).2 near l := by
  unfold State.drainPairs
  extract_lets a p r0 r1 st
  have h1 : s.SliceStep st near l := (h.sample _ _).sample _ _
  refine State.SliceStep.event ?_ _ _ _
  refine List.foldlRecOn (motive := fun a : Nat × State => s.SliceStep a.2 near l) _ _ h1 fun acc hacc k _ => ?_
  have h2 := hacc.variance (elemAt 32 (8 * p + k) r1) (32 * t.mrow f + 8 * p + k) t.mcyc
  dsimp only
  split
  · exact h2.eventWhen _ _ _ _
  · exact h2

theorem State.SliceStep.readPairs (x base : Nat) : s.SliceStep (t.readPairs x base).2 near l :=
  List.foldlRecOn (motive := fun a : List Pair × State => s.SliceStep a.2 near l) _ _ h fun _ ha _ _ => ha.variance _ _ _

variable (hn : s.cur.s ∈ near)
include hn

theorem State.SliceStep.setTag (a : Nat) (isInt : Bool) : s.SliceStep (t.setTag a isInt) near l := by
  unfold State.setTag
  split
  · exact h
  · exact h.onSlice hn (fun _ => rfl) fun _ => rfl

theorem State.SliceStep.arow (f : MF) (byp : Bool) : s.SliceStep (t.arow f byp).2 near l := by
  unfold State.arow
  split
  · exact h.sample _ _
  · split
    · exact h.readTile _ _
    · exact h.readRank hn _ _ _

theorem State.SliceStep.pairRow (f : MF) : s.SliceStep (t.pairRow f).2.2 near l := by
  unfold State.pairRow
  split
  · exact h.sample _ _
  · exact h.readRank hn _ _ _

theorem State.SliceStep.takeMmg2 (f : MF) : s.SliceStep (t.takeMmg2 f) near l := by
  unfold State.takeMmg2
  extract_lets n rows st st'
  have h1 : s.SliceStep st near l := h.foldl _ fun u _ hu => (hu.sample _ _).sample _ _
  have h2 : s.SliceStep st' near l := h1.onSlice hn (fun _ => rfl) fun _ => rfl
  refine h2.foldl _ fun u n hu => ?_
  split
  · split
    · exact hu.event _ _ _
    · exact hu.trapS _ _ _
  · exact hu

end

/-! ### The forms -/

/-- The slices whose latches an M form may change: its own, and the west half of its pair. -/
def State.pairNear (s : State) : List Nat := [s.cur.s, s.cur.s - 1]

/-- An M form ends in a step that owes what `W` allows. -/
def State.MOwes (s : State) (i : Instr) (W : Nat → Dest → Prop) : Prop :=
  ∃ t l, exec i s = .next t ∧ s.SliceStep t s.pairNear l ∧ ∀ x ∈ l, W x.1 x.2

section
variable {s : State} {f : MF}

theorem State.west_mem (s : State) : s.cur.s - 1 ∈ s.pairNear := List.mem_cons_of_mem _ List.mem_cons_self

theorem State.own_mem (s : State) : s.cur.s ∈ s.pairNear := List.mem_cons_self

theorem State.MOwes.one {i : Instr} {W : Nat → Dest → Prop} {t : State} {e : Nat × Dest} (he : exec i s = .next t) (h : s.SliceStep t s.pairNear [e])
    (hW : W e.1 e.2) : s.MOwes i W := ⟨t, _, he, h, fun _ hx => List.mem_singleton.mp hx ▸ hW⟩

theorem State.MOwes.completes {i : Instr} {W : Nat → Dest → Prop} (h : s.MOwes i W) : ∃ t, exec i s = .next t := by
  obtain ⟨t, -, he, -⟩ := h
  exact ⟨t, he⟩

theorem State.MOwes.rank {i : Instr} {W : Nat → Dest → Prop} {t : State} {c due : Nat} {v : Rank} (he : exec i s = .next t)
    (h : s.SliceStep t s.pairNear (rankWrites c due v)) (hW : W due (.spec c v)) : s.MOwes i W :=
  ⟨t, _, he, h, fun _ hx => by obtain ⟨h1, h2⟩ := eq_of_mem_rankWrites hx; rwa [h1, h2]⟩

/-- The update of one row of accumulator cells. -/
def State.cellsDue (s : State) (f : MF) (lat due : Nat) (d : Dest) : Prop :=
  due = s.cur.X + s.cur.row + lat ∧ ∃ u, d = .row u ∧ u.a = f.acc.toNat - 0x48 ∧ u.row = s.rowOf f

theorem State.MOwes.cells {i : Instr} {t : State} {lat : Nat} {isInt fresh : Bool} {s0 s1 : List ExactSum}
    (he : exec i s = .next (t.oweRow f (s.mcyc + (lat + 1)) isInt fresh s0 s1)) (h : s.SliceStep t s.pairNear []) : s.MOwes i (s.cellsDue f lat) := by
  obtain ⟨u, hu, hrow, hstep⟩ := h.oweRow f (s.mcyc + (lat + 1)) isInt fresh s0 s1
  exact .one he hstep ⟨rfl, u, rfl, hu, hrow⟩

variable (s f)

theorem State.mfill_owes : s.MOwes (.mfill f) fun due d => due = s.cur.X + s.cur.row
    ∧ ∃ v, d = .tile (f.dst.toNat - 0x40) (s.rowOf f) (64 * (f.imm.toNat / 8 % 2)) (s.tileBytes f) v := by
  have h1 := ((State.SliceStep.refl s s.pairNear).mrows f (.mfill f)).readRank s.own_mem f.a.toNat s.mcyc (f.pka == 1)
  have hhalf : b2n (f.imm.getLsbD 3) = f.imm.toNat / 8 % 2 := by
    rw [BitVec.getLsbD, Nat.testBit_eq_decide_div_mod_eq]
    rcases Nat.mod_two_eq_zero_or_one (f.imm.toNat / 8) with h0 | h0 <;> simp [h0, b2n]
  refine .one rfl (h1.writeTile _ _ _ _ _ _) ⟨rfl, ?_⟩
  rw [← hhalf]
  exact ⟨_, rfl⟩

theorem State.mdrn_owes : s.MOwes (.mdrn f) fun due d => due = s.cur.X + s.cur.row + 1 ∧ ∃ v, d = .spec f.dst.toNat v := by
  have h1 := ((State.SliceStep.refl s s.pairNear).mrows f (.mdrn f)).readTile (f.a.toNat - 0x40) (s.mrow f)
  exact .rank rfl (h1.writeRank _ _ _) ⟨rfl, _, rfl⟩

theorem State.mldmd_owes : s.MOwes (.mldmd f) fun due d => due = s.cur.X + 3 ∧ ∃ v, d = .md (f.dst.toNat - 0x50) (f.row0.toNat % 4) v := by
  have h1 := (State.SliceStep.refl s s.pairNear).readRank s.own_mem f.a.toNat s.X (f.pka == 1)
  exact .one rfl ((h1.mMarks _ _).owe _ _) ⟨rfl, _, rfl⟩

theorem State.mldb_owes : s.MOwes (.mldb f) fun due d => due = s.cur.X + 33 ∧ s.cur.row = 31 ∧ ∃ b, d = .statB b := by
  have he : exec (.mldb f) s = execMldb f s := rfl
  unfold execMldb at he
  extract_lets sparse j d st st' s0 at he
  have h1 : s.SliceStep st s.pairNear [] := (State.SliceStep.refl s _).foldl _ fun _ _ hu => hu.later _ _ _
  have h2 : s.SliceStep st' s.pairNear [] := by
    unfold st'
    split
    · exact h1.foldl _ fun _ _ hu => hu.sample _ _
    · exact h1
  have h0 : s.SliceStep s0 s.pairNear [] := by
    unfold s0
    split
    · refine State.SliceStep.mMarks ?_ _ _
      exact h2.onSlice s.own_mem (fun _ => rfl) fun _ => rfl
    · exact .refl s _
  dsimp only at he
  have h1 := (h0.readTile (f.a.toNat - 0x40) j).onSlice s.own_mem
    (g := fun sl => { sl with bl := { sl.bl with cols := SMap.set 0 sl.bl.cols j (s0.readTile (f.a.toNat - 0x40) j).1 } }) (fun _ => rfl) fun _ => rfl
  by_cases hj : j = 31
  · exact .one (he.trans (congrArg Host.Outcome.next (if_pos hj))) (h1.owe _ _) ⟨rfl, hj, _, rfl⟩
  · exact ⟨_, [], he.trans (congrArg Host.Outcome.next (if_neg hj)), h1, fun _ hx => (List.not_mem_nil hx).elim⟩

/-- A dense product (MMA, MMAZ). -/
theorem State.product_owes {i j : Instr} {fresh : Bool} (he : exec i s = .next (s.product f fresh j)) : s.MOwes i (s.cellsDue f 7) := by
  unfold State.product at he
  extract_lets ty fi isInt a st at he
  have h0 : s.SliceStep st s.pairNear [] := (State.SliceStep.refl s _).mrows f j
  have h1 : s.SliceStep (if (fresh && s.cur.row == 0) = true then st.setTag a isInt else st) s.pairNear [] := by
    split
    · exact h0.setTag s.own_mem _ _
    · exact h0
  exact .cells he ((((h1.arow s.own_mem f (f.imm.getLsbD 3)).useB ty false false).event _ _ _))

theorem State.mmas_owes : s.MOwes (.mmas f) (s.cellsDue f 7) := by
  have he : exec (.mmas f) s = execMmas f s := rfl
  have h0 := ((State.SliceStep.refl s s.pairNear).mrows f (.mmas f)).arow s.own_mem f false
  unfold execMmas at he
  extract_lets ty fi isInt w st0 at he
  split at he
  next ar st1 hst1 =>
  rw [hst1] at h0
  split at he
  next br st2 hst2 =>
  have h1 : s.SliceStep (br, st2).2 s.pairNear [] := by
    rw [← hst2]
    split
    · exact h0
    · exact h0.readRank s.own_mem _ _ _
  split at he
  next b st3 hst3 =>
  have h2 := h1.useB (entryType (s.mentry f)) true false
  rw [hst3] at h2
  extract_lets ax at he
  generalize cellsOf (α := ExactSum) _ 32 = c at he
  exact .cells he (h2.event _ _ _)

/-- The west half of a product holds its products in the pair latch; the east half takes them and owes its row. -/
theorem State.mmap_owes : s.MOwes (.mmap f) (s.cellsDue f 7) := by
  have he : exec (.mmap f) s = execMmap f s := rfl
  unfold execMmap at he
  extract_lets ty fi isInt west st0 latch held at he
  dsimp only at he
  generalize StateT.run _ _ = r at he
  obtain ⟨own, fl⟩ := r
  have h1 := ((((State.SliceStep.refl s s.pairNear).mrows f (.mmap f)).arow s.own_mem f (f.imm.getLsbD 3)).useB ty false west).event fl 0 s.mcyc
  dsimp only at he
  by_cases hw : west = true
  · rw [if_pos hw] at he
    refine ⟨_, [], he, ?_, fun _ hx => (List.not_mem_nil hx).elim⟩
    exact h1.onSlice s.own_mem (fun _ => rfl) fun _ => rfl
  · rw [if_neg hw] at he
    generalize cellsOf (α := ExactSum) _ 32 = c at he
    have h2 := h1.andThen (.sliceOf _ (n := s.cur.s - 1) (g := fun sl => { sl with pair := sl.pair.filter fun e => e.1 != s.mcyc }) s.west_mem rfl
      fun _ => ⟨0, rfl⟩)
    exact .cells he (h2.event _ _ _)

theorem State.mmg_owes : s.MOwes (.mmg f) (s.cellsDue f 11) := by
  have he : exec (.mmg f) s = execMmg f s := rfl
  have h1 := ((State.SliceStep.refl s s.pairNear).mrows f (.mmg f)).pairRow s.own_mem f
  unfold execMmg at he
  dsimp only at he
  generalize StateT.run _ _ = r at he
  obtain ⟨⟨s0, s1⟩, fl⟩ := r
  exact .cells he (((h1.readPairs _ _).useB 0 false false).event _ _ _)

theorem State.mmg2_owes : s.MOwes (.mmg2 f) (s.cellsDue f 11) := by
  have he : exec (.mmg2 f) s = execMmg2 f s := rfl
  have h1 := (State.SliceStep.refl s s.pairNear).mrows f (.mmg2 f)
  unfold execMmg2 at he
  extract_lets st st' rows at he
  have h2 : s.SliceStep st' s.pairNear [] := by
    unfold st'
    split
    · exact h1.takeMmg2 s.own_mem f
    · exact h1
  dsimp only at he
  generalize StateT.run _ _ = r at he
  obtain ⟨⟨s0, s1⟩, fl⟩ := r
  refine .cells he (State.SliceStep.event ?_ _ _ _)
  have h3 := (h2.pairRow s.own_mem f).readPairs (st'.pairRow f).1 (st'.pairRow f).2.1
  split
  · exact h3.onSlice s.own_mem (fun _ => rfl) fun _ => rfl
  · exact h3

theorem State.mout_owes : s.MOwes (.mout f) fun due d => due = s.cur.X + s.cur.row + 3 ∧ ∃ v, d = .spec f.dst.toNat v := by
  have h1 := ((State.SliceStep.refl s s.pairNear).takeTag f).mrows f (.mout f)
  have h2 : s.SliceStep (if entryType (s.mentry f) = 12 then ((s.takeTag f).mrows f (.mout f)).drainPairs f
      else ((s.takeTag f).mrows f (.mout f)).drain f).2 s.pairNear [] := by
    split
    · exact h1.drainPairs f
    · exact h1.drain f
  exact .rank rfl (h2.writeRank _ _ _) ⟨rfl, _, rfl⟩

theorem State.mbyp_owes : s.MOwes (.mbyp f) fun due d => due = s.cur.X + s.cur.row + 1
    ∧ ((∃ v, d = .byp (s.rowOf f) v) ∨ ∃ v, d = .tile (f.dst.toNat - 0x40) (s.rowOf f) 0 64 v) := by
  have h1 := (((State.SliceStep.refl s s.pairNear).takeTag f).mrows f (.mbyp f)).drain f
  by_cases hb : f.imm.getLsbD 3 = true
  · exact .one (congrArg Host.Outcome.next (if_pos hb)) (h1.owe _ _) ⟨rfl, .inl ⟨_, rfl⟩⟩
  · exact .one (congrArg Host.Outcome.next (if_neg hb)) (h1.writeTile _ _ _ _ _ _) ⟨rfl, .inr ⟨_, rfl⟩⟩

theorem State.mzero_owes : s.MOwes (.mzero f) fun due d => due = s.cur.X ∧ ∃ k ≤ f.rows.toNat, d = .zeroRow (f.acc.toNat - 0x48) (f.row0.toNat + k) := by
  let ty := entryType (s.mentry f)
  have h1 := ((State.SliceStep.refl s s.pairNear).setTag s.own_mem (f.acc.toNat - 0x48) (isI ty || isN ty)).mMarks (.mzero f) s.X
  have h2 := h1.foldlOwes (f := fun u k => u.owe s.X (.zeroRow (f.acc.toNat - 0x48) (f.row0.toNat + k))) (List.range (f.rows.toNat + 1))
    fun u m k hu => hu.owe _ _
  refine ⟨_, _, rfl, h2, fun x hx => ?_⟩
  obtain ⟨k, hk, rfl⟩ := List.mem_map.mp hx
  exact ⟨rfl, k, by simpa [Nat.lt_succ_iff] using hk, rfl⟩

end

/-- Settles O41. -/
theorem matrixForms : Obligations.MatrixForms := by
  intro f s near
  have hall : ∀ e ∈ s.mForms f, s.MOwes e.1 e.2 := by
    simp only [State.mForms, List.forall_mem_cons]
    exact ⟨s.mfill_owes f, s.mdrn_owes f, s.mldb_owes f, s.mldmd_owes f, s.product_owes f rfl, s.product_owes f rfl, s.mmas_owes f, s.mmap_owes f,
      s.mmg_owes f, s.mmg2_owes f, s.mout_owes f, s.mbyp_owes f, s.mzero_owes f, fun _ h => (List.not_mem_nil h).elim⟩
  refine ⟨fun e he => ?_, ⟨s, rfl, rfl⟩, fun e he => ?_, fun op => ?_⟩
  · obtain ⟨t, l, hexec, hstep, hl⟩ := hall e he
    exact ⟨t, hexec, hstep.frame.mono fun due d hm => hl _ hm⟩
  · revert e
    simp only [State.mForms, List.zipIdx_cons, List.forall_mem_cons]
    exact ⟨rfl, rfl, rfl, rfl, rfl, rfl, rfl, rfl, rfl, rfl, rfl, rfl, rfl, fun _ h => (List.not_mem_nil h).elim⟩
  · change ∃ t, execFillmLatchExecute f op s = .next t
    unfold execFillmLatchExecute
    split
    exacts [(s.mfill_owes f).completes, (s.mdrn_owes f).completes, (s.mldb_owes f).completes, (s.mldmd_owes f).completes,
      (s.product_owes (i := .mma f) f rfl).completes, (s.product_owes (i := .mmaz f) f rfl).completes, (s.mmas_owes f).completes,
      (s.mmap_owes f).completes, (s.mmg_owes f).completes, (s.mmg2_owes f).completes, (s.mout_owes f).completes, (s.mbyp_owes f).completes,
      (s.mzero_owes f).completes, ⟨s, rfl⟩]

end Sys2Proof.Machine
end

section
/-!
SUPPORT for O45. Words of banks and of copies: the checks, the claims and the writes that they are made of.
-/
namespace Sys2Proof.Machine

/-! ### Slices that stand -/

theorem State.SlicesStay.refl (s : State) : s.SlicesStay s := ⟨.refl s, rfl, rfl⟩

theorem State.Quiet.slicesStay {s t : State} {l : List (Nat × Dest)} (h : s.Quiet t l) : s.SlicesStay t := by
  obtain ⟨os, tr, ac, fl, k, -, -, -, hhere⟩ := h.here
  exact ⟨h.outside, h.cur, by rw [hhere]⟩

theorem State.SlicesStay.own {s t : State} (h : s.SlicesStay t) : t.slice = s.slice := by rw [State.slice, State.slice, h.cur, h.slice]

theorem State.checkOwned_slicesStay (s : State) (cyc : Nat) (keys : List Nat) : s.SlicesStay (s.checkOwned cyc keys) := by
  unfold State.checkOwned State.trapWhen
  split
  · exact s.trapS_slicesStay _ _ _
  · exact .refl s

/-- Marks of words leave every slice. -/
theorem State.markWords_slicesStay (s : State) (n : Nat) (ws : List (Nat × Nat)) : s.SlicesStay (ws.foldl (fun u w => u.mark (.word n w.1) w.2) s) :=
  (foldl_quiet ws _ (fun u _ => u.mark_quiet _ _) s).slicesStay

/-- The first entry that a syllable's writes claim stands at TP (R341). -/
theorem State.claimWrites_fst (s : State) (cyc : Nat) (ws : List (Nat × Nat)) : (s.claimWrites cyc ws).1 = s.slice.tp.toNat := by
  have h := (s.checkOwned_slicesStay cyc (ws.map Prod.fst)).trans
    (State.markWords_slicesStay _ s.cur.s ws)
  rw [← h.own]
  unfold State.claimWrites State.reserve
  dsimp only
  split
  · rfl
  · split <;> rfl

/-- Claims leave the words that stand at the delivery port. -/
theorem State.claimWrites_arr (s : State) (cyc : Nat) (ws : List (Nat × Nat)) : (s.claimWrites cyc ws).2.slice.arr = s.slice.arr := by
  have h := (s.checkOwned_slicesStay cyc (ws.map Prod.fst)).trans
    (State.markWords_slicesStay _ s.cur.s ws)
  rw [← h.own]
  unfold State.claimWrites
  dsimp only
  generalize (ws.foldl (fun st w => st.mark (.word s.cur.s w.1) w.2) (s.checkOwned cyc (ws.map Prod.fst))) = u
  unfold State.reserve
  dsimp only
  split
  · rfl
  · split
    · rw [(u.trapS_slicesStay _ _ _).own]
    · rw [(foldl_quiet _ _ (fun v _ => .trans (l := []) (m := []) (v.mark_quiet _ _) (State.mark_quiet _ _ _)) _).slicesStay.own,
        (State.checkOwned_slicesStay _ _ _).own, State.slice_onSlice]

/-! ### Copies and claims as slice steps -/

section
variable {s t : State} {near : List Nat} {l : List (Nat × Dest)} (h : s.SliceStep t near l)
include h

theorem State.SliceStep.checkOwned (cyc : Nat) (keys : List Nat) : s.SliceStep (t.checkOwned cyc keys) near l := h.trapWhen _ _ _ _

theorem State.SliceStep.markHbm (pa cyc : Nat) (w : Bool) : s.SliceStep (t.markHbm pa cyc w) near l :=
  h.andThen (.onCore t ⟨fun _ _ => rfl, fun _ => rfl, fun _ _ => ⟨0, rfl⟩, fun _ => rfl, fun _ _ => rfl, ⟨[], (List.append_nil _).symm⟩,
    ⟨[], (List.append_nil _).symm⟩, rfl⟩ rfl)

theorem State.SliceStep.trapOff (f : CF) (code : Nat) (off : Option Int) : s.SliceStep (t.trapOff f code off) near l := by
  unfold State.trapOff
  split
  · exact h.trapS _ _ _
  · exact h

theorem State.SliceStep.checkCopy (f : CF) (offs : List Int) (reads writes atom : Bool) : s.SliceStep (t.checkCopy f offs reads writes atom) near l := by
  unfold State.checkCopy
  extract_lets hd size s1 s2 s3 s4 s5
  have h1 : s.SliceStep s1 near l := h.trapWhen _ _ _ _
  have h2 : s.SliceStep s2 near l := h1.trapOff _ _ _
  have h3 : s.SliceStep s3 near l := by
    unfold s3
    split
    · exact h2.trapOff _ _ _
    · exact h2
  have h4 : s.SliceStep s4 near l := by
    unfold s4
    split
    · exact h3.trapOff _ _ _
    · exact h3
  have h5 : s.SliceStep s5 near l := by
    unfold s5
    split
    · exact h4.trapS _ _ _
    · exact h4
  split
  · exact h1.trapOff _ _ _
  · split
    · exact h5.trapS _ _ _
    · exact h5

theorem State.SliceStep.checkPoison (cyc : Nat) (keys : List Nat) : s.SliceStep (t.checkPoison cyc keys) near l := by
  have hfirst : ∀ (b : BitVec 2) (code : Nat) (u : State), s.SliceStep u near l →
      s.SliceStep (match keys.find? fun k => t.slice.poison k == b with | some k => u.trapS cyc code (4 * k) | none => u) near l := by
    intro b code u hu
    split
    · exact hu.trapS _ _ _
    · exact hu
  exact hfirst 1 0x13 _ (hfirst 2 0x12 t h)

theorem State.SliceStep.recordCheck (f : CF) (offs : List Int) (bad : Bool) : s.SliceStep (t.recordCheck f offs bad) near l := h.trapBWhen _ _ _ _

theorem State.SliceStep.setting (x : Option Trel) : s.SliceStep (t.setting x).2 near l := by
  unfold State.setting
  split
  · exact h
  · split
    · exact h
    · split
      · exact h.sample _ _
      · exact h

/-- The words that a syllable owes its banks, from its word number `skip` on (R193, R340). -/
def bankWrites (tab : Tables) (due base : Nat) (keys : List Nat) (skip : Nat) (ws : List (Word × BitVec 2)) : List (Nat × Dest) :=
  (ws.zipIdx skip).map fun e => (due, .bank (keys.getD e.2 0 % 16) (keys.getD e.2 0 / 16) e.1.1 e.1.2 (tab.tapeAt base keys e.2))

theorem State.SliceStep.oweWords (due base : Nat) (keys : List Nat) (skip : Nat) (ws : List (Word × BitVec 2)) :
    s.SliceStep (t.oweWords due base keys skip ws) near (l ++ bankWrites s.tab due base keys skip ws) := by
  rw [← h.tab]
  exact h.foldlOwes _ fun u m e hu => hu.owe _ _

variable (hn : s.cur.s ∈ near)
include hn

theorem State.SliceStep.reserve (cyc : Nat) (ws : List (Nat × Nat)) : s.SliceStep (t.reserve cyc ws).2 near l := by
  unfold State.reserve
  extract_lets hit n tp s1 keys s2
  split
  · exact h
  · split
    · exact h.trapS _ _ _
    · have h1 : s.SliceStep s1 near l := h.onSlice hn (fun _ => rfl) fun _ => rfl
      exact (h1.checkOwned cyc keys).foldl _ fun u e hu => (hu.mark _ _).mark _ _

theorem State.SliceStep.claimWrites (cyc : Nat) (ws : List (Nat × Nat)) : s.SliceStep (t.claimWrites cyc ws).2 near l :=
  ((h.checkOwned _ _).foldl _ fun _ _ hu => hu.mark _ _).reserve hn _ _

theorem State.SliceStep.copyOff (f : CF) : s.SliceStep (t.copyOff f).2 near l := by
  unfold State.copyOff
  split
  · exact h
  · split
    · exact h
    · exact h.readRank hn _ _ _

theorem State.SliceStep.fillStart (f : CF) (src : Nat) (offs : List Int) (i : Instr) : s.SliceStep (t.fillStart f src offs i) near l := by
  have h1 := (h.checkCopy f offs true false false).claimWrites hn t.X ((copyMasked f offs.length).map fun k => (t.copyKey f k, t.X + 401 + k / 16))
  have h2 := h1.foldl offs.zipIdx (f := fun st e => st.markHbm ((t.handleT f).pa e.1) (t.X + 400 + e.2 / 16) false) fun _ _ hu => hu.markHbm _ _ _
  exact (h2.recur (Ctx.Same.of_aux rfl)).foldl _ fun u r hu => hu.later _ _ _

end

end Sys2Proof.Machine
end

section
/-!
PROOF of O45. What each step of a C form owes, in order.
-/
namespace Sys2Proof.Machine

/-! ### Words, keys and lines -/

theorem State.cbKey_eq (s : State) (f : CB) (b : Nat) : s.cbKey f b = 16 * s.lineFor f.it.toNat f.skew.toNat b f.loff.toInt + b := rfl

theorem State.recvKey_eq (s : State) (g : CX) (k : Nat) : s.recvKey g k = s.keyIn g k := rfl

theorem State.SliceStep.copyKey {s t : State} {near : List Nat} {l : List (Nat × Dest)} (h : s.SliceStep t near l) (f : CF) (k : Nat) :
    t.copyKey f k = s.copyKey f k := by
  unfold State.copyKey
  rw [h.tab]

/-- In a list in rising order of rank, the entries of one rank stand together. -/
theorem filter_zipIdx_rank (l : List Nat) (r i : Nat) (hl : l.Pairwise (· ≤ ·)) :
    (l.zipIdx i).filter (fun e => decide (e.1 / 16 = r)) = (l.filter fun k => k / 16 == r).zipIdx (i + (l.takeWhile fun k => decide (k / 16 < r)).length) := by
  induction l generalizing i with
  | nil => rfl
  | cons a l ih =>
    obtain ⟨ha, hl⟩ := List.pairwise_cons.mp hl
    rw [List.zipIdx_cons, List.filter_cons, List.filter_cons, List.takeWhile_cons, ih (i + 1) hl]
    by_cases hlt : a / 16 < r
    · simp [hlt, Nat.ne_of_lt hlt, Nat.add_assoc, Nat.add_comm 1]
    · have htake : l.takeWhile (fun k => decide (k / 16 < r)) = [] := by
        cases l with
        | nil => rfl
        | cons b l =>
          have := Nat.div_le_div_right (c := 16) (ha b List.mem_cons_self)
          simp [show ¬b / 16 < r by omega]
      by_cases heq : a / 16 = r
      · simp [heq, htake]
      · have hnone : l.filter (fun k => k / 16 == r) = [] := by
          refine List.filter_eq_nil_iff.mpr fun b hb => ?_
          have := Nat.div_le_div_right (c := 16) (ha b hb)
          simp only [beq_iff_eq]
          omega
        simp [heq, hlt, hnone]

theorem copyMasked_sorted (f : CF) (n : Nat) : (copyMasked f n).Pairwise (· ≤ ·) := (List.pairwise_le_range).filter _

/-- Word k of a FILL-like copy as it lands: HBM's, poisoned where it has an uncorrectable error (R204, R368). -/
def State.landed (s : State) (f : CF) (offs : List Int) (k : Nat) : Word × BitVec 2 :=
  let pa := (s.handleT f).pa (offs.getD k 0)
  (BitVec.ofNat 32 (s.hbmRead pa 4), if s.hub.badWords.contains (pa / 4) then 2 else 0)

theorem State.landing_eq (s : State) (f : CF) (offs : List Int) (h : s.cur.row ≠ 0) : s.landing f offs =
    bankWrites s.tab (s.X + 400 + (s.cur.row - 1)) (s.cur.aux % 2 ^ 32) ((copyMasked f offs.length).map (s.copyKey f))
      ((copyMasked f offs.length).takeWhile fun k => decide (k / 16 < s.cur.row - 1)).length
      (((copyMasked f offs.length).filter fun k => k / 16 == s.cur.row - 1).map (s.landed f offs)) := by
  have hrank := filter_zipIdx_rank (copyMasked f offs.length) (s.cur.row - 1) 0 (copyMasked_sorted f _)
  rw [Nat.zero_add] at hrank
  unfold State.landing bankWrites
  rw [if_neg h, List.zipIdx_map, List.map_map, ← hrank]
  refine List.map_congr_left fun e he => ?_
  have hget : (copyMasked f offs.length)[e.2]? = some e.1 := List.mem_zipIdx_iff_getElem?.mp (List.mem_filter.mp he).1
  have hkey : ((copyMasked f offs.length).map (s.copyKey f)).getD e.2 0 = s.keyFor f e.1 := by
    rw [List.getD_eq_getElem?_getD, List.getElem?_map, hget]
    rfl
  have hbank : s.keyFor f e.1 % 16 = e.1 % 16 := by
    unfold State.keyFor
    omega
  simp only [Function.comp_apply, Prod.map, id_eq, hkey, hbank, State.landed, List.contains_iff_mem]
  rfl

/-- A rank of a copy that lands. -/
theorem State.fillRank_step (s : State) (f : CF) (offs : List Int) (h : s.cur.row ≠ 0) : s.SliceStep (s.fillRank f offs) [s.cur.s] (s.landing f offs) := by
  rw [s.landing_eq f offs h]
  exact (State.SliceStep.refl s [s.cur.s]).oweWords _ _ _ _ _

/-! ### FILL, FILLM, FILLX and SPILL (R199 to R201) -/

theorem State.landing_start (s : State) (f : CF) (offs : List Int) (h : s.cur.row = 0) : s.landing f offs = [] := if_pos h

theorem State.fill_step (s : State) (f : CF) (i : Instr) : s.SliceStep (s.fill f i) [s.cur.s] (s.landing f (s.shapeOffs f (s.cur.aux / 2 ^ 32))) := by
  have hn : s.cur.s ∈ [s.cur.s] := List.mem_cons_self
  unfold State.fill
  split
  next h0 =>
    rw [s.landing_start _ _ h0]
    exact (((State.SliceStep.refl s _).copyOff hn f).recordCheck _ _ _).fillStart hn _ _ _ _
  next h0 => exact s.fillRank_step f _ h0

theorem State.fillx_step (s : State) (f : CF) :
    ∃ t, exec (.fillx f) s = .next t ∧ s.SliceStep t [s.cur.s] (s.landing f (indexOffs (s.cur.aux / 2 ^ 32))) := by
  have hn : s.cur.s ∈ [s.cur.s] := List.mem_cons_self
  by_cases h0 : s.cur.row = 0
  · refine ⟨_, if_pos h0, ?_⟩
    rw [s.landing_start _ _ h0]
    exact (((State.SliceStep.refl s _).readRank hn f.spec.toNat s.X false).recordCheck _ _ _).fillStart hn _ _ _ _
  · exact ⟨_, if_neg h0, s.fillRank_step f _ h0⟩

/-- What is quiet in another context of the same core is a step of this one that owes nothing. -/
theorem State.Quiet.recast {t u : State} {c : Ctx} (near : List Nat) (hc : c.cid = t.cur.cid) (h : ({ t with cur := c } : State).Quiet u []) :
    t.SliceStep { u with cur := t.cur } near [] := by
  obtain ⟨hcur, hout, hhere⟩ := h
  have hu : ({ u with cur := t.cur } : State).here = u.here := by rw [State.here, State.here, hcur]; exact congrArg u.core hc.symm
  have ht : ({ t with cur := c } : State).here = t.here := congrArg t.core hc
  obtain ⟨os, tr, ac, fl, n, -, hos, -, heq⟩ := hhere
  rw [ht] at heq
  cases hos
  refine .ofCore rfl { hout with others := fun cid hne => hout.others cid (hc ▸ hne) } ?_ ⟨[], by rw [hu, heq], .nil⟩
  rw [hu, heq]
  exact ⟨fun _ _ => rfl, fun _ => rfl, fun _ _ => ⟨0, rfl⟩, fun _ => rfl, fun _ _ => rfl, ⟨tr, rfl⟩, ⟨[], (List.append_nil _).symm⟩, rfl⟩

theorem State.SliceStep.addTask {s t : State} {near : List Nat} {l : List (Nat × Dest)} (h : s.SliceStep t near l) (x : Task) :
    s.SliceStep (t.onCore fun c => { c with tasks := c.tasks ++ [x] }) near l :=
  h.andThen (.onCore t ⟨fun _ _ => rfl, fun _ => rfl, fun _ _ => ⟨0, rfl⟩, fun _ => rfl, fun _ _ => rfl, ⟨[], (List.append_nil _).symm⟩, ⟨_, rfl⟩, rfl⟩ rfl)

theorem State.SliceStep.latch {s t : State} {near : List Nat} {l : List (Nat × Dest)} (h : s.SliceStep t near l) (hn : s.cur.s ∈ near) (ranks : Nat) :
    s.SliceStep (t.latch ranks) near l := by
  unfold State.latch
  split
  · exact h
  · split
    · exact h
    · extract_lets x cur0 cur s1 ty s2 s3
      have h2 : s.SliceStep s2 near l := h.andThen (State.Quiet.recast near (c := cur) rfl (foldl_quiet _ _ (fun u _ => u.mark_quiet _ _) _))
      have h3 : s.SliceStep s3 near l := by
        unfold s3
        split
        · exact h2.setTag hn _ _
        · exact h2
      exact h3.addTask _

theorem State.fillm_step (s : State) (f : CF) :
    ∃ t, exec (.fillm f) s = .next t ∧ s.SliceStep t [s.cur.s] (s.landing f (s.shapeOffs f (s.cur.aux / 2 ^ 32))) := by
  have h1 := s.fill_step f (.fillm f)
  refine ⟨_, rfl, ?_⟩
  split
  · exact h1.latch List.mem_cons_self _
  · exact h1

/-- What a rank of a SPILL owes, for the page offsets of its words. -/
def State.spillWrites (s : State) (f : CF) (offs : List Int) : List (Nat × Dest) :=
  ((copyMasked f offs.length).filter fun k => k / 16 == s.cur.row).map fun k =>
    (s.X + 400 + s.cur.row, .hbm ((s.handleT f).pa (offs.getD k 0)) f.chan.toNat k (s.slice.word (s.copyKey f k)) (s.slice.poison (s.copyKey f k) != 0))

theorem State.SliceStep.spillRank {s t : State} {near : List Nat} {l : List (Nat × Dest)} (h : s.SliceStep t near l) (f : CF) (offs : List Int) :
    s.SliceStep (t.spillRank f offs) near (l ++ s.spillWrites f offs) := by
  have hreg := h.slice_registers
  have hbank : t.slice.bank = s.slice.bank := (congrArg Slice.bank hreg :)
  have htag : t.slice.tag = s.slice.tag := (congrArg Slice.tag hreg :)
  have hlist : t.spillWrites f offs = s.spillWrites f offs := by
    unfold State.spillWrites
    simp only [h.copyKey, h.x, h.cur.row, State.handleT, h.tab, Slice.word, Slice.poison, hbank, htag]
  rw [← hlist]
  exact h.foldlOwes _ fun u m k hu => (hu.sample _ _).owe _ _

theorem State.spilling_eq (s : State) (f : CF) : s.spilling f = s.spillWrites f (s.shapeOffs f (s.spillOff f)) := by
  unfold State.spilling State.spillWrites
  rfl

theorem State.spill_step (s : State) (f : CF) : ∃ t, exec (.spill f) s = .next t ∧ s.SliceStep t [s.cur.s] (s.spilling f) := by
  have hn : s.cur.s ∈ [s.cur.s] := List.mem_cons_self
  rw [s.spilling_eq]
  unfold State.spillOff
  by_cases h0 : s.cur.row = 0
  · rw [if_pos h0]
    refine ⟨_, if_pos h0, ?_⟩
    have h1 := ((((State.SliceStep.refl s [s.cur.s]).copyOff hn f).recordCheck f
      ((copyMasked f (s.shapeOffs f (s.copyOff f).1).length).map fun k => (s.shapeOffs f (s.copyOff f).1).getD k 0) true).checkCopy f
      ((copyMasked f (s.shapeOffs f (s.copyOff f).1).length).map fun k => (s.shapeOffs f (s.copyOff f).1).getD k 0) false true false).checkOwned s.X
      ((copyMasked f (s.shapeOffs f (s.copyOff f).1).length).map (s.copyKey f))
    have h2 := h1.foldl (copyMasked f (s.shapeOffs f (s.copyOff f).1).length)
      (f := fun st k => st.markHbm ((s.handleT f).pa ((s.shapeOffs f (s.copyOff f).1).getD k 0)) (s.X + 401 + k / 16) true) fun _ _ hu => hu.markHbm _ _ _
    exact State.SliceStep.spillRank ((h2.recur (Ctx.Same.of_aux rfl)).foldl _ fun _ _ hu => hu.later _ _ _) f _
  · rw [if_neg h0]
    exact ⟨_, if_neg h0, (State.SliceStep.refl s _).spillRank f _⟩

/-! ### HATOM (R202) -/

/-- The machine as a HATOM joins those of its core. -/
def State.withHatom (s : State) (h : Hatom) : State :=
  ({ s with free := s.free + 1, hub := { s.hub with nextId := (s.hub.nextId + 1) % 2 ^ 32 } } : State).onCore fun c => { c with hatoms := c.hatoms ++ [h] }

theorem State.here_withHatom (s : State) (h : Hatom) : (s.withHatom h).here = { s.here with hatoms := s.here.hatoms ++ [h] } := State.here_onCore _ _

theorem State.withHatom_frame (s : State) (h : Hatom) (near : List Nat) (W : Nat → Dest → Prop) : s.SliceFrame (s.withHatom h) near W where
  hbm _ := rfl
  others cid hne := (State.core_onCore _ _ _).trans (if_neg hne)
  ctxs := rfl
  parts := rfl
  hw := rfl
  link := rfl
  inputs := rfl
  agenda := rfl
  hub := rfl
  slices n _ := by rw [here_withHatom]; rfl
  registers n := by rw [here_withHatom]; rfl
  pops n k := ⟨0, by rw [here_withHatom]; rfl⟩
  dies d := by rw [here_withHatom]; rfl
  otherDies d _ := by rw [here_withHatom]; rfl
  owed := ⟨[], by rw [here_withHatom, List.append_nil], fun _ h => (List.not_mem_nil h).elim⟩
  traps := ⟨[], by rw [here_withHatom, List.append_nil]⟩
  tasks := ⟨[], by rw [here_withHatom, List.append_nil]⟩
  acc := by rw [here_withHatom]
  handler := by rw [here_withHatom]
  hops := by rw [here_withHatom]
  sinks := by rw [here_withHatom]
  owned := by rw [here_withHatom]
  planes := by rw [here_withHatom]
  acquired := by rw [here_withHatom]
  ereserve := by rw [here_withHatom]

/-- A HATOM on its way: it owes its home operation, with the pairs and the landings that it was sent with. -/
structure State.Sends (s t : State) (l : List (Nat × Dest)) (op : Nat) (pairs : List (Nat × Nat × Word)) (fetch : List (Nat × Nat × Option Nat)) : Prop where
  frame : s.SliceFrame t [s.cur.s] fun due d => (due, d) ∈ l
  owes : ∃ os, t.here.owed = s.here.owed ++ os ∧ List.Forall₂ s.cur.owes l os
  hatom : ∃ h : Hatom, t.here.hatoms = s.here.hatoms ++ [h] ∧ h.tag = s.hub.nextId ∧ h.op = op ∧ h.pairs = pairs ∧ h.fetch = fetch

theorem State.SliceStep.sendHatom {s t : State} (h : s.SliceStep t [s.cur.s] []) (f : CF) (op : Nat) (pairs : List (Nat × Nat × Word))
    (fetch : List (Nat × Nat × Option Nat)) (remote : Bool) :
    s.Sends (t.sendHatom f op pairs fetch remote) [(s.X + 400, .hatom f.chan.toNat s.hub.nextId)] op pairs fetch := by
  let a : Hatom := { tag := t.hub.nextId, cid := t.cur.cid, ctx := t.cur, op := op, home := Config.homeOf ((pairs.map fun e => e.2.1).headD 0)
                     pairs := pairs, fetch := fetch, remote := remote, retry := Config.eccRetry t.free }
  have hsend : t.sendHatom f op pairs fetch remote = (t.withHatom a).owe (s.X + 400) (.hatom f.chan.toNat s.hub.nextId) := by
    rw [← h.x, ← h.hub]
    rfl
  have hk := ((t.withHatom a).owe_quiet (s.X + 400) (.hatom f.chan.toNat s.hub.nextId)).sliceStep [s.cur.s]
  have howed : (t.withHatom a).here.owed = t.here.owed := by rw [here_withHatom]
  obtain ⟨os, hos, ho⟩ := h.owes
  cases ho
  obtain ⟨os', hos', ho'⟩ := hk.owes
  rw [hsend]
  refine ⟨?_, ⟨os', by rw [hos', howed, hos, List.append_nil], h.cur.owes ▸ ho'⟩, a, ?_, h.hub ▸ rfl, rfl, rfl, rfl⟩
  · have hf := (h.frame.mono fun _ _ hm => (List.not_mem_nil hm).elim).trans h.cur (t.withHatom_frame a _ fun due d => (due, d) ∈ [(s.X + 400, .hatom f.chan.toNat s.hub.nextId)])
    exact State.SliceFrame.trans (t := t.withHatom a) h.cur hf hk.frame
  · rw [hk.hatoms, here_withHatom, h.hatoms]

/-- The lanes of a HATOM, its words and their operands. -/
def State.hatomPairs (s : State) (f : CF) (lanes : Nat) : List (Nat × Nat × Word) :=
  ((List.range 8).filter fun j => f.bmask.getLsbD j).map fun j =>
    (j, (s.handleT f).pa (4 * (elemOf 32 (2 * j) lanes : Int)), BitVec.ofNat 32 (elemOf 32 (2 * j + 1) lanes))

theorem State.hatom_sends (s : State) (f : CF) : ∃ t fetch, exec (.hatom f) s = .next t
    ∧ s.Sends t [(s.X + 400, .hatom f.chan.toNat s.hub.nextId)] (f.aop.toNat % 8) (s.hatomPairs f (s.readRank f.spec.toNat s.X false).1.toNat) fetch
    ∧ fetch.length = if f.aop.getLsbD 3 then (s.hatomPairs f (s.readRank f.spec.toNat s.X false).1.toNat).length else 0 := by
  have hn : s.cur.s ∈ [s.cur.s] := List.mem_cons_self
  let lanes := (s.readRank f.spec.toNat s.X false).1.toNat
  let js := (List.range 8).filter fun j => f.bmask.getLsbD j
  let offs := js.map fun j => 4 * (elemAt 32 (2 * j) lanes : Int)
  let keys := if f.aop.getLsbD 3 then js.map fun j => wordKey (2 * j + 1) (s.tab.bankLine f.it.toNat f.skew.toNat (2 * j + 1) 0) else []
  have hpairs : s.hatomPairs f lanes = js.map fun j => (j, (s.handleT f).pa (4 * (elemAt 32 (2 * j) lanes : Int)), BitVec.ofNat 32 (elemAt 32 (2 * j + 1) lanes)) := by
    simp only [State.hatomPairs, elemAt_eq_elemOf]
    rfl
  have h1 := (((State.SliceStep.refl s [s.cur.s]).readRank hn f.spec.toNat s.X false).recordCheck f offs true).checkCopy f offs true true true
  have h2 := h1.foldl (s.hatomPairs f lanes) (f := fun st e => (st.markHbm e.2.1 (s.X + 400) false).markHbm e.2.1 (s.X + 401) true)
    fun _ _ hu => (hu.markHbm _ _ _).markHbm _ _ _
  have h3 := h2.claimWrites hn s.X (keys.map fun k => (k, s.X + 801))
  let base := (((s.hatomPairs f lanes).foldl (fun st e => (st.markHbm e.2.1 (s.X + 400) false).markHbm e.2.1 (s.X + 401) true)
    (((s.readRank f.spec.toNat s.X false).2.recordCheck f offs true).checkCopy f offs true true true)).claimWrites s.X (keys.map fun k => (k, s.X + 801))).1
  let fetch := ((js.zip keys).zipIdx).map fun e => (e.1.1, e.1.2, s.tab.tapeAt base keys e.2)
  refine ⟨_, fetch, ?_, h3.sendHatom f (f.aop.toNat % 8) (s.hatomPairs f lanes) fetch (s.handleT f).remote, ?_⟩
  · unfold fetch base
    rw [hpairs]
    rfl
  · rw [hpairs, List.length_map, List.length_map, List.length_zipIdx, List.length_zip]
    unfold keys
    split
    · simp
    · simp

/-! ### XSEND, XRECV and RECVADD (R315) -/

theorem State.SliceStep.inject {s t : State} {near : List Nat} {l : List (Nat × Dest)} (h : s.SliceStep t near l) (plan : Nat) (pl : Plan) (cyc : Nat) (w : Word) :
    s.SliceStep (t.inject plan pl cyc w) near l := by
  have hfree : s.SliceStep { t with free := t.free + 1 } near l :=
    ⟨h.cur, { h.frame with }, h.hub, h.hatoms, h.owes⟩
  exact hfree.addTask _

theorem State.xsend_step (s : State) (g : CX) : ∃ t, exec (.xsend g) s = .next t ∧ s.SliceStep t [s.cur.s] [] := by
  have he : exec (.xsend g) s = execXsend g s := rfl
  unfold execXsend at he
  extract_lets words j s0 at he
  have h0 : s.SliceStep s0 [s.cur.s] [] := by
    unfold s0
    split
    · exact (State.SliceStep.refl s _).foldl _ fun _ _ hu => hu.later _ _ _
    · exact .refl s _
  have h1 := h0.readRank List.mem_cons_self g.spec.toNat (s.X + 16 * j) false
  refine ⟨_, he, ?_⟩
  dsimp only
  split
  · exact h1
  · exact h1.foldl _ fun _ _ hu => hu.inject _ _ _ _

theorem mul_two_pow_div (a n : Nat) : a * 2 ^ n / 2 ^ n = a := Nat.mul_div_cancel a (Nat.two_pow_pos n)

/-- What a step carries on to its later rows stands in no slice. -/
theorem State.slice_recur {s : State} {c : Ctx} (h : s.cur.Same c) : ({ s with cur := c } : State).slice = s.slice := by
  have hhere : ({ s with cur := c } : State).here = s.here := congrArg s.core h.cid
  rw [State.slice, hhere, State.slice]
  exact congrArg s.here.slice h.s

/-- The start of a receive: its claims at its first word, and the address of its first tape entry. -/
theorem State.recvStart_spec {s t : State} (h : s.SliceStep t [s.cur.s] []) (hstay : s.SlicesStay t) (hs : s.cur.slot ≠ 3) (g : CX) :
    s.SliceStep (t.recvStart g) [s.cur.s] [] ∧ (t.recvStart g).slice.arr = s.slice.arr
      ∧ (t.recvStart g).cur.aux / 2 ^ 512 = (if s.cur.row = 0 then s.slice.tp.toNat else s.cur.aux / 2 ^ 512)
      ∧ (s.cur.row ≠ 0 → (t.recvStart g).cur.aux = s.cur.aux) := by
  unfold State.recvStart
  rw [hstay.cur]
  by_cases h0 : s.cur.row = 0
  · rw [if_pos h0, if_pos h0]
    have h1 := h.claimWrites List.mem_cons_self t.X ((List.range (g.words.toNat + 1)).map fun k => (t.recvKey g k, t.X + k + 1))
    have harr := t.claimWrites_arr t.X ((List.range (g.words.toNat + 1)).map fun k => (t.recvKey g k, t.X + k + 1))
    have htp := t.claimWrites_fst t.X ((List.range (g.words.toNat + 1)).map fun k => (t.recvKey g k, t.X + k + 1))
    rw [hstay.own] at harr htp
    dsimp only
    generalize t.claimWrites t.X ((List.range (g.words.toNat + 1)).map fun k => (t.recvKey g k, t.X + k + 1)) = e at h1 harr htp ⊢
    obtain ⟨base, s1⟩ := e
    dsimp only at h1 harr htp ⊢
    have hsame : s1.cur.Same { s1.cur with aux := base * 2 ^ 512, late := true } := by
      have hslot := h1.cur.slot ▸ hs
      exact ⟨rfl, rfl, rfl, rfl, rfl, rfl, rfl, by simp [Ctx.issueT, hslot]⟩
    refine ⟨h1.recur hsame, by rw [State.slice_recur hsame, harr], ?_, fun hne => (hne h0).elim⟩
    · rw [mul_two_pow_div, htp]
  · rw [if_neg h0, if_neg h0]
    exact ⟨h, by rw [hstay.own], by rw [hstay.cur], fun _ => by rw [hstay.cur]⟩

theorem State.SliceStep.recvTape {s t : State} {l : List (Nat × Dest)} (h : s.SliceStep t [s.cur.s] l) (g : CX)
    (haux : t.cur.aux / 2 ^ 512 = if s.cur.row = 0 then s.slice.tp.toNat else s.cur.aux / 2 ^ 512) : t.recvTape g s.cur.row = s.tapeIn g := by
  have hkey : t.recvKey g = s.keyIn g := by
    funext k
    rw [← s.recvKey_eq]
    unfold State.recvKey
    rw [h.tab]
  unfold State.recvTape State.tapeIn
  rw [haux, hkey, h.tab]

theorem State.SliceStep.takeArrival {s t : State} {near : List Nat} {l : List (Nat × Dest)} (h : s.SliceStep t near l) (hn : s.cur.s ∈ near) (g : CX) :
    s.SliceStep (t.takeArrival g).2 near l := by
  unfold State.takeArrival
  dsimp only
  split
  · exact h
  · refine State.SliceStep.trapWhen ?_ _ _ _ _
    exact h.onSlice hn (fun _ => rfl) fun _ => rfl

theorem State.takeArrival_fst {s t : State} (h : t.slice.arr = s.slice.arr) (g : CX) : (t.takeArrival g).1 = s.arrived g := by
  unfold State.takeArrival State.arrived
  rw [h]
  dsimp only
  split
  · rename_i hf
    rw [hf]
    rfl
  · rename_i e hf
    rw [hf]
    rfl

theorem State.SliceStep.recvNext {s t : State} {near : List Nat} {l : List (Nat × Dest)} (h : s.SliceStep t near l) (g : CX) (i : Instr) :
    s.SliceStep (t.recvNext g i) near l := by
  unfold State.recvNext
  split
  · exact h.later _ _ _
  · exact h

/-- What the step of an XRECV does once its word is owed: it carries the rank on, and owes it with its last word. -/
theorem State.SliceStep.recvRank {s t : State} {near : List Nat} {l : List (Nat × Dest)} (h : s.SliceStep t near l) (g : CX) (hi sofar : Nat) :
    s.SliceStep (if s.cur.row % 16 = 15 || s.cur.row = g.words.toNat then
        State.writeRank { t with cur := { t.cur with aux := hi + sofar } } g.spec.toNat (s.X + 16 * (s.cur.row / 16) + 16) (BitVec.ofNat 512 sofar)
      else { t with cur := { t.cur with aux := hi + sofar } }) near
      (l ++ if (s.cur.row % 16 = 15 ∨ s.cur.row = g.words.toNat) ∧ g.spec ≠ 0x3A ∧ g.spec ≠ 0x58 then
        [(s.cur.X + 16 * (s.cur.row / 16) + 15, .spec g.spec.toNat (BitVec.ofNat 512 sofar))] else []) := by
  have h1 : s.SliceStep { t with cur := { t.cur with aux := hi + sofar } } near l := h.recur (Ctx.Same.of_aux rfl)
  by_cases hr : s.cur.row % 16 = 15 ∨ s.cur.row = g.words.toNat
  · rw [if_pos (by simpa using hr)]
    have h2 := h1.writeRank g.spec.toNat (s.X + 16 * (s.cur.row / 16) + 16) (BitVec.ofNat 512 sofar)
    have hspec : rankWrites g.spec.toNat (s.X + 16 * (s.cur.row / 16) + 16 - 1) (BitVec.ofNat 512 sofar)
        = if (s.cur.row % 16 = 15 ∨ s.cur.row = g.words.toNat) ∧ g.spec ≠ 0x3A ∧ g.spec ≠ 0x58 then
          [(s.cur.X + 16 * (s.cur.row / 16) + 15, .spec g.spec.toNat (BitVec.ofNat 512 sofar))] else [] := by
      have h3A : g.spec.toNat = 0x3A ↔ g.spec = 0x3A := by bv_omega
      have h58 : g.spec.toNat = 0x58 ↔ g.spec = 0x58 := by bv_omega
      unfold rankWrites
      by_cases hz : g.spec = 0x3A ∨ g.spec = 0x58
      · rw [if_pos (by rwa [h3A, h58]), if_neg (by tauto)]
      · rw [if_neg (by rwa [h3A, h58]), if_pos (by tauto)]
        rfl
    rwa [hspec] at h2
  · rw [if_neg (by simpa using hr), if_neg (fun hc => hr hc.1), List.append_nil]
    exact h1

theorem State.xrecv_step (s : State) (g : CX) (hs : s.cur.slot ≠ 3) : ∃ t, exec (.xrecv g) s = .next t ∧ s.SliceStep t [s.cur.s] (s.receiving g) := by
  have hn : s.cur.s ∈ [s.cur.s] := List.mem_cons_self
  have he : exec (.xrecv g) s = execXrecv g s := rfl
  unfold execXrecv at he
  extract_lets k s0 s1 at he
  have h0 : s.SliceStep s0 [s.cur.s] [] ∧ s.SlicesStay s0 := by
    unfold s0
    split
    · exact ⟨(State.SliceStep.refl s _).foldl _ fun _ _ hu => hu.mark _ _, (State.foldl_quiet _ _ (fun u _ => u.mark_quiet _ _) s).slicesStay⟩
    · exact ⟨.refl s _, .refl s⟩
  obtain ⟨h1, harr, haux, hrow⟩ := State.recvStart_spec h0.1 h0.2 hs g
  have htake := State.takeArrival_fst harr g
  have h2 := h1.takeArrival hn g
  generalize s1.takeArrival g = e at he htake h2
  obtain ⟨v, s2⟩ := e
  dsimp only at htake h2
  dsimp -zeta only at he
  extract_lets w s3 sofar s4 s5 at he
  have h3 : s.SliceStep s3 [s.cur.s] [(s.X + k, .bank (k % 16) (s.recvKey g k / 16) w 0 (s1.recvTape g k))] := h2.owe _ _
  refine ⟨_, he, ?_⟩
  have h5 := (h3.recvRank g (s1.cur.aux / 2 ^ 512 * 2 ^ 512) sofar).recvNext g (.xrecv g)
  have hsofar : sofar = (if s.cur.row % 16 = 0 then 0 else s.cur.aux % 2 ^ 512) + w.toNat * 2 ^ (32 * (s.cur.row % 16)) := by
    unfold sofar k
    rw [Nat.shiftLeft_eq]
    by_cases hk : s.cur.row % 16 = 0
    · rw [if_pos hk, if_pos hk]
    · rw [if_neg hk, if_neg hk]
      have haux' : s1.cur.aux = s.cur.aux := hrow fun h0 => hk (by rw [h0])
      rw [haux']
  have hl : s.receiving g = [(s.X + k, .bank (k % 16) (s.recvKey g k / 16) w 0 (s1.recvTape g k))]
      ++ (if (s.cur.row % 16 = 15 ∨ s.cur.row = g.words.toNat) ∧ g.spec ≠ 0x3A ∧ g.spec ≠ 0x58 then
        [(s.cur.X + 16 * (s.cur.row / 16) + 15, .spec g.spec.toNat (BitVec.ofNat 512 sofar))] else []) := by
    rw [hsofar, h1.recvTape g haux, recvKey_eq]
    unfold w
    rw [htake]
    rfl
  rw [hl]
  exact h5

/-- The sum of a RECVADD is rounded once (R44, R315). -/
theorem recvSum_run_fst (fl : BitVec 8) (a b : Nat) : ((recvSum fl a b).run 0).1
    = roundTo f32 1 (fl.getLsbD 1) (sumOf false (f32.decode (fl.getLsbD 0) a) (f32.decode (fl.getLsbD 0) b)) :=
  round_run_fst f32 1 _ _ _

theorem State.recvadd_step (s : State) (g : CX) (hs : s.cur.slot ≠ 3) : ∃ t, exec (.recvadd g) s = .next t ∧ s.SliceStep t [s.cur.s] (s.adding g) := by
  have hn : s.cur.s ∈ [s.cur.s] := List.mem_cons_self
  have he : exec (.recvadd g) s = execRecvadd g s := rfl
  unfold execRecvadd at he
  extract_lets k key s1 old at he
  obtain ⟨h0, harr0, haux, -⟩ := State.recvStart_spec (.refl s _) (.refl s) hs g
  have h1 : s.SliceStep s1 [s.cur.s] [] := h0.sample (.word s.cur.s key) (s.X + k)
  have hq := (s.recvStart g).sample_quiet (.word s.cur.s key) (s.X + k)
  have harr : s1.slice.arr = s.slice.arr := by rw [hq.slicesStay.own, harr0]
  have htape : s1.recvTape g k = s.tapeIn g := h1.recvTape g (by rw [hq.cur, haux])
  have htake := State.takeArrival_fst harr g
  have h2 := h1.takeArrival hn g
  generalize s1.takeArrival g = e at he htake h2
  obtain ⟨v, s2⟩ := e
  dsimp only at htake h2
  dsimp -zeta only at he
  extract_lets s3 at he
  refine ⟨_, he, State.SliceStep.recvNext ?_ g _⟩
  unfold s3 State.adding
  rw [htape, ← htake]
  dsimp only
  rw [← s.recvKey_eq]
  cases v with
  | none =>
    by_cases hs : (s.tapeIn g).isSome
    · simp only [if_pos hs]
      exact h2.owe _ _
    · simp only [if_neg hs]
      exact h2
  | some w =>
    have hold : old = SMap.get 0 s.slice.bank (s.recvKey g s.cur.row) := rfl
    by_cases hf : g.spec = 0
    · simp only [if_pos hf]
      rw [← hold, ← recvSum_run_fst]
      generalize (recvSum s.tab.flush old.toNat w.toNat).run 0 = r
      exact (h2.event _ _ _).owe _ _
    · simp only [if_neg hf]
      exact h2.owe _ _

/-! ### LDR, STR and RMW (R195 to R197) -/

theorem State.SliceStep.readBanks {s t : State} {near : List Nat} {l : List (Nat × Dest)} (h : s.SliceStep t near l) (f : CB) :
    s.SliceStep (t.readBanks f).2 near l :=
  ((h.checkOwned _ _).foldl _ fun _ _ hu => hu.sample _ _).checkPoison _ _

theorem State.ldr_step (s : State) (f : CB) : ∃ t v, exec (.ldr f) s = .next t
    ∧ s.SliceStep t [s.cur.s] ((s.X + 3, .tl v) :: rankWrites f.spec.toNat (s.X + 3) v) := by
  have h1 := (((State.SliceStep.refl s [s.cur.s]).setting s.cur.fl.rt).readBanks f).mark (.reg s.cur.s 0x38 0) (s.X + 4)
  exact ⟨_, _, rfl, (h1.owe _ _).writeRank _ _ _⟩

/-- The words that a CB syllable stores in its masked banks, with the value of each key (R192, R193). -/
def State.bankStores (s : State) (f : CB) (due base : Nat) (v : Nat → Word) : List (Nat × Dest) :=
  bankWrites s.tab due base ((maskBanks f.bmask).map (s.cbKey f)) 0 (((maskBanks f.bmask).map (s.cbKey f)).map fun k => (v k, 0))

/-- A word that a CB syllable stores names a masked bank at its line. -/
theorem State.mem_bankStores {s : State} {f : CB} {due base : Nat} {v : Nat → Word} {d : Nat × Dest} (h : d ∈ s.bankStores f due base v) :
    d.1 = due ∧ ∃ b < 16, f.bmask.getLsbD b = true ∧ ∃ v tape, d.2 = .bank b (s.lineFor f.it.toNat f.skew.toNat b f.loff.toInt) v 0 tape := by
  obtain ⟨⟨w, k⟩, he, rfl⟩ := List.mem_map.mp h
  obtain ⟨hlt, hget⟩ := List.getElem?_eq_some_iff.mp (List.mem_zipIdx_iff_getElem?.mp he)
  have hkey : k < (maskBanks f.bmask).length := by simpa using hlt
  have hmem := (mem_onesOf_toNat f.bmask _).mp (List.getElem_mem hkey)
  have hb : (maskBanks f.bmask)[k] < 16 := ((mem_onesOf 16 _ _).mp (List.getElem_mem hkey)).1
  have hd : ((maskBanks f.bmask).map (s.cbKey f)).getD k 0 = s.cbKey f (maskBanks f.bmask)[k] := by
    simp [List.getD_eq_getElem?_getD, hkey]
  have hw : w.2 = 0 := by
    obtain ⟨_, _, rfl⟩ := List.mem_map.mp (List.mem_of_getElem hget)
    rfl
  refine ⟨rfl, _, hb, hmem, w.1, s.tab.tapeAt base ((maskBanks f.bmask).map (s.cbKey f)) k, ?_⟩
  simp only [hd, hw, s.cbKey_eq]
  congr 1
  · omega
  · omega

theorem State.SliceStep.oweBanks {s t : State} {near : List Nat} {l : List (Nat × Dest)} (h : s.SliceStep t near l) (f : CB) (due base : Nat) (v : Nat → Word) :
    s.SliceStep (t.oweWords due base ((maskBanks f.bmask).map (s.cbKey f)) 0 (((maskBanks f.bmask).map (s.cbKey f)).map fun k => (v k, 0))) near
      (l ++ s.bankStores f due base v) :=
  h.oweWords due base _ 0 _

theorem State.str_step (s : State) (f : CB) : ∃ t base v, exec (.str f) s = .next t
    ∧ s.SliceStep t [s.cur.s] (s.bankStores f (s.X + 3) base v) := by
  have h1 := (((State.SliceStep.refl s [s.cur.s]).readRank List.mem_cons_self f.spec.toNat s.X false).setting s.cur.fl.wt).claimWrites List.mem_cons_self s.X
    (((maskBanks f.bmask).map (s.cbKey f)).map fun k => (k, s.X + 4))
  exact ⟨_, _, _, rfl, h1.oweBanks f _ _ _⟩

theorem State.rmw_step (s : State) (f : CB) : ∃ t base v w, exec (.rmw f) s = .next t
    ∧ s.SliceStep t [s.cur.s] (s.bankStores f (s.X + 2) base v ++ rankWrites f.spec.toNat (s.X + 2) w) := by
  have h1 := (((State.SliceStep.refl s [s.cur.s]).readRank List.mem_cons_self f.spec2.toNat s.X false).readBanks f).claimWrites List.mem_cons_self s.X
    (((maskBanks f.bmask).map (s.cbKey f)).map fun k => (k, s.X + 3))
  exact ⟨_, _, _, _, rfl, (h1.oweBanks f _ _ _).writeRank _ _ _⟩

/-! ### The C forms -/

/-- Each C form that copies or moves words completes, and owes exactly its list. -/
theorem State.cForm_step (s : State) (f : CF) (g : CX) (hs : s.cur.slot ≠ 3) {e : Instr × List (Nat × Dest)} (he : e ∈ s.cForms f g) :
    ∃ t, exec e.1 s = .next t ∧ s.SliceFrame t [s.cur.s] (fun due d => (due, d) ∈ e.2)
      ∧ ∃ os, t.here.owed = s.here.owed ++ os ∧ List.Forall₂ s.cur.owes e.2 os := by
  have of_step : ∀ {i : Instr} {l : List (Nat × Dest)}, (∃ t, exec i s = .next t ∧ s.SliceStep t [s.cur.s] l) →
      ∃ t, exec i s = .next t ∧ s.SliceFrame t [s.cur.s] (fun due d => (due, d) ∈ l)
        ∧ ∃ os, t.here.owed = s.here.owed ++ os ∧ List.Forall₂ s.cur.owes l os :=
    fun ⟨t, hexec, hstep⟩ => ⟨t, hexec, hstep.frame, hstep.owes⟩
  simp only [State.cForms, List.mem_cons, List.not_mem_nil, or_false] at he
  obtain rfl | rfl | rfl | rfl | rfl | rfl | rfl | rfl := he
  · exact of_step ⟨_, rfl, s.fill_step f _⟩
  · exact of_step (s.fillm_step f)
  · exact of_step (s.fillx_step f)
  · exact of_step (s.spill_step f)
  · obtain ⟨t, _, hexec, hsend, -⟩ := s.hatom_sends f
    exact ⟨t, hexec, hsend.frame, hsend.owes⟩
  · exact of_step (s.xsend_step g)
  · exact of_step (s.xrecv_step g hs)
  · exact of_step (s.recvadd_step g hs)

/-- Settles O45: each step of a C form is a slice step, which owes the words of its own list. -/
theorem copyAndBankForms : Obligations.CopyAndBankForms := by
  unfold Obligations.CopyAndBankForms
  refine ⟨fun f g s hs e he => s.cForm_step f g hs he, fun f s => ?_, fun f s => ⟨?_, ?_, ?_, ⟨s, rfl, rfl⟩⟩⟩
  · obtain ⟨t, fetch, hexec, hsend, hlen⟩ := s.hatom_sends f
    obtain ⟨h, hatoms, htag, hop, hpairs, hfetch⟩ := hsend.hatom
    exact ⟨t, hexec, h, hatoms, htag, hop, hpairs, by rw [hfetch, hpairs, hlen]⟩
  · obtain ⟨t, v, hexec, hstep⟩ := s.ldr_step f
    refine ⟨t, hexec, hstep.frame.mono fun due d hd => ?_⟩
    obtain hd | hd := List.mem_cons.mp hd
    · obtain ⟨rfl, rfl⟩ := Prod.mk.inj hd
      exact ⟨rfl, .inl ⟨v, rfl⟩⟩
    · obtain ⟨rfl, rfl⟩ := eq_of_mem_rankWrites hd
      exact ⟨rfl, .inr ⟨v, rfl⟩⟩
  · obtain ⟨t, base, v, hexec, hstep⟩ := s.str_step f
    exact ⟨t, hexec, hstep.frame.mono fun due d hd => State.mem_bankStores hd⟩
  · obtain ⟨t, base, v, w, hexec, hstep⟩ := s.rmw_step f
    refine ⟨t, hexec, hstep.frame.mono fun due d hd => ?_⟩
    obtain hd | hd := List.mem_append.mp hd
    · obtain ⟨hdue, hbank⟩ := State.mem_bankStores hd
      exact ⟨hdue, .inl hbank⟩
    · obtain ⟨rfl, rfl⟩ := eq_of_mem_rankWrites hd
      exact ⟨rfl, .inr ⟨w, rfl⟩⟩

end Sys2Proof.Machine
end

section
/-!
SUPPORT for O53. What the services of a held boundary leave: entries that are posted, records that are traced, lookups that are made again, and
holds that begin and end.
-/
namespace Sys2Proof.Machine

/-! ### Posting and tracing -/

/-- A hub without its vectors and steward events. -/
def Hub.kept (h : Hub) : Hub := { h with msix := 0, events := [] }

/-- A partition without its page-fault entries and its trace. -/
def Part.kept (q : Part) : Part := { q with pf := [], pfSeq := 0, traceAt := 0, traceBy := [], traceDropped := 0 }

/-- Entries are posted, records are traced and events are raised: beside HBM nothing else changes but the contexts of `P`. -/
structure State.Posts (P : Nat → Prop) (s t : State) : Prop where
  cores : t.cores = s.cores
  ctx : ∀ k, ¬P k → t.ctx k = s.ctx k
  hw : t.hw = s.hw
  inputs : t.inputs = s.inputs
  hub : t.hub.kept = s.hub.kept
  part : ∀ p, (t.part p).kept = (s.part p).kept

section
variable {P : Nat → Prop}

theorem State.Posts.refl (s : State) : State.Posts P s s := ⟨rfl, fun _ _ => rfl, rfl, rfl, rfl, fun _ => rfl⟩

theorem State.Posts.trans {s t u : State} (h : State.Posts P s t) (k : State.Posts P t u) : State.Posts P s u where
  cores := k.cores.trans h.cores
  ctx c hc := (k.ctx c hc).trans (h.ctx c hc)
  hw := k.hw.trans h.hw
  inputs := k.inputs.trans h.inputs
  hub := k.hub.trans h.hub
  part p := (k.part p).trans (h.part p)

theorem State.Posts.foldl {α : Type} {f : State → α → State} (h : ∀ s a, State.Posts P s (f s a)) (l : List α) (s : State) :
    State.Posts P s (l.foldl f s) := by
  induction l generalizing s with
  | nil => exact .refl s
  | cons a r ih => exact (h s a).trans (ih _)

theorem State.Posts.onPart (s : State) (p : Nat) {f : Part → Part} (h : ∀ q, (f q).kept = q.kept) : State.Posts P s (s.onPart p f) := by
  refine ⟨rfl, fun _ _ => rfl, rfl, rfl, rfl, fun k => ?_⟩
  rw [State.part_onPart]
  split
  · next e => rw [h, e]
  · rfl

theorem State.Posts.onHub (s : State) {f : Hub → Hub} (h : ∀ e, (f e).kept = e.kept) : State.Posts P s (s.onHub f) :=
  ⟨rfl, fun _ _ => rfl, rfl, rfl, h _, fun _ => rfl⟩

theorem State.Posts.hbmWrite (s : State) (pa : Nat) (bs : List Byte) : State.Posts P s (s.hbmWrite pa bs) :=
  ⟨rfl, fun _ _ => rfl, rfl, rfl, rfl, fun _ => rfl⟩

theorem State.Posts.setCtx (s : State) (cid : Nat) (c : Context) : State.Posts (· = cid) s (s.setCtx cid c) :=
  ⟨rfl, fun k hk => by rw [State.ctx_setCtx, if_neg hk], rfl, rfl, rfl, fun _ => rfl⟩

theorem State.Posts.traceInsert (s : State) (p own acc : Nat) (key : List Nat) (bytes : List Byte) :
    State.Posts P s (s.traceInsert p own acc key bytes) := by
  unfold State.traceInsert
  exact (State.Posts.hbmWrite s _ _).trans (.onPart _ p fun _ => rfl)

theorem State.Posts.trace (s : State) (cid die kind addr acc : Nat) (slice : Option Nat) (data : Nat) :
    State.Posts P s (s.trace cid die kind addr acc slice data) := by
  unfold State.trace
  dsimp only
  split
  · split
    · exact .traceInsert s _ _ _ _ _
    · exact .onPart s _ fun _ => rfl
  · exact .refl s

theorem State.Posts.steward (s : State) (kind arg : Nat) : State.Posts P s (s.steward kind arg) := .onHub s fun _ => rfl

theorem State.Posts.postEntry (s : State) (p : Nat) (e : FaultEntry) : State.Posts P s (s.postEntry p e).2 := by
  unfold State.postEntry
  extract_lets base tail head s1 vec
  split
  · exact .refl s
  · have h1 : State.Posts P s s1 := (State.Posts.hbmWrite s _ _).trans (.hbmWrite _ _ _)
    dsimp only
    split
    · exact h1.trans (.onHub _ fun _ => rfl)
    · exact h1

theorem State.Posts.postEntries (p : Nat) (l : List FaultEntry) (s : State) : State.Posts P s (s.postEntries p l).2 := by
  induction l generalizing s with
  | nil => exact .refl s
  | cons e r ih => exact (State.Posts.postEntry s p e).trans (ih _)

theorem State.Posts.flushFaults (s : State) (p : Nat) : State.Posts P s (s.flushFaults p) := by
  unfold State.flushFaults
  exact (State.Posts.postEntries p _ s).trans (.onPart _ p fun _ => rfl)

theorem State.Posts.queueFault (s : State) (p va kind die h perm acc : Nat) : State.Posts P s (s.queueFault p va kind die h perm acc).2 := by
  unfold State.queueFault
  extract_lets seq s1
  have h1 : State.Posts P s s1 := .onPart s p fun _ => rfl
  exact h1.trans (.flushFaults s1 p)

theorem State.Posts.postHold (s : State) (cid : Nat) (h : Hold) : State.Posts P s (s.postHold cid h).2 := by
  unfold State.postHold
  split
  · exact .queueFault s _ _ _ _ _ _ _
  · exact .refl s

theorem State.Posts.postHolds (cid : Nat) (l : List Hold) (s : State) : State.Posts P s (s.postHolds cid l).2 := by
  induction l generalizing s with
  | nil => exact .refl s
  | cons h r ih => exact (State.Posts.postHold s cid h).trans (ih _)

end

/-! ### How holds begin -/

/-- A hold that begins is the one asked for, but that a fault hold takes the number of its entry. -/
def Hold.Begun (h g : Hold) : Prop := g.kind = h.kind ∧ g.die = h.die ∧ match h.on with
  | .fault va perm n why _ _ => ∃ q, g.on = .fault va perm n why q false
  | _ => g.on = h.on

theorem State.postHold_begun (s : State) (cid : Nat) (h : Hold) : h.Begun (s.postHold cid h).1 := by
  obtain ⟨kind, die, on⟩ := h
  cases on with
  | fault va perm n why seq answered => exact ⟨rfl, rfl, _, rfl⟩
  | _ => exact ⟨rfl, rfl, rfl⟩

theorem State.postHolds_begun (cid : Nat) (l : List Hold) (s : State) : List.Forall₂ Hold.Begun l (s.postHolds cid l).1 := by
  induction l generalizing s with
  | nil => exact .nil
  | cons h r ih => exact .cons (s.postHold_begun cid h) (ih _)

/-- The order of a sort is one of the list's orders. -/
theorem sortBy_perm {α : Type} (lt : α → α → Bool) (l : List α) : (sortBy lt l).Perm l := by
  have hinsert : ∀ (a : α) (l : List α), (sortBy.insertStable lt a l).Perm (a :: l) := by
    intro a l
    induction l with
    | nil => exact .refl _
    | cons b r ih =>
      unfold sortBy.insertStable
      split
      · exact (ih.cons b).trans (.swap a b r)
      · exact .refl _
  induction l with
  | nil => exact .refl _
  | cons a r ih => exact (hinsert a _).trans (ih.cons a)

/-- The context under holds that begin, of which `first` counts for HOLDR. -/
def Context.underHolds (c : Context) (wac acc : Nat) (l : List Hold) (first : Hold) : Context :=
  { c with
    holds := c.holds ++ l
    state := if c.state = .parked ∨ c.state = .saved ∨ c.state = .restoring then c.state else heldState (c.holds ++ l)
    kernel := if c.kernel = .running then .held else c.kernel
    begun := if c.state = .running then wac else c.begun
    holdr := dw (packLe [(4, first.kind), (3, holdDie c.p first), (9, 0), (48, acc)]) }

/-- What beginning holds does: their entries are posted, and the context stands under them. -/
theorem State.beginHolds_spec (s : State) (cid : Nat) (hs : List Hold) (hne : hs ≠ []) : ∃ l first, List.Forall₂ Hold.Begun (sortBy (fun a b => decide (a.die < b.die)) hs) l
    ∧ (sortBy holdBefore hs).head? = some first ∧ State.Posts (· = cid) s (s.beginHolds cid hs)
    ∧ (s.beginHolds cid hs).ctx cid = (s.ctx cid).underHolds s.hub.wac.toNat (s.core cid).acc.toNat l first := by
  unfold State.beginHolds
  split
  · next he =>
    have := (sortBy_perm holdBefore hs).length_eq
    rw [he] at this
    exact (hne (List.length_eq_zero_iff.mp this.symm)).elim
  · next first r he =>
    have hp : State.Posts (fun _ => False) s (s.postHolds cid (sortBy (fun a b => decide (a.die < b.die)) hs)).2 := .postHolds cid _ s
    have hp' : State.Posts (· = cid) s (s.postHolds cid (sortBy (fun a b => decide (a.die < b.die)) hs)).2 := .postHolds cid _ s
    have hb := State.postHolds_begun cid (sortBy (fun a b => decide (a.die < b.die)) hs) s
    generalize s.postHolds cid (sortBy (fun a b => decide (a.die < b.die)) hs) = e at hp hp' hb ⊢
    obtain ⟨l, s1⟩ := e
    dsimp -zeta only
    extract_lets acc c s2
    have htrace (P : Nat → Prop) : State.Posts P s2 (l.foldl (fun st x => st.trace cid x.die 3 ((st.core cid).nextAddr x.die) acc none x.kind) s2) := by
      refine State.Posts.foldl (fun st x => ?_) l s2
      exact .trace st cid x.die 3 _ acc none x.kind
    have h2 : State.Posts (· = cid) s1 s2 := .setCtx s1 cid _
    have h3 := (hp'.trans h2).trans (htrace (· = cid))
    refine ⟨l, first, hb, by rw [he, List.head?_cons], h3, ?_⟩
    rw [(htrace fun _ => False).ctx cid not_false]
    unfold s2 c
    rw [State.ctx_setCtx, if_pos rfl, hp.ctx cid not_false]
    rfl

theorem State.beginHolds_posts (s : State) (cid : Nat) (hs : List Hold) : State.Posts (· = cid) s (s.beginHolds cid hs) := by
  by_cases hne : hs = []
  · rw [hne]
    exact .refl s
  · obtain ⟨-, -, -, -, h, -⟩ := s.beginHolds_spec cid hs hne
    exact h

/-- The holds of a context after holds begin: those before, and those that begin. -/
theorem State.mem_beginHolds {s : State} {cid : Nat} {hs : List Hold} {g : Hold} (h : g ∈ ((s.beginHolds cid hs).ctx cid).holds) :
    g ∈ (s.ctx cid).holds ∨ ∃ a ∈ hs, a.Begun g := by
  by_cases hne : hs = []
  · rw [hne] at h
    exact .inl h
  · obtain ⟨l, first, hb, -, -, hctx⟩ := s.beginHolds_spec cid hs hne
    rw [hctx] at h
    refine (List.mem_append.mp h).imp id fun hl => ?_
    obtain ⟨a, ha, hr⟩ := exists_of_forall₂_mem hb hl
    exact ⟨a, (mem_sortBy _ _ _).mp ha, hr⟩

/-- Each hold that begins stands. -/
theorem State.exists_mem_beginHolds {s : State} {cid : Nat} {hs : List Hold} {a : Hold} (ha : a ∈ hs) :
    ∃ g ∈ ((s.beginHolds cid hs).ctx cid).holds, a.Begun g := by
  obtain ⟨l, first, hb, -, -, hctx⟩ := s.beginHolds_spec cid hs (List.ne_nil_of_mem ha)
  obtain ⟨g, hg, hr⟩ := exists_of_forall₂_mem hb.flip ((mem_sortBy _ _ _).mpr ha)
  exact ⟨g, by rw [hctx]; exact List.mem_append_right _ hg, hr⟩

end Sys2Proof.Machine
end

section
/-!
SUPPORT for O53. The lookups and the holds of a boundary: what they find, and what they leave of the context that stands there.
-/
namespace Sys2Proof.Machine

/-- A value that does not depend on what is left out is the same where the rest is. -/
theorem eq_of_kept {α γ : Type} (k : α → α) (f : α → γ) (hf : ∀ x, f (k x) = f x) {a b : α} (h : k a = k b) : f a = f b := by
  rw [← hf, h, hf]

/-- A core without its dies. -/
def Core.sansDies (c : Core) : Core := { c with dies := [] }

theorem State.core_of_cores {s t : State} (h : t.cores = s.cores) (k : Nat) : t.core k = s.core k := by rw [State.core, h]; rfl

theorem State.ctx_of_ctxs {s t : State} (h : t.ctxs = s.ctxs) (k : Nat) : t.ctx k = s.ctx k := by rw [State.ctx, h]; rfl

/-! ### Lookups -/

theorem State.Stands.refl (s : State) (cid : Nat) : s.Stands s cid := ⟨rfl, fun _ => rfl⟩

theorem State.Stands.trans {s t u : State} {cid : Nat} (h : s.Stands t cid) (k : t.Stands u cid) : s.Stands u cid :=
  ⟨k.1.trans h.1, fun d => (k.2 d).trans (h.2 d)⟩

theorem State.Stands.of_core {s t : State} {cid : Nat} (h : t.core cid = s.core cid) : s.Stands t cid := by
  unfold State.Stands
  rw [h]
  exact ⟨rfl, fun _ => rfl⟩

/-- Lookups: TLBs change their order, and a die goes on behind the END of a loop of no passes; nothing else changes. -/
structure State.Looks (cid : Nat) (s t : State) : Prop where
  stands : s.Stands t cid
  others : ∀ k, k ≠ cid → t.core k = s.core k
  ctxs : t.ctxs = s.ctxs
  inputs : t.inputs = s.inputs
  hub : t.hub = s.hub
  parts : t.parts = s.parts
  hbm : t.hbm = s.hbm
  icache : ∀ d, (t.dieHw d).icache = (s.dieHw d).icache

section
variable {cid : Nat}

theorem State.Looks.refl (s : State) : State.Looks cid s s := ⟨.refl s cid, fun _ _ => rfl, rfl, rfl, rfl, rfl, rfl, fun _ => rfl⟩

theorem State.Looks.trans {s t u : State} (h : State.Looks cid s t) (k : State.Looks cid t u) : State.Looks cid s u where
  stands := h.stands.trans k.stands
  others c hc := (k.others c hc).trans (h.others c hc)
  ctxs := k.ctxs.trans h.ctxs
  inputs := k.inputs.trans h.inputs
  hub := k.hub.trans h.hub
  parts := k.parts.trans h.parts
  hbm := k.hbm.trans h.hbm
  icache d := (k.icache d).trans (h.icache d)

theorem State.Looks.onHw (s : State) (d : Nat) {f : DieHw → DieHw} (h : ∀ e, (f e).icache = e.icache) : State.Looks cid s (s.onHw d f) := by
  refine ⟨.of_core rfl, fun _ _ => rfl, rfl, rfl, rfl, rfl, rfl, fun k => ?_⟩
  rw [State.dieHw_onHw]
  split
  · next e => rw [h, e]
  · rfl

theorem State.Looks.pinPage (s : State) (c d va : Nat) : State.Looks cid s (s.pinPage c d va) := by
  unfold State.pinPage
  dsimp only
  split
  · exact .onHw s d fun _ => rfl
  · exact .refl s

theorem State.Looks.lookupData (s : State) (d asn va : Nat) : State.Looks cid s (s.lookupData d asn va).2 := by
  unfold State.lookupData
  dsimp only
  split
  · dsimp only
    exact .onHw s d fun _ => rfl
  · split
    · dsimp only
      exact .onHw s d fun _ => rfl
    · exact .refl s

theorem State.Looks.lookupFetch (s : State) (c d va : Nat) : State.Looks cid s (s.lookupFetch c d va).2 := by
  unfold State.lookupFetch
  dsimp only
  split
  · exact .refl s
  · split
    · dsimp only
      refine State.Looks.trans ?_ (.pinPage _ c d va)
      exact .onHw s d fun _ => rfl
    · exact .refl s

/-- The hold that a lookup asks for: a walk, or a fault hold. -/
theorem leafHold_kind {d va perm : Nat} {n : Option Nat} {leaf : BitVec 64} {a : Hold} (h : leafHold d va perm n leaf = some a) :
    a.kind = 8 := by
  unfold leafHold at h
  split at h
  · cases h; rfl
  · split at h
    · cases h
    · cases h; rfl

theorem State.Looks.lookAgain (s : State) (c d va perm : Nat) (n : Option Nat) : State.Looks cid s (s.lookAgain c d va perm n).2 := by
  have h : State.Looks cid s (if n.isSome then s.lookupData d (s.ctx c).asn va else s.lookupFetch c d va).2 := by
    split
    · exact .lookupData s _ _ _
    · exact .lookupFetch s _ _ _
  unfold State.lookAgain
  split
  next hit s1 he =>
    rw [he] at h
    split
    · exact h
    · exact h

theorem State.lookAgain_kind {s : State} {c d va perm : Nat} {n : Option Nat} {a : Hold} (h : (s.lookAgain c d va perm n).1 = some a) :
    a.kind = 8 ∨ a.kind = 1 := by
  unfold State.lookAgain at h
  split at h
  split at h
  · exact .inl (leafHold_kind h)
  · cases h
    exact .inr rfl

/-- A hold that a fetch may ask for: a walk, a fault hold, or a line that is not there. -/
def State.Fetching (s : State) (cid : Nat) (a : Hold) : Prop :=
  a.kind = 8 ∨ a.kind = 1 ∨ ∃ d line, a = ⟨2, d, .imiss [line]⟩ ∧ ((s.ctx cid).asn, line) ∉ (s.dieHw d).icache

theorem State.Looks.fetching {s t : State} (h : State.Looks cid s t) {a : Hold} (k : t.Fetching cid a) : s.Fetching cid a := by
  unfold State.Fetching State.ctx at k
  simp only [h.ctxs, h.icache] at k
  exact k

/-- A lookup for a fetch: what it leaves, and the hold that it asks for. -/
structure State.Finds (cid : Nat) (s : State) (r : Option Hold × State) : Prop where
  looks : State.Looks cid s r.2
  hold : ∀ a, r.1 = some a → s.Fetching cid a

theorem State.Finds.after {s t : State} {r : Option Hold × State} (h : State.Looks cid s t) (k : State.Finds cid t r) : State.Finds cid s r :=
  ⟨h.trans k.looks, fun a ha => h.fetching (k.hold a ha)⟩

theorem State.Finds.none {s t : State} (h : State.Looks cid s t) : State.Finds cid s (none, t) := ⟨h, fun _ ha => by cases ha⟩

theorem State.Finds.lineHold (s : State) (d line : Nat) : State.Finds cid s (s.lineHold cid d line) := by
  have h : State.Looks cid s (s.lookAgain cid d (64 * line) 4 Option.none).2 := .lookAgain s _ _ _ _ _
  unfold State.lineHold
  split
  · next a s1 he =>
    rw [he] at h
    refine ⟨h, fun b hb => ?_⟩
    cases hb
    have hk := State.lookAgain_kind (congrArg Prod.fst he)
    exact hk.imp id .inl
  · next s1 he =>
    rw [he] at h
    refine ⟨h, fun b hb => ?_⟩
    dsimp only at hb h
    split at hb
    · cases hb
    · next hc =>
      cases hb
      refine h.fetching (.inr (.inr ⟨d, line, rfl, ?_⟩))
      have hasn : s1.ctx cid = s.ctx cid := by rw [State.ctx_of_ctxs h.ctxs]
      rw [hasn]
      simpa using hc

theorem State.Finds.rangeHold (s : State) (d va n : Nat) : State.Finds cid s (s.rangeHold cid d va n) := by
  have h := State.Finds.lineHold (cid := cid) s d (va / 64)
  unfold State.rangeHold
  split
  · next he => rwa [he] at h
  · next s1 he =>
    rw [he] at h
    split
    · exact .none h.looks
    · exact .after h.looks (.lineHold s1 d _)

theorem State.Looks.passEnd (s : State) (d stop : Nat) : State.Looks cid s (s.passEnd cid d stop) := by
  refine ⟨⟨?_, fun k => ?_⟩, fun k hk => ?_, rfl, rfl, rfl, rfl, rfl, fun _ => rfl⟩
  · unfold State.passEnd
    dsimp only
    rw [State.core_setCore, if_pos rfl]
    rfl
  · unfold State.passEnd
    dsimp only
    rw [State.core_setCore, if_pos rfl, Core.die_onDie]
    split
    · next e => rw [e]
    · rfl
  · unfold State.passEnd
    dsimp only
    rw [State.core_setCore, if_neg hk]

theorem State.Finds.probeEnd (s : State) (d : Nat) : State.Finds cid s (s.probeEnd cid d) := by
  unfold State.probeEnd
  split
  · exact .none (.refl s)
  · next stop _ =>
    have h := State.Finds.lineHold (cid := cid) s d (stop / 64)
    split
    · next he => rwa [he] at h
    · next s1 he =>
      rw [he] at h
      exact .none (h.looks.trans (.passEnd s1 d stop))

theorem State.Finds.fetchHold (s : State) (d : Nat) : State.Finds cid s (s.fetchHold cid d) := by
  unfold State.fetchHold
  split
  · exact .none (.refl s)
  · have h := State.Finds.probeEnd (cid := cid) s d
    split
    · next he => rwa [he] at h
    · next s1 he =>
      rw [he] at h
      split
      · exact .none h.looks
      · next a _ =>
        have h2 := State.Finds.rangeHold (cid := cid) s1 d a 8
        split
        · next he2 =>
          rw [he2] at h2
          exact .after h.looks h2
        · next s2 he2 =>
          rw [he2] at h2
          exact .after h.looks (.after h2.looks (.rangeHold s2 d a _))

theorem State.fetchHolds_looks (l : List Nat) (s : State) : State.Looks cid s (s.fetchHolds cid l).2
    ∧ ∀ a ∈ (s.fetchHolds cid l).1, s.Fetching cid a := by
  induction l generalizing s with
  | nil => exact ⟨.refl s, fun a ha => (List.not_mem_nil ha).elim⟩
  | cons d r ih =>
    obtain ⟨hl, hh⟩ := State.Finds.fetchHold (cid := cid) s d
    obtain ⟨il, ih⟩ := ih (s.fetchHold cid d).2
    refine ⟨hl.trans il, fun a ha => ?_⟩
    obtain ha | ha := List.mem_append.mp ha
    · exact hh a (Option.mem_toList.mp ha)
    · exact hl.fetching (ih a ha)

end

/-! ### The holds of a cycle -/

/-- What a late landing depends on, of a core: all but its dies. -/
theorem State.lateNow_congr {s t : State} {cid : Nat} (hs : s.Stands t cid) (hi : t.inputs = s.inputs) (hh : t.hub.kept = s.hub.kept) :
    t.lateNow cid = s.lateNow cid ∧ t.homeFull cid = s.homeFull cid := by
  have hc : (t.core cid).sansDies = (s.core cid).sansDies := hs.1
  have hhnd : (t.core cid).handler = (s.core cid).handler := eq_of_kept Core.sansDies Core.handler (fun _ => rfl) hc
  have hacc : (t.core cid).acc = (s.core cid).acc := eq_of_kept Core.sansDies Core.acc (fun _ => rfl) hc
  have htasks : (t.core cid).tasks = (s.core cid).tasks := eq_of_kept Core.sansDies Core.tasks (fun _ => rfl) hc
  have howed : (t.core cid).owed = (s.core cid).owed := eq_of_kept Core.sansDies Core.owed (fun _ => rfl) hc
  have hfl : (t.core cid).flights = (s.core cid).flights := eq_of_kept Core.sansDies Core.flights (fun _ => rfl) hc
  have hat : (t.core cid).hatoms = (s.core cid).hatoms := eq_of_kept Core.sansDies Core.hatoms (fun _ => rfl) hc
  have hbad : t.hub.badWords = s.hub.badWords := eq_of_kept Hub.kept Hub.badWords (fun _ => rfl) hh
  have hhomes : t.hub.homes = s.hub.homes := eq_of_kept Hub.kept Hub.homes (fun _ => rfl) hh
  have hknows : t.hub.knows = s.hub.knows := by
    have h1 : t.hub.performed = s.hub.performed := eq_of_kept Hub.kept Hub.performed (fun _ => rfl) hh
    have h2 : t.hub.hatoms = s.hub.hatoms := eq_of_kept Hub.kept Hub.hatoms (fun _ => rfl) hh
    funext tag
    unfold Hub.knows
    rw [h1, h2]
  have hpark : t.parkingNow cid = s.parkingNow cid := by
    unfold State.parkingNow
    dsimp only
    rw [hhnd, hat, hacc, hbad, hknows]
  have hfull : t.homeFull cid = s.homeFull cid := by
    unfold State.homeFull
    rw [hpark, hhomes]
  refine ⟨?_, hfull⟩
  simp only [State.lateNow, hfull, hhnd, hacc, hi, Core.landings, htasks, howed, Core.fetched, hfl]

/-- What the cycle about to run may need: a breakpoint, a fetch, a late landing, energy. -/
theorem State.cycleHolds_spec (s : State) (cid : Nat) : State.Looks cid s (s.cycleHolds cid).2
    ∧ ∀ a ∈ (s.cycleHolds cid).1, a.kind = 10 ∨ a.kind = 7 ∨ (a.kind = 3 ∧ s.lateNow cid ≠ none) ∨ s.Fetching cid a := by
  obtain ⟨hl, hh⟩ := State.fetchHolds_looks (cid := cid) (s.diesOf (s.ctx cid).p) s
  have hlate := (State.lateNow_congr hl.stands hl.inputs (congrArg Hub.kept hl.hub)).1
  unfold State.cycleHolds
  dsimp only
  refine ⟨hl, fun a ha => ?_⟩
  simp only [List.append_assoc, List.mem_append] at ha
  obtain ha | ha | ha | ha := ha
  · obtain ⟨d, -, rfl⟩ := List.mem_map.mp ha
    exact .inl rfl
  · exact .inr (.inr (.inr (hh a ha)))
  · rw [Option.mem_toList, Option.map_eq_some_iff] at ha
    obtain ⟨d, hd, rfl⟩ := ha
    rw [hlate] at hd
    exact .inr (.inr (.inl ⟨rfl, by rw [hd]; exact Option.some_ne_none d⟩))
  · split at ha
    · rw [List.mem_singleton.mp ha]
      exact .inr (.inl rfl)
    · exact (List.not_mem_nil ha).elim

theorem State.formHold_kind {s : State} {cid : Nat} {r : HoldReq} {a : Hold} (h : s.formHold cid r = some a) : a.kind = 8 := by
  unfold State.formHold at h
  dsimp only at h
  have hlook : ∀ va perm n, (match s.walk (s.ctx cid).ptbase va with
      | .leaf leaf _ _ => leafHold r.hold.die va perm (some n) leaf
      | .notMapped => some ⟨8, r.hold.die, .fault va perm (some n) 1 0 false⟩
      | .malformed => some ⟨8, r.hold.die, .fault va perm (some n) 7 0 false⟩) = some a → a.kind = 8 := by
    intro va perm n h
    split at h
    · exact leafHold_kind h
    · cases h; rfl
    · cases h; rfl
  split at h
  · exact hlook _ _ _ h
  · exact hlook _ _ _ h
  · exact hlook _ _ _ h
  · cases h

/-! ### How holds end (R25) -/

/-- What names a context, without its state under holds. -/
def Context.kept (c : Context) : Context := { c with state := .empty, kernel := .staged, holds := [], begun := 0, holdr := 0, holdcnt := 0 }

/-- A held boundary is served: the context that stands there stands, and beside it, HBM and the translations only entries, records and events
change. -/
structure State.Rests (cid : Nat) (s t : State) : Prop where
  stands : s.Stands t cid
  others : ∀ k, k ≠ cid → t.core k = s.core k
  ctx : (t.ctx cid).kept = (s.ctx cid).kept
  inputs : t.inputs = s.inputs
  hub : t.hub.kept = s.hub.kept
  part : ∀ p, (t.part p).kept = (s.part p).kept
  icache : ∀ d, (t.dieHw d).icache = (s.dieHw d).icache

section
variable {cid : Nat}

theorem State.Rests.refl (s : State) : State.Rests cid s s := ⟨.refl s cid, fun _ _ => rfl, rfl, rfl, rfl, fun _ => rfl, fun _ => rfl⟩

theorem State.Rests.trans {s t u : State} (h : State.Rests cid s t) (k : State.Rests cid t u) : State.Rests cid s u where
  stands := h.stands.trans k.stands
  others c hc := (k.others c hc).trans (h.others c hc)
  ctx := k.ctx.trans h.ctx
  inputs := k.inputs.trans h.inputs
  hub := k.hub.trans h.hub
  part p := (k.part p).trans (h.part p)
  icache d := (k.icache d).trans (h.icache d)

theorem State.Looks.rests {s t : State} (h : State.Looks cid s t) : State.Rests cid s t where
  stands := h.stands
  others := h.others
  ctx := by rw [State.ctx_of_ctxs h.ctxs]
  inputs := h.inputs
  hub := by rw [h.hub]
  part p := by rw [State.part, h.parts]; rfl
  icache := h.icache

theorem State.Posts.rests {s t : State} (h : State.Posts (· = cid) s t) (hctx : (t.ctx cid).kept = (s.ctx cid).kept) : State.Rests cid s t where
  stands := .of_core (State.core_of_cores h.cores cid)
  others k _ := State.core_of_cores h.cores k
  ctx := hctx
  inputs := h.inputs
  hub := h.hub
  part := h.part
  icache d := congrArg (fun m => (SMap.get ({} : DieHw) m d).icache) h.hw

/-- A context that stands at every boundary that is served. -/
theorem State.Rests.stands_all {s t : State} (h : State.Rests cid s t) (k : Nat) : s.Stands t k := by
  by_cases hk : k = cid
  · exact hk ▸ h.stands
  · exact .of_core (h.others k hk)

theorem State.Rests.fetching {s t : State} (h : State.Rests cid s t) {a : Hold} (k : t.Fetching cid a) : s.Fetching cid a := by
  have hasn : (t.ctx cid).asn = (s.ctx cid).asn := eq_of_kept Context.kept Context.asn (fun _ => rfl) h.ctx
  unfold State.Fetching at k
  simp only [hasn, h.icache] at k
  exact k

theorem State.beginHolds_rests (s : State) (hs : List Hold) : State.Rests cid s (s.beginHolds cid hs) := by
  by_cases hne : hs = []
  · rw [hne]
    exact .refl s
  · obtain ⟨l, first, -, -, hp, hctx⟩ := s.beginHolds_spec cid hs hne
    exact hp.rests (by rw [hctx]; rfl)

theorem State.dropHolds_spec (s : State) (ends : Hold → Bool) : State.Posts (· = cid) s (s.dropHolds cid ends)
    ∧ ((s.dropHolds cid ends).ctx cid).kept = (s.ctx cid).kept
    ∧ ((s.dropHolds cid ends).ctx cid).holds = (s.ctx cid).holds.filter (fun h => !ends h) := by
  unfold State.dropHolds
  extract_lets c gone rest st
  split
  · next hg =>
    refine ⟨.refl s, rfl, (List.filter_eq_self.mpr fun a ha => ?_).symm⟩
    have hnil : gone = [] := List.isEmpty_iff.mp hg
    simpa using List.filter_eq_nil_iff.mp hnil a ha
  · have htrace (P : Nat → Prop) (u : State) : State.Posts P u (gone.foldl (fun st h =>
        st.trace cid h.die 4 ((st.core cid).nextAddr h.die) (st.core cid).acc.toNat none h.kind) u) := by
      refine State.Posts.foldl (fun st h => ?_) gone u
      exact .trace st cid h.die 4 _ _ none h.kind
    refine ⟨(State.Posts.setCtx s cid _).trans (htrace _ _), ?_, ?_⟩
    · rw [(htrace (fun _ => False) _).ctx cid not_false, State.ctx_setCtx, if_pos rfl]
      rfl
    · rw [(htrace (fun _ => False) _).ctx cid not_false, State.ctx_setCtx, if_pos rfl]

theorem State.dropHolds_rests (s : State) (ends : Hold → Bool) : State.Rests cid s (s.dropHolds cid ends) := by
  obtain ⟨hp, hc, -⟩ := s.dropHolds_spec (cid := cid) ends
  exact hp.rests hc

theorem State.resume_rests (s : State) : State.Rests cid s (s.resume cid) := by
  refine State.Posts.rests (.setCtx s cid _) ?_
  rw [State.resume, State.ctx_onCtx, if_pos rfl]
  rfl

/-- A hold that stands once a boundary is released: one of those before, or one that the cycle or a result still needs. -/
def State.StillHeld (s : State) (cid : Nat) (g : Hold) : Prop :=
  g ∈ (s.ctx cid).holds ∨ ∃ a : Hold, a.Begun g ∧ (a.kind = 8 ∨ a.kind = 10 ∨ a.kind = 7 ∨ (a.kind = 3 ∧ s.lateNow cid ≠ none) ∨ s.Fetching cid a)

theorem State.release_spec (s : State) : State.Rests cid s (s.release cid) ∧ ∀ g ∈ ((s.release cid).ctx cid).holds, s.StillHeld cid g := by
  obtain ⟨hl, hh⟩ := s.cycleHolds_spec cid
  unfold State.release
  split
  · generalize s.cycleHolds cid = e at hl hh
    obtain ⟨cycle, s1⟩ := e
    have hctx : s1.ctx cid = s.ctx cid := State.ctx_of_ctxs hl.ctxs cid
    dsimp only at hl hh ⊢
    split
    · refine ⟨hl.rests.trans s1.resume_rests, fun g hg => .inl ?_⟩
      rwa [State.resume, State.ctx_onCtx, if_pos rfl, hctx] at hg
    · refine ⟨hl.rests.trans (s1.beginHolds_rests _), fun g hg => ?_⟩
      obtain hg | ⟨a, ha, hr⟩ := State.mem_beginHolds hg
      · exact .inl (hctx ▸ hg)
      · refine .inr ⟨a, hr, ?_⟩
        obtain ha | ha := List.mem_append.mp ha
        · obtain ⟨r, -, hr⟩ := List.mem_filterMap.mp ha
          exact .inl (State.formHold_kind hr)
        · exact .inr ((hh a ha).imp id id)
  · exact ⟨.refl s, fun g hg => .inl hg⟩

/-- When holds end, the context stands, and only holds that did not end, or that begin with the release, stand. -/
theorem State.endHolds_spec (s : State) (ends : Hold → Bool) : State.Rests cid s (s.endHolds cid ends)
    ∧ ∀ g ∈ ((s.endHolds cid ends).ctx cid).holds, (g ∈ (s.ctx cid).holds ∧ ends g = false)
      ∨ ∃ a : Hold, a.Begun g ∧ (a.kind = 8 ∨ a.kind = 10 ∨ a.kind = 7 ∨ (a.kind = 3 ∧ s.lateNow cid ≠ none) ∨ s.Fetching cid a) := by
  have hd : State.Rests cid s (s.dropHolds cid ends) := s.dropHolds_rests ends
  obtain ⟨hr, hh⟩ := (s.dropHolds cid ends).release_spec (cid := cid)
  have hlate := (State.lateNow_congr hd.stands hd.inputs hd.hub).1
  refine ⟨hd.trans hr, fun g hg => (hh g hg).imp (fun h => ?_) fun ⟨a, hb, h⟩ => ⟨a, hb, ?_⟩⟩
  · rw [(s.dropHolds_spec ends).2.2] at h
    simpa using List.mem_filter.mp h
  · rw [hlate] at h
    exact h.imp id (Or.imp id (Or.imp id (Or.imp id hd.fetching)))

theorem State.endHolds_rests (s : State) (ends : Hold → Bool) : State.Rests cid s (s.endHolds cid ends) := (s.endHolds_spec ends).1

theorem State.recheck_rests (s : State) : State.Rests cid s (s.recheck cid) := by
  unfold State.recheck
  split
  · exact s.endHolds_rests _
  · exact .refl s

theorem State.lookAll_looks (l : List Hold) (s : State) : State.Looks cid s (s.lookAll cid l).2 := by
  induction l generalizing s with
  | nil => exact .refl s
  | cons h r ih =>
    unfold State.lookAll
    split
    next l1 s1 he =>
      have h1 : State.Looks cid s s1 := by
        split at he
        · obtain rfl := (Prod.mk.inj he).2
          exact .lookAgain s _ _ _ _ _
        · obtain rfl := (Prod.mk.inj he).2
          exact .lookAgain s _ _ _ _ _
        · obtain rfl := (Prod.mk.inj he).2
          exact .refl s
      exact h1.trans (ih s1)

theorem State.lookAfter_rests (s : State) (ends : Hold → Bool) : State.Rests cid s (s.lookAfter cid ends) := by
  unfold State.lookAfter
  dsimp only
  split
  · exact .refl s
  · have hd := (s.dropHolds_rests (cid := cid) ends).trans (State.lookAll_looks (cid := cid) ((s.ctx cid).holds.filter ends) (s.dropHolds cid ends)).rests
    split
    · exact hd.trans (State.release_spec _).1
    · exact hd.trans (State.beginHolds_rests _ _)

end

end Sys2Proof.Machine
end

section
/-!
SUPPORT for O53. How holds are recorded, and the services that end a hold of a line, a landing, an ALIGN or the energy allowance.
-/
namespace Sys2Proof.Machine

/-! ### The record of holds that begin (R27, R244) -/

theorem heldState_eq {hs : List Hold} (h : hs ≠ []) : heldState hs =
    if 9 ∈ hs.map Hold.kind then .parked else if 8 ∈ hs.map Hold.kind ∨ 10 ∈ hs.map Hold.kind then .frozen else .held := by
  have hany : ∀ n, (hs.any fun h => h.kind == n) = true ↔ n ∈ hs.map Hold.kind := fun n => by simp [List.any_eq_true, List.mem_map]
  have hor : (hs.any fun h => h.kind == 8 || h.kind == 10) = true ↔ 8 ∈ hs.map Hold.kind ∨ 10 ∈ hs.map Hold.kind := by
    simp only [List.any_eq_true, List.mem_map, Bool.or_eq_true, beq_iff_eq, and_or_left, exists_or]
  unfold heldState
  rw [if_neg (by simpa using h)]
  simp only [hany, hor]

/-- The hold that counts for HOLDR has the lowest kind of those that begin. -/
theorem head_sortBy_holdBefore {hs : List Hold} {first : Hold} (h : (sortBy holdBefore hs).head? = some first) :
    first ∈ hs ∧ ∀ a ∈ hs, first.kind ≤ a.kind := by
  refine ⟨(mem_sortBy _ _ _).mp (List.mem_of_head? h), ?_⟩
  induction hs generalizing first with
  | nil => exact fun a ha => (List.not_mem_nil ha).elim
  | cons x r ih =>
    change (sortBy.insertStable holdBefore x (sortBy holdBefore r)).head? = some first at h
    cases he : sortBy holdBefore r with
    | nil =>
      have hr : r = [] := List.length_eq_zero_iff.mp (by rw [← (sortBy_perm holdBefore r).length_eq, he]; rfl)
      rw [he] at h
      cases h
      intro a ha
      rw [hr, List.mem_singleton] at ha
      rw [ha]
    | cons b bs =>
      have hb := ih (first := b) (by rw [he]; rfl)
      rw [he] at h
      unfold sortBy.insertStable at h
      split at h
      · next hlt =>
        obtain rfl : b = first := Option.some.inj h
        have hbx : b.kind ≤ x.kind := by
          simp only [holdBefore, Bool.or_eq_true, decide_eq_true_eq, Bool.and_eq_true, beq_iff_eq] at hlt
          omega
        intro a ha
        obtain rfl | ha := List.mem_cons.mp ha
        · exact hbx
        · exact hb a ha
      · next hlt =>
        obtain rfl : x = first := Option.some.inj h
        have hxb : x.kind ≤ b.kind := by
          simp only [holdBefore, Bool.or_eq_true, decide_eq_true_eq, Bool.and_eq_true, beq_iff_eq] at hlt
          omega
        intro a ha
        obtain rfl | ha := List.mem_cons.mp ha
        · exact le_rfl
        · exact hxb.trans (hb a ha)

/-- The fields of HOLDR (R27). -/
theorem toNat_holdr (kind die acc : Nat) : let v := (dw (packLe [(4, kind), (3, die), (9, 0), (48, acc)])).toNat
    v % 16 = kind % 16 ∧ v / 16 % 8 = die % 8 ∧ v / 2 ^ 16 = acc % 2 ^ 48 := by
  intro v
  have hv : v = kind % 16 + 16 * (die % 8) + 65536 * (acc % 2 ^ 48) := by
    simp only [v, dw, packLe, BitVec.toNat_ofNat, Nat.shiftLeft_eq]
    omega
  rw [hv]
  omega

theorem Hold.Begun.kinds {hs l : List Hold} (h : List.Forall₂ Hold.Begun hs l) :
    l.map (fun h => (h.kind, h.die)) = hs.map fun h => (h.kind, h.die) := by
  induction h with
  | nil => rfl
  | cons hr _ ih =>
    obtain ⟨hk, hd, -⟩ := hr
    simp only [List.map_cons, ih, hk, hd]

/-- Holds that begin stand recorded: the context under them, and HOLDR. -/
theorem State.beginHolds_recorded (s : State) (cid : Nat) {hs : List Hold} (hne : hs ≠ []) (hlt : ∀ h ∈ hs, h.kind < 16 ∧ h.die < 8)
    (hp : (s.ctx cid).p < 8) :
    let t := s.beginHolds cid hs
    let kinds := ((s.ctx cid).holds ++ hs).map Hold.kind
    let away := (s.ctx cid).state = .parked ∨ (s.ctx cid).state = .saved ∨ (s.ctx cid).state = .restoring
    t.cores = s.cores ∧ (∃ l, (t.ctx cid).holds = (s.ctx cid).holds ++ l ∧ (l.map fun h => (h.kind, h.die)).Perm (hs.map fun h => (h.kind, h.die)))
      ∧ (away → (t.ctx cid).state = (s.ctx cid).state)
      ∧ (¬away → (t.ctx cid).state = (if 9 ∈ kinds then .parked else if 8 ∈ kinds ∨ 10 ∈ kinds then .frozen else .held))
      ∧ ∃ h ∈ hs, (∀ k ∈ hs, h.kind ≤ k.kind) ∧ (t.ctx cid).holdr.toNat % 16 = h.kind
        ∧ (t.ctx cid).holdr.toNat / 16 % 8 = (if h.kind ∈ [4, 5, 7, 9, 10] then (s.ctx cid).p else h.die)
        ∧ (t.ctx cid).holdr.toNat / 2 ^ 16 = (s.core cid).acc.toNat % 2 ^ 48 := by
  obtain ⟨l, first, hb, hfirst, hposts, hctx⟩ := s.beginHolds_spec cid hs hne
  intro t kinds away
  have hperm : (l.map fun h => (h.kind, h.die)).Perm (hs.map fun h => (h.kind, h.die)) := by
    rw [Hold.Begun.kinds hb]
    exact (sortBy_perm _ hs).map _
  have hkinds : ∀ n, n ∈ ((s.ctx cid).holds ++ l).map Hold.kind ↔ n ∈ kinds := by
    have hk : (l.map Hold.kind).Perm (hs.map Hold.kind) := by
      have h := hperm.map Prod.fst
      rw [List.map_map, List.map_map] at h
      exact h
    intro n
    unfold kinds
    rw [List.map_append, List.map_append, List.mem_append, List.mem_append, hk.mem_iff]
  obtain ⟨hmem, hmin⟩ := head_sortBy_holdBefore hfirst
  obtain ⟨hk16, hd8⟩ := hlt first hmem
  obtain ⟨h1, h2, h3⟩ := toNat_holdr first.kind (holdDie (s.ctx cid).p first) (s.core cid).acc.toNat
  have hl : l ≠ [] := by
    rintro rfl
    exact hne (List.length_eq_zero_iff.mp (by simpa using hperm.length_eq.symm))
  unfold t
  rw [hctx]
  refine ⟨hposts.cores, ⟨l, rfl, hperm⟩, fun ha => if_pos ha, fun ha => ?_, first, hmem, hmin, ?_, ?_, h3⟩
  · refine (if_neg ha).trans ?_
    rw [heldState_eq (by simp [hl])]
    simp only [hkinds]
  · exact h1.trans (Nat.mod_eq_of_lt hk16)
  · have hdie : holdDie (s.ctx cid).p first = if first.kind ∈ [4, 5, 7, 9, 10] then (s.ctx cid).p else first.die := by
      unfold holdDie
      simp only [List.mem_cons, List.not_mem_nil, or_false]
    have hlt8 : holdDie (s.ctx cid).p first < 8 := by
      rw [hdie]
      split
      · exact hp
      · exact hd8
    rw [← hdie]
    exact h2.trans (Nat.mod_eq_of_lt hlt8)

/-! ### Lines, late landings, ALIGN (R26, R204, R333) -/

/-- A hold that stands after its kind ended is a new one. -/
theorem State.Fetching.kind {s : State} {cid : Nat} {a : Hold} (h : s.Fetching cid a) : a.kind = 8 ∨ a.kind = 1 ∨ a.kind = 2 := by
  obtain h | h | ⟨d, line, rfl, -⟩ := h
  · exact .inl h
  · exact .inr (.inl h)
  · exact .inr (.inr rfl)

theorem Hold.Begun.line {a : Hold} {d line : Nat} (h : (⟨2, d, .imiss [line]⟩ : Hold).Begun a) : a = ⟨2, d, .imiss [line]⟩ := by
  obtain ⟨kind, die, on⟩ := a
  obtain ⟨hk, hd, ho⟩ := h
  simp only at hk hd ho
  rw [hk, hd, ho]

/-- The lines that stay in a cache that takes a line (R17). -/
def State.linesKept (s : State) (d : Nat) (l : Nat × Nat) : List (Nat × Nat) :=
  let others := (s.dieHw d).icache.erase l
  if others.length < cacheLines then others else others.eraseIdx (Config.cacheVictim s.free % (cacheLines - 1))

theorem State.cacheLine_icache (s : State) (d : Nat) (l : Nat × Nat) : ((s.cacheLine d l).dieHw d).icache = s.linesKept d l ++ [l] := by
  unfold State.cacheLine State.linesKept
  dsimp only
  split
  · rw [State.dieHw_onHw, if_pos rfl]
  · rw [State.dieHw_onHw, if_pos rfl]
    rfl

/-- A line that comes into a cache changes nothing else. -/
structure State.Caches (s t : State) : Prop where
  cores : t.cores = s.cores
  ctxs : t.ctxs = s.ctxs
  inputs : t.inputs = s.inputs
  hub : t.hub = s.hub
  parts : t.parts = s.parts

theorem State.Caches.cacheLine (s : State) (d : Nat) (l : Nat × Nat) : s.Caches (s.cacheLine d l) := by
  unfold State.cacheLine
  dsimp only
  split
  · exact ⟨rfl, rfl, rfl, rfl, rfl⟩
  · exact ⟨rfl, rfl, rfl, rfl, rfl⟩

theorem State.Caches.foldl {α : Type} (d : Nat) (f : α → Nat × Nat) (l : List α) (s : State) : s.Caches (l.foldl (fun s x => s.cacheLine d (f x)) s) := by
  induction l generalizing s with
  | nil => exact ⟨rfl, rfl, rfl, rfl, rfl⟩
  | cons x r ih =>
    have h1 := State.Caches.cacheLine s d (f x)
    have h2 := ih (s.cacheLine d (f x))
    exact ⟨h2.cores.trans h1.cores, h2.ctxs.trans h1.ctxs, h2.inputs.trans h1.inputs, h2.hub.trans h1.hub, h2.parts.trans h1.parts⟩

/-- In a cache that is not full every line stays. -/
theorem State.linesKept_of_room {s : State} {d : Nat} {l : Nat × Nat} (h : (s.dieHw d).icache.length < cacheLines) :
    (∀ x ∈ (s.dieHw d).icache, x ∈ s.linesKept d l ++ [l]) ∧ (s.linesKept d l).length ≤ (s.dieHw d).icache.length := by
  have hlen : ((s.dieHw d).icache.erase l).length ≤ (s.dieHw d).icache.length := List.length_erase_le
  have hkept : s.linesKept d l = (s.dieHw d).icache.erase l := if_pos (hlen.trans_lt h)
  rw [hkept]
  refine ⟨fun x hx => ?_, hlen⟩
  by_cases hxl : x = l
  · exact List.mem_append_right _ (List.mem_singleton.mpr hxl)
  · exact List.mem_append_left _ ((List.mem_erase_of_ne hxl).mpr hx)

/-- The line that came last stays, in a full cache, too. -/
theorem State.last_mem_linesKept {s : State} {d : Nat} {l y : Nat × Nat} {r : List (Nat × Nat)} (h : (s.dieHw d).icache = r ++ [y]) :
    y ∈ s.linesKept d l ++ [l] := by
  by_cases hyl : y = l
  · exact List.mem_append_right _ (List.mem_singleton.mpr hyl)
  refine List.mem_append_left _ ?_
  obtain ⟨o, ho⟩ : ∃ o, (s.dieHw d).icache.erase l = o ++ [y] := by
    rw [h, List.erase_append]
    split
    · exact ⟨_, rfl⟩
    · exact ⟨r, by rw [List.erase_of_not_mem (by simpa using Ne.symm hyl)]⟩
  unfold State.linesKept
  rw [ho]
  dsimp only
  split
  · exact List.mem_append_right _ List.mem_cons_self
  · next hfull =>
    have hidx : Config.cacheVictim s.free % (cacheLines - 1) < o.length := by
      have hmod := Nat.mod_lt (Config.cacheVictim s.free) (show 0 < cacheLines - 1 by decide)
      have hlen : cacheLines ≤ o.length + 1 := by simpa using hfull
      omega
    rw [List.eraseIdx_append_of_lt_length hidx]
    exact List.mem_append_right _ List.mem_cons_self

/-- Where there is room for all, the lines that were there and those that come are present. -/
theorem State.mem_foldl_cacheLine_of_room {d asn : Nat} {l : List Nat} {s : State} (h : (s.dieHw d).icache.length + l.length ≤ cacheLines) {y : Nat × Nat}
    (hy : y ∈ (s.dieHw d).icache ∨ ∃ x ∈ l, y = (asn, x)) : y ∈ ((l.foldl (fun s x => s.cacheLine d (asn, x)) s).dieHw d).icache := by
  induction l generalizing s with
  | nil => exact hy.resolve_right fun ⟨x, hx, _⟩ => (List.not_mem_nil hx).elim
  | cons a r ih =>
    rw [List.length_cons] at h
    obtain ⟨hstay, hlen⟩ := State.linesKept_of_room (s := s) (d := d) (l := (asn, a)) (by omega)
    have hi := s.cacheLine_icache d (asn, a)
    refine ih (s := s.cacheLine d (asn, a)) ?_ ?_
    · rw [hi, List.length_append, List.length_singleton]
      omega
    · rw [hi]
      obtain hy | ⟨x, hx, rfl⟩ := hy
      · exact .inl (hstay y hy)
      · obtain rfl | hx := List.mem_cons.mp hx
        · exact .inl (List.mem_append_right _ (List.mem_singleton.mpr rfl))
        · exact .inr ⟨x, hx, rfl⟩

/-- The lines of a fill are present once they have come with at most one more, where it is one line or there is room. -/
theorem State.mem_foldl_cacheLine {s : State} {d asn : Nat} {l more : List Nat} (hmore : more.length ≤ 1)
    (h : l.length = 1 ∨ (s.dieHw d).icache.length + l.length < cacheLines) :
    ∀ x ∈ l, (asn, x) ∈ (((l ++ more).foldl (fun s x => s.cacheLine d (asn, x)) s).dieHw d).icache := by
  intro x hx
  obtain h | h := h
  · obtain ⟨a, rfl⟩ := List.length_eq_one_iff.mp h
    obtain rfl := List.mem_singleton.mp hx
    have hi := s.cacheLine_icache d (asn, x)
    match more, hmore with
    | [], _ =>
      rw [List.append_nil, List.foldl_cons, List.foldl_nil, hi]
      exact List.mem_append_right _ (List.mem_singleton.mpr rfl)
    | [b], _ =>
      rw [List.singleton_append, List.foldl_cons, List.foldl_cons, List.foldl_nil, State.cacheLine_icache]
      exact State.last_mem_linesKept hi
  · refine State.mem_foldl_cacheLine_of_room ?_ (.inr ⟨x, List.mem_append_left _ hx, rfl⟩)
    rw [List.length_append]
    omega

/-- A context stands while lines come into a cache. -/
theorem State.Rests.of_caches {cid : Nat} {s t u : State} (h : s.Caches t) (k : State.Rests cid t u) : s.Stands u cid :=
  State.Stands.trans (.of_core (State.core_of_cores h.cores cid)) k.stands

/-- ICACHE_FILL_COMPLETE for the hold that it serves. -/
theorem State.icacheFill_spec {s : State} {cid die : Nat} {l : List Nat} (h : s.holding cid ⟨2, die, .imiss l⟩ (fun h => h.die == die && h.kind == 2)) :
    Runs (.icacheFillComplete cid die) s fun t => s.Stands t cid ∧ (l.length = 1 ∨ (s.dieHw die).icache.length + l.length < cacheLines →
      (∀ x ∈ l, ((s.ctx cid).asn, x) ∈ (t.dieHw die).icache) ∧ ⟨2, die, .imiss l⟩ ∉ (t.ctx cid).holds) := by
  have he : exec (.icacheFillComplete cid die) s = execIcacheFillComplete cid die s := rfl
  unfold execIcacheFillComplete at he
  rw [h] at he
  dsimp -zeta only at he
  extract_lets asn more s1 at he
  have hmore : more.length ≤ 1 := by
    unfold more
    split
    · dsimp only
      split
      · exact le_rfl
      · exact Nat.zero_le 1
    · exact Nat.zero_le 1
  have hc : s.Caches s1 := .foldl die (fun x => (asn, x)) (l ++ more) s
  obtain ⟨hr, hholds⟩ := s1.endHolds_spec (cid := cid) fun x => x == ⟨2, die, .imiss l⟩
  refine ⟨_, he, hr.of_caches hc, fun hroom => ?_⟩
  have hin : ∀ x ∈ l, (asn, x) ∈ (s1.dieHw die).icache := State.mem_foldl_cacheLine hmore hroom
  have hasn : (s1.ctx cid).asn = asn := by rw [State.ctx_of_ctxs hc.ctxs]
  refine ⟨fun x hx => by rw [hr.icache]; exact hin x hx, fun hmem => ?_⟩
  obtain ⟨-, hend⟩ | ⟨a, ⟨hk, hd, ha⟩, hkind⟩ := hholds _ hmem
  · simp at hend
  · dsimp only at hk
    obtain hkind | hkind | hkind | ⟨hkind, -⟩ | hkind | hkind | ⟨d, line, rfl, hline⟩ := hkind
    · omega
    · omega
    · omega
    · omega
    · omega
    · omega
    · obtain rfl : die = d := hd
      obtain rfl : l = [line] := by simpa using ha
      rw [hasn] at hline
      exact hline (hin line List.mem_cons_self)

/-- FILL_LATE_CLEAR for the hold that it serves. -/
theorem State.fillLate_spec {s : State} {cid die cyc : Nat} (h : s.holding cid ⟨3, die, .late cyc⟩ (fun h => h.kind == 3)) :
    (s.homeFull cid ≠ none → exec (.fillLateClear cid) s = .next s)
    ∧ (s.homeFull cid = none → Runs (.fillLateClear cid) s fun t => s.Stands t cid
        ∧ (s.lateNow cid = none → ∀ h ∈ (t.ctx cid).holds, h.kind ≠ 3)) := by
  have he : exec (.fillLateClear cid) s = execFillLateClear cid s := rfl
  unfold execFillLateClear at he
  rw [h] at he
  dsimp only at he
  constructor
  · intro hf
    rw [he, if_pos (Option.isSome_iff_ne_none.mpr hf)]
  · intro hf
    rw [if_neg (by rw [hf]; decide)] at he
    obtain ⟨hr, hholds⟩ := s.endHolds_spec (cid := cid) fun h => h.kind == 3
    refine ⟨_, he, hr.stands, fun hlate g hg hk => ?_⟩
    obtain ⟨-, hend⟩ | ⟨a, ⟨hka, -⟩, hkind⟩ := hholds g hg
    · simp [hk] at hend
    · obtain hkind | hkind | hkind | ⟨-, hl⟩ | hkind := hkind
      · omega
      · omega
      · omega
      · exact hl hlate
      · have := hkind.kind
        omega

/-- ALIGN_RELEASE for the hold that it serves, once WAC has its target. -/
theorem State.alignRelease_spec {s : State} {cid die target xd : Nat}
    (h : s.holding cid ⟨5, die, .align target xd⟩ (fun h => h.die == die && h.kind == 5)) (hw : target ≤ s.hub.wac.toNat) :
    Runs (.alignRelease cid die) s fun t => s.Stands t cid ∧ ⟨5, die, .align target xd⟩ ∉ (t.ctx cid).holds := by
  have he : exec (.alignRelease cid die) s = execAlignRelease cid die s := rfl
  unfold execAlignRelease at he
  rw [h] at he
  dsimp -zeta only at he
  rw [if_neg (by omega)] at he
  extract_lets ends hnd at he
  have hend : ∀ u, State.Rests cid s u → s.Stands (u.endHolds cid ends) cid ∧ ⟨5, die, .align target xd⟩ ∉ ((u.endHolds cid ends).ctx cid).holds := by
    intro u hu
    obtain ⟨hr, hholds⟩ := u.endHolds_spec (cid := cid) ends
    refine ⟨(hu.trans hr).stands, fun hmem => ?_⟩
    obtain ⟨-, hend⟩ | ⟨a, ⟨hka, -⟩, hkind⟩ := hholds _ hmem
    · simp [ends] at hend
    · dsimp only at hka
      obtain hkind | hkind | hkind | ⟨hkind, -⟩ | hkind := hkind
      · omega
      · omega
      · omega
      · omega
      · have := hkind.kind
        omega
  refine ⟨_, he, ?_⟩
  split
  · refine hend _ ?_
    have hstop : State.Rests cid s (s.stopContext cid) := by
      unfold State.stopContext
      dsimp only
      split
      · exact .refl s
      · exact s.beginHolds_rests _
    exact hstop.trans (State.Posts.rests (.steward _ _ _) rfl)
  · exact hend s (.refl s)

/-! ### Energy (R385) -/

theorem State.refill_part (s : State) (p : Nat) : let q := s.part p
    let total := q.refill + q.rate.toNat * 65536
    ((s.refill p).part p).refill = total % 1000
      ∧ ((s.refill p).part p).allow.toNat = min (q.allow.toNat + total / 1000) (q.cap.toNat * 65536) := by
  intro q total
  unfold State.refill
  rw [State.part_onPart, if_pos rfl]
  refine ⟨rfl, ?_⟩
  have hcap := q.cap.isLt
  have hmin : min (q.allow.toNat + total / 1000) (q.cap.toNat * 65536) ≤ q.cap.toNat * 65536 := min_le_right _ _
  exact Nat.mod_eq_of_lt (by omega)

theorem State.energyRefill_spec {s : State} {p : Nat} (h : (s.part p).n ≠ 0) : let q := s.part p
    let total := q.refill + q.rate.toNat * 65536
    Runs (.energyRefill p) s fun t => (t.part p).refill = total % 1000
      ∧ (t.part p).allow.toNat = min (q.allow.toNat + total / 1000) (q.cap.toNat * 65536)
      ∧ (∀ cid, q.running = some cid → s.Stands t cid) ∧ (q.running = none → t.cores = s.cores ∧ t.hbm = s.hbm) := by
  intro q total
  have he : exec (.energyRefill p) s = execEnergyRefill p s := rfl
  unfold execEnergyRefill at he
  rw [if_neg h] at he
  obtain ⟨hrefill, hallow⟩ := s.refill_part p
  refine ⟨_, he, ?_⟩
  split
  · next hrun => exact ⟨hrefill, hallow, fun cid hc => (Option.some_ne_none cid (hc.symm.trans hrun)).elim, fun _ => ⟨rfl, rfl⟩⟩
  · next cid hrun =>
    have hr : State.Rests cid (s.refill p) ((s.refill p).recheck cid) := State.recheck_rests _
    have hkeep := hr.part p
    refine ⟨?_, ?_, fun c hc => ?_, fun hn => (Option.some_ne_none cid (hrun.symm.trans hn)).elim⟩
    · rw [eq_of_kept Part.kept Part.refill (fun _ => rfl) hkeep, hrefill]
    · rw [eq_of_kept Part.kept Part.allow (fun _ => rfl) hkeep, hallow]
    · obtain rfl : cid = c := Option.some.inj (hrun.symm.trans hc)
      exact State.Stands.trans (.of_core rfl) hr.stands

end Sys2Proof.Machine
end

section
/-!
SUPPORT for O53. The end of a walk, and the handles that form at a release.
-/
namespace Sys2Proof.Machine

/-! ### Page tables in HBM -/

theorem State.hbmRead_of_hbm {s t : State} (h : t.hbm = s.hbm) (pa n : Nat) : t.hbmRead pa n = s.hbmRead pa n := by
  unfold State.hbmRead State.hbmByte
  rw [h]

theorem State.pte_of_hbm {s t : State} (h : t.hbm = s.hbm) (pa : Nat) : t.pte pa = s.pte pa := by
  rw [State.pte, State.pte, State.hbmRead_of_hbm h]

/-- The address of the entry that a walk reads at a level (R292). -/
def walkPa (va level table : Nat) : Nat :=
  table + 8 * (if level = 2 then bitsOf va 42 10 else if level = 1 then bitsOf va 29 13 else bitsOf va 16 13)

/-- What a walk finds by an entry, where the table that the entry may name gives `below` (R293). -/
def entryFinds (e : BitVec 64) (level pa : Nat) (below : WalkResult) : WalkResult :=
  if !pteBit e 0 then .notMapped
  else if pteMalformed e level then .malformed
  else if pteBit e 1 || pteBit e 2 || pteBit e 3 then .leaf e level pa
  else below

theorem State.walkFrom_zero (s : State) (va table : Nat) :
    s.walkFrom va 0 table = entryFinds (s.pte (walkPa va 0 table)) 0 (walkPa va 0 table) .malformed := rfl

theorem State.walkFrom_succ (s : State) (va l table : Nat) : s.walkFrom va (l + 1) table =
    entryFinds (s.pte (walkPa va (l + 1) table)) (l + 1) (walkPa va (l + 1) table) (s.walkFrom va l (pteBase (s.pte (walkPa va (l + 1) table)))) := rfl

/-- A walk reads nothing but HBM. -/
theorem State.walkFrom_of_hbm {s t : State} (h : t.hbm = s.hbm) (va level table : Nat) : t.walkFrom va level table = s.walkFrom va level table := by
  induction level generalizing table with
  | zero => rw [walkFrom_zero, walkFrom_zero, pte_of_hbm h]
  | succ l ih => rw [walkFrom_succ, walkFrom_succ, pte_of_hbm h, ih]

theorem State.walk_of_hbm {s t : State} (h : t.hbm = s.hbm) (ptbase va : Nat) : t.walk ptbase va = s.walk ptbase va :=
  State.walkFrom_of_hbm h va 2 ptbase

/-- The entry that a write of its eight bytes leaves. -/
theorem State.pte_hbmWrite (s : State) (pa : Nat) (v : BitVec 64) : (s.hbmWrite pa (leBytes 8 v.toNat)).pte pa = v := by
  have h := s.hbmRead_hbmWrite pa (leBytes 8 v.toNat) []
  rw [List.append_nil, length_leBytes, ofLeBytes_leBytes, Nat.mod_eq_of_lt (show v.toNat < 256 ^ 8 from v.isLt)] at h
  unfold State.pte
  rw [h, BitVec.ofNat_toNat, BitVec.setWidth_eq]

theorem State.hbmByte_pteWrite (s : State) (pa v : Nat) {a : Nat} (h : a < pa ∨ pa + 8 ≤ a) : (s.hbmWrite pa (leBytes 8 v)).hbmByte a = s.hbmByte a := by
  rw [State.hbmByte_hbmWrite, length_leBytes, if_neg (by omega)]

/-! ### A hold that ends untraced -/

theorem State.trace_unrecorded {s : State} {die kind : Nat} (h : (s.dieHw die).trKinds.getLsbD kind = false) (cid addr acc : Nat) (slice : Option Nat) (data : Nat) :
    s.trace cid die kind addr acc slice data = s := by
  unfold State.trace
  simp only [h, Bool.false_and, Bool.false_eq_true, if_false]

/-- Where the die traces no end of a hold, HBM stands. -/
theorem State.dropHolds_hbm {s : State} {cid : Nat} {ends : Hold → Bool} (h : ∀ a, ends a = true → (s.dieHw a.die).trKinds.getLsbD 4 = false) :
    (s.dropHolds cid ends).hbm = s.hbm := by
  have hfold : ∀ (l : List Hold) (u : State), u.hw = s.hw → (∀ a ∈ l, ends a = true) → l.foldl (fun st h =>
      st.trace cid h.die 4 ((st.core cid).nextAddr h.die) (st.core cid).acc.toNat none h.kind) u = u := by
    intro l u hu hl
    induction l with
    | nil => rfl
    | cons a r ih =>
      have hd : u.dieHw a.die = s.dieHw a.die := by rw [State.dieHw, hu]; rfl
      rw [List.foldl_cons, State.trace_unrecorded (by rw [hd]; exact h a (hl a List.mem_cons_self))]
      exact ih fun b hb => hl b (List.mem_cons_of_mem a hb)
  unfold State.dropHolds
  dsimp only
  split
  · rfl
  · rw [hfold]
    · rfl
    · rfl
    · exact fun a ha => (List.mem_filter.mp ha).2

/-! ### TLBs (R295) -/

theorem mem_tlbTouch (l : List TlbEntry) (e : TlbEntry) (cap : Nat) : e ∈ tlbTouch l e (cap + 1) := List.mem_cons_self

theorem mem_tlbTouchSet (l : List TlbEntry) (e : TlbEntry) : e ∈ tlbTouchSet l e := by
  unfold tlbTouchSet
  dsimp only
  split <;> exact List.mem_cons_self

/-- An instruction TLB takes an entry unless every place is pinned. -/
theorem mem_tlbPush {l : List TlbEntry} (e : TlbEntry) (h : (l.filter TlbEntry.pinned).length < 256) : e ∈ tlbPush l e := by
  unfold tlbPush
  extract_lets rest unpinned
  split
  · exact List.mem_cons_self
  · next hfull =>
    split
    · exact List.mem_cons_self
    · next hnone =>
      have hnil : unpinned = [] := List.getLast?_eq_none_iff.mp hnone
      have hall : rest.filter TlbEntry.pinned = rest := List.filter_eq_self.mpr fun x hx => by
        simpa using List.filter_eq_nil_iff.mp hnil x hx
      have hle : rest.length ≤ (l.filter TlbEntry.pinned).length := by
        rw [← hall]
        exact (List.filter_sublist.filter _).length_le
      omega

theorem State.pinPage_dieHw (s : State) (cid d va : Nat) : ((s.pinPage cid d va).dieHw d).ltlb = (s.dieHw d).ltlb
    ∧ ∀ e ∈ (s.dieHw d).itlb, e.pinned = false → ∃ f ∈ ((s.pinPage cid d va).dieHw d).itlb, { f with pinned := false } = e := by
  have hself : ∀ e : TlbEntry, e.pinned = false → { e with pinned := false } = e := fun e he => by rw [← he]
  unfold State.pinPage
  dsimp only
  split
  · rw [State.dieHw_onHw, if_pos rfl]
    refine ⟨rfl, fun e he hp => ⟨_, List.mem_map.mpr ⟨e, he, rfl⟩, ?_⟩⟩
    split
    · exact hself e hp
    · exact hself e hp
  · exact ⟨rfl, fun e he hp => ⟨e, he, hself e hp⟩⟩

/-! ### WALK_COMPLETE (R294, R300) -/

theorem State.fillTlb_rests {cid : Nat} (s : State) (d asn va : Nat) (leaf : BitVec 64) (level pa perm : Nat) (fetch : Bool) :
    State.Rests cid s (s.fillTlb d asn va leaf level pa perm fetch) := by
  have h1 : State.Rests cid s (s.hbmWrite pa (leBytes 8 (leaf ||| (if bitAt perm 1 then 0x60 else 0x20)).toNat)) := State.Posts.rests (.hbmWrite s _ _) rfl
  unfold State.fillTlb
  dsimp only
  refine h1.trans (State.Looks.rests ?_)
  refine .onHw _ d fun e => ?_
  cases fetch <;> rfl

/-- The state in which a walk that found a leaf leaves its hold's context, before more holds begin there. -/
def State.walked (s : State) (cid die va perm : Nat) (n : Option Nat) (leaf : BitVec 64) (level pa : Nat) : State :=
  let s1 := s.dropHolds cid fun x => x == ⟨1, die, .walk va perm n⟩
  let s2 := s1.fillTlb die (s.ctx cid).asn va leaf level pa perm n.isNone
  if n.isNone then s2.pinPage cid die va else s2

theorem State.walked_rests (s : State) (cid die va perm : Nat) (n : Option Nat) (leaf : BitVec 64) (level pa : Nat) :
    State.Rests cid s (s.walked cid die va perm n leaf level pa) := by
  have h2 := (s.dropHolds_rests (cid := cid) fun x => x == ⟨1, die, .walk va perm n⟩).trans
    (State.fillTlb_rests _ die (s.ctx cid).asn va leaf level pa perm n.isNone)
  unfold State.walked
  dsimp only
  split
  · exact h2.trans (State.Looks.pinPage _ cid die va).rests
  · exact h2

/-- What WALK_COMPLETE does by what the walk finds. -/
def State.walkEnds (s : State) (cid die va perm : Nat) (n : Option Nat) : WalkResult → State
  | .leaf leaf level pa =>
    match leafHold die va perm n leaf with
    | some x => (s.walked cid die va perm n leaf level pa).beginHolds cid [x]
    | none => (s.walked cid die va perm n leaf level pa).release cid
  | .notMapped => (s.dropHolds cid fun x => x == ⟨1, die, .walk va perm n⟩).beginHolds cid [⟨8, die, .fault va perm n (if n.isSome then 1 else 3) 0 false⟩]
  | .malformed => (s.dropHolds cid fun x => x == ⟨1, die, .walk va perm n⟩).beginHolds cid [⟨8, die, .fault va perm n 7 0 false⟩]

theorem State.walkEnds_rests (s : State) (cid die va perm : Nat) (n : Option Nat) (w : WalkResult) : State.Rests cid s (s.walkEnds cid die va perm n w) := by
  have hd := s.dropHolds_rests (cid := cid) fun x => x == ⟨1, die, .walk va perm n⟩
  cases w with
  | leaf leaf level pa =>
    have hw := s.walked_rests cid die va perm n leaf level pa
    unfold State.walkEnds
    dsimp only
    split
    · exact hw.trans (State.beginHolds_rests _ _)
    · exact hw.trans (State.release_spec _).1
  | notMapped =>
    unfold State.walkEnds
    exact hd.trans (State.beginHolds_rests _ _)
  | malformed =>
    unfold State.walkEnds
    exact hd.trans (State.beginHolds_rests _ _)

/-- Whether a hold is a walk of a die. -/
def Hold.walks (die : Nat) (h : Hold) : Bool := h.die == die && match h.on with | .walk _ _ _ => true | _ => false

theorem State.exec_walkComplete {s : State} {cid die va perm : Nat} {n : Option Nat}
    (h : s.holding cid ⟨1, die, .walk va perm n⟩ (Hold.walks die)) :
    exec (.walkComplete cid die) s = .next (s.walkEnds cid die va perm n ((s.dropHolds cid fun x => x == ⟨1, die, .walk va perm n⟩).walk (s.ctx cid).ptbase va)) := by
  have he : exec (.walkComplete cid die) s = execWalkComplete cid die s := rfl
  rw [he]
  unfold execWalkComplete
  extract_lets walking c
  have hfind : (s.ctx cid).holds.find? walking = some ⟨1, die, .walk va perm n⟩ := h
  rw [hfind]
  dsimp only
  generalize (s.dropHolds cid fun x => x == ⟨1, die, .walk va perm n⟩).walk c.ptbase va = w
  cases w <;> rfl

/-- Where the end of the hold is not traced, the walk finds what it finds in the state before. -/
theorem State.dropWalk_hbm {s : State} {die : Nat} (h : (s.dieHw die).trKinds.getLsbD 4 = false) (cid va perm : Nat) (n : Option Nat) :
    (s.dropHolds cid fun x => x == ⟨1, die, .walk va perm n⟩).hbm = s.hbm := by
  refine State.dropHolds_hbm fun a ha => ?_
  rw [eq_of_beq ha]
  exact h

theorem State.fillTlb_hbm (s : State) (d asn va : Nat) (leaf : BitVec 64) (level pa perm : Nat) (fetch : Bool) :
    (s.fillTlb d asn va leaf level pa perm fetch).hbm = (s.hbmWrite pa (leBytes 8 (leaf ||| (if bitAt perm 1 then 0x60 else 0x20)).toNat)).hbm := rfl

theorem State.fillTlb_dieHw (s : State) (d asn va : Nat) (leaf : BitVec 64) (level pa perm : Nat) (fetch : Bool) :
    let e : TlbEntry := ⟨va / 2 ^ pageBits level * 2 ^ pageBits level, level, asn, leaf ||| (if bitAt perm 1 then 0x60 else 0x20), false⟩
    let h := (s.fillTlb d asn va leaf level pa perm fetch).dieHw d
    e ∈ h.ltlb ∧ (fetch = false → e ∈ h.dtlb) ∧ (fetch = true → ((s.dieHw d).itlb.filter TlbEntry.pinned).length < 256 → e ∈ h.itlb) := by
  intro e h
  have hh : h = if fetch then { s.dieHw d with itlb := tlbPush (s.dieHw d).itlb e, ltlb := tlbTouchSet (s.dieHw d).ltlb e }
      else { s.dieHw d with dtlb := tlbTouch (s.dieHw d).dtlb e 256, ltlb := tlbTouchSet (s.dieHw d).ltlb e } := by
    unfold h State.fillTlb
    dsimp only
    rw [State.dieHw_onHw, if_pos rfl]
    rfl
  cases fetch with
  | false =>
    rw [hh]
    exact ⟨mem_tlbTouchSet _ e, fun _ => mem_tlbTouch _ e 255, fun hf => (Bool.false_ne_true hf).elim⟩
  | true =>
    rw [hh]
    exact ⟨mem_tlbTouchSet _ e, fun hf => (Bool.false_ne_true hf.symm).elim, fun _ hp => mem_tlbPush e hp⟩

/-- What a walk that found a leaf leaves before more holds begin (R294, R295). -/
theorem State.walked_spec {s : State} {die : Nat} (h : (s.dieHw die).trKinds.getLsbD 4 = false) (cid va perm : Nat) (n : Option Nat)
    (leaf : BitVec 64) (level pa : Nat) : s.Walked (s.walked cid die va perm n leaf level pa) cid die va perm n leaf level pa := by
  obtain ⟨hposts, -, hholds⟩ := s.dropHolds_spec (cid := cid) fun x => x == ⟨1, die, .walk va perm n⟩
  have hhbm := State.dropWalk_hbm h cid va perm n
  have hdie : (s.dropHolds cid fun x => x == ⟨1, die, .walk va perm n⟩).dieHw die = s.dieHw die := by rw [State.dieHw, hposts.hw]; rfl
  unfold State.walked
  dsimp only
  generalize s.dropHolds cid (fun x => x == ⟨1, die, .walk va perm n⟩) = s1 at hposts hholds hhbm hdie
  obtain ⟨hl, hd, hi⟩ := s1.fillTlb_dieHw die (s.ctx cid).asn va leaf level pa perm n.isNone
  have hfhbm := s1.fillTlb_hbm die (s.ctx cid).asn va leaf level pa perm n.isNone
  have hcores : (s1.fillTlb die (s.ctx cid).asn va leaf level pa perm n.isNone).cores = s.cores := hposts.cores
  have hctx : ((s1.fillTlb die (s.ctx cid).asn va leaf level pa perm n.isNone).ctx cid).holds = (s.ctx cid).holds.filter fun h => h != ⟨1, die, .walk va perm n⟩ := hholds
  generalize s1.fillTlb die (s.ctx cid).asn va leaf level pa perm n.isNone = s2 at hl hd hi hfhbm hcores hctx
  have hpte : s2.pte pa = leaf ||| (if bitAt perm 1 then 0x60 else 0x20) := by rw [State.pte_of_hbm hfhbm, State.pte_hbmWrite]
  have hbytes : ∀ a, a < pa ∨ pa + 8 ≤ a → s2.hbmByte a = s.hbmByte a := by
    intro a ha
    have h1 := s1.hbmByte_pteWrite pa (leaf ||| (if bitAt perm 1 then 0x60 else 0x20)).toNat ha
    unfold State.hbmByte at h1 ⊢
    rw [hfhbm, h1, hhbm]
  cases n with
  | some k =>
    rw [if_neg (show ¬(some k).isNone = true from Bool.false_ne_true)]
    exact ⟨State.core_of_cores hcores cid, hctx, hpte, hbytes, hl, fun _ => hd rfl, fun hn => by cases hn⟩
  | none =>
    rw [if_pos Option.isNone_none]
    have hlooks : State.Looks cid s2 (s2.pinPage cid die va) := .pinPage s2 cid die va
    have hpcores : (s2.pinPage cid die va).cores = s2.cores := by
      unfold State.pinPage
      dsimp only
      split <;> rfl
    obtain ⟨hpl, hpi⟩ := s2.pinPage_dieHw cid die va
    refine ⟨?_, ?_, ?_, ?_, ?_, fun hn => (hn rfl).elim, fun _ hp => ?_⟩
    · rw [State.core_of_cores hpcores, State.core_of_cores hcores]
    · rw [State.ctx_of_ctxs hlooks.ctxs, hctx]
    · rw [State.pte_of_hbm hlooks.hbm, hpte]
    · intro a ha
      rw [← hbytes a ha, State.hbmByte, hlooks.hbm]
      rfl
    · rw [hpl]
      exact hl
    · rw [← hdie] at hp
      exact hpi _ (hi rfl hp) rfl

theorem Hold.Begun.fault {kind die va perm why q : Nat} {n : Option Nat} {answered : Bool} {a : Hold}
    (h : (⟨kind, die, .fault va perm n why q answered⟩ : Hold).Begun a) : ∃ q, a = ⟨kind, die, .fault va perm n why q false⟩ := by
  obtain ⟨k, d, on⟩ := a
  obtain ⟨hk, hd, q, hon⟩ := h
  exact ⟨q, by rw [show k = kind from hk, show d = die from hd, show on = _ from hon]⟩

/-- A fault hold that begins alone stands, under the number of its entry. -/
theorem State.faultHold_begins (u : State) (cid kind die va perm why q : Nat) (n : Option Nat) (answered : Bool) :
    ∃ q, (⟨kind, die, .fault va perm n why q false⟩ : Hold) ∈ ((u.beginHolds cid [⟨kind, die, .fault va perm n why q answered⟩]).ctx cid).holds := by
  obtain ⟨g, hg, hb⟩ := State.exists_mem_beginHolds (s := u) (cid := cid) (hs := [⟨kind, die, .fault va perm n why q answered⟩]) List.mem_cons_self
  obtain ⟨q', rfl⟩ := hb.fault
  exact ⟨q', hg⟩

/-- WALK_COMPLETE for the hold that it serves: the faults of a walk without a leaf, and what a leaf gives. -/
theorem State.walkComplete_spec {s : State} {cid die va perm : Nat} {n : Option Nat} (h : s.holding cid ⟨1, die, .walk va perm n⟩ (Hold.walks die)) :
    let w := s.walk (s.ctx cid).ptbase va
    let untraced := (s.dieHw die).trKinds.getLsbD 4 = false
    Runs (.walkComplete cid die) s (s.Stands · cid)
    ∧ (w = .notMapped → untraced → Runs (.walkComplete cid die) s fun t =>
        ∃ q, ⟨8, die, .fault va perm n (if n.isSome then 1 else 3) q false⟩ ∈ (t.ctx cid).holds)
    ∧ (w = .malformed → untraced → Runs (.walkComplete cid die) s fun t => ∃ q, ⟨8, die, .fault va perm n 7 q false⟩ ∈ (t.ctx cid).holds)
    ∧ ∀ leaf level pa, w = .leaf leaf level pa → untraced → Runs (.walkComplete cid die) s fun t => ∃ u,
        s.Walked u cid die va perm n leaf level pa ∧ t =
          if n ≠ none ∧ leaf.getLsbD 10 = true then u.beginHolds cid [⟨8, die, .migrate va perm n⟩]
          else if leafGrants leaf perm then u.release cid
          else u.beginHolds cid [⟨8, die, .fault va perm n (if n = none then 4 else 2) 0 false⟩] := by
  intro w untraced
  have he := State.exec_walkComplete h
  have hsame : untraced → (s.dropHolds cid fun x => x == ⟨1, die, .walk va perm n⟩).walk (s.ctx cid).ptbase va = w := fun hu =>
    State.walk_of_hbm (State.dropWalk_hbm hu cid va perm n) _ _
  have hstands := fun w => (s.walkEnds_rests cid die va perm n w).stands
  generalize (s.dropHolds cid fun x => x == ⟨1, die, .walk va perm n⟩).walk (s.ctx cid).ptbase va = found at he hsame
  refine ⟨⟨_, he, hstands found⟩, fun hw hu => ⟨_, he, ?_⟩, fun hw hu => ⟨_, he, ?_⟩, fun leaf level pa hw hu =>
    ⟨_, he, s.walked cid die va perm n leaf level pa, State.walked_spec hu cid va perm n leaf level pa, ?_⟩⟩
  · rw [hsame hu, hw]
    exact State.faultHold_begins _ cid _ _ _ _ _ 0 _ false
  · rw [hsame hu, hw]
    exact State.faultHold_begins _ cid _ _ _ _ _ 0 _ false
  · rw [hsame hu, hw]
    unfold State.walkEnds leafHold
    dsimp only
    by_cases hm : n ≠ none ∧ leaf.getLsbD 10 = true
    · have hm' : (n.isSome && pteBit leaf 10) = true := by simpa [pteBit, Option.isSome_iff_ne_none] using hm
      rw [if_pos hm, if_pos hm']
    · have hm' : ¬(n.isSome && pteBit leaf 10) = true := by simpa [pteBit, Option.isSome_iff_ne_none] using hm
      rw [if_neg hm, if_neg hm']
      by_cases hg : leafGrants leaf perm = true
      · rw [if_pos hg, if_pos hg]
      · rw [if_neg hg, if_neg hg]
        cases n <;> rfl

/-! ### Handles that form (R299, R440) -/

/-- The handle that a TRANS forms from a leaf. -/
def Core.handleFor (c : Core) (leaf : BitVec 64) (level va perm : Nat) (r : HoldReq) (n : Nat) : Handle :=
  { handleOf leaf level va perm c.hgen with v := !c.hinvAfter r n }

theorem State.formHandle_core {s : State} {cid : Nat} {r : HoldReq} {va perm n : Nat} {leaf : BitVec 64} {level pa : Nat}
    (h : s.walk (s.ctx cid).ptbase va = .leaf leaf level pa) : (s.formHandle cid r va perm n).core cid = (s.core cid).onDie r.hold.die fun d =>
      { d with tab := { d.tab with handles := SMap.put d.tab.handles n ((s.core cid).handleFor leaf level va perm r n) } } := by
  unfold State.formHandle
  rw [h]
  dsimp only
  split
  · exact (State.core_setCore _ _ _ _).trans (if_pos rfl)
  · exact (State.core_setCore _ _ _ _).trans (if_pos rfl)

theorem Core.hinvAfter_iff (c : Core) (r : HoldReq) (n : Nat) : c.hinvAfter r n = true ↔
    ∃ f ∈ c.flights, f.die = r.hold.die ∧ f.hnd = r.hnd ∧ f.T + 1 = r.cyc ∧ ∃ e ∈ f.syl, ∃ g, e.2 = .hinv g ∧ g.xd.toNat = n := by
  have hsyl : ∀ i : Instr, (match i with | .hinv g => g.xd.toNat == n | _ => false) = true ↔ ∃ g, i = .hinv g ∧ g.xd.toNat = n := by
    intro i
    split
    · next g => exact ⟨fun h => ⟨g, rfl, eq_of_beq h⟩, fun ⟨g', hg, h⟩ => by cases hg; exact beq_iff_eq.mpr h⟩
    · next hne => exact ⟨fun h => (Bool.false_ne_true h).elim, fun ⟨g, hg, _⟩ => (hne g hg).elim⟩
  unfold Core.hinvAfter
  simp only [List.any_eq_true, Bool.and_eq_true, beq_iff_eq, and_assoc]
  refine exists_congr fun f => and_congr_right fun _ => and_congr_right fun _ => and_congr_right fun _ => and_congr_right fun _ =>
    exists_congr fun e => and_congr_right fun _ => ?_
  exact hsyl e.2

/-- The one result of a TRANS that forms at a release: the handle of the leaf, and no other. -/
theorem State.formResults_handle {s : State} {cid cyc die va perm n kind : Nat} {hnd : Bool} {leaf : BitVec 64} {level pa : Nat} {on : HoldOn}
    (hon : ∀ u : State, u.formResult cid ⟨cyc, hnd, ⟨kind, die, on⟩⟩ = u.formHandle cid ⟨cyc, hnd, ⟨kind, die, on⟩⟩ va perm n)
    (hf : (s.core cid).forming = [⟨cyc, hnd, ⟨kind, die, on⟩⟩]) (hw : s.walk (s.ctx cid).ptbase va = .leaf leaf level pa) :
    let c := s.core cid
    let t := (s.formResults cid).core cid
    let got := SMap.get ({} : Handle) (t.die die).tab.handles n
    { got with v := false } = { handleOf leaf level va perm c.hgen with v := false } ∧ t.forming = []
      ∧ (got.v = false ↔ ∃ f ∈ c.flights, f.die = die ∧ f.hnd = hnd ∧ f.T + 1 = cyc ∧ ∃ e ∈ f.syl, ∃ g, e.2 = .hinv g ∧ g.xd.toNat = n)
      ∧ ∀ d k, d ≠ die ∨ k ≠ n → SMap.get ({} : Handle) (t.die d).tab.handles k = SMap.get {} (c.die d).tab.handles k := by
  intro c t got
  have ht : t = { (s.formHandle cid ⟨cyc, hnd, ⟨kind, die, on⟩⟩ va perm n).core cid with forming := [] } := by
    unfold t State.formResults
    rw [hf]
    dsimp only [List.isEmpty_cons, List.foldl_cons, List.foldl_nil]
    rw [if_neg (by decide), hon]
    exact (State.core_setCore _ _ _ _).trans (if_pos rfl)
  have hdie : ∀ d, t.die d = ((s.formHandle cid ⟨cyc, hnd, ⟨kind, die, on⟩⟩ va perm n).core cid).die d := fun d => by rw [ht]; rfl
  simp only [State.formHandle_core hw, Core.die_onDie] at hdie
  have hgot : got = c.handleFor leaf level va perm ⟨cyc, hnd, ⟨kind, die, on⟩⟩ n := by
    unfold got
    rw [hdie, if_pos rfl, SMap.get_put_self]
  refine ⟨by rw [hgot]; rfl, by rw [ht], ?_, fun d k hdk => ?_⟩
  · rw [hgot, ← Core.hinvAfter_iff c ⟨cyc, hnd, ⟨kind, die, on⟩⟩ n]
    exact iff_of_eq (Bool.not_eq_false' _)
  · rw [hdie]
    by_cases hd : d = die
    · rw [if_pos hd, SMap.get_put_of_ne _ _ _ (hdk.resolve_left fun h => h hd), hd]
    · rw [if_neg hd]

end Sys2Proof.Machine
end

section
/-!
SUPPORT for O53. The host's answers to page faults: what a retry leaves standing, and the context that a terminate fails.
-/
namespace Sys2Proof.Machine

/-! ### Answers (R300) -/

theorem State.retryFaults_stands (s : State) (p cid : Nat) : s.Stands (s.retryFaults p) cid := by
  unfold State.retryFaults
  split
  · exact .refl s cid
  · dsimp only
    split
    · exact (State.lookAfter_rests s _).stands_all cid
    · exact .refl s cid

theorem State.faultRespRetry_spec {s : State} {p seq : Nat} {e : FaultEntry} (h : (s.part p).openEntry seq = some e) :
    Runs (.faultRespRetry p seq) s fun t => ∀ cid, s.Stands t cid := by
  have he : exec (.faultRespRetry p seq) s = execFaultRespRetry p seq s := rfl
  unfold execFaultRespRetry at he
  rw [h] at he
  exact ⟨_, he, fun cid => State.Stands.trans (t := (s.dropEntry p seq).answerHolds p seq) (.of_core rfl) (State.retryFaults_stands _ p cid)⟩

theorem State.faultResp_closed {s : State} {p seq : Nat} (h : (s.part p).openEntry seq = none) :
    exec (.faultRespRetry p seq) s = .next s ∧ exec (.faultRespTerminate p seq) s = .next s := by
  have he : exec (.faultRespRetry p seq) s = execFaultRespRetry p seq s := rfl
  have he' : exec (.faultRespTerminate p seq) s = execFaultRespTerminate p seq s := rfl
  rw [he, he', execFaultRespRetry, execFaultRespTerminate, h]
  exact ⟨rfl, rfl⟩

/-! ### A context that fails -/

theorem State.cores_qState (s : State) (p q : Nat) (st : QueueState) : (s.qState p q st).cores = s.cores := by
  unfold State.qState
  dsimp only
  split <;> rfl

theorem State.cores_qFollow (s : State) (p q : Nat) (st : QueueState) : (s.qFollow p q st).cores = s.cores := by
  unfold State.qFollow
  split
  · rfl
  · exact s.cores_qState p q st

theorem State.cores_qError (s : State) (p q code : Nat) : (s.qError p q code).cores = s.cores := s.cores_qState p q .errored

theorem State.cores_wakeQueues (s : State) : s.wakeQueues.cores = s.cores := by
  refine foldl_keeps State.cores _ (fun s e => foldl_keeps State.cores _ (fun s q => ?_) _ s) _ s
  dsimp only
  split
  · exact s.cores_qState e.1 q .ready
  · rfl

theorem State.cores_complete (s : State) (r : BitVec 512) (err : Bool) : (s.complete r err).cores = s.cores := by
  have h : (if recField r 271 1 = 1 then s.launchArrival (recField r 256 10) 1 err 0 else s).cores = s.cores := by
    split
    · rw [State.launchArrival, State.cores_wakeQueues, State.onLaunchWord, State.onHub_cores]
    · rfl
  unfold State.complete
  dsimp only
  split
  · exact h
  · exact h

theorem State.cores_headRecord (s : State) (p q : Nat) : (s.headRecord p q).cores = s.cores := by
  unfold State.headRecord
  split
  · exact s.cores_qFollow p q _
  · dsimp only
    split
    · exact s.cores_qError p q 8
    · split
      · exact State.cores_qError _ p q _
      · exact State.cores_qFollow _ p q _

theorem State.cores_advanceHead (s : State) (p q : Nat) : (s.advanceHead p q).cores = s.cores := by
  unfold State.advanceHead
  dsimp only
  split
  · rfl
  · exact State.cores_headRecord _ p q

theorem State.cores_beginRestore (s : State) (p : Nat) : (s.beginRestore p).cores = s.cores := by
  unfold State.beginRestore
  split
  · split <;> rfl
  · rfl

/-- The core of a context that ends is discarded. -/
theorem State.core_endContext (s : State) (cid : Nat) (st : CtxState) (k : KernelState) : (s.endContext cid st k).core cid = (s.core cid).discarded := by
  unfold State.endContext
  extract_lets cx s1 hub s2 s3 s4
  have h4 : s4.cores = s1.cores := State.cores_complete s3 _ _
  have h5 : (if (s4.queue cx.p cx.queue).launch = some cid then s4.advanceHead cx.p cx.queue else s4).cores = s1.cores := by
    split
    · exact (State.cores_advanceHead _ _ _).trans h4
    · exact h4
  rw [State.core_of_cores ((State.cores_beginRestore _ _).trans h5)]
  exact (State.core_setCore _ _ _ _).trans (if_pos rfl)

/-- A launch that comes back is not one that failed. -/
theorem State.beginRestore_failed {s : State} {cid : Nat} (h : (s.ctx cid).state = .failed) (p : Nat) : ((s.beginRestore p).ctx cid).state = .failed := by
  unfold State.beginRestore
  split
  · next c _ _ =>
    split
    · next hc =>
      have hne : cid ≠ c := by
        rintro rfl
        rw [h] at hc
        exact hc.elim (fun h => by cases h) fun h => by cases h
      rw [State.ctx_onCtx, if_neg hne, h]
    · exact h
  · exact h

theorem State.failContext_fails (s : State) (cid : Nat) : ((s.failContext cid).ctx cid).state = .failed ∧ ((s.failContext cid).core cid).owed = [] := by
  obtain ⟨u, hu, -, hst⟩ := s.endContext_eq cid .failed .faulted
  refine ⟨?_, ?_⟩
  · rw [State.failContext, hu]
    exact State.beginRestore_failed hst _
  · rw [State.failContext, State.core_endContext]
    rfl

theorem State.faultRespTerminate_spec {s : State} {p seq cid : Nat} {e : FaultEntry} {x : Context} (h : (s.part p).openEntry seq = some e)
    (hx : (s.ctxs.find? fun y => y.2.p == p && y.2.alive && y.2.holds.any (Hold.ofSeq seq)) = some (cid, x)) :
    Runs (.faultRespTerminate p seq) s fun t => ∃ u : State, t = u.retryFaults p ∧ (u.ctx cid).state = .failed ∧ (u.core cid).owed = [] := by
  have he : exec (.faultRespTerminate p seq) s = execFaultRespTerminate p seq s := rfl
  unfold execFaultRespTerminate at he
  rw [h] at he
  dsimp only at he
  have hfind : ((s.dropEntry p seq).ctxs.find? fun y => y.2.p == p && y.2.alive && y.2.holds.any (Hold.ofSeq seq)) = some (cid, x) := hx
  rw [hfind] at he
  exact ⟨_, he, _, rfl, State.failContext_fails _ cid⟩

end Sys2Proof.Machine
end

section
/-!
SUPPORT for O53. Shootdowns of a page, and the marks that poison service leaves.
-/
namespace Sys2Proof.Machine

/-! ### What depends on HBM alone -/

theorem State.leavesFrom_of_hbm {s t : State} (h : t.hbm = s.hbm) (level table va : Nat) : t.leavesFrom level table va = s.leavesFrom level table va := by
  have hvalid : ∀ table n, t.validEntries table n = s.validEntries table n := fun table n => by rw [State.validEntries, h]; rfl
  induction level generalizing table va with
  | zero =>
    unfold State.leavesFrom
    simp only [hvalid, State.pte_of_hbm h]
  | succ l ih =>
    unfold State.leavesFrom
    simp only [hvalid, State.pte_of_hbm h, ih]

/-! ### Shootdowns (R301, R302) -/

/-- The translations of a die are among those that it held. -/
structure DieHw.Fewer (a b : DieHw) : Prop where
  dtlb : ∀ e ∈ b.dtlb, e ∈ a.dtlb
  itlb : ∀ e ∈ b.itlb, e ∈ a.itlb
  linkTlb : ∀ e ∈ b.linkTlb, e ∈ a.linkTlb
  ltlb : ∀ e ∈ b.ltlb, e ∈ a.ltlb

/-- Translations go, and of the hub the shootdowns and the next number change: the rest of the machine stands. -/
structure State.Drops (s t : State) : Prop where
  cores : t.cores = s.cores
  ctxs : t.ctxs = s.ctxs
  parts : t.parts = s.parts
  hbm : t.hbm = s.hbm
  hw : ∀ d, (s.dieHw d).Fewer (t.dieHw d)

theorem DieHw.Fewer.refl (a : DieHw) : a.Fewer a := ⟨fun _ h => h, fun _ h => h, fun _ h => h, fun _ h => h⟩

theorem DieHw.Fewer.trans {a b c : DieHw} (h : a.Fewer b) (k : b.Fewer c) : a.Fewer c :=
  ⟨fun e he => h.dtlb e (k.dtlb e he), fun e he => h.itlb e (k.itlb e he), fun e he => h.linkTlb e (k.linkTlb e he), fun e he => h.ltlb e (k.ltlb e he)⟩

/-- All translations that a die holds. -/
def DieHw.tlbs (h : DieHw) : List TlbEntry := h.dtlb ++ h.itlb ++ h.linkTlb ++ h.ltlb

theorem DieHw.Fewer.tlbs {a b : DieHw} (h : a.Fewer b) {e : TlbEntry} (he : e ∈ b.tlbs) : e ∈ a.tlbs := by
  simp only [DieHw.tlbs, List.mem_append] at he ⊢
  exact he.imp (Or.imp (Or.imp (h.dtlb e) (h.itlb e)) (h.linkTlb e)) (h.ltlb e)

theorem State.Drops.refl (s : State) : s.Drops s := ⟨rfl, rfl, rfl, rfl, fun _ => .refl _⟩

theorem State.Drops.trans {s t u : State} (h : s.Drops t) (k : t.Drops u) : s.Drops u :=
  ⟨k.cores.trans h.cores, k.ctxs.trans h.ctxs, k.parts.trans h.parts, k.hbm.trans h.hbm, fun d => (h.hw d).trans (k.hw d)⟩

theorem State.Drops.foldl {α : Type} {f : State → α → State} (h : ∀ (s : State) (a : α), s.Drops (f s a)) (l : List α) (s : State) : s.Drops (l.foldl f s) := by
  induction l generalizing s with
  | nil => exact .refl s
  | cons a r ih => exact (h s a).trans (ih _)

theorem State.Drops.diesOf {s t : State} (h : s.Drops t) (p : Nat) : t.diesOf p = s.diesOf p := by
  rw [State.diesOf, State.part, h.parts]
  rfl

/-- A die drops its translations of a range. -/
def State.dropDie (s : State) (d va len : Nat) : State :=
  let keep (l : List TlbEntry) : List TlbEntry := l.filter fun e => !e.inRange va len
  s.onHw d fun h => { h with dtlb := keep h.dtlb, itlb := keep h.itlb, linkTlb := keep h.linkTlb, ltlb := keep h.ltlb }

theorem State.dropTlbs_eq (s : State) (p va len : Nat) : s.dropTlbs p va len = (s.diesOf p).foldl (fun s d => s.dropDie d va len) s := rfl

theorem State.Drops.dropDie (s : State) (d va len : Nat) : s.Drops (s.dropDie d va len) := by
  refine ⟨rfl, rfl, rfl, rfl, fun k => ?_⟩
  unfold State.dropDie
  dsimp only
  rw [State.dieHw_onHw]
  split
  · next hk =>
    rw [hk]
    exact ⟨fun _ h => (List.mem_filter.mp h).1, fun _ h => (List.mem_filter.mp h).1, fun _ h => (List.mem_filter.mp h).1, fun _ h => (List.mem_filter.mp h).1⟩
  · exact .refl _

theorem State.dropDie_tlbs (s : State) (d va len : Nat) {e : TlbEntry} (h : e ∈ ((s.dropDie d va len).dieHw d).tlbs) : e.inRange va len = false := by
  unfold State.dropDie at h
  dsimp only at h
  rw [State.dieHw_onHw, if_pos rfl] at h
  simp only [DieHw.tlbs, List.mem_append, List.mem_filter, Bool.not_eq_true'] at h
  tauto

theorem State.dropTlbs_hub (s : State) (p va len : Nat) : (s.dropTlbs p va len).hub = s.hub := by
  rw [State.dropTlbs_eq]
  exact foldl_keeps State.hub (fun s d => s.dropDie d va len) (fun _ _ => rfl) _ s

theorem State.Drops.dropTlbs (s : State) (p va len : Nat) : s.Drops (s.dropTlbs p va len) := by
  rw [State.dropTlbs_eq]
  exact .foldl (fun s d => .dropDie s d va len) _ s

/-- What the first step of a fold has dropped, stays dropped. -/
theorem State.foldl_drops {α : Type} {f : State → α → State} {P : α → TlbEntry → Prop} {d : α → Nat → Prop} (hf : ∀ (s : State) (a : α), s.Drops (f s a))
    (hd : ∀ (s : State) (a : α) (k : Nat), d a k → ∀ e ∈ ((f s a).dieHw k).tlbs, P a e) {l : List α} {a : α} (ha : a ∈ l) (s : State) {k : Nat} (hk : d a k) :
    ∀ e ∈ ((l.foldl f s).dieHw k).tlbs, P a e := by
  induction l generalizing s with
  | nil => exact (List.not_mem_nil ha).elim
  | cons b r ih =>
    rw [List.foldl_cons]
    obtain rfl | ha := List.mem_cons.mp ha
    · intro e he
      exact hd s a k hk e (((State.Drops.foldl hf r (f s a)).hw k).tlbs he)
    · exact ih ha _

theorem State.dropTlbs_tlbs (s : State) {p va len d : Nat} (hd : d ∈ s.diesOf p) {e : TlbEntry} (h : e ∈ ((s.dropTlbs p va len).dieHw d).tlbs) :
    e.inRange va len = false := by
  rw [State.dropTlbs_eq] at h
  exact State.foldl_drops (P := fun _ e => e.inRange va len = false) (d := fun a k => k = a) (fun s d => .dropDie s d va len)
    (fun s a k hk e he => s.dropDie_tlbs a va len (hk ▸ he)) hd s rfl e h

/-- A shootdown concerns no more contexts where translations are gone. -/
theorem State.Drops.concerned {s t : State} (h : s.Drops t) {cid va len : Nat} (hc : t.concerned cid va len = true) : s.concerned cid va len = true := by
  unfold State.concerned at hc ⊢
  dsimp only at hc ⊢
  rw [State.ctx_of_ctxs h.ctxs, State.core_of_cores h.cores, h.diesOf, State.leaves, State.leavesFrom_of_hbm h.hbm] at hc
  rw [Bool.and_eq_true, Bool.or_eq_true] at hc ⊢
  refine ⟨hc.1, hc.2.imp id fun hany => ?_⟩
  obtain ⟨d, hd, ht⟩ := List.any_eq_true.mp hany
  refine List.any_eq_true.mpr ⟨d, hd, ?_⟩
  rw [Bool.or_eq_true] at ht ⊢
  refine ht.imp (fun ht => ?_) id
  obtain ⟨e, he, hr⟩ := List.any_eq_true.mp ht
  exact List.any_eq_true.mpr ⟨e, (h.hw d).tlbs he, hr⟩

theorem mem_keys_of_has {α : Type} {m : SMap α} {n : Nat} (h : SMap.has m n = true) : n ∈ m.map Prod.fst := by
  by_contra hn
  induction m with
  | nil => cases h
  | cons e r ih =>
    rw [SMap.has, Bool.or_eq_true, beq_iff_eq] at h
    obtain rfl | h := h
    · exact hn List.mem_cons_self
    · exact ih h fun hm => hn (List.mem_cons_of_mem _ hm)

/-- The dies of the partitions of a list drop a range. -/
theorem State.dropAll_tlbs {l : List Nat} {p va len d : Nat} (hp : p ∈ l) {s : State} (hd : d ∈ s.diesOf p) {e : TlbEntry}
    (h : e ∈ ((l.foldl (fun s p => s.dropTlbs p va len) s).dieHw d).tlbs) : e.inRange va len = false := by
  induction l generalizing s with
  | nil => exact (List.not_mem_nil hp).elim
  | cons b r ih =>
    rw [List.foldl_cons] at h
    obtain rfl | hp := List.mem_cons.mp hp
    · have hdrops : (s.dropTlbs p va len).Drops (r.foldl (fun s p => s.dropTlbs p va len) (s.dropTlbs p va len)) :=
        .foldl (fun s p => .dropTlbs s p va len) r _
      exact s.dropTlbs_tlbs hd ((hdrops.hw d).tlbs h)
    · exact ih hp (s := s.dropTlbs b va len) (by rw [(State.Drops.dropTlbs s b va len).diesOf]; exact hd) h

/-- The state in which an accepted shootdown waits for the contexts that it concerns. -/
theorem State.startShootdown_spec (s : State) (va len : Nat) : let t := s.startShootdown va len 0
    s.Drops t ∧ t.hub.migrations = s.hub.migrations ∧ t.ShotDown va len := by
  intro t
  let left := (s.ctxs.map Prod.fst).filter fun c => s.concerned c va len
  let idle := (s.parts.map Prod.fst).filter fun p => !left.any fun c => (s.ctx c).p == p
  let s1 := s.onHub fun h => { h with nextId := (s.hub.nextId + 1) % 2 ^ 32 }
  let s2 := idle.foldl (fun s p => s.dropTlbs p va len) s1
  have h1 : s.Drops s1 := ⟨rfl, rfl, rfl, rfl, fun _ => .refl _⟩
  have h2 : s1.Drops s2 := .foldl (fun s p => .dropTlbs s p va len) idle s1
  have hhub : s2.hub = s1.hub := foldl_keeps State.hub (fun s p => s.dropTlbs p va len) (fun s p => s.dropTlbs_hub p va len) idle s1
  have hmig : s2.hub.migrations = s.hub.migrations := by rw [hhub]; rfl
  have ht : t = if left.isEmpty then s2 else
      { s2 with
        inputs := s2.inputs ++ left.map fun c => ⟨(s.ctx c).p, none, .shootdownApply c s.hub.nextId⟩
        hub := { s2.hub with shootdowns := s2.hub.shootdowns ++ [⟨s.hub.nextId, va, len, left, 0⟩] } } := by
    unfold t State.startShootdown
    rfl
  have hdrops : s.Drops t := by
    rw [ht]
    split
    · exact h1.trans h2
    · obtain ⟨a, b, c, d, e⟩ := h1.trans h2
      exact ⟨a, b, c, d, e⟩
  have hhw : t.hw = s2.hw := by
    rw [ht]
    split <;> rfl
  refine ⟨hdrops, ?_, fun c hc hcon => ?_, fun p hp hno d hd => ?_⟩
  · rw [ht]
    split
    · exact hmig
    · exact hmig
  · have hleft : c ∈ left := List.mem_filter.mpr ⟨mem_keys_of_has (hdrops.ctxs ▸ hc), hdrops.concerned hcon⟩
    have hne : ¬left.isEmpty = true := fun he => List.not_mem_nil (List.isEmpty_iff.mp he ▸ hleft)
    rw [ht, if_neg hne]
    exact ⟨⟨s.hub.nextId, va, len, left, 0⟩, List.mem_append_right _ List.mem_cons_self, rfl, rfl, hleft,
      ⟨(s.ctx c).p, none, .shootdownApply c s.hub.nextId⟩, List.mem_append_right _ (List.mem_map.mpr ⟨c, hleft, rfl⟩), rfl⟩
  · have hidle : p ∈ idle := by
      refine List.mem_filter.mpr ⟨mem_keys_of_has (hdrops.parts ▸ hp), ?_⟩
      rw [Bool.not_eq_true', List.any_eq_false]
      intro c hc hcp
      obtain ⟨e, he, rfl⟩ := List.mem_map.mp (List.mem_filter.mp hc).1
      refine hno e (hdrops.ctxs.symm ▸ he) ?_
      rw [State.ctx_of_ctxs hdrops.ctxs]
      exact eq_of_beq hcp
    intro h e he
    have hd1 : d ∈ s1.diesOf p := by
      rw [hdrops.diesOf] at hd
      exact hd
    refine State.dropAll_tlbs hidle hd1 (?_ : e ∈ (s2.dieHw d).tlbs)
    have hdie : t.dieHw d = s2.dieHw d := by rw [State.dieHw, hhw]; rfl
    rw [← hdie]
    exact he

end Sys2Proof.Machine
end

section
/-!
PROOF of O53. Migrations: how they begin, how they end in the new frame, and how they abort; and the statement.
-/
namespace Sys2Proof.Machine

/-! ### Maps that are written one key after the other -/

theorem keys_nodup_of_sorted {α : Type} {lo : Nat} {m : SMap α} (h : SMap.sortedFrom lo m = true) : (∀ e ∈ m, lo ≤ e.1) ∧ (m.map Prod.fst).Nodup := by
  induction m generalizing lo with
  | nil => exact ⟨fun e he => (List.not_mem_nil he).elim, List.nodup_nil⟩
  | cons e r ih =>
    rw [SMap.sortedFrom, Bool.and_eq_true, decide_eq_true_eq] at h
    obtain ⟨hlo, hn⟩ := ih h.2
    refine ⟨fun x hx => ?_, List.nodup_cons.mpr ⟨fun hmem => ?_, hn⟩⟩
    · obtain rfl | hx := List.mem_cons.mp hx
      · exact h.1
      · have := hlo x hx
        omega
    · obtain ⟨x, hx, he⟩ := List.mem_map.mp hmem
      have := hlo x hx
      omega

section
variable {α : Type} [DecidableEq α] {d : α} {k : Nat → Nat}

/-- A key that no entry of a list is written under reads as before. -/
theorem get_foldl_set_of_ne {l : SMap α} {n : Nat} (h : ∀ e ∈ l, k e.1 ≠ n) (m : SMap α) :
    SMap.get d (l.foldl (fun m e => SMap.set d m (k e.1) e.2) m) n = SMap.get d m n := by
  induction l generalizing m with
  | nil => rfl
  | cons e r ih =>
    rw [List.foldl_cons, ih (fun x hx => h x (List.mem_cons_of_mem _ hx)), SMap.get_set, if_neg (h e List.mem_cons_self).symm]

/-- A key under which one entry of a list is written reads that entry. -/
theorem get_foldl_set_of_mem {l : SMap α} (hl : (l.map Prod.fst).Nodup) (hk : ∀ a ∈ l, ∀ b ∈ l, k a.1 = k b.1 → a.1 = b.1) {e : Nat × α} (he : e ∈ l) (m : SMap α) :
    SMap.get d (l.foldl (fun m e => SMap.set d m (k e.1) e.2) m) (k e.1) = e.2 := by
  induction l generalizing m with
  | nil => exact (List.not_mem_nil he).elim
  | cons x r ih =>
    obtain ⟨hx, hr⟩ := List.nodup_cons.mp hl
    rw [List.foldl_cons]
    obtain rfl | he := List.mem_cons.mp he
    · rw [get_foldl_set_of_ne, SMap.get_set, if_pos rfl]
      intro y hy hky
      have hxy := hk y (List.mem_cons_of_mem _ hy) e List.mem_cons_self hky
      exact hx (hxy ▸ List.mem_map_of_mem hy)
    · exact ih hr (fun a ha b hb => hk a (List.mem_cons_of_mem _ ha) b (List.mem_cons_of_mem _ hb)) he _

omit [DecidableEq α] in
/-- A filter by keys reads as before under a key that it keeps, and as nothing under one that it drops. -/
theorem get_filter_keys (p : Nat → Bool) (m : SMap α) (n : Nat) : SMap.get d (m.filter fun e => p e.1) n = if p n then SMap.get d m n else d := by
  induction m with
  | nil => rw [List.filter_nil]; exact (ite_self d).symm
  | cons e r ih =>
    obtain ⟨a, v⟩ := e
    by_cases ha : p a
    · rw [List.filter_cons_of_pos (p := fun e : Nat × α => p e.1) ha]
      unfold SMap.get
      rw [ih]
      by_cases han : a = n
      · rw [if_pos han, if_pos han, ← han, if_pos ha]
      · rw [if_neg han, if_neg han]
    · rw [List.filter_cons_of_neg (p := fun e : Nat × α => p e.1) ha, ih]
      by_cases hn : p n
      · have han : a ≠ n := fun h => ha (h ▸ hn)
        rw [if_pos hn, if_pos hn, SMap.get, if_neg han]
      · rw [if_neg hn, if_neg hn]

end

/-! ### A frame that is copied (R305) -/

theorem State.copyFrame_hbmByte {s : State} (hs : s.Safe) (src dst size a : Nat) :
    (s.copyFrame src dst size).hbmByte a = if dst ≤ a ∧ a < dst + size then s.hbmByte (src + (a - dst)) else s.hbmByte a := by
  obtain ⟨-, hnodup⟩ := keys_nodup_of_sorted (Bool.and_eq_true_iff.mp hs).1
  let cells : SMap Byte := s.hbm.filter fun c => decide (src ≤ c.1 ∧ c.1 < src + size)
  let rest : SMap Byte := s.hbm.filter fun c => !decide (dst ≤ c.1 ∧ c.1 < dst + size)
  have hcells : ∀ e ∈ cells, src ≤ e.1 ∧ e.1 < src + size := fun e he => by simpa using (List.mem_filter.mp he).2
  have hbyte : (s.copyFrame src dst size).hbmByte a = SMap.get 0 (cells.foldl (fun m e => SMap.set 0 m (e.1 - src + dst) e.2) rest) a := rfl
  have hrest : SMap.get (0 : Byte) rest a = if !decide (dst ≤ a ∧ a < dst + size) then s.hbmByte a else 0 :=
    get_filter_keys (fun n => !decide (dst ≤ n ∧ n < dst + size)) s.hbm a
  rw [hbyte]
  by_cases ha : dst ≤ a ∧ a < dst + size
  · rw [if_pos ha]
    obtain hmem | ⟨hnot, hzero⟩ := SMap.mem_or_get_eq (0 : Byte) s.hbm (src + (a - dst))
    · have hin : (src + (a - dst), s.hbmByte (src + (a - dst))) ∈ cells := List.mem_filter.mpr ⟨hmem, by simpa using by omega⟩
      have hget := get_foldl_set_of_mem (d := (0 : Byte)) (k := fun n => n - src + dst) (hnodup.sublist (List.filter_sublist.map Prod.fst))
        (fun x hx y hy hxy => by
          have h1 := hcells x hx
          have h2 := hcells y hy
          omega) hin rest
      have hkey : src + (a - dst) - src + dst = a := by omega
      dsimp only at hget
      rwa [hkey] at hget
    · rw [get_foldl_set_of_ne (k := fun n => n - src + dst), hrest, if_neg (by rw [decide_eq_true ha]; exact Bool.false_ne_true)]
      · exact hzero.symm
      · intro e he hk
        have h1 := hcells e he
        refine hnot (List.mem_map.mpr ⟨e, (List.mem_filter.mp he).1, ?_⟩)
        omega
  · rw [if_neg ha, get_foldl_set_of_ne (k := fun n => n - src + dst), hrest, if_pos (by rw [decide_eq_false ha]; rfl)]
    intro e he hk
    have h1 := hcells e he
    omega

/-! ### Leaves that change (R305) -/

theorem State.pte_of_bytes {s t : State} {pa : Nat} (h : ∀ i < 8, t.hbmByte (pa + i) = s.hbmByte (pa + i)) : t.pte pa = s.pte pa := by
  unfold State.pte State.hbmRead
  rw [List.map_congr_left fun i hi => h i (List.mem_range.mp hi)]

/-- A walk finds the leaf that stands at its address. -/
theorem State.walkFrom_leaf {s : State} {va n table : Nat} {leaf : BitVec 64} {level pa : Nat} (h : s.walkFrom va n table = .leaf leaf level pa) :
    s.pte pa = leaf := by
  have hentry : ∀ (e : BitVec 64) (l at_ : Nat) (below : WalkResult), s.pte at_ = e → entryFinds e l at_ below = .leaf leaf level pa →
      s.pte pa = leaf ∨ below = .leaf leaf level pa := by
    intro e l at_ below he hf
    unfold entryFinds at hf
    split at hf
    · cases hf
    · split at hf
      · cases hf
      · split at hf
        · cases hf
          exact .inl he
        · exact .inr hf
  induction n generalizing table with
  | zero =>
    rw [State.walkFrom_zero] at h
    exact (hentry _ _ _ _ rfl h).resolve_right fun h => by cases h
  | succ n ih =>
    rw [State.walkFrom_succ] at h
    exact (hentry _ _ _ _ rfl h).elim id ih

theorem State.setLeaf_spec (s : State) (pa : Nat) (set clear : BitVec 64) : (s.setLeaf pa set clear).pte pa = leafBits (s.pte pa) set clear
    ∧ ∀ a, a < pa ∨ pa + 8 ≤ a → (s.setLeaf pa set clear).hbmByte a = s.hbmByte a :=
  ⟨s.pte_hbmWrite pa _, fun _ ha => s.hbmByte_pteWrite pa _ ha⟩

/-- A page stays shot down where nothing of the hub's shootdowns changes. -/
theorem State.ShotDown.onHub {s : State} {va len : Nat} (h : s.ShotDown va len) {f : Hub → Hub} (hf : (f s.hub).shootdowns = s.hub.shootdowns) :
    (s.onHub f).ShotDown va len := by
  have hd : s.Drops (s.onHub f) := ⟨rfl, rfl, rfl, rfl, fun _ => .refl _⟩
  refine ⟨fun c hc hcon => ?_, h.2⟩
  obtain ⟨x, hx, h⟩ := h.1 c hc (hd.concerned hcon)
  exact ⟨x, hf.symm ▸ hx, h⟩

/-- MIGRATION_START of a page whose leaf may move. -/
theorem State.migrationStart_spec {s : State} {p va frame : Nat} {leaf : BitVec 64} {level pa : Nat} (hw : s.walk (s.rootFor p va) va = .leaf leaf level pa)
    (h10 : leaf.getLsbD 10 = false) (h11 : leaf.getLsbD 11 = false) (hmod : frame % 2 ^ pageBits level = 0) (h48 : frame < 2 ^ 48) (h52 : va < 2 ^ 52) :
    let size := 2 ^ pageBits level
    Runs (.migrationStart p va frame) s fun t => ⟨p, va / size * size, pa, frame⟩ ∈ t.hub.migrations ∧ t.cores = s.cores
      ∧ t.pte pa = leafBits (s.pte pa) 0x400 0 ∧ t.ShotDown (va / size * size) size ∧ ∀ a, a < pa ∨ pa + 8 ≤ a → t.hbmByte a = s.hbmByte a := by
  intro size
  have he : exec (.migrationStart p va frame) s = execMigrationStart p va frame s := rfl
  unfold execMigrationStart at he
  rw [hw] at he
  dsimp -zeta only at he
  extract_lets base s1 at he
  have hfree : ¬(pteBit leaf 10 || pteBit leaf 11 || decide (frame % size ≠ 0 ∨ frame ≥ 2 ^ 48 ∨ va ≥ 2 ^ 52)) = true := by
    have hlegal : decide (frame % size ≠ 0 ∨ frame ≥ 2 ^ 48 ∨ va ≥ 2 ^ 52) = false := decide_eq_false (by
      rintro (h | h | h)
      · exact h hmod
      · omega
      · omega)
    rw [pteBit, pteBit, h10, h11, hlegal]
    decide
  rw [if_neg hfree] at he
  obtain ⟨hpte, hbytes⟩ := s.setLeaf_spec pa 0x400 0
  obtain ⟨hd, -, hshot⟩ := (s.setLeaf pa 0x400 0).startShootdown_spec base size
  refine ⟨_, he, List.mem_append_right _ List.mem_cons_self, hd.cores, ?_, hshot.onHub rfl, fun a ha => ?_⟩
  · exact (State.pte_of_hbm hd.hbm pa).trans hpte
  · rw [← hbytes a ha]
    exact congrArg (fun m => SMap.get (0 : Byte) m a) hd.hbm

/-! ### Lines that are marked (R306) -/

/-- What poison service leaves: every core, and the migrations under way. -/
def State.marking (s : State) : SMap Core × List Migration := (s.cores, s.hub.migrations)

theorem State.Posts.marking {P : Nat → Prop} {s t : State} (h : State.Posts P s t) : t.marking = s.marking := by
  have hm : t.hub.migrations = s.hub.migrations := eq_of_kept Hub.kept Hub.migrations (fun _ => rfl) h.hub
  rw [State.marking, h.cores, hm]
  rfl

theorem State.startShootdown_marking (s : State) (va len : Nat) : (s.startShootdown va len 0).marking = s.marking := by
  obtain ⟨hd, hm, -⟩ := s.startShootdown_spec va len
  rw [State.marking, hd.cores, hm]
  rfl

theorem State.poisonHolds_marking (s : State) (va len : Nat) : (s.poisonHolds va len).marking = s.marking := by
  unfold State.poisonHolds
  refine foldl_keeps State.marking _ (fun s cid => ?_) _ s
  dsimp only
  split
  · exact (s.beginHolds_posts cid _).marking
  · rfl

theorem State.notice_marking (s : State) (p kind va : Nat) : (s.notice p kind va).marking = s.marking :=
  State.Posts.marking (P := fun _ => False) (.queueFault s p va kind p 0 0 0)

theorem State.markLine_marking (s : State) (line : Nat) : (s.markLine line).marking = s.marking := by
  unfold State.markLine
  refine (foldl_keeps State.marking _ (fun s e => ?_) _ _).trans rfl
  rw [State.notice_marking, State.poisonHolds_marking, State.startShootdown_marking]
  rfl

/-! ### How a migration ends (R305) -/

/-- The state in which MIGRATION_COMPLETE leaves a page that moves to its new frame. -/
def State.moved (s : State) (m : Migration) (va src size pa : Nat) : State :=
  (((s.onHub fun h => { h with migrations := h.migrations.filter (· != m) }).copyFrame src m.frame size).setLeaf pa (BitVec.ofNat 64 m.frame)
    0x0000FFFFFFFF0400).startShootdown va size 0

/-- The state of an aborted migration whose page is shot down, before the host is told. -/
def State.unmoved (s : State) (m : Migration) (va src size pa : Nat) (badLines : List Nat) : State :=
  (((badLines ++ s.hub.badWords.map (· / 16)).eraseDups.filter fun l => decide (src ≤ 64 * l ∧ 64 * l < src + size)).foldl (fun (s : State) l => s.markLine l)
    ((s.onHub fun h => { h with migrations := h.migrations.filter (· != m) }).setLeaf pa 0 0x400)).startShootdown va size 0

theorem State.exec_migrationComplete {s : State} {p va : Nat} {m : Migration} {leaf : BitVec 64} {level pa : Nat} (abort : Bool) (l : List Nat)
    (hm : (s.hub.migrations.find? fun m => m.p == p && m.va == va) = some m) (hw : s.walk (s.rootFor p va) va = .leaf leaf level pa)
    (hr : s.frameRests va (2 ^ pageBits level) (pteBase leaf) = true) : exec (.migrationComplete p va abort l) s =
      .next (if abort || s.badIn (pteBase leaf) (2 ^ pageBits level) then (s.unmoved m va (pteBase leaf) (2 ^ pageBits level) pa l).notice p 5 va
        else s.moved m va (pteBase leaf) (2 ^ pageBits level) pa) := by
  have he : exec (.migrationComplete p va abort l) s = execMigrationComplete p va abort l s := rfl
  rw [he]
  unfold execMigrationComplete
  rw [hm]
  dsimp only
  rw [hw]
  dsimp only
  rw [hr, Bool.not_true, if_neg Bool.false_ne_true]
  rfl

theorem State.unmoved_spec (s : State) (m : Migration) (va src size pa : Nat) (l : List Nat) : let u := s.unmoved m va src size pa l
    m ∉ u.hub.migrations ∧ u.cores = s.cores ∧ u.ShotDown va size := by
  have hmarked : (s.unmoved m va src size pa l).marking = (s.cores, s.hub.migrations.filter (· != m)) := by
    unfold State.unmoved
    rw [State.startShootdown_marking]
    exact foldl_keeps State.marking (fun (s : State) l => s.markLine l) (fun s l => s.markLine_marking l) _ _
  have hcores : (s.unmoved m va src size pa l).cores = s.cores := congrArg Prod.fst hmarked
  have hmig : (s.unmoved m va src size pa l).hub.migrations = s.hub.migrations.filter (· != m) := congrArg Prod.snd hmarked
  refine ⟨?_, hcores, (State.startShootdown_spec _ va size).2.2⟩
  rw [hmig]
  exact fun hmem => by simpa using (List.mem_filter.mp hmem).2

theorem State.moved_spec {s : State} (hs : s.Safe) {m : Migration} {va src size pa : Nat} {leaf : BitVec 64} (hleaf : s.pte pa = leaf) :
    let t := s.moved m va src size pa
    m ∉ t.hub.migrations ∧ t.cores = s.cores ∧ t.ShotDown va size
      ∧ (∀ i < size, m.frame + i < pa ∨ pa + 8 ≤ m.frame + i → t.hbmByte (m.frame + i) = s.hbmByte (src + i))
      ∧ (∀ a, a < pa ∨ pa + 8 ≤ a → a < m.frame ∨ m.frame + size ≤ a → t.hbmByte a = s.hbmByte a)
      ∧ (pa + 8 ≤ m.frame ∨ m.frame + size ≤ pa → t.pte pa = leafBits leaf (BitVec.ofNat 64 m.frame) 0x0000FFFFFFFF0400) := by
  have hcopy : ∀ a, ((s.onHub fun h => { h with migrations := h.migrations.filter (· != m) }).copyFrame src m.frame size).hbmByte a
      = if m.frame ≤ a ∧ a < m.frame + size then s.hbmByte (src + (a - m.frame)) else s.hbmByte a :=
    State.copyFrame_hbmByte (s := s.onHub fun h => { h with migrations := h.migrations.filter (· != m) }) hs src m.frame size
  have hcores : ((s.onHub fun h => { h with migrations := h.migrations.filter (· != m) }).copyFrame src m.frame size).cores = s.cores := rfl
  have hmig : ((s.onHub fun h => { h with migrations := h.migrations.filter (· != m) }).copyFrame src m.frame size).hub.migrations
      = s.hub.migrations.filter (· != m) := rfl
  unfold State.moved
  generalize (s.onHub fun h => { h with migrations := h.migrations.filter (· != m) }).copyFrame src m.frame size = c at hcopy hcores hmig
  obtain ⟨hpte, hbytes⟩ := c.setLeaf_spec pa (BitVec.ofNat 64 m.frame) 0x0000FFFFFFFF0400
  obtain ⟨hd, hm, hshot⟩ := (c.setLeaf pa (BitVec.ofNat 64 m.frame) 0x0000FFFFFFFF0400).startShootdown_spec va size
  intro t
  have hbyte : ∀ a, a < pa ∨ pa + 8 ≤ a → t.hbmByte a = c.hbmByte a := fun a ha =>
    (congrArg (fun m => SMap.get (0 : Byte) m a) hd.hbm).trans (hbytes a ha)
  refine ⟨fun hmem => ?_, hd.cores.trans hcores, hshot, fun i hi ha => ?_, fun a ha hout => ?_, fun hout => ?_⟩
  · have hmem' : m ∈ s.hub.migrations.filter (· != m) := hmig ▸ hm ▸ hmem
    simpa using (List.mem_filter.mp hmem').2
  · rw [hbyte _ ha, hcopy, if_pos (by omega), Nat.add_sub_cancel_left]
  · rw [hbyte a ha, hcopy, if_neg (by omega)]
  · have hsame : c.pte pa = leaf := by
      rw [← hleaf]
      exact State.pte_of_bytes fun i hi => by rw [hcopy, if_neg (by omega)]
    rw [← hsame, ← hpte]
    exact State.pte_of_hbm hd.hbm pa

/-- MIGRATION_COMPLETE of a migration whose frame is at rest. -/
theorem State.migrationComplete_spec {s : State} {p va : Nat} {m : Migration} {leaf : BitVec 64} {level pa : Nat} (l : List Nat) (hs : s.Safe)
    (hm : (s.hub.migrations.find? fun m => m.p == p && m.va == va) = some m) (hw : s.walk (s.rootFor p va) va = .leaf leaf level pa) :
    let size := 2 ^ pageBits level
    let src := pteBase leaf
    s.frameRests va size src = true →
    ((∀ w ∈ s.hub.badWords, 4 * w < src ∨ src + size ≤ 4 * w) →
      Runs (.migrationComplete p va false l) s fun t => m ∉ t.hub.migrations ∧ t.cores = s.cores ∧ t.ShotDown va size
      ∧ (∀ i < size, m.frame + i < pa ∨ pa + 8 ≤ m.frame + i → t.hbmByte (m.frame + i) = s.hbmByte (src + i))
      ∧ (∀ a, a < pa ∨ pa + 8 ≤ a → a < m.frame ∨ m.frame + size ≤ a → t.hbmByte a = s.hbmByte a)
      ∧ (pa + 8 ≤ m.frame ∨ m.frame + size ≤ pa → t.pte pa = leafBits leaf (BitVec.ofNat 64 m.frame) 0x0000FFFFFFFF0400))
    ∧ Runs (.migrationComplete p va true l) s fun t => m ∉ t.hub.migrations ∧ t.cores = s.cores
      ∧ ∃ u : State, t = u.notice p 5 va ∧ u.ShotDown va size := by
  intro size src hr
  refine ⟨fun hgood => ?_, ?_⟩
  · have hbad : s.badIn src size = false := by
      refine List.any_eq_false.mpr fun w hwm => ?_
      have := hgood w hwm
      rw [decide_eq_true_eq]
      omega
    have he := State.exec_migrationComplete false l hm hw hr
    rw [show s.badIn (pteBase leaf) (2 ^ pageBits level) = false from hbad, if_neg (by decide)] at he
    exact ⟨_, he, State.moved_spec hs (State.walkFrom_leaf hw)⟩
  · have he := State.exec_migrationComplete true l hm hw hr
    rw [Bool.true_or, if_pos rfl] at he
    obtain ⟨hmig, hcores, hshot⟩ := s.unmoved_spec m va src size pa l
    have hnote := State.notice_marking (s.unmoved m va src size pa l) p 5 va
    refine ⟨_, he, ?_, (congrArg Prod.fst hnote).trans hcores, _, rfl, hshot⟩
    rw [show ((s.unmoved m va src size pa l).notice p 5 va).hub.migrations = _ from congrArg Prod.snd hnote]
    exact hmig

/-! ### The statement -/

/-- What completes: the answers in every state, and the services for what they serve. -/
theorem State.services_complete (s : State) (cid p seq : Nat) (abort : Bool) (l : List Nat) :
    Completes (.faultRespRetry p seq) s ∧ Completes (.faultRespTerminate p seq) s
    ∧ ((s.part p).n ≠ 0 → Completes (.energyRefill p) s)
    ∧ (∀ h ∈ (s.ctx cid).holds, ∀ va perm n, h.on = .walk va perm n → Completes (.walkComplete cid h.die) s)
    ∧ ∀ m ∈ s.hub.migrations, ∀ leaf level pa, s.walk (s.rootFor m.p m.va) m.va = .leaf leaf level pa →
        s.frameRests m.va (2 ^ pageBits level) (pteBase leaf) = true → Completes (.migrationComplete m.p m.va abort l) s := by
  refine ⟨?_, ?_, fun hn => ?_, fun h hh va perm n hon => ?_, fun m hm leaf level pa hw hr => ?_⟩
  · show ∃ t, execFaultRespRetry p seq s = .next t
    unfold execFaultRespRetry
    split
    · exact ⟨_, rfl⟩
    · exact ⟨_, rfl⟩
  · show ∃ t, execFaultRespTerminate p seq s = .next t
    unfold execFaultRespTerminate
    split
    · exact ⟨_, rfl⟩
    · exact ⟨_, rfl⟩
  · obtain ⟨t, ht, -⟩ := State.energyRefill_spec hn
    exact ⟨t, ht⟩
  · have hsome : ((s.ctx cid).holds.find? (Hold.walks h.die)).isSome := by
      rw [List.find?_isSome]
      exact ⟨h, hh, by rw [Hold.walks, hon, beq_self_eq_true]; rfl⟩
    obtain ⟨⟨kind, die, on⟩, hg⟩ := Option.isSome_iff_exists.mp hsome
    have hwalks := List.find?_some hg
    show ∃ t, execWalkComplete cid h.die s = .next t
    unfold execWalkComplete
    extract_lets walking c
    have hfind : (s.ctx cid).holds.find? walking = some ⟨kind, die, on⟩ := hg
    rw [hfind]
    cases on with
    | walk va perm n => exact ⟨_, rfl⟩
    | _ => simp [Hold.walks] at hwalks
  · have hsome : (s.hub.migrations.find? fun x => x.p == m.p && x.va == m.va).isSome := by
      rw [List.find?_isSome]
      exact ⟨m, hm, by simp⟩
    obtain ⟨x, hx⟩ := Option.isSome_iff_exists.mp hsome
    exact ⟨_, State.exec_migrationComplete abort l hx hw hr⟩

/-- Settles O53: what is served leaves the context at its boundary standing (`State.Rests`), holds stand as they are recorded, and a page that
moves is shot down. -/
theorem holdsBeginAndEnd : Obligations.HoldsBeginAndEnd := by
  unfold Obligations.HoldsBeginAndEnd
  refine ⟨fun s cid p seq abort l => s.services_complete cid p seq abort l, fun s cid hs hne hlt hp => s.beginHolds_recorded cid hne hlt hp,
    fun s cid die va perm n => ?_, fun s cid cyc die kind va perm n seq why hnd a leaf level pa => ?_, fun s cid die l h => State.icacheFill_spec h,
    fun s cid die cyc h => State.fillLate_spec h, fun s cid die target xd h hw => State.alignRelease_spec h hw, fun s p hn => State.energyRefill_spec hn,
    fun s p seq => ⟨State.faultResp_closed, fun e h => State.faultRespRetry_spec h, fun e cid x h hx => State.faultRespTerminate_spec h hx⟩,
    fun s p va frame leaf level pa hw => ?_, fun s p va m leaf level pa l hs hm hw => State.migrationComplete_spec l hs hm hw⟩
  · intro walking h
    have hwalks : walking = Hold.walks die := rfl
    rw [hwalks] at h
    exact State.walkComplete_spec h
  · intro c on hon hf hw
    simp only [List.mem_cons, List.not_mem_nil, or_false] at hon
    obtain rfl | rfl | rfl := hon
    · exact State.formResults_handle (fun _ => rfl) hf hw
    · exact State.formResults_handle (fun _ => rfl) hf hw
    · exact State.formResults_handle (fun _ => rfl) hf hw
  · intro size h10 h11 hmod h48 h52
    exact State.migrationStart_spec hw h10 h11 hmod h48 h52

end Sys2Proof.Machine
end

section
/-!
SUPPORT for the families of numbers. What a computation that raises flags gives: its value, which the flags that stand do not enter.
-/
namespace Sys2Proof

/-- What a computation gives when no flag stands. -/
def Flagged.value {α : Type} (c : Flagged α) : α := (c.run 0).1

/-- The flags that stand before a computation only gather: they do not enter what it gives. -/
def Flagged.Steady {α : Type} (c : Flagged α) : Prop := ∀ fl, (c.run fl).1 = Flagged.value c

namespace Flagged
variable {α β : Type}

@[simp] theorem steady_pure (a : α) : Steady (pure a) := fun _ => rfl
@[simp] theorem steady_raise (f : Nat) : Steady (raiseFlags f) := fun _ => rfl
@[simp] theorem value_pure (a : α) : value (pure a) = a := rfl

@[simp] theorem steady_bind {c : Flagged α} {k : α → Flagged β} (hc : Steady c) (hk : ∀ a, Steady (k a)) : Steady (c >>= k) := fun fl => by
  change ((k (c.run fl).1).run (c.run fl).2).1 = ((k (c.run 0).1).run (c.run 0).2).1
  rw [hk, hk, hc fl]
  rfl

theorem value_bind (c : Flagged α) {k : α → Flagged β} (hk : ∀ a, Steady (k a)) : value (c >>= k) = value (k (value c)) :=
  hk _ _

theorem value_raise_bind (f : Nat) {k : Unit → Flagged β} (hk : ∀ a, Steady (k a)) : value (raiseFlags f >>= k) = value (k ()) := hk _ _

@[simp] theorem value_bind_pure (c : Flagged α) (g : α → β) : value (c >>= fun a => pure (g a)) = g (value c) := rfl

@[simp] theorem steady_ite {p : Prop} [Decidable p] {c d : Flagged α} (hc : Steady c) (hd : Steady d) : Steady (if p then c else d) := by
  split
  · exact hc
  · exact hd

@[simp] theorem steady_map {c : Flagged α} (hc : Steady c) (g : α → β) : Steady (g <$> c) := fun fl => congrArg g (hc fl)

/-- A computation whose flags are dropped. -/
@[simp] theorem steady_quiet (c : Flagged α) : Steady (quiet c) := fun _ => rfl

end Flagged

section
open Flagged

@[simp] theorem steady_round (l : Layout) (rm : Nat) (fr : Bool) (x : Num) : Steady (l.round rm fr x) := by
  intro fl
  rw [Machine.round_run_fst, value, Machine.round_run_fst]

@[simp] theorem steady_numAdd (rd : Bool) (a b : Num) : Steady (numAdd rd a b) := by
  cases a <;> cases b <;> simp [numAdd]

@[simp] theorem steady_numMul (a b : Num) : Steady (numMul a b) := by
  cases a <;> cases b <;> simp only [numMul] <;> simp
  split <;> simp

@[simp] theorem steady_numSqrt (a : Num) : Steady (numSqrt a) := by
  unfold numSqrt
  split <;> simp

@[simp] theorem steady_rne32 (x : Num) : Steady (rne32 x) := steady_round _ _ _ _

@[simp] theorem steady_numFma (rd : Bool) (a b c : Num) : Steady (numFma rd a b c) := by simp [numFma]
@[simp] theorem steady_fma32 (a b c : Nat) : Steady (fma32 a b c) := by simp [fma32]
@[simp] theorem steady_sub32 (a b : Nat) : Steady (sub32 a b) := by simp [sub32]
@[simp] theorem steady_mul32 (a b : Nat) : Steady (mul32 a b) := by simp [mul32]
@[simp] theorem steady_sqrt32 (a : Nat) : Steady (sqrt32 a) := by simp [sqrt32]
@[simp] theorem steady_add32 (a b : Nat) : Steady (add32 a b) := by simp [add32]
@[simp] theorem steady_scale32 (a : Nat) (k : Int) : Steady (scale32 a k) := steady_rne32 _

/-! ### The algorithms (R63 to R66): the special cases, then steps whose flags are dropped -/

theorem steady_raise_bind {α : Type} (f : Nat) {k : Unit → Flagged α} (hk : ∀ a, Steady (k a)) : Steady (raiseFlags f >>= k) :=
  steady_bind (steady_raise f) hk

theorem steady_quiet_bind {α β : Type} (c : Flagged α) {k : α → Flagged β} (hk : ∀ a, Steady (k a)) : Steady (quiet c >>= k) :=
  steady_bind (steady_quiet c) hk

@[simp] theorem steady_expAlg (x : Nat) : Steady (expAlg x) := by
  unfold expAlg
  split
  · simp
  · simp
  · simp
  · exact steady_raise_bind _ fun _ => steady_quiet_bind _ fun t => steady_ite (by simp) (steady_ite (by simp)
      (steady_quiet_bind _ fun _ => steady_quiet_bind _ fun _ => steady_quiet_bind _ fun _ => steady_quiet_bind _ fun _ => steady_scale32 _ _))

@[simp] theorem steady_logAlg (x : Nat) : Steady (logAlg x) := by
  unfold logAlg
  split
  · simp
  · simp
  · simp
  · exact steady_ite (by simp) (steady_ite (by simp) (steady_ite (by simp) (steady_raise_bind _ fun _ => steady_quiet_bind _ fun _ =>
      steady_quiet_bind _ fun _ => steady_quiet_bind _ fun _ => steady_quiet_bind _ fun _ => steady_quiet_bind _ fun _ => steady_add32 _ _)))

@[simp] theorem steady_rcpAlg (x : Nat) : Steady (rcpAlg x) := by
  unfold rcpAlg
  split
  · simp
  · simp
  · exact steady_ite (by simp) (steady_raise_bind _ fun _ => steady_quiet_bind _ fun _ => steady_quiet_bind _ fun _ =>
      steady_quiet_bind _ fun _ => by simp)

@[simp] theorem steady_rsqAlg (x : Nat) : Steady (rsqAlg x) := by
  unfold rsqAlg
  split <;> simp

@[simp] theorem steady_tanhAlg (x : Nat) : Steady (tanhAlg x) := by
  unfold tanhAlg
  split
  · simp
  · simp
  · exact steady_ite (by simp) (steady_ite (by simp) (steady_ite (by simp) (steady_raise_bind _ fun _ => steady_quiet_bind _ fun _ =>
      steady_quiet_bind _ fun _ => steady_quiet_bind _ fun _ => by simp)))

@[simp] theorem steady_sigAlg (x : Nat) : Steady (sigAlg x) := by
  unfold sigAlg
  split
  · simp
  · simp
  · simp
  · exact steady_raise_bind _ fun _ => steady_quiet_bind _ fun _ => steady_quiet_bind _ fun _ => steady_rcpAlg _

@[simp] theorem steady_capPhi (x : Nat) : Steady (capPhi x) := by
  unfold capPhi
  split
  · simp
  · simp
  · exact steady_ite (by simp) (steady_ite (by simp) (steady_raise_bind _ fun _ => steady_quiet_bind _ fun _ => steady_quiet_bind _ fun _ =>
      steady_quiet_bind _ fun _ => steady_quiet_bind _ fun _ => steady_quiet_bind _ fun _ => by simp))

@[simp] theorem steady_lowPhi (x : Nat) : Steady (lowPhi x) := by
  unfold lowPhi
  split
  · simp
  · simp
  · exact steady_ite (by simp) (steady_ite (by simp) (steady_raise_bind _ fun _ => steady_quiet_bind _ fun _ => steady_quiet_bind _ fun _ =>
      steady_quiet_bind _ fun _ => steady_quiet_bind _ fun _ => steady_quiet_bind _ fun _ => by simp))

end
end Sys2Proof
end

section
/-!
SUPPORT for the families of numbers. The exact value of a number, and the integer that a mode makes of it (R43).
-/
namespace Sys2Proof.Machine

/-! ### The value of a number -/

theorem numRat_fin (n : Bool) (m : Nat) (e : Int) : numRat (.fin n m e) = (if n then -1 else 1) * (m : ℚ) * (2 : ℚ) ^ e := rfl

theorem numRat_true (m : Nat) (e : Int) : numRat (.fin true m e) = -numRat (.fin false m e) := by simp [numRat]

theorem numRat_false (m : Nat) (e : Int) : numRat (.fin false m e) = m * (2 : ℚ) ^ e := by simp [numRat]

theorem abs_numRat (n : Bool) (m : Nat) (e : Int) : |numRat (.fin n m e)| = m * (2 : ℚ) ^ e := by
  have h : (0 : ℚ) ≤ m * (2 : ℚ) ^ e := by positivity
  cases n
  · rw [numRat_false, abs_of_nonneg h]
  · rw [numRat_true, abs_neg, numRat_false, abs_of_nonneg h]

@[simp] theorem numRat_zero (n : Bool) (e : Int) : numRat (.fin n 0 e) = 0 := by simp [numRat]

theorem numRat_eq_zero {n : Bool} {m : Nat} {e : Int} : numRat (.fin n m e) = 0 ↔ m = 0 := by
  rw [← abs_eq_zero, abs_numRat]
  simp [zpow_ne_zero e (two_ne_zero (α := ℚ))]

@[simp] theorem numRat_neg (x : Num) : numRat x.neg = -numRat x := by
  cases x with
  | nan s => simp [Num.neg, numRat]
  | inf n => simp [Num.neg, numRat]
  | fin n m e => cases n <;> simp [Num.neg, numRat]

@[simp] theorem numRat_scale (x : Num) (k : Int) : numRat (x.scale k) = numRat x * (2 : ℚ) ^ k := by
  cases x with
  | nan s => simp [Num.scale, numRat]
  | inf n => simp [Num.scale, numRat]
  | fin n m e => rw [Num.scale, numRat, numRat, zpow_add₀ two_ne_zero, mul_assoc, mul_assoc, mul_assoc]

/-- The sign and the magnitude of a number, as a signed integer times a power of two. -/
theorem numRat_int (v e : Int) : numRat (.fin (decide (v < 0)) v.natAbs e) = v * (2 : ℚ) ^ e := by
  rcases lt_or_ge v 0 with h | h
  · rw [decide_eq_true h, numRat_true, numRat_false, Nat.cast_natAbs, abs_of_neg h]
    push_cast
    ring
  · rw [decide_eq_false (not_lt.mpr h), numRat_false, Nat.cast_natAbs, abs_of_nonneg h]

/-! ### The integer of a mode (R43) -/

@[simp] theorem roundQ_int (rm : Nat) (k : Int) : roundQ rm (k : ℚ) = k := by
  unfold roundQ
  split_ifs <;> simp_all

/-- Whether a mode takes a magnitude with integer part `q` and fraction `f` away from zero. -/
def awayFrom (rm : Nat) (neg : Bool) (q : Nat) (f : ℚ) : Prop :=
  if rm = 1 then 1 / 2 < f ∨ (f = 1 / 2 ∧ q % 2 = 1) else if rm = 2 then False else if rm = 3 then neg = false else neg = true

section
variable (q : Nat) {f : ℚ} (h0 : 0 < f) (h1 : f < 1)
include h0 h1

theorem floor_nat_add : ⌊(q : ℚ) + f⌋ = q := by rw [Int.floor_eq_iff]; constructor <;> push_cast <;> linarith
theorem ceil_nat_add : ⌈(q : ℚ) + f⌉ = q + 1 := by rw [Int.ceil_eq_iff]; constructor <;> push_cast <;> linarith

/-- To nearest, ties to even. -/
theorem roundQ_nearest (neg : Bool) (b : Bool) (hb : b = true ↔ 1 / 2 < f ∨ (f = 1 / 2 ∧ q % 2 = 1)) :
    roundQ 1 ((if neg then -1 else 1) * (q + f)) = (if neg then -1 else 1) * ((q : Int) + (b2n b : Nat)) := by
  have hq := Nat.mod_two_eq_zero_or_one q
  have hfl := floor_nat_add q h0 h1
  have hce := ceil_nat_add q h0 h1
  unfold roundQ
  rw [if_pos rfl]
  cases neg
  · simp only [Bool.false_eq_true, if_false, one_mul, hfl, Int.cast_natCast, add_sub_cancel_left]
    cases b <;> simp only [Bool.false_eq_true, false_iff, true_iff, not_or, not_and, not_lt] at hb <;> simp only [b2n, Bool.false_eq_true, if_false, if_true]
    · rw [if_pos]
      · simp
      · rcases hb.1.lt_or_eq with h | h
        · exact .inl h
        · have := hb.2 h; exact .inr ⟨h, by omega⟩
    · rw [if_neg]
      · simp
      · rintro (h | ⟨h, h'⟩) <;> rcases hb with hb | ⟨hb, hb'⟩ <;> linarith
  · simp only [if_true, neg_one_mul, Int.floor_neg, hce]
    have hfrac : -((q : ℚ) + f) - ((-((q : Int) + 1) : Int) : ℚ) = 1 - f := by push_cast; ring
    rw [hfrac]
    cases b <;> simp only [Bool.false_eq_true, false_iff, true_iff, not_or, not_and, not_lt] at hb <;> simp only [b2n, Bool.false_eq_true, if_false, if_true]
    · rw [if_neg]
      · simp
      · rintro (h | ⟨h, h'⟩)
        · linarith
        · have := hb.2 (by linarith); omega
    · rw [if_pos]
      · simp
      · rcases hb with hb | ⟨hb, hb'⟩
        · exact .inl (by linarith)
        · exact .inr ⟨by linarith, by omega⟩

/-- A mode makes of a magnitude that is no integer one of its neighbours. -/
theorem roundQ_split (rm : Nat) (neg : Bool) (b : Bool) (hb : b = true ↔ awayFrom rm neg q f) :
    roundQ rm ((if neg then -1 else 1) * (q + f)) = (if neg then -1 else 1) * ((q : Int) + (b2n b : Nat)) := by
  have hfl := floor_nat_add q h0 h1
  have hce := ceil_nat_add q h0 h1
  have hq0 : (0 : ℚ) ≤ q := Nat.cast_nonneg q
  have hpos : ¬(q : ℚ) + f < 0 := by linarith
  have hneg : -((q : ℚ) + f) < 0 := by linarith
  unfold awayFrom at hb
  by_cases e1 : rm = 1
  · rw [if_pos e1] at hb
    rw [e1]
    exact roundQ_nearest q h0 h1 neg b hb
  · rw [if_neg e1] at hb
    unfold roundQ
    rw [if_neg e1]
    cases neg <;> cases b <;> simp only [Bool.false_eq_true, if_false, if_true, one_mul, neg_one_mul, hfl, hce, hpos, hneg, Int.floor_neg, Int.ceil_neg,
      b2n, Nat.cast_zero, Nat.cast_one, add_zero, false_iff, true_iff, reduceCtorEq] at hb ⊢ <;> split_ifs at hb ⊢ <;> simp_all

end

/-! ### A shift that rounds -/

theorem half_lt_div {r h : Nat} (hh : 0 < h) : h < r ↔ 1 / 2 < (r : ℚ) / (h * 2 : Nat) := by
  rw [div_lt_div_iff₀ two_pos (by positivity), one_mul]
  norm_cast
  omega

theorem eq_half_iff {r h : Nat} (hh : 0 < h) : r = h ↔ (r : ℚ) / (h * 2 : Nat) = 1 / 2 := by
  rw [div_eq_div_iff (by positivity) two_ne_zero, one_mul]
  norm_cast
  omega

/-- What a shift cuts off, as a fraction of its last place: where it takes more than all of `m`, a shift by two places more than `m` has shows
the same fraction on the same side of a half. -/
theorem shift_fraction (m : Nat) {k : Nat} (hk : 0 < k) : let s := min k (Nat.log2 m + 2)
    ∃ f : ℚ, (m : ℚ) * 2 ^ (-(k : Int)) = ((m >>> s : Nat) : ℚ) + f ∧ 0 ≤ f ∧ f < 1 ∧ (m % 2 ^ s = 0 ↔ f = 0)
      ∧ (2 ^ (s - 1) < m % 2 ^ s ↔ 1 / 2 < f) ∧ (m % 2 ^ s = 2 ^ (s - 1) ↔ f = 1 / 2) := by
  intro s
  have hm : m < 2 ^ (Nat.log2 m + 1) := Nat.lt_log2_self
  have hpow : ((2 : ℚ) ^ (-(k : Int))) = 1 / (2 ^ k : Nat) := by rw [zpow_neg, zpow_natCast, one_div]; norm_cast
  have hkpos : (0 : ℚ) < (2 ^ k : Nat) := by positivity
  have hdbl : 2 ^ (k - 1) * 2 = 2 ^ k := by rw [← pow_succ, Nat.sub_add_cancel hk]
  by_cases hle : k ≤ Nat.log2 m + 2
  · rw [show s = k from min_eq_left hle, Nat.shiftRight_eq_div_pow]
    have hdiv : (m : ℚ) = (2 ^ k : Nat) * ((m / 2 ^ k : Nat) : ℚ) + ((m % 2 ^ k : Nat) : ℚ) := by exact_mod_cast (Nat.div_add_mod m _).symm
    refine ⟨((m % 2 ^ k : Nat) : ℚ) / (2 ^ k : Nat), ?_, by positivity, ?_, ?_, ?_, ?_⟩
    · rw [hpow, mul_one_div]
      nth_rw 1 [hdiv]
      rw [add_div, mul_div_cancel_left₀ _ hkpos.ne']
    · rw [div_lt_one hkpos]
      exact_mod_cast Nat.mod_lt m (Nat.two_pow_pos k)
    · rw [div_eq_zero_iff, or_iff_left hkpos.ne', Nat.cast_eq_zero]
    · rw [half_lt_div (Nat.two_pow_pos _), hdbl]
    · rw [eq_half_iff (Nat.two_pow_pos _), hdbl]
  · rw [show s = Nat.log2 m + 2 from min_eq_right (by omega)]
    have hms : m < 2 ^ (Nat.log2 m + 2) := hm.trans_le (Nat.pow_le_pow_right two_pos (by omega))
    have hmk : m * 2 < 2 ^ k := calc
      m * 2 < 2 ^ (Nat.log2 m + 1) * 2 := by omega
      _ = 2 ^ (Nat.log2 m + 2) := (pow_succ _ _).symm
      _ ≤ 2 ^ k := Nat.pow_le_pow_right two_pos (by omega)
    have hf : (m : ℚ) / (2 ^ k : Nat) < 1 / 2 := by
      rw [div_lt_div_iff₀ hkpos two_pos, one_mul]
      exact_mod_cast hmk
    rw [Nat.shiftRight_eq_div_pow, Nat.div_eq_of_lt hms, Nat.mod_eq_of_lt hms]
    refine ⟨(m : ℚ) / (2 ^ k : Nat), by rw [hpow, mul_one_div]; simp, by positivity, by linarith, ?_, ?_, ?_⟩
    · rw [div_eq_zero_iff, or_iff_left hkpos.ne', Nat.cast_eq_zero]
    · exact ⟨fun h => absurd hm (by simpa using h.le), fun h => absurd h (by linarith)⟩
    · exact ⟨fun h => absurd hm (by simpa using h.ge), fun h => absurd h (by linarith)⟩

/-- Whether `roundShift` takes an integer part `q` up, by what it cut off and half of the last place. -/
def shiftUp (rm : Nat) (neg : Bool) (q r half : Nat) : Bool :=
  if r = 0 then false
  else if rm = 1 then decide (r > half) || (decide (r = half) && q % 2 == 1)
  else if rm = 2 then false
  else if rm = 3 then !neg
  else neg

theorem roundShift_right (rm : Nat) (neg : Bool) (m : Nat) {k : Nat} (hk : 0 < k) : let s := min k (Nat.log2 m + 2)
    roundShift rm neg m k = (m >>> s + b2n (shiftUp rm neg (m >>> s) (m % 2 ^ s) (2 ^ (s - 1))), decide (m % 2 ^ s ≠ 0)) := by
  unfold roundShift
  rw [if_neg (by omega)]
  rfl

theorem roundShift_left (rm : Nat) (neg : Bool) (m k : Nat) : roundShift rm neg m (-(k : Int)) = (m * 2 ^ k, false) := by
  unfold roundShift
  rw [if_pos (by omega), neg_neg, Int.toNat_natCast, Nat.shiftLeft_eq]

/-- A rounding shift gives the magnitude of the mode's integer, and says whether that is not the number itself. -/
theorem roundShift_spec (rm : Nat) (neg : Bool) (m : Nat) (sh : Int) : let x : ℚ := (if neg then -1 else 1) * (m * (2 : ℚ) ^ (-sh))
    (if neg then -1 else 1) * ((roundShift rm neg m sh).1 : Int) = roundQ rm x ∧ ((roundShift rm neg m sh).2 = false ↔ (roundQ rm x : ℚ) = x) := by
  intro x
  by_cases hsh : sh ≤ 0
  · obtain ⟨k, rfl⟩ : ∃ k : Nat, sh = -(k : Int) := ⟨(-sh).toNat, by omega⟩
    have hx : x = (((if neg then -1 else 1) * ((m * 2 ^ k : Nat) : Int) : Int) : ℚ) := by cases neg <;> simp [x]
    rw [hx, roundQ_int, roundShift_left]
    simp
  · obtain ⟨k, rfl⟩ : ∃ k : Nat, sh = k := ⟨sh.toNat, by omega⟩
    have hk : 0 < k := by omega
    obtain ⟨f, hval, h0, h1, hz, hgt, heq⟩ := shift_fraction m hk
    rw [roundShift_right rm neg m hk]
    dsimp only
    generalize m >>> min k (m.log2 + 2) = q at *
    generalize m % 2 ^ min k (m.log2 + 2) = r at *
    generalize 2 ^ (min k (m.log2 + 2) - 1) = half at *
    have hx : x = (if neg then -1 else 1) * (q + f) := by rw [← hval]
    by_cases hr : r = 0
    · have hxi : x = (((if neg then -1 else 1) * (q : Int) : Int) : ℚ) := by rw [hx, hz.mp hr]; cases neg <;> simp
      rw [hxi, roundQ_int]
      simp [hr, b2n, shiftUp]
    · have hf0 : 0 < f := lt_of_le_of_ne h0 fun h => hr (hz.mpr h.symm)
      have hup : shiftUp rm neg q r half = true ↔ awayFrom rm neg q f := by
        unfold shiftUp awayFrom
        rw [if_neg hr, ← hgt, ← heq]
        split_ifs <;> simp
      have hround := roundQ_split q hf0 h1 rm neg _ hup
      rw [← hx] at hround
      refine ⟨by rw [hround]; push_cast; rfl, ?_⟩
      have hne : (roundQ rm x : ℚ) ≠ x := by
        rw [hround, hx]
        have hb : ((b2n (shiftUp rm neg q r half) : Nat) : ℚ) ≠ f := by
          cases shiftUp rm neg q r half
          · simpa [b2n] using hf0.ne
          · simpa [b2n] using h1.ne'
        cases neg <;> simpa using hb
      simp [hr, hne]

theorem roundInt_fst (rm : Nat) (n : Bool) (m : Nat) (e : Int) : (roundInt rm n m e).1 = roundQ rm (numRat (.fin n m e)) := by
  rw [numRat_fin, mul_assoc]
  have h := (roundShift_spec rm n m (-e)).1
  rw [neg_neg] at h
  rw [← h]
  unfold roundInt
  cases n <;> simp

theorem roundInt_snd (rm : Nat) (n : Bool) (m : Nat) (e : Int) :
    (roundInt rm n m e).2 = false ↔ (roundQ rm (numRat (.fin n m e)) : ℚ) = numRat (.fin n m e) := by
  rw [numRat_fin, mul_assoc]
  have h := (roundShift_spec rm n m (-e)).2
  rw [neg_neg] at h
  exact h

end Sys2Proof.Machine
end

section
/-!
SUPPORT for the families of numbers. Sums, products, roots, quotients and comparisons of exact numbers (R42, R57, R59, R66, R163 to R165).
-/
namespace Sys2Proof.Machine
open Flagged

/-! ### Sums (R163) -/

theorem cast_shiftLeft_sub (m : Nat) {e f : Int} (h : e ≤ f) : ((m <<< (f - e).toNat : Nat) : ℚ) * (2 : ℚ) ^ e = m * (2 : ℚ) ^ f := by
  obtain ⟨k, hk⟩ : ∃ k : Nat, f - e = k := ⟨(f - e).toNat, by omega⟩
  rw [hk, Int.toNat_natCast, Nat.shiftLeft_eq, show f = k + e by omega, zpow_add₀ two_ne_zero, zpow_natCast]
  push_cast
  ring

/-- The exact sum of two signed dyadics. -/
theorem dyadicAdd_value (n1 : Bool) (m1 : Nat) (e1 : Int) (n2 : Bool) (m2 : Nat) (e2 : Int) :
    ((dyadicAdd n1 m1 e1 n2 m2 e2).1 : ℚ) * (2 : ℚ) ^ (dyadicAdd n1 m1 e1 n2 m2 e2).2 = numRat (.fin n1 m1 e1) + numRat (.fin n2 m2 e2) := by
  have h1 := cast_shiftLeft_sub m1 (min_le_left e1 e2)
  have h2 := cast_shiftLeft_sub m2 (min_le_right e1 e2)
  unfold dyadicAdd
  dsimp only
  rw [numRat_fin, numRat_fin, mul_assoc, mul_assoc, ← h1, ← h2]
  generalize m1 <<< (e1 - min e1 e2).toNat = a
  generalize m2 <<< (e2 - min e1 e2).toNat = b
  cases n1 <;> cases n2 <;> push_cast <;> simp <;> ring

theorem sumOf_fin (rd : Bool) (n1 : Bool) (m1 : Nat) (e1 : Int) (n2 : Bool) (m2 : Nat) (e2 : Int) : sumOf rd (.fin n1 m1 e1) (.fin n2 m2 e2)
    = let (v, e) := dyadicAdd n1 m1 e1 n2 m2 e2
      if v = 0 then .fin (if m1 = 0 && m2 = 0 && n1 == n2 then n1 else rd) 0 0 else .fin (decide (v < 0)) v.natAbs e := by
  unfold sumOf
  simp only [numAdd]
  split <;> rfl

theorem sumOf_fin_spec (rd : Bool) (n1 : Bool) (m1 : Nat) (e1 : Int) (n2 : Bool) (m2 : Nat) (e2 : Int) :
    IsSum rd (.fin n1 m1 e1) (.fin n2 m2 e2) (sumOf rd (.fin n1 m1 e1) (.fin n2 m2 e2)) := by
  have hv := dyadicAdd_value n1 m1 e1 n2 m2 e2
  rw [sumOf_fin]
  unfold IsSum
  dsimp only
  by_cases h : (dyadicAdd n1 m1 e1 n2 m2 e2).1 = 0
  · rw [if_pos h]
    refine ⟨⟨_, _, _, rfl⟩, ?_, fun _ => ?_⟩
    · rw [← hv, h]; simp
    · simp only [Num.sign, Bool.and_eq_true, decide_eq_true_eq, beq_iff_eq, and_assoc]
  · rw [if_neg h]
    refine ⟨⟨_, _, _, rfl⟩, by rw [numRat_int, hv], fun h0 => ?_⟩
    exact absurd (numRat_eq_zero.mp h0) (by simpa using h)

theorem sumOf_isSum (rd : Bool) (a b : Num) : IsSum rd a b (sumOf rd a b) := by
  cases a with
  | nan s => cases b with
    | nan t => cases s <;> cases t <;> rfl
    | inf k => cases s <;> rfl
    | fin k l f => cases s <;> rfl
  | inf n => cases b with
    | nan t => cases t <;> rfl
    | inf k => cases n <;> cases k <;> rfl
    | fin k l f => rfl
  | fin n m e => cases b with
    | nan t => cases t <;> rfl
    | inf k => rfl
    | fin k l f => exact sumOf_fin_spec rd n m e k l f

/-! ### Products (R42, R163) -/

theorem prodOf_fin (n1 : Bool) (m1 : Nat) (e1 : Int) (n2 : Bool) (m2 : Nat) (e2 : Int) :
    prodOf (.fin n1 m1 e1) (.fin n2 m2 e2) = .fin (n1 != n2) (m1 * m2) (e1 + e2) := rfl

theorem numRat_prodOf_fin (n1 : Bool) (m1 : Nat) (e1 : Int) (n2 : Bool) (m2 : Nat) (e2 : Int) :
    numRat (prodOf (.fin n1 m1 e1) (.fin n2 m2 e2)) = numRat (.fin n1 m1 e1) * numRat (.fin n2 m2 e2) := by
  rw [prodOf_fin, numRat_fin, numRat_fin, numRat_fin, zpow_add₀ two_ne_zero]
  cases n1 <;> cases n2 <;> push_cast <;> simp <;> ring

theorem prodOf_isProduct (a b : Num) : IsProduct a b (prodOf a b) := by
  cases a with
  | nan s => cases b with
    | nan t => cases s <;> cases t <;> rfl
    | inf k => cases s <;> rfl
    | fin k l f => cases s <;> rfl
  | inf n => cases b with
    | nan t => cases t <;> rfl
    | inf k => rfl
    | fin k l f => cases l <;> rfl
  | fin n m e => cases b with
    | nan t => cases t <;> rfl
    | inf k =>
      have hsign : (n != k) = (k != n) := Bool.xor_comm n k
      cases m with
      | zero => rfl
      | succ m => exact congrArg Num.inf hsign
    | fin k l f => exact ⟨⟨_, _, _, rfl⟩, numRat_prodOf_fin n m e k l f, rfl⟩

/-! ### Roots (R66) -/

/-- The bisection finds the integer part of the root: it lies in a window of 2^k places above `r`. -/
theorem isqrtBits_spec (k n r : Nat) (h1 : r * r ≤ n) (h2 : n < (r + 2 ^ k) * (r + 2 ^ k)) :
    isqrtBits k n r * isqrtBits k n r ≤ n ∧ n < (isqrtBits k n r + 1) * (isqrtBits k n r + 1) := by
  induction k generalizing r with
  | zero => exact ⟨h1, h2⟩
  | succ k ih =>
    unfold isqrtBits
    split
    · refine ih _ ‹_› ?_
      rwa [add_assoc, ← two_mul, ← pow_succ']
    · exact ih _ h1 (not_le.mp ‹_›)

theorem isqrtBits_eq (n : Nat) : isqrtBits (Nat.log2 n / 2 + 1) n 0 = Nat.sqrt n := by
  have hn : n < (0 + 2 ^ (Nat.log2 n / 2 + 1)) * (0 + 2 ^ (Nat.log2 n / 2 + 1)) := by
    rw [Nat.zero_add, ← pow_add]
    exact Nat.lt_log2_self.trans_le (Nat.pow_le_pow_right two_pos (by omega))
  obtain ⟨h1, h2⟩ := isqrtBits_spec _ n 0 (Nat.zero_le _) hn
  exact Nat.eq_sqrt.mpr ⟨h1, h2⟩

/-- What the model takes the integer root of. -/
def rootRadicand (m : Nat) (e : Int) : Nat := m * 2 ^ (128 + (e % 2).toNat)

theorem rootOf_fin {m : Nat} (hm : m ≠ 0) (e : Int) : rootOf (.fin false m e)
    = .fin false (2 * Nat.sqrt (rootRadicand m e) + b2n (decide (Nat.sqrt (rootRadicand m e) * Nat.sqrt (rootRadicand m e) ≠ rootRadicand m e)))
      ((e - e % 2) / 2 - 64 - 1) := by
  obtain ⟨m, rfl⟩ := Nat.exists_eq_succ_of_ne_zero hm
  have hodd : ((e % 2).toNat : Int) = e % 2 := Int.toNat_of_nonneg (Int.emod_nonneg e (by decide))
  unfold rootRadicand
  rw [← Nat.shiftLeft_eq, ← isqrtBits_eq, ← hodd]
  rfl

theorem numRat_eq_radicand (m : Nat) (e : Int) :
    numRat (.fin false m e) = rootRadicand m e * ((2 : ℚ) ^ ((e - e % 2) / 2 - 64)) ^ 2 := by
  have hodd : ((e % 2).toNat : Int) = e % 2 := Int.toNat_of_nonneg (Int.emod_nonneg e (by decide))
  have he : e = ((128 + (e % 2).toNat : Nat) : Int) + ((e - e % 2) / 2 - 64) + ((e - e % 2) / 2 - 64) := by push_cast; omega
  rw [numRat_false, rootRadicand, sq]
  nth_rw 1 [he]
  rw [zpow_add₀ two_ne_zero, zpow_add₀ two_ne_zero, zpow_natCast]
  push_cast
  ring

theorem rootOf_isRoot (a : Num) : IsRoot a (rootOf a) := by
  cases a with
  | nan s => cases s <;> rfl
  | inf n => cases n <;> rfl
  | fin n m e =>
    unfold IsRoot
    dsimp only
    by_cases hm : m = 0
    · rw [if_pos hm, hm]
      cases n <;> rfl
    rw [if_neg hm]
    cases n
    · rw [if_neg (by decide), numRat_eq_radicand, rootOf_fin hm]
      have hN : 2 ^ 64 * 2 ^ 64 ≤ rootRadicand m e := by
        unfold rootRadicand
        calc 2 ^ 64 * 2 ^ 64 = 1 * 2 ^ 128 := by norm_num
          _ ≤ m * 2 ^ (128 + (e % 2).toNat) := Nat.mul_le_mul (by omega) (Nat.pow_le_pow_right two_pos (by omega))
      generalize rootRadicand m e = N at *
      generalize (e - e % 2) / 2 - 64 = k
      have hk : (0 : ℚ) < ((2 : ℚ) ^ k) ^ 2 := by positivity
      refine ⟨Nat.sqrt N, k, decide (Nat.sqrt N * Nat.sqrt N ≠ N), rfl, Nat.le_sqrt.mpr hN, ?_, ?_, ?_⟩
      · rw [mul_pow, mul_le_mul_iff_left₀ hk, sq]
        exact_mod_cast Nat.sqrt_le N
      · rw [mul_pow, mul_lt_mul_iff_left₀ hk, sq]
        exact_mod_cast Nat.lt_succ_sqrt N
      · rw [mul_pow, mul_left_inj' hk.ne', sq, decide_eq_false_iff_not, not_not]
        norm_cast
    · rw [if_pos rfl]
      obtain ⟨m, rfl⟩ := Nat.exists_eq_succ_of_ne_zero hm
      rfl

/-! ### Quotients (R57) -/

theorem quotOf_fin {n1 : Bool} {m1 : Nat} (h1 : m1 ≠ 0) (e1 : Int) (n2 : Bool) (m2 : Nat) (e2 : Int) :
    quotOf (.fin n1 m1 e1) (.fin n2 m2 e2) = .fin (n1 != n2)
      (2 * (m1 * 2 ^ (Nat.log2 m2 + 64) / m2) + b2n (decide (m1 * 2 ^ (Nat.log2 m2 + 64) % m2 ≠ 0))) (e1 - e2 - (Nat.log2 m2 + 64 : Nat) - 1) := by
  unfold quotOf
  simp only [numDiv]
  rw [if_neg h1, divDyadic, Nat.shiftLeft_eq]

/-- The quotient of two magnitudes, as the model's integer quotient takes it. -/
theorem abs_quotient (n1 : Bool) (m1 : Nat) (e1 : Int) (n2 : Bool) (m2 : Nat) (e2 : Int) (sh : Nat) :
    |numRat (.fin n1 m1 e1) / numRat (.fin n2 m2 e2)| = ((m1 * 2 ^ sh : Nat) / m2 : ℚ) * (2 : ℚ) ^ (e1 - e2 - sh) := by
  rw [abs_div, abs_numRat, abs_numRat, zpow_sub₀ two_ne_zero, zpow_sub₀ two_ne_zero, zpow_natCast]
  push_cast
  field_simp

theorem quotOf_isQuotient (a b : Num) (ha : numFinite a) (hb : numFinite b) (h0 : b.isZero = false) : IsQuotient a b (quotOf a b) := by
  obtain ⟨n1, m1, e1, rfl⟩ := ha
  obtain ⟨n2, m2, e2, rfl⟩ := hb
  by_cases h1 : m1 = 0
  · subst h1
    exact ⟨rfl, .inl ⟨rfl, rfl⟩⟩
  have h2 : 0 < m2 := by
    rcases Nat.eq_zero_or_pos m2 with rfl | h
    · exact absurd h0 (by simp [Num.isZero])
    · exact h
  rw [quotOf_fin h1]
  refine ⟨rfl, .inr ⟨m1 * 2 ^ (Nat.log2 m2 + 64) / m2, e1 - e2 - (Nat.log2 m2 + 64 : Nat), decide (m1 * 2 ^ (Nat.log2 m2 + 64) % m2 ≠ 0), rfl, ?_⟩⟩
  have hlog : m2 < 2 ^ (Nat.log2 m2 + 1) := Nat.lt_log2_self
  have hN : 2 ^ 63 * m2 ≤ m1 * 2 ^ (Nat.log2 m2 + 64) := calc
    2 ^ 63 * m2 ≤ 2 ^ 63 * 2 ^ (Nat.log2 m2 + 1) := Nat.mul_le_mul_left _ hlog.le
    _ = 1 * 2 ^ (Nat.log2 m2 + 64) := by rw [← pow_add, one_mul]; congr 1; omega
    _ ≤ m1 * 2 ^ (Nat.log2 m2 + 64) := Nat.mul_le_mul_right _ (by omega)
  rw [abs_quotient n1 m1 e1 n2 m2 e2 (Nat.log2 m2 + 64)]
  generalize m1 * 2 ^ (Nat.log2 m2 + 64) = N at *
  have hk : (0 : ℚ) < (2 : ℚ) ^ (e1 - e2 - (Nat.log2 m2 + 64 : Nat)) := by positivity
  have hm2 : (0 : ℚ) < m2 := by exact_mod_cast h2
  refine ⟨(Nat.le_div_iff_mul_le h2).mpr hN, ?_, ?_, ?_⟩
  · rw [mul_le_mul_iff_left₀ hk, le_div_iff₀ hm2]
    exact_mod_cast Nat.div_mul_le_self N m2
  · rw [mul_lt_mul_iff_left₀ hk, div_lt_iff₀ hm2]
    have := Nat.lt_mul_div_succ N h2
    rw [mul_comm] at this
    exact_mod_cast this
  · rw [mul_left_inj' hk.ne', eq_div_iff hm2.ne', decide_eq_false_iff_not, not_not]
    norm_cast
    rw [← Nat.dvd_iff_mod_eq_zero]
    exact ⟨Nat.div_mul_cancel, fun h => Dvd.intro_left _ h⟩

/-! ### Comparisons (R164, R165) -/

theorem numCmp_fin (n1 : Bool) (m1 : Nat) (e1 : Int) (n2 : Bool) (m2 : Nat) (e2 : Int) : let a : Num := .fin n1 m1 e1
    let b : Num := .fin n2 m2 e2
    (numCmp a b < 0 ↔ numRat a < numRat b) ∧ (numCmp a b = 0 ↔ numRat a = numRat b) := by
  intro a b
  have hv := dyadicAdd_value n1 m1 e1 (!n2) m2 e2
  have hneg : numRat (.fin (!n2) m2 e2) = -numRat b := numRat_neg b
  rw [hneg, ← sub_eq_add_neg] at hv
  have hk : (0 : ℚ) < (2 : ℚ) ^ (dyadicAdd n1 m1 e1 (!n2) m2 e2).2 := by positivity
  change ((dyadicAdd n1 m1 e1 (!n2) m2 e2).1.sign < 0 ↔ _) ∧ ((dyadicAdd n1 m1 e1 (!n2) m2 e2).1.sign = 0 ↔ _)
  constructor
  · rw [Int.sign_neg_iff, ← sub_neg (a := numRat a), ← hv, mul_neg_iff, or_iff_right (fun h => lt_asymm hk h.2), and_iff_left hk, Int.cast_lt_zero]
  · rw [Int.sign_eq_zero_iff_zero, ← sub_eq_zero (a := numRat a), ← hv, mul_eq_zero, or_iff_left hk.ne', Int.cast_eq_zero]

theorem minLe_eq_numLe {a b : Num} (ha : a.isNan = false) (hb : b.isNan = false) : minLe a b = numLe a b := by
  cases a with
  | nan s => cases ha
  | inf n => cases b with
    | nan t => cases hb
    | inf k => cases n <;> cases k <;> rfl
    | fin k l f => cases n <;> rfl
  | fin n m e => cases b with
    | nan t => cases hb
    | inf k => cases k <;> rfl
    | fin k l f =>
      obtain ⟨hlt, heq⟩ := numCmp_fin n m e k l f
      simp only [minLe, numLe, hlt, beq_eq_decide, heq]

theorem numCmp_eq_zero {a b : Num} (ha : a.isNan = false) (hb : b.isNan = false) : (numCmp a b == 0) = numEq a b := by
  cases a with
  | nan s => cases ha
  | inf n => cases b with
    | nan t => cases hb
    | inf k => cases n <;> cases k <;> rfl
    | fin k l f => cases n <;> rfl
  | fin n m e => cases b with
    | nan t => cases hb
    | inf k => cases k <;> rfl
    | fin k l f => simp only [numEq, beq_eq_decide, (numCmp_fin n m e k l f).2]

theorem numCmp_lt_zero {a b : Num} (ha : a.isNan = false) (hb : b.isNan = false) : decide (numCmp a b < 0) = numLt a b := by
  rw [numLt, ha, hb, ← minLe_eq_numLe ha hb, ← numCmp_eq_zero ha hb, minLe]
  simp only [Bool.not_false, Bool.true_and]
  rcases lt_trichotomy (numCmp a b) 0 with h | h | h
  · simp [h, h.ne]
  · simp [h]
  · simp [h.not_gt, h.ne']

theorem numCmp_swap {a b : Num} (ha : a.isNan = false) (hb : b.isNan = false) : numCmp a b > 0 ↔ numCmp b a < 0 := by
  cases a with
  | nan s => cases ha
  | inf n => cases b with
    | nan t => cases hb
    | inf k => cases n <;> cases k <;> decide
    | fin k l f => cases n <;> simp [numCmp]
  | fin n m e => cases b with
    | nan t => cases hb
    | inf k => cases k <;> simp [numCmp]
    | fin k l f =>
      obtain ⟨hlt, heq⟩ := numCmp_fin n m e k l f
      rw [(numCmp_fin k l f n m e).1, gt_iff_lt, ← not_le, le_iff_lt_or_eq, hlt, heq, ← le_iff_lt_or_eq, not_le]

theorem numEq_of_isNan {a b : Num} (h : (a.isNan || b.isNan) = true) : numEq a b = false := by
  cases a with
  | nan s => rfl
  | inf n =>
    cases b with
    | nan s => rfl
    | inf k => cases h
    | fin k l f => rfl
  | fin n m e =>
    cases b with
    | nan s => rfl
    | inf k => rfl
    | fin k l f => cases h

theorem numLt_of_isNan {a b : Num} (h : (a.isNan || b.isNan) = true) : numLt a b = false := by
  unfold numLt
  cases ha : a.isNan <;> cases hb : b.isNan <;> simp_all

theorem value_ite_raise {α : Type} (p : Prop) [Decidable p] (f : Nat) (a : α) :
    value (if p then (raiseFlags f >>= fun _ => pure a) else pure a) = a := by
  split <;> rfl

/-- The condition codes on whether a comparison is unordered and, where it is not, on its outcome. -/
def condRun (un : Bool) (x : Int) : Nat → Bool
  | 0 => !un && x == 0
  | 1 => un || x != 0
  | 2 => !un && decide (x < 0)
  | 3 => !un && decide (x ≤ 0)
  | 4 => !un && decide (x > 0)
  | 5 => !un && decide (x ≥ 0)
  | 6 => un
  | _ => !un

theorem floatCond_run (c : Nat) (a b : Num) : value (floatCond c a b) = condRun (a.isNan || b.isNan) (numCmp a b) c :=
  value_ite_raise _ _ _

/-- The comparison of the model is that of R165 on the values. -/
theorem floatCond_value (c : Nat) (a b : Num) : value (floatCond c a b) = condOf c a b := by
  rw [floatCond_run]
  cases hn : a.isNan || b.isNan
  · obtain ⟨ha, hb⟩ := Bool.or_eq_false_iff.mp hn
    have hle : decide (numCmp a b ≤ 0) = (numLt a b || numEq a b) := by
      rw [← numCmp_lt_zero ha hb, ← numCmp_eq_zero ha hb, beq_eq_decide, ← Bool.decide_or]
      exact decide_eq_decide.mpr le_iff_lt_or_eq
    have hgt : decide (numCmp a b > 0) = numLt b a := by rw [← numCmp_lt_zero hb ha, decide_eq_decide.mpr (numCmp_swap ha hb)]
    have hge : decide (numCmp a b ≥ 0) = (numLt b a || numEq a b) := by
      rw [← hgt, ← numCmp_eq_zero ha hb, beq_eq_decide, ← Bool.decide_or]
      exact decide_eq_decide.mpr (by rw [ge_iff_le, le_iff_lt_or_eq, eq_comm (a := (0 : Int))])
    rcases c with _ | _ | _ | _ | _ | _ | _ | c <;>
      simp only [condRun, condOf, Bool.not_false, Bool.true_and, Bool.false_or, bne, numCmp_eq_zero ha hb, numCmp_lt_zero ha hb, hle, hgt, hge, ha, hb]
  · have hn' : (b.isNan || a.isNan) = true := by rw [Bool.or_comm]; exact hn
    rcases c with _ | _ | _ | _ | _ | _ | _ | c <;>
      simp [condRun, condOf, numEq_of_isNan hn, numLt_of_isNan hn, numLt_of_isNan hn', ← Bool.not_or, hn]

theorem steady_floatCond (c : Nat) (a b : Num) : Steady (floatCond c a b) := by
  unfold floatCond
  simp

end Sys2Proof.Machine
end

section
/-!
SUPPORT for the families of numbers. What the bits of a layout mean, and what one rounding makes of a number (R41 to R48).
-/
namespace Sys2Proof.Machine
open Flagged

/-! ### Powers of two and the integers of a mode -/

/-- A positive number lies between two powers of two only. -/
theorem binade_unique {x : ℚ} {a b : Int} (ha : (2 : ℚ) ^ a ≤ x) (ha' : x < (2 : ℚ) ^ (a + 1)) (hb : (2 : ℚ) ^ b ≤ x) (hb' : x < (2 : ℚ) ^ (b + 1)) :
    a = b := by
  have h1 := (zpow_lt_zpow_iff_right₀ (one_lt_two (α := ℚ))).mp (ha.trans_lt hb')
  have h2 := (zpow_lt_zpow_iff_right₀ (one_lt_two (α := ℚ))).mp (hb.trans_lt ha')
  omega

/-- The power of two of a magnitude. -/
theorem binade_of_log2 {m : Nat} (hm : m ≠ 0) (n : Bool) (e : Int) : (2 : ℚ) ^ ((Nat.log2 m : Int) + e) ≤ |numRat (.fin n m e)|
    ∧ |numRat (.fin n m e)| < (2 : ℚ) ^ ((Nat.log2 m : Int) + e + 1) := by
  have hpos : (0 : ℚ) < (2 : ℚ) ^ e := by positivity
  have h1 : 2 ^ Nat.log2 m ≤ m := Nat.log2_self_le hm
  have h2 : m < 2 ^ (Nat.log2 m + 1) := Nat.lt_log2_self
  rw [abs_numRat, add_right_comm, zpow_add₀ two_ne_zero, zpow_add₀ two_ne_zero, mul_le_mul_iff_left₀ hpos, mul_lt_mul_iff_left₀ hpos]
  refine ⟨?_, ?_⟩
  · rw [zpow_natCast]; exact_mod_cast h1
  · rw [← Nat.cast_succ, zpow_natCast]; exact_mod_cast h2

theorem floor_le_roundQ (rm : Nat) (x : ℚ) : ⌊x⌋ ≤ roundQ rm x := by
  have := Int.floor_le_ceil x
  unfold roundQ
  split_ifs <;> omega

theorem roundQ_le_ceil (rm : Nat) (x : ℚ) : roundQ rm x ≤ ⌈x⌉ := by
  have hle := Int.floor_le_ceil x
  unfold roundQ
  split_ifs with h1 h2
  · exact hle
  · have hlt : (⌊x⌋ : ℚ) < x := by
      rw [not_or, not_lt] at h2
      linarith [h2.1]
    exact Int.lt_ceil.mpr hlt
  · exact le_refl _
  · exact hle
  · exact le_refl _
  · exact hle

/-- A mode does not go past an integer. -/
theorem abs_roundQ_le (rm : Nat) {x : ℚ} {k : Int} (h : |x| ≤ k) : |roundQ rm x| ≤ k := by
  obtain ⟨h1, h2⟩ := abs_le.mp h
  have hc := (roundQ_le_ceil rm x).trans (Int.ceil_le.mpr h2)
  have hf := (Int.le_floor.mpr (by push_cast; exact h1 : ((-k : Int) : ℚ) ≤ x)).trans (floor_le_roundQ rm x)
  exact abs_le.mpr ⟨hf, hc⟩

theorem le_abs_roundQ (rm : Nat) {x : ℚ} {k : Int} (h : (k : ℚ) ≤ |x|) : k ≤ |roundQ rm x| := by
  rcases le_abs'.mp h with h | h
  · have := (roundQ_le_ceil rm x).trans (Int.ceil_le.mpr (by push_cast; exact h : x ≤ ((-k : Int) : ℚ)))
    exact le_abs'.mpr (.inl this)
  · exact le_abs'.mpr (.inr ((Int.le_floor.mpr h).trans (floor_le_roundQ rm x)))

/-! ### The bits of a layout (R41) -/

section
variable (l : Layout)

/-- A layout has an exponent and a fraction. -/
def Layout.Proper : Prop := 1 ≤ l.eb ∧ 1 ≤ l.fb

theorem Layout.proper_layoutOf (ty : Nat) : Layout.Proper (layoutOf ty) := by
  unfold layoutOf Layout.Proper
  split_ifs <;> decide

theorem Layout.width_layoutOf {ty : Nat} (h : ty < 3) : typeWidth ty = (layoutOf ty).eb + (layoutOf ty).fb + 1 := by
  rcases ty with _ | _ | _ | ty
  · rfl
  · rfl
  · rfl
  · omega

variable {l} (hl : Layout.Proper l)
include hl

theorem Layout.two_pow_eb : 2 ^ l.eb = 2 * (l.bias + 1) := by
  have h : 0 < 2 ^ (l.eb - 1) := Nat.two_pow_pos _
  rw [Layout.bias, Nat.sub_add_cancel h, ← pow_succ', Nat.sub_add_cancel hl.1]

theorem Layout.infBits_eq : l.infBits = (2 * l.bias + 1) * 2 ^ l.fb := by
  rw [Layout.infBits, Nat.shiftLeft_eq, Layout.two_pow_eb hl]
  rfl

theorem Layout.signBit_eq : l.signBit = (2 * l.bias + 2) * 2 ^ l.fb := by
  rw [Layout.signBit, pow_add, Layout.two_pow_eb hl]
  rfl

theorem Layout.infBits_lt : l.infBits < l.signBit := by
  rw [Layout.infBits_eq hl, Layout.signBit_eq hl]
  have := Nat.two_pow_pos l.fb
  nlinarith

end

/-- The magnitude that exponent and fraction name. -/
def Layout.magnitude (l : Layout) (b : Nat) : ℚ :=
  if b / 2 ^ l.fb = 0 then (b % 2 ^ l.fb : Nat) * (2 : ℚ) ^ (1 - (l.bias : Int) - l.fb)
  else ((b % 2 ^ l.fb + 2 ^ l.fb : Nat) : ℚ) * (2 : ℚ) ^ ((b / 2 ^ l.fb : Nat) - (l.bias : Int) - l.fb)

/-- What decoding makes of the fields. -/
theorem Layout.decode_fields (l : Layout) (fi : Bool) (x : Nat) : l.decode fi x =
    let n := x.testBit (l.eb + l.fb)
    let ex := x / 2 ^ l.fb % 2 ^ l.eb
    let fr := x % 2 ^ l.fb
    if ex = 2 ^ l.eb - 1 then if fr = 0 then .inf n else .nan (!x.testBit (l.fb - 1))
    else if ex = 0 then .fin n (if fi then 0 else fr) (1 - l.bias - l.fb)
    else .fin n (fr + 2 ^ l.fb) ((ex : Int) - l.bias - l.fb) := by
  have hbit : ∀ i, bitAt x i = x.testBit i := fun i => by
    rw [bitAt, bitsOf_eq, Nat.testBit_eq_decide_div_mod_eq, beq_eq_decide, pow_one]
  unfold Layout.decode
  simp only [hbit, bitsOf_eq, pow_zero, Nat.div_one]

section
variable {l : Layout}

/-- The fields of bits below those of infinity, with a sign. -/
theorem Layout.fields_of_lt {b : Nat} (hb : b < l.signBit) (n : Bool) : let x := b + b2n n * l.signBit
    x.testBit (l.eb + l.fb) = n ∧ x / 2 ^ l.fb % 2 ^ l.eb = b / 2 ^ l.fb ∧ x % 2 ^ l.fb = b % 2 ^ l.fb := by
  intro x
  have hsign : l.signBit = 2 ^ l.fb * 2 ^ l.eb := by rw [Layout.signBit, add_comm, pow_add]
  have hx : x = 2 ^ (l.eb + l.fb) * b2n n + b := by rw [Nat.add_comm, Nat.mul_comm]; rfl
  refine ⟨?_, ?_, ?_⟩
  · rw [hx, Nat.testBit_two_pow_mul_add _ hb, if_neg (lt_irrefl _), Nat.sub_self]
    cases n <;> rfl
  · have : x = b + 2 ^ l.fb * (2 ^ l.eb * b2n n) := by rw [← mul_assoc, ← hsign, mul_comm]
    rw [this, Nat.add_mul_div_left _ _ (Nat.two_pow_pos _), Nat.add_mul_mod_self_left, Nat.mod_eq_of_lt]
    rw [Nat.div_lt_iff_lt_mul (Nat.two_pow_pos _), mul_comm, ← hsign]
    exact hb
  · have : x = b + 2 ^ l.fb * (2 ^ l.eb * b2n n) := by rw [← mul_assoc, ← hsign, mul_comm]
    rw [this, Nat.add_mul_mod_self_left]

variable (hl : Layout.Proper l)
include hl

theorem Layout.decode_of_lt {b : Nat} (hb : b < l.infBits) (n : Bool) : let y := l.decode false (b + b2n n * l.signBit)
    numFinite y ∧ y.sign = n ∧ |numRat y| = Layout.magnitude l b := by
  intro y
  obtain ⟨h1, h2, h3⟩ := Layout.fields_of_lt (hb.trans (Layout.infBits_lt hl)) n
  have hex : b / 2 ^ l.fb ≠ 2 ^ l.eb - 1 := by
    have : b / 2 ^ l.fb < 2 ^ l.eb - 1 := by
      rw [Nat.div_lt_iff_lt_mul (Nat.two_pow_pos _)]
      simpa [Layout.infBits, Nat.shiftLeft_eq] using hb
    exact this.ne
  have hy : y = _ := Layout.decode_fields l false _
  simp only [h1, h2, h3, if_neg hex] at hy
  unfold Layout.magnitude
  rw [hy]
  split
  · exact ⟨⟨_, _, _, rfl⟩, rfl, abs_numRat _ _ _⟩
  · exact ⟨⟨_, _, _, rfl⟩, rfl, abs_numRat _ _ _⟩

omit hl in
/-- The magnitude that `N` last places name in the binade of exponent field `k`; one past the last place of a binade is the next one. -/
theorem Layout.magnitude_place (l : Layout) {k N : Nat} (hk : 1 ≤ k) (hN : N ≤ 2 ^ (l.fb + 1)) (h : k = 1 ∨ 2 ^ l.fb ≤ N) :
    Layout.magnitude l ((k - 1) * 2 ^ l.fb + N) = N * (2 : ℚ) ^ ((k : Int) - l.bias - l.fb) := by
  obtain ⟨j, rfl⟩ := Nat.exists_eq_add_of_le' hk
  have hF := Nat.two_pow_pos l.fb
  rw [pow_succ] at hN
  unfold Layout.magnitude
  rw [Nat.add_sub_cancel, mul_comm j, Nat.mul_add_div hF, Nat.mul_add_mod]
  rcases lt_or_ge N (2 ^ l.fb) with h1 | h1
  · have hj : j = 0 := by omega
    subst hj
    rw [Nat.div_eq_of_lt h1, Nat.mod_eq_of_lt h1, if_pos rfl]
    norm_num
  · obtain ⟨r, rfl⟩ := Nat.exists_eq_add_of_le' h1
    rcases lt_or_eq_of_le (by omega : r ≤ 2 ^ l.fb) with hr | hr
    · rw [Nat.add_div_right _ hF, Nat.div_eq_of_lt hr, Nat.add_mod_right, Nat.mod_eq_of_lt hr, if_neg (by omega)]
    · subst hr
      rw [← two_mul, Nat.mul_div_cancel _ hF, Nat.mul_mod_left, if_neg (by omega), Nat.zero_add]
      have : ((j + 2 : Nat) : Int) - l.bias - l.fb = ((j + 1 : Nat) : Int) - l.bias - l.fb + 1 := by push_cast; ring
      rw [this, zpow_add₀ two_ne_zero]
      push_cast
      ring

/-- The bits of infinity begin where the magnitude is 2^(bias + 1). -/
theorem Layout.infBits_le_place {k N : Nat} (hk : 1 ≤ k) (hN : N ≤ 2 ^ (l.fb + 1)) (h : k = 1 ∨ 2 ^ l.fb ≤ N) :
    l.infBits ≤ (k - 1) * 2 ^ l.fb + N ↔ (2 : ℚ) ^ ((l.bias : Int) + 1) ≤ N * (2 : ℚ) ^ ((k : Int) - l.bias - l.fb) := by
  obtain ⟨j, rfl⟩ := Nat.exists_eq_add_of_le' hk
  have hF := Nat.two_pow_pos l.fb
  have hscale : (2 : ℚ) ^ ((l.bias : Int) + 1) ≤ N * (2 : ℚ) ^ (((j + 1 : Nat) : Int) - l.bias - l.fb) ↔ 2 ^ (2 * l.bias) * 2 ^ l.fb ≤ N * 2 ^ j := by
    have hpos : (0 : ℚ) < (2 : ℚ) ^ ((l.bias : Int) + l.fb - 1) := by positivity
    rw [← mul_le_mul_iff_left₀ hpos, mul_assoc, ← zpow_add₀ two_ne_zero, ← zpow_add₀ two_ne_zero,
      show (l.bias : Int) + 1 + (l.bias + l.fb - 1) = ((2 * l.bias + l.fb : Nat) : Int) by push_cast; ring,
      show ((j + 1 : Nat) : Int) - l.bias - l.fb + (l.bias + l.fb - 1) = (j : Int) by push_cast; ring, zpow_natCast, zpow_natCast, ← pow_add]
    norm_cast
  rw [hscale, Layout.infBits_eq hl, Nat.add_sub_cancel]
  rw [pow_succ] at hN
  rcases lt_trichotomy j (2 * l.bias) with hj | rfl | hj
  · obtain ⟨d, hd⟩ := Nat.exists_eq_add_of_lt hj
    rw [hd, show 2 ^ (j + d + 1) * 2 ^ l.fb = (2 ^ d * 2 * 2 ^ l.fb) * 2 ^ j by ring, Nat.mul_le_mul_right_iff (Nat.two_pow_pos j)]
    rcases d with _ | d
    · constructor <;> intro h <;> nlinarith
    · have h4 : 2 ≤ 2 ^ (d + 1) := Nat.pow_le_pow_right two_pos (by omega : 1 ≤ d + 1)
      constructor <;> intro h <;> nlinarith
  · rw [mul_comm N, Nat.mul_le_mul_left_iff (Nat.two_pow_pos _), add_mul, one_mul]
    omega
  · have hN' : 2 ^ l.fb ≤ N := h.resolve_left (by omega)
    refine iff_of_true ?_ ?_
    · have := Nat.mul_le_mul_right (2 ^ l.fb) (by omega : 2 * l.bias + 1 ≤ j)
      omega
    · rw [mul_comm]
      exact Nat.mul_le_mul hN' (Nat.pow_le_pow_right two_pos hj.le)

end

/-! ### One rounding (R44) -/

section
variable (l : Layout) (rm : Nat) (n : Bool) (m : Nat) (e : Int)

/-- The exponent of the quantum of a nonzero number: its own last place, or that of the subnormals. -/
def Layout.quantum : Int := max ((Nat.log2 m : Int) + e) (1 - l.bias) - l.fb

/-- The exponent field of its binade, 1 for the subnormals. -/
def Layout.binade : Nat := (max ((Nat.log2 m : Int) + e) (1 - l.bias) + l.bias).toNat

/-- How many quanta the mode makes of it. -/
def Layout.quanta : Nat × Bool := roundShift rm n m (Layout.quantum l m e - e)

/-- Whether it is below the smallest normal after a rounding without a bound on the exponent. -/
def Layout.tinyOf : Bool := decide ((Nat.log2 m : Int) + e < 1 - l.bias) &&
  !(decide ((Nat.log2 m : Int) + e = 1 - l.bias - 1) && (roundShift rm n m ((Nat.log2 m : Int) + e - l.fb - e)).1 == 2 ^ (l.fb + 1))

/-- Its bits without the sign. -/
def Layout.bitsOfQuanta : Nat := (Layout.binade l m e - 1) * 2 ^ l.fb + (Layout.quanta l rm n m e).1

theorem Layout.one_le_binade : 1 ≤ Layout.binade l m e := by unfold Layout.binade; omega

theorem Layout.cast_binade : (Layout.binade l m e : Int) - l.bias - l.fb = Layout.quantum l m e := by
  unfold Layout.binade Layout.quantum
  omega

theorem Layout.roundMag_run (fr : Bool) : (l.roundMag rm fr n m e).run 0 =
    if (Layout.tinyOf l rm n m e && fr) = true then (b2n n * l.signBit, 24)
    else if l.infBits ≤ Layout.bitsOfQuanta l rm n m e then (l.overflow rm n, 20)
    else (Layout.bitsOfQuanta l rm n m e + b2n n * l.signBit,
      (if (Layout.quanta l rm n m e).2 then 16 else 0) ||| (if (Layout.tinyOf l rm n m e && (Layout.quanta l rm n m e).2) = true then 8 else 0)) := by
  have hbits : (if (Nat.log2 m : Int) + e < 1 - l.bias then (Layout.quanta l rm n m e).1
      else (((Nat.log2 m : Int) + e + l.bias - 1).toNat <<< l.fb) + (Layout.quanta l rm n m e).1) = Layout.bitsOfQuanta l rm n m e := by
    unfold Layout.bitsOfQuanta Layout.binade
    split
    · rw [max_eq_right (by omega), show (1 - (l.bias : Int) + l.bias).toNat = 1 by omega]
      simp
    · rw [max_eq_left (by omega), Nat.shiftLeft_eq]
      congr 3
      omega
  rw [← hbits]
  unfold Layout.roundMag
  simp only [← Layout.tinyOf.eq_1, ← Layout.quantum.eq_1, ← Layout.quanta.eq_1]
  split_ifs <;> rfl

/-- The integer of the mode for a number in units of 2^q. -/
theorem roundShift_units (q : Int) : (if n then -1 else 1) * ((roundShift rm n m (q - e)).1 : Int) = roundQ rm (numRat (.fin n m e) / (2 : ℚ) ^ q)
    ∧ ((roundShift rm n m (q - e)).2 = false ↔ (roundQ rm (numRat (.fin n m e) / (2 : ℚ) ^ q) : ℚ) = numRat (.fin n m e) / (2 : ℚ) ^ q) := by
  have hx : (if n then -1 else 1) * ((m : ℚ) * (2 : ℚ) ^ (-(q - e))) = numRat (.fin n m e) / (2 : ℚ) ^ q := by
    rw [numRat_fin, neg_sub, zpow_sub₀ two_ne_zero]
    ring
  have h := roundShift_spec rm n m (q - e)
  rwa [hx] at h

theorem abs_roundShift_units (q : Int) : ((roundShift rm n m (q - e)).1 : Int) = |roundQ rm (numRat (.fin n m e) / (2 : ℚ) ^ q)| := by
  rw [← (roundShift_units rm n m e q).1, abs_mul]
  cases n <;> simp

variable {m} (hm : m ≠ 0)
include hm

/-- In units of the last place of its own binade a number makes an integer of `fb` or `fb + 1` bits. -/
theorem abs_roundQ_binade (j : Nat) {p : Int} (hp : (Nat.log2 m : Int) + e = p + j) :
    (2 : Int) ^ j ≤ |roundQ rm (numRat (.fin n m e) / (2 : ℚ) ^ p)| ∧ |roundQ rm (numRat (.fin n m e) / (2 : ℚ) ^ p)| ≤ 2 ^ (j + 1) := by
  obtain ⟨h1, h2⟩ := binade_of_log2 hm n e
  have hpos : (0 : ℚ) < (2 : ℚ) ^ p := by positivity
  have habs : |numRat (.fin n m e) / (2 : ℚ) ^ p| = |numRat (.fin n m e)| / (2 : ℚ) ^ p := by rw [abs_div, abs_of_pos hpos]
  rw [hp] at h1 h2
  refine ⟨le_abs_roundQ rm ?_, abs_roundQ_le rm ?_⟩
  · rw [habs, le_div_iff₀ hpos]
    push_cast
    rwa [← zpow_natCast, ← zpow_add₀ two_ne_zero, add_comm]
  · rw [habs, div_le_iff₀ hpos]
    push_cast
    rw [← zpow_natCast, ← zpow_add₀ two_ne_zero]
    refine h2.le.trans (le_of_eq ?_)
    congr 1
    push_cast
    ring

/-- What makes a number tiny (R45): a rounding to its own places without a bound on the exponent stays below the smallest normal. -/
theorem Layout.tinyOf_iff : Layout.tinyOf l rm n m e = true
    ↔ |(roundQ rm (numRat (.fin n m e) / (2 : ℚ) ^ ((Nat.log2 m : Int) + e - l.fb)) : ℚ) * (2 : ℚ) ^ ((Nat.log2 m : Int) + e - l.fb)|
      < (2 : ℚ) ^ (1 - (l.bias : Int)) := by
  generalize hp : (Nat.log2 m : Int) + e - l.fb = p
  have hpos : (0 : ℚ) < (2 : ℚ) ^ p := by positivity
  obtain ⟨h1, h2⟩ := abs_roundQ_binade rm n e hm l.fb (p := p) (by omega)
  have hN := abs_roundShift_units rm n m e p
  unfold Layout.tinyOf
  rw [hp, abs_mul, abs_of_pos hpos, ← Int.cast_abs]
  generalize |roundQ rm (numRat (.fin n m e) / (2 : ℚ) ^ p)| = R at *
  have hlt : (R : ℚ) * (2 : ℚ) ^ p < (2 : ℚ) ^ (1 - (l.bias : Int)) ↔ p + l.fb < 1 - l.bias ∧ ¬(p + l.fb = 1 - l.bias - 1 ∧ R = 2 ^ (l.fb + 1)) := by
    have hR1 : (2 : ℚ) ^ (l.fb : Int) ≤ R := by rw [zpow_natCast]; exact_mod_cast h1
    have hR2 : (R : ℚ) ≤ (2 : ℚ) ^ ((l.fb : Int) + 1) := by rw [← Nat.cast_succ, zpow_natCast]; exact_mod_cast h2
    constructor
    · intro h
      have hlow : (2 : ℚ) ^ (p + l.fb) < (2 : ℚ) ^ (1 - (l.bias : Int)) := by
        refine lt_of_le_of_lt ?_ h
        rw [add_comm, zpow_add₀ two_ne_zero]
        exact mul_le_mul_of_nonneg_right hR1 hpos.le
      refine ⟨(zpow_lt_zpow_iff_right₀ one_lt_two).mp hlow, fun ⟨ha, hb⟩ => ?_⟩
      rw [hb] at h
      push_cast at h
      rw [← zpow_natCast, ← zpow_add₀ two_ne_zero] at h
      have := (zpow_lt_zpow_iff_right₀ (one_lt_two (α := ℚ))).mp h
      push_cast at this
      omega
    · rintro ⟨ha, hb⟩
      by_cases hedge : p + l.fb = 1 - l.bias - 1
      · have hR : R < 2 ^ (l.fb + 1) := lt_of_le_of_ne h2 fun h => hb ⟨hedge, h⟩
        have hR' : (R : ℚ) < (2 : ℚ) ^ ((l.fb : Int) + 1) := by rw [← Nat.cast_succ, zpow_natCast]; exact_mod_cast hR
        calc (R : ℚ) * (2 : ℚ) ^ p < (2 : ℚ) ^ ((l.fb : Int) + 1) * (2 : ℚ) ^ p := mul_lt_mul_of_pos_right hR' hpos
          _ = (2 : ℚ) ^ (1 - (l.bias : Int)) := by rw [← zpow_add₀ two_ne_zero]; congr 1; omega
      · calc (R : ℚ) * (2 : ℚ) ^ p ≤ (2 : ℚ) ^ ((l.fb : Int) + 1) * (2 : ℚ) ^ p := mul_le_mul_of_nonneg_right hR2 hpos.le
          _ = (2 : ℚ) ^ ((l.fb : Int) + 1 + p) := (zpow_add₀ two_ne_zero _ _).symm
          _ < (2 : ℚ) ^ (1 - (l.bias : Int)) := zpow_lt_zpow_right₀ one_lt_two (by omega)
  rw [hlt, Bool.and_eq_true, decide_eq_true_eq, Bool.not_eq_true', Bool.and_eq_false_iff, decide_eq_false_iff_not, beq_eq_false_iff_ne, ← hN]
  have : (roundShift rm n m (p - e)).1 ≠ 2 ^ (l.fb + 1) ↔ ¬((roundShift rm n m (p - e)).1 : Int) = 2 ^ (l.fb + 1) := by
    rw [ne_eq]; norm_cast
  rw [this, not_and_or, show (Nat.log2 m : Int) + e = p + l.fb by omega]

/-- The quanta of a number. -/
theorem Layout.quanta_bounds : (Layout.quanta l rm n m e).1 ≤ 2 ^ (l.fb + 1) ∧ (Layout.binade l m e = 1 ∨ 2 ^ l.fb ≤ (Layout.quanta l rm n m e).1) := by
  have hN := abs_roundShift_units rm n m e (Layout.quantum l m e)
  rw [← Layout.quanta.eq_1] at hN
  rcases le_or_gt (1 - (l.bias : Int)) ((Nat.log2 m : Int) + e) with h | h
  · have hq : (Nat.log2 m : Int) + e = Layout.quantum l m e + l.fb := by unfold Layout.quantum; omega
    obtain ⟨h1, h2⟩ := abs_roundQ_binade rm n e hm l.fb hq
    rw [← hN] at h1 h2
    exact ⟨by exact_mod_cast h2, .inr (by exact_mod_cast h1)⟩
  · refine ⟨?_, .inl (by unfold Layout.binade; omega)⟩
    have hle : |roundQ rm (numRat (.fin n m e) / (2 : ℚ) ^ Layout.quantum l m e)| ≤ 2 ^ (l.fb + 1) := by
      have hpos : (0 : ℚ) < (2 : ℚ) ^ Layout.quantum l m e := by positivity
      refine abs_roundQ_le rm ?_
      rw [abs_div, abs_of_pos hpos, div_le_iff₀ hpos]
      push_cast
      rw [← zpow_natCast, ← zpow_add₀ two_ne_zero]
      refine (binade_of_log2 hm n e).2.le.trans (zpow_le_zpow_right₀ one_le_two ?_)
      unfold Layout.quantum
      push_cast
      omega
    rw [← hN] at hle
    exact_mod_cast hle

end

end Sys2Proof.Machine
end

section
/-!
PROOF of O37. Decoding, one rounding, its flags and its fixed points, for every layout with an exponent and a fraction.
-/
namespace Sys2Proof.Machine
open Flagged

section
variable (l : Layout) (rm : Nat) (n : Bool) {m : Nat} (hm : m ≠ 0) (e : Int)

/-- The multiple of the quantum that the mode makes of a number. -/
def Layout.rounded (l : Layout) (rm : Nat) (n : Bool) (m : Nat) (e : Int) : ℚ :=
  roundQ rm (numRat (.fin n m e) / (2 : ℚ) ^ Layout.quantum l m e) * (2 : ℚ) ^ Layout.quantum l m e

theorem Layout.rounded_eq_quanta (m : Nat) :
    Layout.rounded l rm n m e = (if n then -1 else 1) * ((Layout.quanta l rm n m e).1 * (2 : ℚ) ^ Layout.quantum l m e) := by
  rw [Layout.rounded, ← (roundShift_units rm n m e _).1, ← Layout.quanta.eq_1]
  cases n <;> push_cast <;> simp

theorem Layout.abs_rounded (m : Nat) : |Layout.rounded l rm n m e| = (Layout.quanta l rm n m e).1 * (2 : ℚ) ^ Layout.quantum l m e := by
  have : (0 : ℚ) ≤ (Layout.quanta l rm n m e).1 * (2 : ℚ) ^ Layout.quantum l m e := by positivity
  rw [Layout.rounded_eq_quanta, abs_mul, abs_of_nonneg this]
  cases n <;> simp

theorem Layout.quanta_exact (m : Nat) : (Layout.quanta l rm n m e).2 = false ↔ Layout.rounded l rm n m e = numRat (.fin n m e) := by
  have hpos : (2 : ℚ) ^ Layout.quantum l m e ≠ 0 := by positivity
  rw [Layout.quanta, (roundShift_units rm n m e _).2, eq_div_iff hpos]
  rfl

theorem Layout.round_zero (fr : Bool) : (l.round rm fr (.fin n 0 e)).run 0 = (b2n n * l.signBit, 0) := rfl

include hm

theorem Layout.round_fin (fr : Bool) : l.round rm fr (.fin n m e) = l.roundMag rm fr n m e := by
  obtain ⟨m, rfl⟩ := Nat.exists_eq_succ_of_ne_zero hm
  rfl

theorem Layout.round_run (fr : Bool) : (l.round rm fr (.fin n m e)).run 0 =
    if (Layout.tinyOf l rm n m e && fr) = true then (b2n n * l.signBit, 24)
    else if l.infBits ≤ Layout.bitsOfQuanta l rm n m e then (l.overflow rm n, 20)
    else (Layout.bitsOfQuanta l rm n m e + b2n n * l.signBit,
      (if (Layout.quanta l rm n m e).2 then 16 else 0) ||| (if (Layout.tinyOf l rm n m e && (Layout.quanta l rm n m e).2) = true then 8 else 0)) := by
  rw [Layout.round_fin l rm n hm e fr, Layout.roundMag_run]

theorem Layout.magnitude_bitsOfQuanta : Layout.magnitude l (Layout.bitsOfQuanta l rm n m e) = |Layout.rounded l rm n m e| := by
  obtain ⟨h1, h2⟩ := Layout.quanta_bounds l rm n e hm
  rw [Layout.bitsOfQuanta, Layout.magnitude_place l (Layout.one_le_binade l m e) h1 h2, Layout.cast_binade, ← Layout.abs_rounded]

variable {l} (hl : Layout.Proper l)
include hl

theorem Layout.infBits_le_iff : l.infBits ≤ Layout.bitsOfQuanta l rm n m e ↔ (2 : ℚ) ^ ((l.bias : Int) + 1) ≤ |Layout.rounded l rm n m e| := by
  obtain ⟨h1, h2⟩ := Layout.quanta_bounds l rm n e hm
  rw [Layout.bitsOfQuanta, Layout.infBits_le_place hl (Layout.one_le_binade l m e) h1 h2, Layout.cast_binade, ← Layout.abs_rounded]

/-- A rounding that does not overflow: the bits name the rounded number, and the flags say whether it changed and was tiny. -/
theorem Layout.round_in_range (h : |Layout.rounded l rm n m e| < (2 : ℚ) ^ ((l.bias : Int) + 1)) : let out := (l.round rm false (.fin n m e)).run 0
    numFinite (l.decode false out.1) ∧ numRat (l.decode false out.1) = Layout.rounded l rm n m e ∧ (l.decode false out.1).sign = n
    ∧ out.2 = if Layout.rounded l rm n m e = numRat (.fin n m e) then 0 else if Layout.tinyOf l rm n m e then 24 else 16 := by
  have hb : ¬l.infBits ≤ Layout.bitsOfQuanta l rm n m e := by rw [Layout.infBits_le_iff rm n hm e hl]; exact not_le.mpr h
  rw [Layout.round_run l rm n hm e false]
  simp only [Bool.and_false, Bool.false_eq_true, if_false, if_neg hb]
  obtain ⟨⟨k, a, b, hd⟩, hsign, habs⟩ := Layout.decode_of_lt hl (not_le.mp hb) n
  refine ⟨⟨k, a, b, hd⟩, ?_, hsign, ?_⟩
  · rw [Layout.magnitude_bitsOfQuanta l rm n hm e, Layout.abs_rounded] at habs
    rw [Layout.rounded_eq_quanta, ← habs, hd, abs_numRat, numRat_fin, mul_assoc]
    rw [hd] at hsign
    rw [show k = n from hsign]
  · by_cases hex : Layout.rounded l rm n m e = numRat (.fin n m e)
    · rw [if_pos hex, (Layout.quanta_exact l rm n e m).mpr hex]
      simp
    · rw [if_neg hex, Bool.eq_true_of_not_eq_false fun h => hex ((Layout.quanta_exact l rm n e m).mp h)]
      cases Layout.tinyOf l rm n m e <;> rfl

theorem Layout.round_overflow (h : (2 : ℚ) ^ ((l.bias : Int) + 1) ≤ |Layout.rounded l rm n m e|) :
    (l.round rm false (.fin n m e)).run 0 = (l.overflow rm n, 20) := by
  rw [Layout.round_run l rm n hm e false, if_pos ((Layout.infBits_le_iff rm n hm e hl).mpr h), Bool.and_false, if_neg (by decide)]

end

/-- Bits of a rounding stand in the width of the type. -/
theorem Layout.roundTo_lt {l : Layout} (hl : Layout.Proper l) (rm : Nat) (fr : Bool) (x : Num) : roundTo l rm fr x < 2 ^ (l.eb + l.fb + 1) := by
  have hinf := Layout.infBits_lt hl
  have hwidth : 2 ^ (l.eb + l.fb + 1) = 2 * l.signBit := pow_succ' 2 (l.eb + l.fb)
  have hsign : ∀ b, b2n b * l.signBit ≤ l.signBit := fun b => by cases b <;> simp [b2n]
  cases x with
  | nan s =>
    have hnan : roundTo l rm fr (.nan s) = l.infBits + 2 ^ (l.fb - 1) := by cases s <;> rfl
    have hquiet : 2 ^ (l.fb - 1) < 2 ^ l.fb := Nat.pow_lt_pow_right one_lt_two (by have := hl.2; omega)
    have hgap : l.signBit = l.infBits + 2 ^ l.fb := by rw [Layout.signBit_eq hl, Layout.infBits_eq hl]; ring
    omega
  | inf n =>
    have h := hsign n
    exact (by omega : l.infBits + b2n n * l.signBit < 2 ^ (l.eb + l.fb + 1))
  | fin n m e =>
    have h := hsign n
    cases m with
    | zero => exact (by omega : b2n n * l.signBit < 2 ^ (l.eb + l.fb + 1))
    | succ m =>
      have hover : l.overflow rm n ≤ l.infBits + b2n n * l.signBit := by
        unfold Layout.overflow
        dsimp only
        split <;> omega
      change ((l.roundMag rm fr n (m + 1) e).run 0).1 < 2 ^ (l.eb + l.fb + 1)
      obtain h | h | ⟨bits, hb, h⟩ := l.roundMag_cases rm fr n (m + 1) e 0 <;> omega

theorem Layout.cast_bias (l : Layout) : (l.bias : Int) = 2 ^ (l.eb - 1) - 1 := by
  rw [Layout.bias, Nat.cast_sub Nat.one_le_two_pow]
  push_cast
  rfl

/-- The quantum of R44 by its two cases. -/
theorem Layout.quantum_unique (l : Layout) (n : Bool) {m : Nat} (hm : m ≠ 0) (e : Int) {q : Int}
    (h : (2 : ℚ) ^ (q + l.fb) ≤ |numRat (.fin n m e)| ∧ |numRat (.fin n m e)| < (2 : ℚ) ^ (q + l.fb + 1) ∧ (2 : ℚ) ^ (1 - (l.bias : Int)) ≤ |numRat (.fin n m e)|
      ∨ q = 1 - l.bias - l.fb ∧ |numRat (.fin n m e)| < (2 : ℚ) ^ (1 - (l.bias : Int))) : q = Layout.quantum l m e := by
  obtain ⟨h1, h2⟩ := binade_of_log2 hm n e
  unfold Layout.quantum
  rcases h with ⟨ha, hb, hc⟩ | ⟨ha, hb⟩
  · have hq := binade_unique ha hb h1 h2
    have := (zpow_lt_zpow_iff_right₀ (one_lt_two (α := ℚ))).mp (hc.trans_lt h2)
    omega
  · have := (zpow_lt_zpow_iff_right₀ (one_lt_two (α := ℚ))).mp (h1.trans_lt hb)
    omega

/-- A magnitude in units of its quantum is rounded to itself. -/
theorem Layout.round_of_quantum {l : Layout} {rm : Nat} {n : Bool} {m : Nat} (hm : m ≠ 0) {e : Int} (hq : Layout.quantum l m e = e)
    (hb : (Layout.binade l m e - 1) * 2 ^ l.fb + m < l.infBits) :
    (l.round rm false (.fin n m e)).run 0 = ((Layout.binade l m e - 1) * 2 ^ l.fb + m + b2n n * l.signBit, 0) := by
  have hquanta : Layout.quanta l rm n m e = (m, false) := by
    rw [Layout.quanta, hq, sub_self]
    simpa using roundShift_left rm n m 0
  rw [Layout.round_run l rm n hm e false, Layout.bitsOfQuanta, hquanta, Bool.and_false, if_neg (by decide), if_neg (not_le.mpr hb)]
  simp

/-- Bits by their sign, exponent and fraction. -/
theorem Layout.eq_fields (l : Layout) {x : Nat} (hx : x < 2 ^ (l.eb + l.fb + 1)) :
    x = x / 2 ^ l.fb % 2 ^ l.eb * 2 ^ l.fb + x % 2 ^ l.fb + b2n (x.testBit (l.eb + l.fb)) * l.signBit := by
  have hbit : b2n (x.testBit (l.eb + l.fb)) = x / 2 ^ l.fb / 2 ^ l.eb := by
    rw [Nat.div_div_eq_div_mul, ← pow_add, add_comm l.fb, Nat.testBit_eq_decide_div_mod_eq]
    have : x / 2 ^ (l.eb + l.fb) < 2 := by rw [Nat.div_lt_iff_lt_mul (Nat.two_pow_pos _), ← pow_succ']; exact hx
    generalize x / 2 ^ (l.eb + l.fb) = d at *
    obtain rfl | rfl : d = 0 ∨ d = 1 := by omega
    · rfl
    · rfl
  have h1 := Nat.div_add_mod x (2 ^ l.fb)
  have h2 := Nat.div_add_mod (x / 2 ^ l.fb) (2 ^ l.eb)
  rw [hbit, Layout.signBit, pow_add]
  generalize x / 2 ^ l.fb % 2 ^ l.eb = ex at *
  generalize x / 2 ^ l.fb / 2 ^ l.eb = s at *
  rw [← h2] at h1
  linarith [h1]

/-- An element is a fixed point of the rounding. -/
theorem Layout.round_decode {l : Layout} (hl : Layout.Proper l) (rm : Nat) {x : Nat} (hx : x < 2 ^ (l.eb + l.fb + 1)) (hn : (l.decode false x).isNan = false) :
    (l.round rm false (l.decode false x)).run 0 = (x, 0) := by
  have hxe := Layout.eq_fields l hx
  have hex : x / 2 ^ l.fb % 2 ^ l.eb < 2 ^ l.eb := Nat.mod_lt _ (Nat.two_pow_pos _)
  have hfr : x % 2 ^ l.fb < 2 ^ l.fb := Nat.mod_lt _ (Nat.two_pow_pos _)
  have heb := Layout.two_pow_eb hl
  have hinf := Layout.infBits_eq hl
  have hF := Nat.two_pow_pos l.fb
  rw [Layout.decode_fields] at hn ⊢
  dsimp only at hn ⊢
  generalize x.testBit (l.eb + l.fb) = n at *
  generalize x / 2 ^ l.fb % 2 ^ l.eb = ex at *
  generalize x % 2 ^ l.fb = fr at *
  rw [heb] at hn hex ⊢
  split at hn
  · next h =>
    rw [if_pos h]
    split at hn
    · next h0 =>
      rw [if_pos h0, hxe, h, h0, add_zero, show 2 * (l.bias + 1) - 1 = 2 * l.bias + 1 by omega, ← hinf]
      rfl
    · cases hn
  · next h =>
    rw [if_neg h]
    split
    · next h0 =>
      subst h0
      by_cases hf0 : fr = 0
      · subst hf0
        rw [hxe, zero_mul, zero_add, zero_add]
        exact Layout.round_zero l rm n _ false
      · have hlog : Nat.log2 fr < l.fb := (Nat.log2_lt hf0).mpr hfr
        have hq : Layout.quantum l fr (1 - l.bias - l.fb) = 1 - l.bias - l.fb := by unfold Layout.quantum; omega
        have hk : Layout.binade l fr (1 - l.bias - l.fb) = 1 := by unfold Layout.binade; omega
        simp only [Bool.false_eq_true, if_false]
        have hlt : fr < l.infBits := hfr.trans_le (by rw [hinf]; exact Nat.le_mul_of_pos_left _ (by omega))
        rw [Layout.round_of_quantum hf0 hq (by rw [hk]; simpa using hlt), hk, hxe]
    · next h0 =>
      have hlog : Nat.log2 (fr + 2 ^ l.fb) = l.fb := by
        rw [Nat.log2_eq_iff (by omega), pow_succ]
        omega
      have hq : Layout.quantum l (fr + 2 ^ l.fb) ((ex : Int) - l.bias - l.fb) = (ex : Int) - l.bias - l.fb := by
        unfold Layout.quantum
        rw [hlog]
        omega
      have hk : Layout.binade l (fr + 2 ^ l.fb) ((ex : Int) - l.bias - l.fb) = ex := by
        unfold Layout.binade
        rw [hlog]
        omega
      have hbits : (ex - 1) * 2 ^ l.fb + (fr + 2 ^ l.fb) = ex * 2 ^ l.fb + fr := by
        obtain ⟨j, rfl⟩ := Nat.exists_eq_succ_of_ne_zero h0
        rw [Nat.succ_sub_one, Nat.succ_mul]
        ring
      have hlt : ex * 2 ^ l.fb + fr < l.infBits := by
        have hex' : ex + 1 ≤ 2 * l.bias + 1 := by omega
        rw [hinf]
        nlinarith [Nat.mul_le_mul_right (2 ^ l.fb) hex']
      rw [Layout.round_of_quantum (by omega) hq (by rw [hk, hbits]; exact hlt), hk, hbits, hxe]

theorem overflow_eq (l : Layout) (rm : Nat) (n : Bool) : l.overflow rm n = (if rm = 1 ∨ (rm = 3 ∧ n = false) ∨ (rm = 4 ∧ n = true) then (2 ^ l.eb - 1) * 2 ^ l.fb
    else (2 ^ l.eb - 1) * 2 ^ l.fb - 1) + if n then 2 ^ (l.eb + l.fb) else 0 := by
  unfold Layout.overflow Layout.infBits Layout.signBit
  rw [Nat.shiftLeft_eq]
  cases n <;> simp [b2n]

theorem Layout.decode_spec (l : Layout) (fi : Bool) (x : Nat) : let n := x.testBit (l.eb + l.fb)
    let ex := x / 2 ^ l.fb % 2 ^ l.eb
    let fr := x % 2 ^ l.fb
    (ex = 2 ^ l.eb - 1 → l.decode fi x = if fr = 0 then .inf n else .nan (!x.testBit (l.fb - 1)))
    ∧ (ex ≠ 2 ^ l.eb - 1 → numFinite (l.decode fi x) ∧ (l.decode fi x).sign = n
      ∧ |numRat (l.decode fi x)| = if ex = 0 then (if fi then 0 else (fr : ℚ) * (2 : ℚ) ^ (1 - (l.bias : Int)) / 2 ^ l.fb)
          else (1 + (fr : ℚ) / 2 ^ l.fb) * (2 : ℚ) ^ ((ex : Int) - l.bias)) := by
  intro n ex fr
  have hd := Layout.decode_fields l fi x
  change l.decode fi x = if ex = _ then if fr = 0 then .inf n else _ else if ex = 0 then .fin n (if fi then 0 else fr) _
    else .fin n (fr + _) ((ex : Int) - _ - _) at hd
  clear_value n ex fr
  rw [hd]
  refine ⟨fun h => if_pos h, fun h => ?_⟩
  rw [if_neg h]
  by_cases h0 : ex = 0
  · rw [if_pos h0, if_pos h0]
    refine ⟨⟨_, _, _, rfl⟩, rfl, ?_⟩
    rw [abs_numRat]
    cases fi
    · simp only [Bool.false_eq_true, if_false]
      rw [zpow_sub₀ two_ne_zero, zpow_natCast, mul_div_assoc]
    · simp
  · rw [if_neg h0, if_neg h0]
    refine ⟨⟨_, _, _, rfl⟩, rfl, ?_⟩
    rw [abs_numRat, zpow_sub₀ two_ne_zero, zpow_natCast]
    push_cast
    field_simp
    ring

/-- Settles O37. -/
theorem roundingIsExact : Obligations.RoundingIsExact := by
  refine ⟨fun ty hty => ?_, fun rm _ n m e => ⟨roundInt_fst rm n m e, roundInt_snd rm n m e⟩, numRat_scale⟩
  have hl := Layout.proper_layoutOf ty
  have hw : typeWidth ty = (layoutOf ty).eb + (layoutOf ty).fb + 1 := Layout.width_layoutOf (by simp at hty; omega)
  rw [hw]
  generalize layoutOf ty = l at *
  intro lay bias least sgn
  have hlay : l = lay := rfl
  clear_value lay
  subst hlay
  have hbias : bias = l.bias := (Layout.cast_bias l).symm
  clear_value bias
  subst hbias
  refine ⟨fun rm _ x hx hn => Layout.round_decode hl rm hx hn, fun x _ fi => Layout.decode_spec l fi x, fun rm _ n m e hm => ?_⟩
  intro v out q hq p hp hp' y tiny
  have hqe := Layout.quantum_unique l n hm e hq
  subst hqe
  have hpe : p = (Nat.log2 m : Int) + e - l.fb := by
    obtain ⟨h1, h2⟩ := binade_of_log2 hm n e
    have := binade_unique hp hp' h1 h2
    omega
  subst hpe
  have hy : y = Layout.rounded l rm n m e := rfl
  have htiny : tiny ↔ Layout.tinyOf l rm n m e = true := (Layout.tinyOf_iff l rm n e hm).symm
  clear_value y tiny
  subst hy
  have hsgn : b2n n * l.signBit = sgn n := by cases n <;> simp [b2n, sgn, Layout.signBit]
  refine ⟨fun h => ?_, fun h => ?_, fun h => ?_, fun h => ?_⟩
  · obtain ⟨hf, hv, hs, hfl⟩ := Layout.round_in_range rm n hm e hl h
    refine ⟨hf, hv, hs, Layout.roundTo_lt hl rm false _, fun he => ?_, fun he ht => ?_, fun he ht => ?_⟩
    · rw [hfl, if_pos he]
    · rw [hfl, if_neg he, if_pos (htiny.mp ht)]
    · rw [hfl, if_neg he, if_neg fun h => ht (htiny.mpr h)]
  · refine (Layout.round_overflow rm n hm e hl h).trans ?_
    rw [overflow_eq]
  · refine (Layout.round_run l rm n hm e true).trans ?_
    rw [if_pos (by simpa using htiny.mp h), hsgn]
  · have ht : Layout.tinyOf l rm n m e = false := Bool.eq_false_iff.mpr fun h' => h (htiny.mpr h')
    refine (Layout.round_run l rm n hm e true).trans ((Layout.round_run l rm n hm e false).trans ?_).symm
    rw [ht]
    rfl

end Sys2Proof.Machine
end

section
/-!
SUPPORT for O35, O36, O38 and O39. Ranks by their elements, and V forms by the values that they compute.
-/
namespace Sys2Proof.Machine
open Flagged

/-! ### Ranks by their elements (R39) -/

/-- The number of `n` elements of width `w`. -/
def rankOf (w n : Nat) (g : Nat → Nat) : Nat := Nat.ofDigits (2 ^ w) ((List.range n).map fun i => g i % 2 ^ w)

theorem elemOf_rankOf (w n : Nat) (g : Nat → Nat) (e : Nat) : elemOf w e (rankOf w n g) = if e < n then g e % 2 ^ w else 0 := by
  rw [rankOf, elemOf_ofDigits]
  · by_cases h : e < n
    · simp [h]
    · simp [h]
  · intro x hx
    obtain ⟨i, -, rfl⟩ := List.mem_map.mp hx
    exact Nat.mod_lt _ (Nat.two_pow_pos w)

theorem rankOf_lt {w n : Nat} (hw : w ≠ 0) (g : Nat → Nat) : rankOf w n g < 2 ^ (w * n) := by
  have h := Nat.ofDigits_lt_base_pow_length (b := 2 ^ w) (l := (List.range n).map fun i => g i % 2 ^ w) (Nat.one_lt_two_pow hw) fun x hx => by
    obtain ⟨i, -, rfl⟩ := List.mem_map.mp hx
    exact Nat.mod_lt _ (Nat.two_pow_pos w)
  simpa [rankOf, pow_mul] using h

theorem rankOf_succ (w n : Nat) (g : Nat → Nat) : rankOf w (n + 1) g = rankOf w n g + (g n % 2 ^ w) <<< (w * n) := by
  rw [rankOf, rankOf, List.range_succ, List.map_append, Nat.ofDigits_append, List.length_map, List.length_range, Nat.shiftLeft_eq, pow_mul]
  simp [mul_comm]

theorem value_buildElems {w : Nat} {f : Nat → Flagged Nat} (hf : ∀ i, Steady (f i)) (n : Nat) :
    value (buildElems w f n) = rankOf w n fun i => value (f i) := by
  induction n with
  | zero => rfl
  | succ n ih =>
    rw [rankOf_succ, ← ih]
    exact value_bind _ fun _ => steady_bind (hf n) fun _ => steady_pure _

theorem packLe_eq_rankOf (w n : Nat) (g : Nat → Nat) : packLe ((List.range n).map fun i => (w, g i)) = rankOf w n g := by
  have h : ∀ l : List Nat, packLe (l.map fun x => (w, x)) = Nat.ofDigits (2 ^ w) (l.map fun x => x % 2 ^ w) := by
    intro l
    induction l with
    | nil => rfl
    | cons x l ih =>
      rw [List.map_cons, packLe, ih, List.map_cons, Nat.ofDigits_cons, Nat.shiftLeft_eq, mul_comm]
  have := h ((List.range n).map g)
  simpa [rankOf, List.map_map, Function.comp_def] using this

theorem typeWidth_mem (ty : Nat) : typeWidth ty = 8 ∨ typeWidth ty = 16 ∨ typeWidth ty = 32 ∨ typeWidth ty = 64 := by
  unfold typeWidth
  split_ifs <;> simp

theorem typeWidth_pos (ty : Nat) : 0 < typeWidth ty := by
  rcases typeWidth_mem ty with h | h | h | h <;> omega

/-- The elements of a rank of whole elements. -/
theorem elem_in_rank {w e : Nat} (h : e < 512 / w) : w * (e + 1) ≤ 512 :=
  (Nat.mul_le_mul_left w h).trans (Nat.mul_div_le 512 w)

/-! ### What a V form gives -/

section
variable {s t : State} {i : Instr} {f : VF} {lat : Nat}

theorem State.runs_vDone {r : Nat × Nat} {nf : Nat} (he : exec i s = .next (t.vDone f.dst lat r nf)) (h : s.SliceStep t [s.cur.s] []) :
    Runs i s fun u => s.OwesRank u f.dst.toNat (s.cur.X + lat - 1) (BitVec.ofNat 512 r.1) :=
  ⟨_, he, (h.vDone f.dst lat r nf).owes⟩

theorem State.GivesRank.of_vDone {P : Nat → Prop} {r : Nat × Nat} {nf : Nat} (he : exec i s = .next (t.vDone f.dst lat r nf))
    (h : s.SliceStep t [s.cur.s] []) (hr : r.1 < 2 ^ 512) (hP : P r.1) : s.GivesRank i f lat P :=
  ⟨_, by rwa [BitVec.toNat_ofNat, Nat.mod_eq_of_lt hr], State.runs_vDone he h⟩

/-- A result by its elements under the mask. -/
theorem State.GivesElemsOf.of_vDone {w : Nat} {val : Nat → Int} {r : Nat × Nat} {nf : Nat} {g : Nat → Nat}
    (he : exec i s = .next (t.vDone f.dst lat r nf)) (h : s.SliceStep t [s.cur.s] [])
    (hr : r.1 = rankOf w (512 / w) fun e => if (s.slice.mask f.mask.toNat).getLsbD e then g e else 0)
    (hg : ∀ e < 512 / w, (g e : Int) % 2 ^ w = val e % 2 ^ w) : s.GivesElemsOf i f w lat val := by
  refine ⟨_, fun e hlt => ?_, State.runs_vDone he h⟩
  rw [elemOf_toNat_ofNat (elem_in_rank hlt), hr, elemOf_rankOf, if_pos hlt]
  split
  · rw [← hg e hlt]
    push_cast
    rfl
  · simp

end

/-! ### A V syllable's view, by its parts (R43, R47, R158) -/
section
variable (s : State) (f : VF)

theorem State.view_w : (s.view f).1.w = typeWidth (s.vType f) := rfl
theorem State.view_n : (s.view f).1.n = 512 / typeWidth (s.vType f) := rfl
theorem State.view_mask : (s.view f).1.mask = s.slice.mask f.mask.toNat := rfl
theorem State.view_isF : isF (s.view f).1.ty = decide (s.vType f < 3) := rfl

end

end Sys2Proof.Machine
end

section
/-!
PROOF of O38. The floating V forms: exact numbers, rounded once.
-/
namespace Sys2Proof.Machine
open Flagged

/-! ### A rounding sees the value and the sign alone -/

theorem log2_eq_of_numRat {n : Bool} {m k : Nat} {e f : Int} (hm : m ≠ 0) (hk : k ≠ 0) (h : numRat (.fin n m e) = numRat (.fin n k f)) :
    (Nat.log2 m : Int) + e = Nat.log2 k + f := by
  obtain ⟨h1, h2⟩ := binade_of_log2 hm n e
  obtain ⟨h3, h4⟩ := binade_of_log2 hk n f
  rw [h] at h1 h2
  exact binade_unique h1 h2 h3 h4

theorem Layout.quantum_congr (l : Layout) {m k : Nat} {e f : Int} (h : (Nat.log2 m : Int) + e = Nat.log2 k + f) :
    Layout.quantum l m e = Layout.quantum l k f := by
  rw [Layout.quantum, Layout.quantum, h]

theorem Layout.quanta_congr (l : Layout) (rm : Nat) {n : Bool} {m k : Nat} {e f : Int} (hm : m ≠ 0) (hk : k ≠ 0)
    (h : numRat (.fin n m e) = numRat (.fin n k f)) : Layout.quanta l rm n m e = Layout.quanta l rm n k f := by
  have hq := Layout.quantum_congr l (log2_eq_of_numRat hm hk h)
  have h1 : (Layout.quanta l rm n m e).1 = (Layout.quanta l rm n k f).1 := by
    have := abs_roundShift_units rm n m e (Layout.quantum l m e)
    rw [h, hq, ← abs_roundShift_units rm n k f, ← hq] at this
    unfold Layout.quanta
    rw [← hq]
    exact_mod_cast this
  have h2 : (Layout.quanta l rm n m e).2 = false ↔ (Layout.quanta l rm n k f).2 = false := by
    rw [Layout.quanta_exact, Layout.quanta_exact, Layout.rounded, Layout.rounded, h, hq]
  refine Prod.ext h1 ?_
  cases hx : (Layout.quanta l rm n m e).2 <;> cases hy : (Layout.quanta l rm n k f).2 <;> simp_all

theorem Layout.tinyOf_congr (l : Layout) (rm : Nat) {n : Bool} {m k : Nat} {e f : Int} (hm : m ≠ 0) (hk : k ≠ 0)
    (h : numRat (.fin n m e) = numRat (.fin n k f)) : Layout.tinyOf l rm n m e = Layout.tinyOf l rm n k f := by
  rw [Bool.eq_iff_iff, Layout.tinyOf_iff l rm n e hm, Layout.tinyOf_iff l rm n f hk, h, log2_eq_of_numRat hm hk h]

theorem Layout.roundTo_congr (l : Layout) (rm : Nat) (fr : Bool) {n : Bool} {m k : Nat} {e f : Int}
    (h : numRat (.fin n m e) = numRat (.fin n k f)) : roundTo l rm fr (.fin n m e) = roundTo l rm fr (.fin n k f) := by
  by_cases hm : m = 0
  · subst hm
    have hk : k = 0 := by rwa [numRat_zero, eq_comm, numRat_eq_zero] at h
    rw [hk]
    rfl
  · have hk : k ≠ 0 := fun hk => hm (by rw [hk, numRat_zero, numRat_eq_zero] at h; exact h)
    have hbin : Layout.binade l m e = Layout.binade l k f := by rw [Layout.binade, Layout.binade, log2_eq_of_numRat hm hk h]
    rw [roundTo, roundTo, Layout.round_run l rm n hm, Layout.round_run l rm n hk, Layout.bitsOfQuanta, Layout.bitsOfQuanta, hbin,
      Layout.quanta_congr l rm hm hk h, Layout.tinyOf_congr l rm hm hk h]

/-! ### The smaller and the larger (R164) -/

/-- Two numbers each at most the other round alike. -/
theorem roundTo_eq_of_numLe (l : Layout) {a b : Num} (ha : a.isNan = false) (hb : b.isNan = false) (h1 : numLe a b = true) (h2 : numLe b a = true) :
    roundTo l 1 false a = roundTo l 1 false b := by
  cases a with
  | nan s => cases ha
  | inf n => cases b with
    | nan t => cases hb
    | inf k => cases n <;> cases k <;> simp_all [numLe]
    | fin k l f => cases n <;> simp_all [numLe]
  | fin n m e => cases b with
    | nan t => cases hb
    | inf k => cases k <;> simp_all [numLe]
    | fin k l f =>
      simp only [numLe, Bool.or_eq_true, Bool.and_eq_true, decide_eq_true_eq] at h1 h2
      obtain ⟨heq, hs1⟩ := h1.resolve_left fun h => by rcases h2 with h2 | h2 <;> linarith [h2]
      have hs2 := (h2.resolve_left fun h => by linarith).2
      have hnk : n = k := by cases n <;> cases k <;> simp_all [Num.sign]
      subst hnk
      exact Layout.roundTo_congr _ 1 false heq

/-- The order is total on what is not NaN. -/
theorem numLe_total {a b : Num} (ha : a.isNan = false) (hb : b.isNan = false) (h : numLe a b = false) : numLe b a = true := by
  cases a with
  | nan s => cases ha
  | inf n => cases b with
    | nan t => cases hb
    | inf k => cases n <;> cases k <;> simp_all [numLe]
    | fin k l f => cases n <;> simp_all [numLe]
  | fin n m e => cases b with
    | nan t => cases hb
    | inf k => cases k <;> simp_all [numLe]
    | fin k l f =>
      simp only [numLe, Bool.or_eq_false_iff, Bool.or_eq_true, Bool.and_eq_true, decide_eq_true_eq, decide_eq_false_iff_not, not_lt] at h ⊢
      obtain ⟨hle, hs⟩ := h
      rcases hle.lt_or_eq with hlt | heq
      · exact .inl hlt
      · exact .inr ⟨heq, by rw [decide_eq_true heq.symm] at hs; cases n <;> cases k <;> simp_all [Num.sign]⟩

theorem value_exact (v : View) (x : Num) : value (v.exact x) = roundTo v.lay 1 false x := by
  cases x with
  | nan s => cases s <;> rfl
  | inf n => rfl
  | fin n m e => rfl

@[simp] theorem steady_exact (v : View) (x : Num) : Steady (v.exact x) := by
  cases x with
  | nan s => exact steady_round v.lay 1 false (.nan s)
  | inf n => exact steady_round v.lay 1 false (.inf n)
  | fin n m e => exact steady_round v.lay 1 false (.fin n m e)

theorem extremeOf_nan {mx : Bool} {a b : Num} (h : (a.isNan || b.isNan) = true) : extremeOf mx a b = .nan false := by
  unfold extremeOf
  rw [if_pos h]

theorem roundTo_nan (l : Layout) (rm : Nat) (fr s : Bool) : roundTo l rm fr (.nan s) = l.nanBits := by cases s <;> rfl

/-- VMIN and VMAX of one element. -/
theorem floatMin_eq (v : View) (mx : Bool) (a b : Num) : ∃ x, floatMin v mx a b = v.exact x
    ∧ roundTo v.lay 1 false x = roundTo v.lay 1 false (extremeOf mx a b) := by
  cases ha : a.isNan
  · cases hb : b.isNan
    · refine ⟨if mx then (if minLe b a then a else b) else (if minLe a b then a else b), ?_, ?_⟩
      · cases a with
        | nan s => cases ha
        | inf n =>
          cases b with
          | nan s => cases hb
          | inf k => rfl
          | fin k l f => rfl
        | fin n m e =>
          cases b with
          | nan s => cases hb
          | inf k => rfl
          | fin k l f => rfl
      rw [extremeOf, ha, hb, minLe_eq_numLe ha hb, minLe_eq_numLe hb ha]
      cases mx
      · rfl
      · cases h1 : numLe a b <;> cases h2 : numLe b a
        · exact absurd (numLe_total ha hb h1) (by simp [h2])
        · rfl
        · rfl
        · exact roundTo_eq_of_numLe _ ha hb h1 h2
    · rw [extremeOf_nan (by rw [hb, Bool.or_true])]
      obtain ⟨t, rfl⟩ : ∃ t, b = .nan t := by cases b <;> simp_all [Num.isNan]
      refine ⟨.nan t, ?_, by rw [roundTo_nan, roundTo_nan]⟩
      cases a with
      | nan s => cases ha
      | inf n => rfl
      | fin n m e => rfl
  · rw [extremeOf_nan (by rw [ha, Bool.true_or])]
    obtain ⟨t, rfl⟩ : ∃ t, a = .nan t := by cases a <;> simp_all [Num.isNan]
    refine ⟨.nan (t || b.signals), ?_, by rw [roundTo_nan, roundTo_nan]⟩
    cases b <;> simp [floatMin, Num.signals]
    rename_i u
    cases u <;> simp

theorem value_floatMin (v : View) (mx : Bool) (a b : Num) : value (floatMin v mx a b) = roundTo v.lay 1 false (extremeOf mx a b) := by
  obtain ⟨x, hx, hr⟩ := floatMin_eq v mx a b
  rw [hx, value_exact, hr]

@[simp] theorem steady_floatMin (v : View) (mx : Bool) (a b : Num) : Steady (floatMin v mx a b) := by
  obtain ⟨x, hx, -⟩ := floatMin_eq v mx a b
  rw [hx]
  exact steady_exact v x

/-! ### The view of a floating syllable -/

section
variable (s : State) (f : VF)

theorem State.view_rm : (s.view f).1.rm = s.vMode f := by
  change modeInForce f.rm.toNat (if f.ty = 15 then s.tab.entry f.ty.toNat f.fs.toNat else 0) s.tab.rmode = _
  unfold modeInForce State.vMode
  have hrm : f.rm.toNat ≠ 0 ↔ f.rm ≠ 0 := by simp [BitVec.toNat_eq]
  simp only [hrm]
  split
  · rfl
  · by_cases h : f.ty = 15
    · simp only [h, if_true, true_and]
    · have h' : ¬(f.ty = 15 ∧ entryRm (s.tab.entry f.ty.toNat f.fs.toNat) ≠ 0) := fun hc => h hc.1
      rw [if_neg h, if_neg h']
      rfl

variable {s f} (hf : s.vType f < 3)
include hf

theorem State.flushIn_float : flushIn s.tab.flush (s.vType f) = s.flushBit (s.vType f) 0 := by
  unfold flushIn State.flushBit
  rw [if_pos hf]

theorem State.flushOut_float : flushOut s.tab.flush (s.vType f) = s.flushBit (s.vType f) 1 := by
  unfold flushOut State.flushBit
  rw [if_pos hf]

theorem State.view_num (x : Nat) : (s.view f).1.num x = s.vNum f x := by
  rw [State.vNum, ← State.flushIn_float hf]
  rfl

theorem State.view_roundTo (x : Num) : value ((s.view f).1.round x) = s.vOut f x := by
  rw [State.vOut, ← State.flushOut_float hf, ← State.view_rm]
  rfl

omit hf in
theorem State.value_view_exact (x : Num) : value ((s.view f).1.exact x) = s.vBits f x := value_exact _ _

theorem State.view_float : isF (s.view f).1.ty = true := decide_eq_true hf

end

@[simp] theorem steady_viewRound (v : View) (x : Num) : Steady (v.round x) := steady_round _ _ _ _

/-! ### Forms of one to three sources by their elements -/

/-- What a V form of `srcs` sources computes of each element. -/
structure State.OpGives (s : State) (f : VF) (srcs : Nat) (op : ElemOp) (val : Nat → Nat) : Prop where
  steady : ∀ a b c, Steady (op (s.view f).1 a b c)
  value : ∀ e b c, (2 ≤ srcs → b = elemOf (typeWidth (s.vType f)) e (s.srcB f)) → (3 ≤ srcs → c = elemOf (typeWidth (s.vType f)) e (s.srcC f)) →
    Flagged.value (op (s.view f).1 (elemOf (typeWidth (s.vType f)) e (s.srcA f)) b c) = val e

/-- Source B or C of a form, zero where it has none. -/
def State.vFormArgs (s : State) (f : VF) (srcs : Nat) : Nat × Nat := (if 2 ≤ srcs then s.srcB f else 0, if 3 ≤ srcs then s.srcC f else 0)

/-- The result of a form of one to three sources with its flags. -/
def State.vResult (s : State) (f : VF) (srcs : Nat) (op : ElemOp) : Nat × Nat :=
  (s.view f).1.elems fun i => op (s.view f).1 (elemAt (typeWidth (s.vType f)) i (s.srcA f))
    (elemAt (typeWidth (s.vType f)) i (s.vFormArgs f srcs).1) (elemAt (typeWidth (s.vType f)) i (s.vFormArgs f srcs).2)

theorem State.vForm_eq (s : State) (f : VF) (srcs : Nat) (lat : View → Nat) (nf : Bool) (op : ElemOp) : ∃ t, s.SliceStep t [s.cur.s] []
    ∧ s.vForm f srcs lat nf op = t.vDone f.dst (lat (s.view f).1) (s.vResult f srcs op) (if nf then (s.view f).1.nf (s.vResult f srcs op).1 else 0) := by
  have hn : s.cur.s ∈ [s.cur.s] := List.mem_cons_self
  have h1 := ((State.SliceStep.refl s [s.cur.s]).view f).vA hn f
  by_cases h2 : 2 ≤ srcs
  · by_cases h3 : 3 ≤ srcs
    · refine ⟨_, (h1.vB hn f).vC hn f, ?_⟩
      simp only [State.vForm, State.vResult, State.vFormArgs, ge_iff_le, h2, h3, if_true]
      rfl
    · refine ⟨_, h1.vB hn f, ?_⟩
      simp only [State.vForm, State.vResult, State.vFormArgs, ge_iff_le, h2, h3, if_true, if_false]
      rfl
  · have h3 : ¬3 ≤ srcs := by omega
    refine ⟨_, h1, ?_⟩
    simp only [State.vForm, State.vResult, State.vFormArgs, ge_iff_le, h2, h3, if_false]
    rfl

/-- Masked elements by the values of their computations (R159). -/
theorem View.elems_fst (v : View) {op : Nat → Flagged Nat} (h : ∀ i, Steady (op i)) :
    (v.elems op).1 = rankOf v.w v.n fun i => if v.mask.getLsbD i then value (op i) else 0 := by
  unfold View.elems
  refine (value_buildElems (fun i => steady_ite (h i) (steady_pure _)) _).trans (congrArg _ (funext fun i => ?_))
  split <;> rfl

theorem State.OpGives.givesElems {s : State} {i : Instr} {f : VF} {srcs n : Nat} {lat : View → Nat} {nf : Bool} {op : ElemOp} {val : Nat → Nat}
    (h : s.OpGives f srcs op val) (he : exec i s = .next (s.vForm f srcs lat nf op)) (hlat : lat (s.view f).1 = n) :
    s.GivesElems i f n fun e => (val e : Int) := by
  obtain ⟨t, hstep, ht⟩ := s.vForm_eq f srcs lat nf op
  rw [ht, hlat] at he
  refine .of_vDone he hstep (View.elems_fst _ fun _ => h.steady _ _ _) fun e _ => ?_
  rw [elemAt_eq_elemOf, h.value]
  · intro h2
    rw [elemAt_eq_elemOf, State.vFormArgs, if_pos h2]
  · intro h3
    rw [elemAt_eq_elemOf, State.vFormArgs, if_pos h3]

end Sys2Proof.Machine
end

section
/-!
PROOF of O38. The floating elements, form by form.
-/
namespace Sys2Proof.Machine
open Flagged

/-! ### Arithmetic (R161 to R164, R167, R170) -/

section
variable {s : State} {f : VF} (hf : s.vType f < 3)
include hf

/-- An operation that is floating on floating types. -/
theorem State.byType_float (fl : View → Num → Num → Num → Flagged Nat) (int : View → Int → Int → Int → Int) (a b c : Nat) :
    byType fl int (s.view f).1 a b c = fl (s.view f).1 (s.vNum f a) (s.vNum f b) (s.vNum f c) := by
  rw [byType, if_pos (State.view_float hf), State.view_num hf, State.view_num hf, State.view_num hf]

/-- A floating form by what it makes of its numbers. -/
theorem State.OpGives.byType {srcs : Nat} {fl : View → Num → Num → Num → Flagged Nat} {int : View → Int → Int → Int → Int} {g : Num → Num → Num → Nat}
    (hs : ∀ a b c, Steady (fl (s.view f).1 a b c)) (hv : ∀ a b c, Flagged.value (fl (s.view f).1 a b c) = g a b c)
    (hg : ∀ a b b' c c', (2 ≤ srcs → b = b') → (3 ≤ srcs → c = c') → g a b c = g a b' c') :
    s.OpGives f srcs (byType fl int) fun e => g (s.fA f e) (s.fB f e) (s.fC f e) where
  steady a b c := by
    rw [State.byType_float hf]
    exact hs _ _ _
  value e b c hb hc := by
    rw [State.byType_float hf, hv]
    exact hg _ _ _ _ _ (fun h => by rw [hb h]; rfl) (fun h => by rw [hc h]; rfl)

/-- One rounding of an exact result. -/
theorem State.value_rounded (x : Flagged Num) : Flagged.value (x >>= fun y => (s.view f).1.round y) = s.vOut f (Flagged.value x) := by
  rw [value_bind _ fun _ => steady_viewRound _ _, State.view_roundTo hf]

theorem State.opAdd_gives : s.OpGives f 2 opAdd fun e => s.vOut f (sumOf (s.vMode f == 4) (s.fA f e) (s.fB f e)) := by
  refine State.OpGives.byType hf (g := fun a b _ => s.vOut f (sumOf (s.vMode f == 4) a b)) (fun _ _ _ => by simp) (fun a b _ => ?_)
    fun a b b' _ _ hb _ => by rw [hb le_rfl]
  rw [State.value_rounded hf, View.rd, State.view_rm]
  rfl

theorem State.opSub_gives : s.OpGives f 2 opSub fun e => s.vOut f (sumOf (s.vMode f == 4) (s.fA f e) (s.fB f e).neg) := by
  refine State.OpGives.byType hf (g := fun a b _ => s.vOut f (sumOf (s.vMode f == 4) a b.neg)) (fun _ _ _ => by simp) (fun a b _ => ?_)
    fun a b b' _ _ hb _ => by rw [hb le_rfl]
  rw [State.value_rounded hf, View.rd, State.view_rm]
  rfl

theorem State.opMul_gives : s.OpGives f 2 opMul fun e => s.vOut f (prodOf (s.fA f e) (s.fB f e)) :=
  State.OpGives.byType hf (g := fun a b _ => s.vOut f (prodOf a b)) (fun _ _ _ => by simp) (fun a b _ => State.value_rounded hf _)
    fun a b b' _ _ hb _ => by rw [hb le_rfl]

theorem State.opFma_gives : s.OpGives f 3 opFma fun e => s.vOut f (sumOf (s.vMode f == 4) (prodOf (s.fA f e) (s.fB f e)) (s.fC f e)) := by
  refine State.OpGives.byType hf (g := fun a b c => s.vOut f (sumOf (s.vMode f == 4) (prodOf a b) c)) (fun _ _ _ => by simp) (fun a b c => ?_)
    fun a b b' c c' hb hc => by rw [hb (by decide), hc le_rfl]
  rw [State.value_rounded hf, View.rd, State.view_rm, numFma, value_bind _ fun _ => steady_numAdd _ _ _]
  rfl

theorem State.opMin_gives : s.OpGives f 2 opMin fun e => s.vBits f (extremeOf false (s.fA f e) (s.fB f e)) :=
  State.OpGives.byType hf (g := fun a b _ => s.vBits f (extremeOf false a b)) (fun _ _ _ => steady_floatMin _ _ _ _) (fun a b _ => value_floatMin _ _ _ _)
    fun a b b' _ _ hb _ => by rw [hb le_rfl]

theorem State.opMax_gives : s.OpGives f 2 opMax fun e => s.vBits f (extremeOf true (s.fA f e) (s.fB f e)) :=
  State.OpGives.byType hf (g := fun a b _ => s.vBits f (extremeOf true a b)) (fun _ _ _ => steady_floatMin _ _ _ _) (fun a b _ => value_floatMin _ _ _ _)
    fun a b b' _ _ hb _ => by rw [hb le_rfl]

theorem State.opAbs_gives : s.OpGives f 1 opAbs fun e => s.vBits f (s.fA f e).abs :=
  State.OpGives.byType hf (g := fun a _ _ => s.vBits f a.abs) (fun _ _ _ => steady_exact _ _) (fun _ _ _ => State.value_view_exact _)
    fun _ _ _ _ _ _ _ => rfl

theorem State.opNeg_gives : s.OpGives f 1 opNeg fun e => s.vBits f (s.fA f e).neg :=
  State.OpGives.byType hf (g := fun a _ _ => s.vBits f a.neg) (fun _ _ _ => steady_exact _ _) (fun _ _ _ => State.value_view_exact _)
    fun _ _ _ _ _ _ _ => rfl

theorem State.opSqrt_gives : s.OpGives f 1 (fun v a _ _ => do v.round (← numSqrt (v.num a))) fun e => s.vOut f (rootOf (s.fA f e)) where
  steady _ _ _ := by simp
  value e b c _ _ := by
    rw [State.value_rounded hf, State.view_num hf]
    rfl

omit hf in
/-- VROUND of one element (R167). -/
theorem opRound_eq {v : View} {a b c : Nat} {y : Num} (hy : v.num a = y) :
    Steady (opRound v a b c) ∧ Flagged.value (opRound v a b c) = roundTo v.lay 1 false (wholeOf v.rm y) := by
  cases y with
  | nan s =>
    simp only [opRound, hy]
    exact ⟨steady_exact _ _, value_exact v (.nan s)⟩
  | inf n =>
    simp only [opRound, hy]
    exact ⟨steady_exact _ _, value_exact v (.inf n)⟩
  | fin n m e =>
    simp only [opRound, hy, wholeOf, ← roundInt_fst]
    split
    · exact ⟨steady_raise_bind _ fun _ => steady_round _ _ _ _, value_raise_bind _ fun _ => steady_round _ _ _ _⟩
    · exact ⟨steady_round _ _ _ _, rfl⟩

theorem State.opRound_gives : s.OpGives f 1 opRound fun e => s.vBits f (wholeOf (s.vMode f) (s.fA f e)) where
  steady a b c := (opRound_eq rfl).1
  value e b c _ _ := by
    rw [(opRound_eq (State.view_num hf _)).2, State.view_rm]
    rfl

/-! ### The sign and the class of the stored bits (R168, R170) -/

theorem State.opRelu_gives : s.OpGives f 1 opRelu fun e => if (s.fA f e).isNan then (layoutOf (s.vType f)).nanBits
    else if (s.fA f e).isZero || (s.fA f e).sign then 0 else elemOf (typeWidth (s.vType f)) e (s.srcA f) where
  steady a b c := by
    unfold opRelu
    rw [if_pos (State.view_float hf)]
    split
    · exact steady_exact _ _
    · exact steady_ite (steady_pure _) (steady_pure _)
  value e b c _ _ := by
    unfold opRelu
    rw [if_pos (State.view_float hf), State.view_num hf]
    cases hx : s.fA f e with
    | nan t => 
      rw [State.fA] at hx
      rw [hx]
      exact (value_exact _ _).trans (roundTo_nan _ _ _ _)
    | inf n =>
      rw [State.fA] at hx
      rw [hx]
      cases n <;> rfl
    | fin n m e =>
      rw [State.fA] at hx
      rw [hx]
      cases n <;> cases m <;> rfl

omit hf in
/-- VCLASS of one element (R168). -/
theorem value_opClass (v : View) (a b c : Nat) : Flagged.value (opClass v a b c) = 2 ^ classOf v.lay a := by
  unfold opClass classOf
  rw [value_pure, Layout.decode_fields]
  have hF : a % 2 ^ v.lay.fb < 2 ^ v.lay.fb := Nat.mod_lt _ (Nat.two_pow_pos _)
  dsimp only
  generalize a.testBit (v.lay.eb + v.lay.fb) = n
  generalize a.testBit (v.lay.fb - 1) = q
  generalize a % 2 ^ v.lay.fb = fr at hF
  generalize a / 2 ^ v.lay.fb % 2 ^ v.lay.eb = ex
  by_cases h1 : ex = 2 ^ v.lay.eb - 1
  · rw [if_pos h1, if_pos h1]
    by_cases h2 : fr = 0
    · rw [if_pos h2, if_pos h2]
    · rw [if_neg h2, if_neg h2]
      cases q <;> rfl
  · rw [if_neg h1, if_neg h1]
    by_cases h2 : ex = 0
    · rw [if_pos h2, if_neg (not_not.mpr h2)]
      by_cases h3 : fr = 0
      · simp [h3]
      · simp [h3, hF]
    · rw [if_neg h2, if_pos h2]
      simp

omit hf in
theorem State.opClass_gives : s.OpGives f 1 opClass fun e => 2 ^ classOf (layoutOf (s.vType f)) (elemOf (typeWidth (s.vType f)) e (s.srcA f)) where
  steady _ _ _ := steady_pure _
  value _ _ _ _ _ := value_opClass _ _ _ _

/-! ### Transcendentals (R63, R169) -/

/-- How a transcendental ends: the algorithm's F32 bits rounded once more. -/
def finishTransc (v : View) (y : Nat) : Flagged Nat := if (rd32 y).isNan then pure v.lay.nanBits else v.round (rd32 y)

/-- A transcendental of one element: its algorithm between two roundings. -/
theorem State.opTransc_eq {alg : Nat → Flagged Nat} (halg : ∀ x, Steady (alg x)) (a b c : Nat) :
    Steady (opTransc alg (s.view f).1 a b c) ∧ Flagged.value (opTransc alg (s.view f).1 a b c) = s.through f alg (s.vNum f a) := by
  have hfin : ∀ y, Steady (finishTransc (s.view f).1 y) := fun y => steady_ite (steady_pure _) (steady_viewRound _ _)
  have hop : opTransc alg (s.view f).1 a b c = if ((s.view f).1.num a).signals
      then raiseFlags flagIV >>= fun _ => alg (roundTo f32 1 false ((s.view f).1.num a)) >>= finishTransc (s.view f).1
      else alg (roundTo f32 1 false ((s.view f).1.num a)) >>= finishTransc (s.view f).1 := by
    have hk : (fun y => finishTransc (s.view f).1 y) = fun y => match rd32 y with | .nan _ => pure (s.view f).1.lay.nanBits | z => (s.view f).1.round z := by
      funext y
      unfold finishTransc
      cases rd32 y <;> rfl
    rw [show finishTransc (s.view f).1 = fun y => finishTransc (s.view f).1 y from rfl, hk]
    unfold opTransc
    dsimp only
    cases (s.view f).1.num a with
    | nan t => cases t <;> rfl
    | inf n => rfl
    | fin n m e => rfl
  have hval : Flagged.value (alg (roundTo f32 1 false ((s.view f).1.num a)) >>= finishTransc (s.view f).1) = s.through f alg (s.vNum f a) := by
    rw [value_bind _ hfin, State.view_num hf]
    unfold State.through algOf
    rw [← Flagged.value.eq_1]
    generalize Flagged.value (alg _) = y
    unfold finishTransc
    cases rd32 y with
    | nan t => rfl
    | inf n => exact State.view_roundTo hf _
    | fin n m e => exact State.view_roundTo hf _
  rw [hop]
  refine ⟨steady_ite (steady_raise_bind _ fun _ => steady_bind (halg _) hfin) (steady_bind (halg _) hfin), ?_⟩
  split
  · rw [value_raise_bind _ fun _ => steady_bind (halg _) hfin, hval]
  · exact hval

theorem State.opTransc_gives {alg : Nat → Flagged Nat} (halg : ∀ x, Steady (alg x)) :
    s.OpGives f 1 (opTransc alg) fun e => s.through f alg (s.fA f e) where
  steady a b c := (State.opTransc_eq hf halg a b c).1
  value _ b c _ _ := (State.opTransc_eq hf halg _ b c).2

theorem State.latFI_float : latFI (s.view f).1 = 4 := by rw [s.latFI_view f, if_pos hf]

theorem State.floatForms_give : ∀ p ∈ s.floatForms f, s.GivesElems p.1 f p.2.1 fun e => (p.2.2 e : Int) := by
  have hl := State.latFI_float hf
  simp only [State.floatForms, List.forall_mem_cons]
  exact ⟨(State.opAdd_gives hf).givesElems rfl hl, (State.opSub_gives hf).givesElems rfl hl, (State.opMul_gives hf).givesElems rfl hl,
    (State.opFma_gives hf).givesElems rfl hl, (State.opSqrt_gives hf).givesElems rfl rfl, (State.opRound_gives hf).givesElems rfl rfl,
    (State.opMin_gives hf).givesElems rfl hl, (State.opMax_gives hf).givesElems rfl hl, (State.opAbs_gives hf).givesElems rfl hl,
    (State.opNeg_gives hf).givesElems rfl hl, (State.opRelu_gives hf).givesElems rfl rfl, State.opClass_gives.givesElems rfl rfl,
    (State.opTransc_gives hf steady_expAlg).givesElems rfl rfl, (State.opTransc_gives hf steady_logAlg).givesElems rfl rfl,
    (State.opTransc_gives hf steady_rcpAlg).givesElems rfl rfl, (State.opTransc_gives hf steady_rsqAlg).givesElems rfl rfl,
    (State.opTransc_gives hf steady_tanhAlg).givesElems rfl rfl, (State.opTransc_gives hf steady_sigAlg).givesElems rfl rfl,
    fun _ h => (List.not_mem_nil h).elim⟩

end

/-! ### VCMP (R165) -/

/-- Whether the condition holds of elements `x` and `y`. -/
def View.compares (v : View) (cond x y : Nat) : Bool := if isF v.ty then condOf cond (v.num x) (v.num y) else intCond cond (v.int x) (v.int y)

/-- The comparison of element `i` under the mask of a view. -/
def View.cmpBit (v : View) (cond a b i : Nat) : Flagged Nat :=
  if v.mask.getLsbD i then
    if isF v.ty then floatCond cond (v.num (elemAt v.w i a)) (v.num (elemAt v.w i b)) >>= fun c => pure (b2n c)
    else pure (intCond cond (v.int (elemAt v.w i a)) (v.int (elemAt v.w i b))) >>= fun c => pure (b2n c)
  else pure 0

theorem View.steady_cmpBit (v : View) (cond a b i : Nat) : Steady (v.cmpBit cond a b i) :=
  steady_ite (steady_ite (steady_bind (steady_floatCond _ _ _) fun _ => steady_pure _) (steady_pure _)) (steady_pure _)

theorem View.value_cmpBit (v : View) (cond a b i : Nat) :
    value (v.cmpBit cond a b i) = b2n (v.mask.getLsbD i && v.compares cond (elemAt v.w i a) (elemAt v.w i b)) := by
  unfold View.cmpBit View.compares
  cases v.mask.getLsbD i
  · rfl
  · cases isF v.ty
    · rfl
    · exact congrArg b2n (floatCond_value _ _ _)

theorem getLsbD_rankOf (n : Nat) (g : Nat → Bool) (e : Nat) (hn : n ≤ 512) : (BitVec.ofNat 512 (rankOf 1 n fun i => b2n (g i))).getLsbD e = (decide (e < n) && g e) := by
  rw [BitVec.getLsbD_ofNat, Nat.testBit_eq_decide_div_mod_eq]
  have h := elemOf_rankOf 1 n (fun i => b2n (g i)) e
  rw [elemOf, one_mul, pow_one] at h
  rw [h]
  by_cases he : e < n
  · cases g e <;> simp [he, b2n]
    omega
  · simp [he]

/-- VCMP gives the bits of its comparisons under the mask. -/
theorem State.vcmp_runs (s : State) (f : VF) : ∃ r : Rank,
    (∀ e, r.getLsbD e = (decide (e < 512 / typeWidth (s.vType f)) && (s.slice.mask f.mask.toNat).getLsbD e
      && (s.view f).1.compares f.imm.toNat (elemOf (typeWidth (s.vType f)) e (s.srcA f)) (elemOf (typeWidth (s.vType f)) e (s.srcB f))))
    ∧ Runs (.vcmp f) s fun t => s.OwesRank t f.dst.toNat (s.cur.X + latFI (s.view f).1 - 1) r := by
  have hn : s.cur.s ∈ [s.cur.s] := List.mem_cons_self
  have he : exec (.vcmp f) s = .next ((((s.view f).2.vA f).2.vB f).2.vDone f.dst (latFI (s.view f).1)
      ((buildElems 1 ((s.view f).1.cmpBit f.imm.toNat (s.srcA f) (s.srcB f)) (s.view f).1.n).run 0) 0) := rfl
  refine ⟨_, fun e => ?_, State.runs_vDone he ((((State.SliceStep.refl s [s.cur.s]).view f).vA hn f).vB hn f)⟩
  have hr := value_buildElems (w := 1) (fun i => (s.view f).1.steady_cmpBit f.imm.toNat (s.srcA f) (s.srcB f) i) (s.view f).1.n
  simp only [View.value_cmpBit] at hr
  rw [Flagged.value] at hr
  rw [hr, State.view_n, getLsbD_rankOf _ _ _ (Nat.div_le_self 512 _), State.view_mask, State.view_w, elemAt_eq_elemOf, elemAt_eq_elemOf, Bool.and_assoc]

/-! ### The special cases of the algorithms (R65) -/

theorem isNan32_iff {x : Nat} (h : isNan32 x = true) : ∃ q, rd32 x = .nan q := by
  unfold isNan32 at h
  cases hx : rd32 x <;> simp_all [Num.isNan]

theorem specialCases_hold : ∀ g ∈ specialCases, ∀ e ∈ g.2, ((g.1 e.1).run 0).1 = e.2.1 ∧ ((g.1 e.1).run 0).2 = e.2.2 := by
  decide +kernel

theorem specialCases_nan : ∀ g ∈ specialCases, ∀ x, isNan32 x = true → ((g.1 x).run 0).1 = 0x7FC00000 := by
  have hnan : ∀ {x}, isNan32 x = true → ∃ q, rd32 x = .nan q := fun h => isNan32_iff h
  simp only [specialCases, List.forall_mem_cons]
  refine ⟨fun x h => ?_, fun x h => ?_, fun x h => ?_, fun x h => ?_, fun x h => ?_, fun x h => ?_, fun x h => ?_, fun x h => ?_, fun _ h => (List.not_mem_nil h).elim⟩
  all_goals obtain ⟨q, hq⟩ := hnan h
  · simp only [expAlg, hq]
    cases q <;> rfl
  · simp only [logAlg, hq]
    cases q <;> rfl
  · simp only [rcpAlg, hq]
    cases q <;> rfl
  · simp only [rsqAlg, sqrt32, hq]
    cases q <;> rfl
  · simp only [tanhAlg, hq]
    cases q <;> rfl
  · simp only [sigAlg, hq]
    cases q <;> rfl
  · simp only [capPhi, hq]
    cases q <;> rfl
  · simp only [lowPhi, hq]
    cases q <;> rfl

/-- Settles O38. -/
theorem floatingElements : Obligations.FloatingElements := by
  refine ⟨sumOf_isSum, prodOf_isProduct, rootOf_isRoot, fun g hg =>
    ⟨fun e he => Prod.ext (specialCases_hold g hg e he).1 (specialCases_hold g hg e he).2, specialCases_nan g hg⟩, fun f s hf =>
    ⟨State.floatForms_give hf, ?_⟩⟩
  obtain ⟨r, hr, hruns⟩ := s.vcmp_runs f
  rw [State.latFI_float hf] at hruns
  refine ⟨r, fun e => ?_, hruns⟩
  rw [hr, View.compares, if_pos (State.view_float hf), State.view_num hf, State.view_num hf]
  rfl

end Sys2Proof.Machine
end

section
/-!
SUPPORT for O35, O36 and O42 to O44. Integers of a width, and what a state reads.
-/
namespace Sys2Proof.Machine
open Flagged

/-! ### Integers of a width (R38, R40) -/

theorem signedOf_eq (w x : Nat) : signedOf w x = if 2 ^ (w - 1) ≤ x % 2 ^ w then ((x % 2 ^ w : Nat) : Int) - (2 ^ w : Nat) else (x % 2 ^ w : Nat) := by
  unfold signedOf
  dsimp only
  split_ifs <;> omega

theorem cast_wrapInt (w : Nat) (x : Int) : (wrapInt w x : Int) = x % 2 ^ w := by
  rw [wrapInt, Int.toNat_of_nonneg (Int.emod_nonneg _ (by positivity))]
  push_cast
  rfl

/-- An integer of a type stands for its bits. -/
theorem intOf_emod (ty x : Nat) : intOf ty x % 2 ^ typeWidth ty = (x : Int) % 2 ^ typeWidth ty := by
  have h2 : ((x % 2 ^ typeWidth ty : Nat) : Int) % 2 ^ typeWidth ty = (x : Int) % 2 ^ typeWidth ty := by push_cast; exact Int.emod_emod_of_dvd _ dvd_rfl
  unfold intOf
  dsimp only
  split
  · rw [← h2]
    push_cast
    exact Int.sub_emod_right _ _
  · exact h2

/-- The bits of an integer of a type, of which it is the only one. -/
theorem intOf_range {ty : Nat} (h3 : 3 ≤ ty) (h8 : ty ≤ 8) (x : Nat) : (ty < 6 → -(2 ^ (typeWidth ty - 1) : Int) ≤ intOf ty x ∧ intOf ty x < 2 ^ (typeWidth ty - 1))
    ∧ (6 ≤ ty → 0 ≤ intOf ty x ∧ intOf ty x < 2 ^ typeWidth ty) := by
  have hlt : x % 2 ^ typeWidth ty < 2 ^ typeWidth ty := Nat.mod_lt _ (Nat.two_pow_pos _)
  have hw : 2 ^ typeWidth ty = 2 * 2 ^ (typeWidth ty - 1) := by
    rw [← pow_succ', Nat.sub_add_cancel (typeWidth_pos ty)]
  have hc : ((2 : Int) ^ (typeWidth ty - 1)) = ((2 ^ (typeWidth ty - 1) : Nat) : Int) := by push_cast; rfl
  have hc' : ((2 : Int) ^ typeWidth ty) = ((2 ^ typeWidth ty : Nat) : Int) := by push_cast; rfl
  rw [hc, hc']
  unfold intOf
  dsimp only
  generalize x % 2 ^ typeWidth ty = y at *
  generalize 2 ^ (typeWidth ty - 1) = q at *
  rw [hw] at hlt ⊢
  constructor
  · intro h
    simp only [h, true_and]
    split <;> omega
  · intro h
    rw [if_neg (by omega)]
    omega

/-- An integer in the range of its type is that of its bits. -/
theorem intOf_wrapInt {ty : Nat} {v : Int} (h : ty < 6 → -(2 ^ (typeWidth ty - 1) : Int) ≤ v ∧ v < 2 ^ (typeWidth ty - 1))
    (h' : 6 ≤ ty → 0 ≤ v ∧ v < 2 ^ typeWidth ty) : intOf ty (wrapInt (typeWidth ty) v) = v := by
  have hw : 2 ^ typeWidth ty = 2 * 2 ^ (typeWidth ty - 1) := by
    rw [← pow_succ', Nat.sub_add_cancel (typeWidth_pos ty)]
  have hc : ((2 : Int) ^ (typeWidth ty - 1)) = ((2 ^ (typeWidth ty - 1) : Nat) : Int) := by push_cast; rfl
  have hc' : ((2 : Int) ^ typeWidth ty) = ((2 ^ typeWidth ty : Nat) : Int) := by push_cast; rfl
  have hv := cast_wrapInt (typeWidth ty) v
  have hlt := wrapInt_lt (typeWidth ty) v
  rw [hc'] at hv h'
  rw [hc] at h
  unfold intOf
  dsimp only
  rw [Nat.mod_eq_of_lt hlt]
  generalize wrapInt (typeWidth ty) v = y at *
  generalize 2 ^ (typeWidth ty - 1) = q at *
  rw [hw] at hlt hv h' ⊢
  rcases Nat.lt_or_ge ty 6 with h6 | h6
  · obtain ⟨h1, h2⟩ := h h6
    simp only [h6, true_and]
    rcases lt_or_ge v 0 with hn | hn
    · rw [show v % ((2 * q : Nat) : Int) = v + (2 * q : Nat) from by rw [← Int.add_emod_right, Int.emod_eq_of_lt] <;> push_cast <;> omega] at hv
      rw [if_pos (by push_cast at hv; omega)]
      omega
    · rw [Int.emod_eq_of_lt hn (by push_cast; omega)] at hv
      rw [if_neg (by omega)]
      exact hv
  · obtain ⟨h1, h2⟩ := h' h6
    rw [Int.emod_eq_of_lt h1 h2] at hv
    rw [if_neg (by omega)]
    exact hv

/-! ### The view of an integer syllable -/

theorem State.view_int {s : State} {f : VF} (h3 : 3 ≤ s.vType f) {x : Nat} (hx : x < 2 ^ typeWidth (s.vType f)) :
    (s.view f).1.int x = intOf (s.vType f) x := by
  change (if decide (3 ≤ s.vType f ∧ s.vType f < 6) = true then signedOf (typeWidth (s.vType f)) x else (x : Int)) = _
  unfold intOf
  simp only [decide_eq_true_eq, h3, true_and, signedOf_eq, Nat.mod_eq_of_lt hx]
  by_cases h6 : s.vType f < 6
  · simp only [h6, if_true, true_and]
  · simp only [h6, if_false, false_and]

theorem State.view_whole {s : State} {f : VF} (h3 : 3 ≤ s.vType f) : ¬isF (s.view f).1.ty = true := by
  rw [State.view_isF, decide_eq_true_eq]
  omega

theorem State.latFI_whole {s : State} {f : VF} (h3 : 3 ≤ s.vType f) : latFI (s.view f).1 = 2 := by rw [s.latFI_view f, if_neg (by omega)]

/-! ### What a state reads -/

/-- Two states that read alike: the same running step, the same hops, and slices that differ at most in the tags of their accumulators and in the
tiles that an MMG2 took. -/
structure State.ReadsAs (s t : State) : Prop where
  cur : t.cur = s.cur
  hops : t.here.hops = s.here.hops
  slices : ∀ n, { t.here.slice n with int := 0, mmg2 := [] } = { s.here.slice n with int := 0, mmg2 := [] }

theorem State.ReadsAs.refl (s : State) : s.ReadsAs s := ⟨rfl, rfl, fun _ => rfl⟩

theorem State.ReadsAs.trans {s t u : State} (h : s.ReadsAs t) (k : t.ReadsAs u) : s.ReadsAs u :=
  ⟨k.cur.trans h.cur, k.hops.trans h.hops, fun n => (k.slices n).trans (h.slices n)⟩

theorem State.ReadsAs.symm {s t : State} (h : s.ReadsAs t) : t.ReadsAs s := ⟨h.cur.symm, h.hops.symm, fun n => (h.slices n).symm⟩

theorem State.ReadsAs.slice {s t : State} (h : s.ReadsAs t) : { t.slice with int := 0, mmg2 := [] } = { s.slice with int := 0, mmg2 := [] } := by
  have := h.slices s.cur.s
  rwa [State.slice, State.slice, h.cur]

theorem State.Quiet.readsAs {s t : State} {l : List (Nat × Dest)} (h : s.Quiet t l) : s.ReadsAs t := by
  refine ⟨h.cur, ?_, fun n => by rw [h.slice]⟩
  obtain ⟨os, tr, ac, fl, k, -, -, -, hhere⟩ := h.here
  rw [hhere]

theorem State.sample_readsAs (s : State) (loc : Loc) (cyc : Nat) : s.ReadsAs (s.sample loc cyc) := (s.sample_quiet loc cyc).readsAs

theorem State.view_readsAs (s : State) (f : VF) : s.ReadsAs (s.view f).2 := by
  change s.ReadsAs (if f.mask = 0 then s else _)
  split
  · exact .refl s
  · exact s.sample_readsAs _ _

/-- A rank source supplies what the running step, the hops and the slice say. -/
theorem State.plainRank_eq {s t : State} (h : s.ReadsAs t) (c cyc : Nat) : t.plainRank c cyc = s.plainRank c cyc := by
  have hs := h.slice
  have htl : t.slice.tl = s.slice.tl := congrArg (fun sl => sl.tl) hs
  have htw : t.slice.tw = s.slice.tw := congrArg (fun sl => sl.tw) hs
  have hz : t.slice.z = s.slice.z := congrArg (fun sl => sl.z) hs
  have hk : t.slice.mask = s.slice.mask := by
    funext n
    unfold Slice.mask
    rw [show t.slice.k = s.slice.k from congrArg (fun sl => sl.k) hs]
  unfold State.plainRank
  dsimp only
  rw [h.cur, h.hops, htl, htw, hz, hk]

theorem State.ReadsAs.onCore {s t : State} (h : s.ReadsAs t) {f g : Core → Core} (hops : (g t.here).hops = (f s.here).hops)
    (hsl : ∀ n, { (g t.here).slice n with int := 0, mmg2 := [] } = { (f s.here).slice n with int := 0, mmg2 := [] }) : (s.onCore f).ReadsAs (t.onCore g) := by
  refine ⟨h.cur, ?_, ?_⟩ <;> rw [here_onCore, here_onCore] <;> assumption

theorem State.ReadsAs.onSlice {s t : State} (h : s.ReadsAs t) {g : Slice → Slice}
    (hg : ∀ a b : Slice, { a with int := 0, mmg2 := [] } = { b with int := 0, mmg2 := [] } → { g a with int := 0, mmg2 := [] } = { g b with int := 0, mmg2 := [] }) :
    (s.onSlice g).ReadsAs (t.onSlice g) := by
  refine h.onCore h.hops fun n => ?_
  rw [Core.slice_onSlice, Core.slice_onSlice, h.cur]
  split
  · rename_i hn
    subst hn
    exact hg _ _ (h.slices _)
  · exact h.slices n

theorem State.trapS_readsAs (s : State) (cyc code val : Nat) : s.ReadsAs (s.trapS cyc code val) := by
  refine ⟨rfl, ?_, fun n => ?_⟩ <;> rw [State.trapS, here_onCore]
  rfl

theorem State.ReadsAs.sample {s t : State} (h : s.ReadsAs t) (loc : Loc) (cyc : Nat) : (s.sample loc cyc).ReadsAs (t.sample loc cyc) :=
  (s.sample_readsAs loc cyc).symm.trans (h.trans (t.sample_readsAs loc cyc))

theorem State.ReadsAs.q {s t : State} (h : s.ReadsAs t) : t.slice.q = s.slice.q := congrArg (fun sl => sl.q) h.slice

theorem State.ReadsAs.readRank {s t : State} (h : s.ReadsAs t) (c cyc : Nat) (peek : Bool) :
    (t.readRank c cyc peek).1 = (s.readRank c cyc peek).1 ∧ (s.readRank c cyc peek).2.ReadsAs (t.readRank c cyc peek).2 := by
  unfold State.readRank
  rw [h.q, h.cur]
  by_cases hc : specQ c = true
  · rw [if_pos hc, if_pos hc]
    cases SMap.get [] s.slice.q c with
    | nil => exact ⟨rfl, (s.trapS_readsAs _ _ _).symm.trans (h.trans (t.trapS_readsAs _ _ _))⟩
    | cons r rest =>
      refine ⟨rfl, ?_⟩
      have hs := h.sample (.reg s.cur.s c 0) cyc
      dsimp only
      cases peek
      · exact hs.onSlice fun a b hab => congrArg (fun sl : Slice => { sl with q := SMap.set [] sl.q c rest }) hab
      · exact hs
  · rw [if_neg hc, if_neg hc]
    refine ⟨plainRank_eq h c cyc, ?_⟩
    dsimp only
    split
    · exact h.sample _ _
    · exact h

theorem State.ReadsAs.X {s t : State} (h : s.ReadsAs t) : t.X = s.X := congrArg Ctx.X h.cur

/-- Sources read alike. -/
theorem State.ReadsAs.vA {s t : State} (h : s.ReadsAs t) (f : VF) : (t.vA f).1 = (s.vA f).1 ∧ (s.vA f).2.ReadsAs (t.vA f).2 := by
  obtain ⟨h1, h2⟩ := h.readRank f.a.toNat s.X (f.pk.getLsbD 2)
  unfold State.vA
  rw [h.X]
  exact ⟨congrArg BitVec.toNat h1, h2⟩

theorem State.ReadsAs.vB {s t : State} (h : s.ReadsAs t) (f : VF) : (t.vB f).1 = (s.vB f).1 ∧ (s.vB f).2.ReadsAs (t.vB f).2 := by
  obtain ⟨h1, h2⟩ := h.readRank f.b.toNat s.X (f.pk.getLsbD 1)
  unfold State.vB
  rw [h.X]
  exact ⟨congrArg BitVec.toNat h1, h2⟩

end Sys2Proof.Machine
end

section
/-!
PROOF of O36. Comparisons, counts, compaction, folds and the operations on masks.
-/
namespace Sys2Proof.Machine
open Flagged

theorem rankOf_lt_of_le {w n N : Nat} (hw : w ≠ 0) (h : w * n ≤ N) (g : Nat → Nat) : rankOf w n g < 2 ^ N :=
  (rankOf_lt hw g).trans_le (Nat.pow_le_pow_right two_pos h)

/-- What a form of source A gives. -/
theorem State.GivesRank.formA {s : State} {i : Instr} {f : VF} {lat : Nat} {P : Nat → Prop} {r : Nat × Nat} {nf x : Nat}
    (he : exec i s = .next (((s.view f).2.vA f).2.vDone f.dst lat r nf)) (hx : r.1 = x) (hr : x < 2 ^ 512) (hP : P x) : s.GivesRank i f lat P :=
  .of_vDone he (((State.SliceStep.refl s [s.cur.s]).view f).vA List.mem_cons_self f) (hx ▸ hr) (hx ▸ hP)

/-- What a form of sources A and B gives. -/
theorem State.GivesRank.formAB {s : State} {i : Instr} {f : VF} {lat : Nat} {P : Nat → Prop} {r : Nat × Nat} {nf x : Nat}
    (he : exec i s = .next ((((s.view f).2.vA f).2.vB f).2.vDone f.dst lat r nf)) (hx : r.1 = x) (hr : x < 2 ^ 512) (hP : P x) : s.GivesRank i f lat P :=
  .of_vDone he ((((State.SliceStep.refl s [s.cur.s]).view f).vA List.mem_cons_self f).vB List.mem_cons_self f) (hx ▸ hr) (hx ▸ hP)

/-! ### Comparisons and counts (R165, R191) -/

theorem State.vcmp_whole {s : State} {f : VF} (h3 : 3 ≤ s.vType f) {test : Nat → Bool}
    (ht : ∀ e, intCond f.imm.toNat (intOf (s.vType f) (elemOf (typeWidth (s.vType f)) e (s.srcA f))) (intOf (s.vType f) (elemOf (typeWidth (s.vType f)) e (s.srcB f))) = test e) :
    s.GivesRank (.vcmp f) f 2 fun r => ∀ e, r.testBit e
      = (decide (e < 512 / typeWidth (s.vType f)) && (s.slice.mask f.mask.toNat).getLsbD e && test e) := by
  obtain ⟨r, hr, hruns⟩ := s.vcmp_runs f
  rw [State.latFI_whole h3] at hruns
  refine ⟨r, fun e => (hr e).trans ?_, hruns⟩
  rw [View.compares, if_neg (State.view_whole h3), State.view_int h3 (elemOf_lt _ _ _), State.view_int h3 (elemOf_lt _ _ _), ht]

/-- The elements under the mask. -/
def State.taken (s : State) (f : VF) : List Nat := (List.range (512 / typeWidth (s.vType f))).filter fun e => (s.slice.mask f.mask.toNat).getLsbD e

theorem length_filter_range_le (n : Nat) (p : Nat → Bool) : ((List.range n).filter p).length ≤ n := by
  simpa using List.length_filter_le p (List.range n)

theorem State.vcount_gives (s : State) (f : VF) {test : Nat → Bool}
    (ht : ∀ e, countsNonzero (s.view f).1 (elemOf (typeWidth (s.vType f)) e (s.srcA f)) = test e) :
    s.GivesRank (.vcount f) f 6 fun r => r = ((s.taken f).filter test).length := by
  have hl : ((s.taken f).filter test).length ≤ 512 := (List.length_filter_le _ _).trans ((length_filter_range_le _ _).trans (Nat.div_le_self _ _))
  have hc : ((List.range (s.view f).1.n).filter fun i => (s.view f).1.mask.getLsbD i && countsNonzero (s.view f).1 (elemAt (s.view f).1.w i (s.srcA f))).length
      = ((s.taken f).filter test).length := by
    rw [State.taken, List.filter_filter]
    congr 2
    funext e
    rw [elemAt_eq_elemOf, State.view_w, ht, Bool.and_comm]
    rfl
  exact .formA rfl hc (hl.trans_lt Nat.lt_two_pow_self) rfl

theorem State.vcompact_gives (s : State) (f : VF) : s.GivesRank (.vcompact f) f 6 fun r => ∀ e < 512 / typeWidth (s.vType f), elemOf (typeWidth (s.vType f)) e r
    = elemOf (typeWidth (s.vType f)) (((s.taken f)[e]?).getD e) (if e < (s.taken f).length then s.srcA f else s.srcB f) := by
  refine .formAB rfl (packLe_eq_rankOf (s.view f).1.w (s.view f).1.n _) ?_ fun e he => ?_
  · exact rankOf_lt_of_le (typeWidth_pos _).ne' (Nat.mul_div_le _ _) _
  · change elemOf (typeWidth (s.vType f)) e (rankOf (typeWidth (s.vType f)) (512 / typeWidth (s.vType f)) fun i =>
      ((s.taken f).map fun i => elemAt (typeWidth (s.vType f)) i (s.srcA f)).getD i (elemAt (typeWidth (s.vType f)) i (s.srcB f))) = _
    rw [elemOf_rankOf, if_pos he, List.getD_eq_getElem?_getD, List.getElem?_map]
    by_cases hlt : e < (s.taken f).length
    · rw [if_pos hlt, List.getElem?_eq_getElem hlt]
      simp [elemAt_eq_elemOf, Nat.mod_eq_of_lt (elemOf_lt _ _ _)]
    · rw [if_neg hlt, List.getElem?_eq_none (not_lt.mp hlt)]
      simp [elemAt_eq_elemOf, Nat.mod_eq_of_lt (elemOf_lt _ _ _)]

/-! ### The operations on masks (R177) -/

theorem State.kop_gives (s : State) (f : VF) (b : Nat) (hb : f.imm.toNat % 8 < 4 → b = s.srcB f) :
    s.GivesRank (.kop f) f 1 fun r => r = (kopResult (f.imm.toNat % 8) (BitVec.ofNat 128 (s.srcA f)) (BitVec.ofNat 128 b) (s.srcA f)).toNat := by
  obtain ⟨ha, hr⟩ := (s.view_readsAs f).vA f
  obtain ⟨hb', -⟩ := hr.vB f
  have hn : s.cur.s ∈ [s.cur.s] := List.mem_cons_self
  have h1 := (State.SliceStep.refl s [s.cur.s]).vA hn f
  have hlt : ∀ x : BitVec 128, x.toNat < 2 ^ 512 := fun x => x.isLt.trans_le (Nat.pow_le_pow_right two_pos (by decide))
  have he : exec (.kop f) s = .next ((if f.imm.toNat % 8 < 4 then (s.vA f).2.vB f else (0, (s.vA f).2)).2.vDone f.dst 1
      ((kopResult (f.imm.toNat % 8) (BitVec.ofNat 128 (s.vA f).1) (BitVec.ofNat 128 (if f.imm.toNat % 8 < 4 then (s.vA f).2.vB f else (0, (s.vA f).2)).1) (s.vA f).1).toNat, 0) 0) := rfl
  by_cases h4 : f.imm.toNat % 8 < 4
  · rw [if_pos h4, ← ha, ← hb'] at he
    rw [hb h4]
    exact .of_vDone he (h1.vB hn f) (hlt _) rfl
  · rw [if_neg h4, ← ha] at he
    refine .of_vDone he h1 (hlt _) ?_
    obtain ⟨k, hk⟩ : ∃ k, f.imm.toNat % 8 = k + 4 := ⟨f.imm.toNat % 8 - 4, by omega⟩
    rw [hk]
    rcases k with _ | _ | _ | k <;> rfl

/-- The lowest one bit of a number stands alone in `x &&& -x`. -/
theorem getLsbD_and_neg {w : Nat} (x : BitVec w) (i : Nat) : (x &&& -x).getLsbD i = (x.getLsbD i && decide (∀ j < i, x.getLsbD j = false)) := by
  rw [BitVec.getLsbD_and, BitVec.getLsbD_neg]
  by_cases hi : i < w
  · cases hx : x.getLsbD i
    · simp
    · simp only [hi, decide_true, Bool.true_and, Bool.true_xor, ← decide_not, not_exists, not_and, Bool.not_eq_true]
  · rw [BitVec.getLsbD_of_ge x i (by omega)]
    simp

theorem popCount_eq (w x : Nat) : popCount w x = (List.range w).countP fun i => x.testBit i := by
  induction w generalizing x with
  | zero => rfl
  | succ w ih =>
    rw [popCount, ih, List.range_succ_eq_map, List.countP_cons, List.countP_map, Nat.add_comm]
    congr 1
    · simp [Function.comp_def, Nat.testBit_succ]
    · rw [Nat.testBit_zero]
      rcases Nat.mod_two_eq_zero_or_one x with h | h <;> simp [h]

/-- Operations 5, 6 and 7 of KOP, bit by bit. -/
theorem testBit_lowOnes (n i : Nat) : (BitVec.ofNat 128 (2 ^ min n 128 - 1)).toNat.testBit i = decide (i < min n 128) := by
  rw [BitVec.toNat_ofNat, Nat.testBit_mod_two_pow, Nat.testBit_two_pow_sub_one, ← Bool.decide_and]
  exact decide_eq_decide.mpr (by omega)

end Sys2Proof.Machine
end

section
/-!
PROOF of O36. Scans and reductions: the fold of R189 over the elements under the mask.
-/
namespace Sys2Proof.Machine
open Flagged

/-! ### A scan is the list of its folds -/

/-- A fold with the value before and after each element. -/
def scanList {α : Type} (step : α → Nat → α) : List Nat → α → List (α × α)
  | [], _ => []
  | i :: is, acc => (acc, step acc i) :: scanList step is (step acc i)

theorem scanList_eq {α : Type} (step : α → Nat → α) (is : List Nat) (acc : α) :
    scanList step is acc = (List.range is.length).map fun k => ((is.take k).foldl step acc, (is.take (k + 1)).foldl step acc) := by
  induction is generalizing acc with
  | nil => rfl
  | cons i is ih =>
    rw [scanList, ih, List.length_cons, List.range_succ_eq_map, List.map_cons, List.map_map]
    rfl

theorem scanList_range {α : Type} (step : α → Nat → α) (n : Nat) (acc : α) :
    scanList step (List.range n) acc = (List.range n).map fun k => ((List.range k).foldl step acc, (List.range (k + 1)).foldl step acc) := by
  rw [scanList_eq, List.length_range]
  refine List.map_congr_left fun k hk => ?_
  have hk := List.mem_range.mp hk
  rw [List.take_range, List.take_range, min_eq_left hk.le, min_eq_left hk]

theorem scanList_last {α : Type} (step : α → Nat → α) (is : List Nat) (acc : α) :
    ((scanList step is acc).getLast?.map Prod.snd).getD acc = is.foldl step acc := by
  induction is generalizing acc with
  | nil => rfl
  | cons i is ih =>
    rw [List.foldl_cons, ← ih, scanList, List.getLast?_cons]
    cases (scanList step is (step acc i)).getLast? <;> rfl

/-! ### The steps of a fold -/

theorem steady_byType {fl : View → Num → Num → Num → Flagged Nat} {v : View} (h : ∀ a b c, Steady (fl v a b c)) (int : View → Int → Int → Int → Int)
    (a b c : Nat) : Steady (byType fl int v a b c) := steady_ite (h _ _ _) (steady_pure _)

theorem steady_foldFirst (op : Nat) (v : View) (x : Nat) : Steady (foldFirst op v x) :=
  steady_ite (steady_ite (steady_viewRound _ _) (steady_exact _ _)) (steady_pure _)

theorem steady_foldOp (op : Nat) (v : View) (a b : Nat) : Steady (foldOp op v a b) := by
  rcases op with _ | _ | _ | _ | _ | op
  · exact steady_ite (steady_bind (steady_numAdd _ _ _) fun _ => steady_viewRound _ _) (steady_byType (fun _ _ _ => by simp) _ _ _ _)
  · exact steady_byType (fun _ _ _ => steady_floatMin _ _ _ _) _ _ _ _
  · exact steady_byType (fun _ _ _ => steady_floatMin _ _ _ _) _ _ _ _
  all_goals exact steady_pure _

/-- The fold value after one more element: the first one alone, every later one with the fold value (R189). -/
def foldStep (op : Nat) (v : View) (a : Nat) (acc : Option Nat) (i : Nat) : Option Nat :=
  some (acc.elim (value (foldFirst op v (elemAt v.w i a))) fun y => value (foldOp op v y (elemAt v.w i a)))

/-- The same step for an element that the mask may leave out. -/
def maskedStep (op : Nat) (v : View) (a : Nat) (acc : Option Nat) (i : Nat) : Option Nat := if v.mask.getLsbD i then foldStep op v a acc i else acc

/-- What follows an element in a scan. -/
def scanRest (op : Nat) (v : View) (a : Nat) (is : List Nat) (acc nxt : Option Nat) : Flagged (List (Option Nat × Option Nat)) :=
  scanFold op v a is nxt >>= fun l => pure ((acc, nxt) :: l)

theorem scanFold_cons (op : Nat) (v : View) (a i : Nat) (is : List Nat) (acc : Option Nat) : scanFold op v a (i :: is) acc =
    if v.mask.getLsbD i then acc.elim (some <$> foldFirst op v (elemAt v.w i a)) (fun y => some <$> foldOp op v y (elemAt v.w i a)) >>= scanRest op v a is acc
    else scanRest op v a is acc acc := by
  cases acc <;> rfl

theorem steady_scanFold (op : Nat) (v : View) (a : Nat) (is : List Nat) (acc : Option Nat) : Steady (scanFold op v a is acc)
    ∧ value (scanFold op v a is acc) = scanList (maskedStep op v a) is acc := by
  induction is generalizing acc with
  | nil => exact ⟨steady_pure _, rfl⟩
  | cons i is ih =>
    have hrest : ∀ nxt, Steady (scanRest op v a is acc nxt) := fun nxt => steady_bind (ih nxt).1 fun _ => steady_pure _
    have hval : ∀ nxt, value (scanRest op v a is acc nxt) = (acc, nxt) :: scanList (maskedStep op v a) is nxt := fun nxt => by rw [scanRest, value_bind_pure, (ih nxt).2]
    rw [scanFold_cons, scanList, maskedStep]
    split
    · cases acc with
      | none => exact ⟨steady_bind (steady_map (steady_foldFirst _ _ _) _) hrest, (value_bind _ hrest).trans (hval _)⟩
      | some y => exact ⟨steady_bind (steady_map (steady_foldOp _ _ _ _) _) hrest, (value_bind _ hrest).trans (hval _)⟩
    · exact ⟨hrest _, hval _⟩

/-- The fold of a list of elements of a rank. -/
def foldBits (op : Nat) (v : View) (a : Nat) (es : List Nat) : Nat := (es.foldl (foldStep op v a) none).getD (foldIdent op v)

theorem foldl_maskedStep (op : Nat) (v : View) (a : Nat) (es : List Nat) :
    (es.foldl (maskedStep op v a) none).getD (foldIdent op v) = foldBits op v a (es.filter fun e => v.mask.getLsbD e) := by
  rw [foldBits, List.foldl_filter]
  rfl

/-! ### What VSCAN and VRED give -/

theorem filter_range_lt {i n : Nat} (h : i ≤ n) : (List.range n).filter (fun e => decide (e < i)) = List.range i := by
  obtain ⟨d, rfl⟩ := Nat.exists_eq_add_of_le h
  rw [List.range_add, List.filter_append, List.filter_eq_self.mpr, List.filter_eq_nil_iff.mpr, List.append_nil]
  · intro x hx
    obtain ⟨k, -, rfl⟩ := List.mem_map.mp hx
    simp
  · intro x hx
    simpa using hx

theorem State.taken_filter_lt (s : State) (f : VF) {i : Nat} (h : i ≤ 512 / typeWidth (s.vType f)) :
    (s.taken f).filter (fun e => decide (e < i)) = (List.range i).filter fun e => (s.slice.mask f.mask.toNat).getLsbD e := by
  rw [State.taken, List.filter_comm, filter_range_lt h]

theorem State.vscan_gives (s : State) (f : VF) : s.GivesRank (.vscan f) f 6 fun r => ∀ i < 512 / typeWidth (s.vType f), elemOf (typeWidth (s.vType f)) i r
    = foldBits (f.imm.toNat % 8) (s.view f).1 (s.srcA f) ((s.taken f).filter fun e => if f.imm.getLsbD 3 then decide (e < i) else decide (e ≤ i))
      % 2 ^ typeWidth (s.vType f) := by
  let op := f.imm.toNat % 8
  let v := (s.view f).1
  have hl : ((scanFold op v (s.srcA f) (List.range v.n) none).run 0).1 = scanList (maskedStep op v (s.srcA f)) (List.range v.n) none :=
    (steady_scanFold op v (s.srcA f) (List.range v.n) none).2
  have hx : packLe ((((scanFold op v (s.srcA f) (List.range v.n) none).run 0).1.map fun e => if f.imm.getLsbD 3 then e.1 else e.2).map fun x => (v.w, x.getD (foldIdent op v)))
      = rankOf v.w v.n fun i => foldBits op v (s.srcA f) ((List.range (if f.imm.getLsbD 3 then i else i + 1)).filter fun e => v.mask.getLsbD e) := by
    rw [hl, scanList_range, List.map_map, List.map_map, ← packLe_eq_rankOf]
    congr 1
    refine List.map_congr_left fun k _ => ?_
    simp only [Function.comp_apply, ← foldl_maskedStep]
    split <;> rfl
  refine .formA rfl hx (rankOf_lt_of_le (typeWidth_pos _).ne' (Nat.mul_div_le _ _) _) fun i hi => ?_
  rw [State.view_w, State.view_n, elemOf_rankOf, if_pos hi]
  congr 2
  cases f.imm.getLsbD 3
  · simp only [Bool.false_eq_true, if_false, ← Nat.lt_succ_iff]
    rw [s.taken_filter_lt f hi]
    rfl
  · simp only [if_true]
    rw [s.taken_filter_lt f hi.le]
    rfl

theorem State.vred_gives (s : State) (f : VF) (hlt : foldBits (f.imm.toNat % 8) (s.view f).1 (s.srcA f) (s.taken f) < 2 ^ 512) :
    s.GivesRank (.vred f) f 6 fun r => r = foldBits (f.imm.toNat % 8) (s.view f).1 (s.srcA f) (s.taken f) := by
  let op := f.imm.toNat % 8
  let v := (s.view f).1
  have hl : ((scanFold op v (s.srcA f) (List.range v.n) none).run 0).1 = scanList (maskedStep op v (s.srcA f)) (List.range v.n) none :=
    (steady_scanFold op v (s.srcA f) (List.range v.n) none).2
  have hx : ((((scanFold op v (s.srcA f) (List.range v.n) none).run 0).1.getLast?.map Prod.snd).getD none).getD (foldIdent op v) = foldBits op v (s.srcA f) (s.taken f) := by
    rw [hl, scanList_last, foldl_maskedStep]
    rfl
  exact .formA rfl hx hlt rfl

end Sys2Proof.Machine
end

section
/-!
PROOF of O36. The folds of each type.
-/
namespace Sys2Proof.Machine
open Flagged

theorem foldl_some {step : Option Nat → Nat → Option Nat} {next : Nat → Nat → Nat} (h : ∀ y e, step (some y) e = some (next y e)) (es : List Nat) (y : Nat) :
    es.foldl step (some y) = some (es.foldl next y) := by
  induction es generalizing y with
  | nil => rfl
  | cons e es ih => rw [List.foldl_cons, List.foldl_cons, h, ih]

/-- A fold value that stands for that of another fold, step by step, does so at the end. -/
theorem foldBits_rel {op : Nat} {v : View} {a : Nat} {R : Nat → Int → Prop} {g : Int → Int → Int} {z : Int} {elem : Nat → Int}
    (hid : R (foldIdent op v) z) (hfirst : ∀ e, R (value (foldFirst op v (elemAt v.w e a))) (g z (elem e)))
    (hnext : ∀ y t e, R y t → R (value (foldOp op v y (elemAt v.w e a))) (g t (elem e))) (es : List Nat) : R (foldBits op v a es) ((es.map elem).foldl g z) := by
  have h : ∀ (es : List Nat) y t, R y t → R ((es.foldl (foldStep op v a) (some y)).getD (foldIdent op v)) ((es.map elem).foldl g t) := by
    intro es
    induction es with
    | nil => exact fun y t h => h
    | cons e es ih => exact fun y t h => ih _ _ (hnext y t e h)
  cases es with
  | nil => exact hid
  | cons e es => exact h es _ _ (hfirst e)

section
variable {s : State} {f : VF}

/-- A fold value that stands for an integer: below the limit of its width and congruent. -/
def StandsFor (w y : Nat) (t : Int) : Prop := y < 2 ^ w ∧ (y : Int) % 2 ^ w = t % 2 ^ w

/-! ### Sums of integers -/

section
variable (h3 : 3 ≤ s.vType f) (h8 : s.vType f ≤ 8)
include h3

theorem State.value_byType_whole {fl : View → Num → Num → Num → Flagged Nat} {int : View → Int → Int → Int → Int} {a b c : Nat} :
    value (byType fl int (s.view f).1 a b c) = wrapInt (typeWidth (s.vType f)) (int (s.view f).1 ((s.view f).1.int a) ((s.view f).1.int b) ((s.view f).1.int c)) := by
  rw [byType, if_neg (State.view_whole h3)]
  rfl

theorem State.foldFirst_whole (op x : Nat) : value (foldFirst op (s.view f).1 x) = x := by
  unfold foldFirst
  rw [if_neg fun h => State.view_whole h3 (Bool.and_eq_true _ _ ▸ h).1]
  rfl

theorem State.foldSum_whole (es : List Nat) : StandsFor (typeWidth (s.vType f)) (foldBits 0 (s.view f).1 (s.srcA f) es)
    ((es.map fun e => intOf (s.vType f) (elemOf (typeWidth (s.vType f)) e (s.srcA f))).foldl (fun x y => x + y) 0) := by
  refine foldBits_rel (R := StandsFor (typeWidth (s.vType f))) (z := 0) ⟨Nat.two_pow_pos _, rfl⟩ (fun e => ?_) (fun y t e h => ?_) es
  · rw [State.foldFirst_whole h3, elemAt_eq_elemOf]
    refine ⟨elemOf_lt _ _ _, ?_⟩
    rw [zero_add, intOf_emod]
    rfl
  · have hv : value (foldOp 0 (s.view f).1 y (elemAt (s.view f).1.w e (s.srcA f)))
        = wrapInt (typeWidth (s.vType f)) (intOf (s.vType f) y + intOf (s.vType f) (elemOf (typeWidth (s.vType f)) e (s.srcA f))) := by
      rw [show foldOp 0 (s.view f).1 y _ = opAdd (s.view f).1 y _ 0 from if_neg (State.view_whole h3), opAdd, State.value_byType_whole h3, elemAt_eq_elemOf, State.view_int h3 h.1, State.view_w,
        State.view_int h3 (elemOf_lt _ _ _)]
    rw [hv]
    refine ⟨wrapInt_lt _ _, ?_⟩
    rw [cast_wrapInt, Int.emod_emod_of_dvd _ dvd_rfl, Int.add_emod, intOf_emod, h.2, ← Int.add_emod]

/-! ### The least and the greatest of integers -/

/-- A fold value that stands for an integer of its type. -/
def IsBitsOf (ty y : Nat) (t : Int) : Prop := y < 2 ^ typeWidth ty ∧ intOf ty y = t

omit h3 in
theorem IsBitsOf.stands {ty y : Nat} {t : Int} (h : IsBitsOf ty y t) : StandsFor (typeWidth ty) y t := ⟨h.1, by rw [← h.2, intOf_emod]⟩

omit h3 in
/-- The bits of an integer of a type stand for it. -/
theorem isBitsOf_wrapInt {ty : Nat} (h3 : 3 ≤ ty) (h8 : ty ≤ 8) (x : Nat) : IsBitsOf ty (wrapInt (typeWidth ty) (intOf ty x)) (intOf ty x) :=
  ⟨wrapInt_lt _ _, intOf_wrapInt (intOf_range h3 h8 x).1 (intOf_range h3 h8 x).2⟩

omit h3 in
/-- The limits of a type (R40). -/
theorem satOf_limits {ty : Nat} (h3 : 3 ≤ ty) (h8 : ty ≤ 8) (x : Nat) : satOf ty (-2 ^ typeWidth ty) ≤ intOf ty x ∧ intOf ty x ≤ satOf ty (2 ^ typeWidth ty) := by
  have h := intOf_range h3 h8 x
  interval_cases ty <;> simp [satOf, typeWidth] at h ⊢ <;> omega

omit h3 in
theorem isBitsOf_limits {ty : Nat} (h3 : 3 ≤ ty) (h8 : ty ≤ 8) : IsBitsOf ty (if isI ty then 2 ^ (typeWidth ty - 1) - 1 else 2 ^ typeWidth ty - 1) (satOf ty (2 ^ typeWidth ty))
    ∧ IsBitsOf ty (if isI ty then 2 ^ (typeWidth ty - 1) else 0) (satOf ty (-2 ^ typeWidth ty)) := by
  unfold IsBitsOf
  interval_cases ty <;> decide

include h8

/-- A step to the one or the other of two integers. -/
theorem State.isBitsOf_pick {y x : Nat} {t : Int} (hy : IsBitsOf (s.vType f) y t) (hx : x < 2 ^ typeWidth (s.vType f)) {g : Int → Int → Int}
    (hg : ∀ a b, g a b = a ∨ g a b = b) :
    IsBitsOf (s.vType f) (wrapInt (typeWidth (s.vType f)) (g ((s.view f).1.int y) ((s.view f).1.int x))) (g t (intOf (s.vType f) x)) := by
  rw [State.view_int h3 hy.1, State.view_int h3 hx, hy.2]
  rcases hg t (intOf (s.vType f) x) with h | h
  · rw [h, ← hy.2]
    exact isBitsOf_wrapInt h3 h8 _
  · rw [h]
    exact isBitsOf_wrapInt h3 h8 _

theorem State.foldExtreme_whole {op : Nat} {g : Int → Int → Int} {z : Int} (hop : ∀ y x, value (foldOp op (s.view f).1 y x)
      = wrapInt (typeWidth (s.vType f)) (g ((s.view f).1.int y) ((s.view f).1.int x))) (hg : ∀ a b, g a b = a ∨ g a b = b)
    (hid : IsBitsOf (s.vType f) (foldIdent op (s.view f).1) z) (hz : ∀ x, g z (intOf (s.vType f) x) = intOf (s.vType f) x) (es : List Nat) :
    StandsFor (typeWidth (s.vType f)) (foldBits op (s.view f).1 (s.srcA f) es)
      ((es.map fun e => intOf (s.vType f) (elemOf (typeWidth (s.vType f)) e (s.srcA f))).foldl g z) := by
  refine IsBitsOf.stands (foldBits_rel (R := IsBitsOf (s.vType f)) hid (fun e => ?_) (fun y t e h => ?_) es)
  · rw [State.foldFirst_whole h3, elemAt_eq_elemOf, State.view_w, hz]
    exact ⟨elemOf_lt _ _ _, rfl⟩
  · rw [hop, elemAt_eq_elemOf, State.view_w]
    exact State.isBitsOf_pick h3 h8 h (elemOf_lt _ _ _) hg

theorem State.foldMin_whole (es : List Nat) : StandsFor (typeWidth (s.vType f)) (foldBits 1 (s.view f).1 (s.srcA f) es)
    ((es.map fun e => intOf (s.vType f) (elemOf (typeWidth (s.vType f)) e (s.srcA f))).foldl (fun x y => min x y) (satOf (s.vType f) (2 ^ typeWidth (s.vType f)))) := by
  refine State.foldExtreme_whole h3 h8 (fun y x => ?_) (fun a b => min_choice a b) ?_ (fun x => min_eq_right (satOf_limits h3 h8 x).2) es
  · rw [show foldOp 1 (s.view f).1 y x = opMin (s.view f).1 y x 0 from rfl, opMin, State.value_byType_whole h3, ← min_def]
  · have := (isBitsOf_limits h3 h8).1
    rwa [show foldIdent 1 (s.view f).1 = _ from if_neg (State.view_whole h3)]

theorem State.foldMax_whole (es : List Nat) : StandsFor (typeWidth (s.vType f)) (foldBits 2 (s.view f).1 (s.srcA f) es)
    ((es.map fun e => intOf (s.vType f) (elemOf (typeWidth (s.vType f)) e (s.srcA f))).foldl (fun x y => max x y) (satOf (s.vType f) (-2 ^ typeWidth (s.vType f)))) := by
  refine State.foldExtreme_whole h3 h8 (fun y x => ?_) (fun a b => max_choice a b) ?_ (fun x => max_eq_right (satOf_limits h3 h8 x).1) es
  · rw [show foldOp 2 (s.view f).1 y x = opMax (s.view f).1 y x 0 from rfl, opMax, State.value_byType_whole h3, max_comm, ← max_def]
  · have := (isBitsOf_limits h3 h8).2
    rwa [show foldIdent 2 (s.view f).1 = _ from if_neg (State.view_whole h3)]

end

/-! ### Folds of bits -/

theorem State.foldWord {op : Nat} (h3 : 3 ≤ op) {g : Nat → Nat → Nat} {z : Nat} (hop : ∀ y x, value (foldOp op (s.view f).1 y x) = g y x)
    (hg : ∀ x y, x < 2 ^ typeWidth (s.vType f) → y < 2 ^ typeWidth (s.vType f) → g x y < 2 ^ typeWidth (s.vType f))
    (hid : foldIdent op (s.view f).1 = z) (hz : z < 2 ^ typeWidth (s.vType f)) (hzx : ∀ x < 2 ^ typeWidth (s.vType f), g z x = x) (es : List Nat) :
    StandsFor (typeWidth (s.vType f)) (foldBits op (s.view f).1 (s.srcA f) es)
      ((es.map fun e => (elemOf (typeWidth (s.vType f)) e (s.srcA f) : Int)).foldl (fun x y => (g x.toNat y.toNat : Int)) z) := by
  have h := foldBits_rel (op := op) (v := (s.view f).1) (a := s.srcA f) (R := fun y t => y < 2 ^ typeWidth (s.vType f) ∧ t = (y : Int)) (z := z)
    (g := fun x y => (g x.toNat y.toNat : Int)) (elem := fun e => (elemOf (typeWidth (s.vType f)) e (s.srcA f) : Int)) ⟨hid ▸ hz, by rw [hid]⟩ (fun e => ?_)
    (fun y t e h => ?_) es
  · exact ⟨h.1, by rw [h.2]⟩
  · have hf : value (foldFirst op (s.view f).1 (elemAt (s.view f).1.w e (s.srcA f))) = elemOf (typeWidth (s.vType f)) e (s.srcA f) := by
      unfold foldFirst
      rw [decide_eq_false (not_lt.mpr h3), Bool.and_false, elemAt_eq_elemOf]
      rfl
    rw [hf]
    rw [Int.toNat_natCast, Int.toNat_natCast, hzx _ (elemOf_lt _ _ _)]
    exact ⟨elemOf_lt _ _ _, rfl⟩
  · rw [hop, elemAt_eq_elemOf, State.view_w, h.2]
    exact ⟨hg _ _ h.1 (elemOf_lt _ _ _), rfl⟩

/-! ### Folds of floating elements -/

theorem State.roundTo_width (hf : s.vType f < 3) (rm : Nat) (fr : Bool) (x : Num) : roundTo (layoutOf (s.vType f)) rm fr x < 2 ^ typeWidth (s.vType f) := by
  rw [Layout.width_layoutOf hf]
  exact Layout.roundTo_lt (Layout.proper_layoutOf _) _ _ _

theorem State.foldFirst_float (hf : s.vType f < 3) {op : Nat} (hop : op < 3) (e : Nat) : value (foldFirst op (s.view f).1 (elemAt (s.view f).1.w e (s.srcA f)))
    = if op = 0 then s.vOut f (s.fA f e) else s.vBits f (s.fA f e) := by
  unfold foldFirst
  rw [if_pos (by rw [State.view_float hf, decide_eq_true hop]; rfl), elemAt_eq_elemOf, State.view_num hf]
  split
  · exact State.view_roundTo hf _
  · exact State.value_view_exact _

theorem State.foldOp_float (hf : s.vType f < 3) {op : Nat} (hop : op < 3) (y e : Nat) : value (foldOp op (s.view f).1 y (elemAt (s.view f).1.w e (s.srcA f)))
    = if op = 0 then s.vOut f (sumOf (s.vMode f == 4) ((layoutOf (s.vType f)).decode false y) (s.fA f e))
      else s.vBits f (extremeOf (op == 2) (s.vNum f y) (s.fA f e)) := by
  rw [elemAt_eq_elemOf]
  interval_cases op
  · rw [show foldOp 0 (s.view f).1 y _ = _ from if_pos (State.view_float hf), State.value_rounded hf, View.rd, State.view_rm, State.view_num hf]
    rfl
  · rw [show foldOp 1 (s.view f).1 y _ = opMin (s.view f).1 y _ 0 from rfl, opMin, State.byType_float hf, value_floatMin]
    rfl
  · rw [show foldOp 2 (s.view f).1 y _ = opMax (s.view f).1 y _ 0 from rfl, opMax, State.byType_float hf, value_floatMin]
    rfl

theorem State.foldBits_float (hf : s.vType f < 3) {op : Nat} (hop : op < 3) (es : List Nat) : foldBits op (s.view f).1 (s.srcA f) es = s.foldFloat f op es := by
  unfold foldBits State.foldFloat
  cases es with
  | nil =>
    interval_cases op
    · rfl
    · exact if_pos (State.view_float hf)
    · exact if_pos (State.view_float hf)
  | cons e r =>
    rw [List.foldl_cons, foldStep, Option.elim_none, State.foldFirst_float hf hop, foldl_some (fun y e => rfl)]
    simp only [State.foldOp_float hf hop]
    rfl

theorem State.foldFloat_lt (hf : s.vType f < 3) (op : Nat) (es : List Nat) : s.foldFloat f op es < 2 ^ typeWidth (s.vType f) := by
  unfold State.foldFloat
  cases es with
  | nil =>
    have h := Layout.infBits_lt (Layout.proper_layoutOf (s.vType f))
    have hw : 2 ^ typeWidth (s.vType f) = 2 * (layoutOf (s.vType f)).signBit := by rw [Layout.width_layoutOf hf, pow_succ', Layout.signBit]
    dsimp only
    split_ifs <;> omega
  | cons e r =>
    refine List.foldlRecOn (motive := fun y => y < 2 ^ typeWidth (s.vType f)) r _ ?_ fun y _ e _ => ?_
    · split <;> exact State.roundTo_width hf _ _ _
    · split <;> exact State.roundTo_width hf _ _ _

/-! ### Every fold -/

/-- The fold of the model is that of R189. -/
theorem State.foldBits_eq (h8 : s.vType f ≤ 8) {op : Nat} (hop : op < 6) (es : List Nat) :
    StandsFor (typeWidth (s.vType f)) (foldBits op (s.view f).1 (s.srcA f) es) (s.foldOf f op es) := by
  have hw : ((2 : Int) ^ typeWidth (s.vType f) - 1) = ((2 ^ typeWidth (s.vType f) - 1 : Nat) : Int) := by
    rw [Nat.cast_sub Nat.one_le_two_pow]
    push_cast
    rfl
  have hpos := Nat.two_pow_pos (typeWidth (s.vType f))
  unfold State.foldOf
  dsimp only
  by_cases hf : op < 3 ∧ s.vType f < 3
  · rw [if_pos hf, State.foldBits_float hf.2 hf.1]
    exact ⟨State.foldFloat_lt hf.2 _ _, rfl⟩
  · rw [if_neg hf]
    interval_cases op
    · exact State.foldSum_whole (by omega) es
    · exact State.foldMin_whole (by omega) h8 es
    · exact State.foldMax_whole (by omega) h8 es
    · have := State.foldWord (s := s) (f := f) (op := 3) le_rfl (g := (· &&& ·)) (z := 2 ^ typeWidth (s.vType f) - 1) (fun _ _ => rfl)
        (fun x y hx _ => lt_of_le_of_lt Nat.and_le_left hx) rfl (by omega)
        (fun x hx => by rw [Nat.and_comm, Nat.and_two_pow_sub_one_eq_mod, Nat.mod_eq_of_lt hx]) es
      rw [← hw] at this
      exact this
    · exact State.foldWord (s := s) (f := f) (op := 4) (by decide) (g := (· ||| ·)) (z := 0) (fun _ _ => rfl) (fun x y => Nat.or_lt_two_pow) rfl (by omega)
        (fun x _ => Nat.zero_or x) es
    · exact State.foldWord (s := s) (f := f) (op := 5) (by decide) (g := (· ^^^ ·)) (z := 0) (fun _ _ => rfl) (fun x y => Nat.xor_lt_two_pow) rfl (by omega)
        (fun x _ => Nat.zero_xor x) es

end

/-! ### O36 -/

theorem State.vscan_holds (s : State) (f : VF) (h8 : s.vType f ≤ 8) (hop : f.imm.toNat % 8 < 6) :
    s.GivesRank (.vscan f) f 6 fun r => ∀ i < 512 / typeWidth (s.vType f), (elemOf (typeWidth (s.vType f)) i r : Int)
      = s.foldOf f (f.imm.toNat % 8) ((s.taken f).filter fun e => if f.imm.getLsbD 3 then decide (e < i) else decide (e ≤ i)) % 2 ^ typeWidth (s.vType f) := by
  obtain ⟨r, hr, hruns⟩ := s.vscan_gives f
  refine ⟨r, fun i hi => ?_, hruns⟩
  obtain ⟨hlt, heq⟩ := State.foldBits_eq h8 hop ((s.taken f).filter fun e => if f.imm.getLsbD 3 then decide (e < i) else decide (e ≤ i))
  rw [hr i hi, Nat.mod_eq_of_lt hlt, ← heq, Int.emod_eq_of_lt (Int.natCast_nonneg _) (by exact_mod_cast hlt)]

theorem State.vred_holds (s : State) (f : VF) (h8 : s.vType f ≤ 8) (hop : f.imm.toNat % 8 < 6) :
    s.GivesRank (.vred f) f 6 fun r => (r : Int) = s.foldOf f (f.imm.toNat % 8) (s.taken f) % 2 ^ typeWidth (s.vType f) := by
  obtain ⟨hlt, heq⟩ := State.foldBits_eq h8 hop (s.taken f)
  have hw : typeWidth (s.vType f) ≤ 512 := by rcases typeWidth_mem (s.vType f) with h | h | h | h <;> omega
  obtain ⟨r, hr, hruns⟩ := s.vred_gives f (hlt.trans_le (Nat.pow_le_pow_right two_pos hw))
  refine ⟨r, ?_, hruns⟩
  rw [hr, ← heq, Int.emod_eq_of_lt (Int.natCast_nonneg _) (by exact_mod_cast hlt)]

theorem State.GivesRank.mono {s : State} {i : Instr} {f : VF} {lat : Nat} {P Q : Nat → Prop} (h : s.GivesRank i f lat P) (hPQ : ∀ r, P r → Q r) :
    s.GivesRank i f lat Q := by
  obtain ⟨r, hr, hruns⟩ := h
  exact ⟨r, hPQ _ hr, hruns⟩

theorem State.kop_two (s : State) (f : VF) {op : Nat} (h : f.imm.toNat % 8 = op) (h4 : op < 4) : s.GivesRank (.kop f) f 1 fun r =>
    r = (kopResult op (BitVec.ofNat 128 (s.srcA f)) (BitVec.ofNat 128 (s.srcB f)) (s.srcA f)).toNat := by
  subst h
  exact s.kop_gives f _ fun _ => rfl

theorem State.kop_one (s : State) (f : VF) {op : Nat} (h : f.imm.toNat % 8 = op) (h4 : 4 ≤ op) : s.GivesRank (.kop f) f 1 fun r =>
    r = (kopResult op (BitVec.ofNat 128 (s.srcA f)) 0 (s.srcA f)).toNat := by
  subst h
  exact s.kop_gives f 0 fun h => absurd h (by omega)

/-- Settles O36. -/
theorem masksAndCounts : Obligations.MasksAndCounts := by
  intro f s
  refine ⟨fun h3 h8 p hp himm => ?_, fun h3 h8 => ?_, fun hf => ?_, s.vcompact_gives f, fun h8 hop => ⟨s.vscan_holds f h8 hop, s.vred_holds f h8 hop⟩,
    fun p hp hop => ?_, fun hop => ?_, fun hop => ?_, fun hop => ?_⟩
  · refine State.vcmp_whole h3 (test := p.2) fun e => ?_
    rw [himm]
    simp only [List.mem_cons, List.not_mem_nil, or_false] at hp
    rcases hp with rfl | rfl | rfl | rfl | rfl | rfl | rfl | rfl
    · exact beq_eq_decide _ _
    · exact (congrArg not (beq_eq_decide _ _)).trans (decide_not ..).symm
    all_goals rfl
  · refine s.vcount_gives f fun e => ?_
    rw [countsNonzero, if_neg (State.view_whole h3)]
  · refine s.vcount_gives f fun e => ?_
    rw [countsNonzero, if_pos (State.view_float hf), State.view_num hf]
    rfl
  · simp only [List.mem_cons, List.not_mem_nil, or_false] at hp
    rcases hp with rfl | rfl | rfl | rfl | rfl
    · exact s.kop_two f (op := 0) hop (by decide)
    · exact s.kop_two f (op := 1) hop (by decide)
    · exact s.kop_two f (op := 2) hop (by decide)
    · exact s.kop_two f (op := 3) hop (by decide)
    · exact s.kop_one f (op := 4) hop (by decide)
  · refine (s.kop_one f hop (by decide)).mono fun r hr i => ?_
    subst hr
    change (BitVec.ofNat 128 (s.srcA f) &&& -BitVec.ofNat 128 (s.srcA f)).getLsbD i = _
    rw [getLsbD_and_neg]
    by_cases hi : i < 128
    · rw [decide_eq_true hi, Bool.true_and]
    · rw [BitVec.getLsbD_of_ge _ _ (not_lt.mp hi), Bool.and_false]
  · refine (s.kop_one f hop (by decide)).mono fun r hr i => ?_
    subst hr
    exact testBit_lowOnes _ _
  · refine (s.kop_one f hop (by decide)).mono fun r hr => hr.trans ?_
    have hle : popCount 128 (BitVec.ofNat 128 (s.srcA f)).toNat ≤ 128 := by
      rw [popCount_eq]
      simpa using List.countP_le_length (p := fun i => (BitVec.ofNat 128 (s.srcA f)).toNat.testBit i) (l := List.range 128)
    change (BitVec.ofNat 128 (popCount 128 (BitVec.ofNat 128 (s.srcA f)).toNat)).toNat = _
    rw [BitVec.toNat_ofNat, Nat.mod_eq_of_lt (hle.trans_lt (by norm_num)), popCount_eq]
    rfl

end Sys2Proof.Machine
end

section
/-!
PROOF of O35. Bitwise forms, moves of elements and conversions.
-/
namespace Sys2Proof.Machine
open Flagged

section
variable {s : State} {f : VF}

/-! ### Bitwise forms and moves (R159, R166, R170, R174 to R176) -/

/-- A form of source A that computes its elements without flags. -/
theorem State.GivesElems.ofElems {i : Instr} {lat nf : Nat} {t : State} {g : Nat → Nat} {val : Nat → Int}
    (he : exec i s = .next (t.vDone f.dst lat ((s.view f).1.elems fun e => pure (g e)) nf)) (h : s.SliceStep t [s.cur.s] [])
    (hg : ∀ e < 512 / typeWidth (s.vType f), (g e : Int) % 2 ^ typeWidth (s.vType f) = val e % 2 ^ typeWidth (s.vType f)) : s.GivesElems i f lat val :=
  .of_vDone (g := g) he h (View.elems_fst _ fun _ => steady_pure _) hg

theorem State.opAnd_gives : s.OpGives f 2 opAnd fun e => elemOf (typeWidth (s.vType f)) e (s.srcA f) &&& elemOf (typeWidth (s.vType f)) e (s.srcB f) where
  steady _ _ _ := steady_pure _
  value e b c hb _ := by
    rw [hb le_rfl]
    rfl

theorem State.opOr_gives : s.OpGives f 2 opOr fun e => elemOf (typeWidth (s.vType f)) e (s.srcA f) ||| elemOf (typeWidth (s.vType f)) e (s.srcB f) where
  steady _ _ _ := steady_pure _
  value e b c hb _ := by
    rw [hb le_rfl]
    rfl

theorem State.opXor_gives : s.OpGives f 2 opXor fun e => elemOf (typeWidth (s.vType f)) e (s.srcA f) ^^^ elemOf (typeWidth (s.vType f)) e (s.srcB f) where
  steady _ _ _ := steady_pure _
  value e b c hb _ := by
    rw [hb le_rfl]
    rfl

theorem State.opNot_gives : s.OpGives f 1 opNot fun e => 2 ^ typeWidth (s.vType f) - 1 - elemOf (typeWidth (s.vType f)) e (s.srcA f) where
  steady _ _ _ := steady_pure _
  value _ _ _ _ _ := rfl

theorem State.vnot_gives : s.GivesElems (.vnot f) f 2 fun e : Nat => (2 ^ typeWidth (s.vType f) - 1 - elemOf (typeWidth (s.vType f)) e (s.srcA f) : Int) := by
  have h := State.opNot_gives.givesElems (i := .vnot f) (s := s) (f := f) (n := 2) rfl rfl
  have hval : (fun e => ((2 ^ typeWidth (s.vType f) - 1 - elemOf (typeWidth (s.vType f)) e (s.srcA f) : Nat) : Int))
      = fun e : Nat => (2 ^ typeWidth (s.vType f) - 1 - elemOf (typeWidth (s.vType f)) e (s.srcA f) : Int) := by
    funext e
    have := elemOf_lt (typeWidth (s.vType f)) e (s.srcA f)
    rw [Nat.sub_sub, Nat.cast_sub (by omega)]
    push_cast
    ring
  rwa [hval] at h

/-- The state after sources A and B. -/
theorem State.sliceStep_AB (s : State) (f : VF) : s.SliceStep (((s.view f).2.vA f).2.vB f).2 [s.cur.s] [] :=
  (((State.SliceStep.refl s [s.cur.s]).view f).vA List.mem_cons_self f).vB List.mem_cons_self f

theorem State.sliceStep_A (s : State) (f : VF) : s.SliceStep ((s.view f).2.vA f).2 [s.cur.s] [] :=
  ((State.SliceStep.refl s [s.cur.s]).view f).vA List.mem_cons_self f

theorem State.vmov_gives (hm : specM f.a.toNat = false) : s.GivesElems (.vmov f) f 1 fun e => elemOf (typeWidth (s.vType f)) e (s.srcA f) :=
  .ofElems (congrArg Host.Outcome.next (if_neg (by simp [hm]))) (s.sliceStep_A f) fun e _ => by
    rw [elemAt_eq_elemOf]
    rfl

theorem State.vsplat_gives : s.GivesElems (.vsplat f) f 1 fun _ => elemOf (typeWidth (s.vType f)) f.imm.toNat (s.srcA f) :=
  .ofElems rfl (s.sliceStep_A f) fun e _ => by
    rw [elemAt_eq_elemOf]
    rfl

theorem State.vrot_gives : s.GivesElems (.vrot f) f 2 fun e => elemOf (typeWidth (s.vType f))
    ((e + (f.imm.toNat + s.srcB f % 2 ^ 32) % (512 / typeWidth (s.vType f))) % (512 / typeWidth (s.vType f))) (s.srcA f) :=
  .ofElems rfl (s.sliceStep_AB f) fun e _ => by
    rw [elemAt_eq_elemOf]
    rfl

/-- A rank that is built element by element. -/
theorem State.GivesRank.ofElems {i : Instr} {lat w nf : Nat} {t : State} {g : Nat → Flagged Nat} {P : Nat → Prop} (hw : 0 < w) (hg : ∀ e, Steady (g e))
    (he : exec i s = .next (t.vDone f.dst lat ((buildElems w g (512 / w)).run 0) nf)) (h : s.SliceStep t [s.cur.s] [])
    (hP : ∀ r, (∀ e < 512 / w, elemOf w e r = Flagged.value (g e) % 2 ^ w) → P r) : s.GivesRank i f lat P := by
  have hr : ((buildElems w g (512 / w)).run 0).1 = rankOf w (512 / w) fun e => Flagged.value (g e) := value_buildElems hg _
  refine .of_vDone he h (hr ▸ rankOf_lt_of_le hw.ne' (Nat.mul_div_le _ _) _) (hP _ fun e hlt => ?_)
  rw [hr, elemOf_rankOf, if_pos hlt]

theorem State.vsel_gives : s.GivesRank (.vsel f) f 2 fun r => ∀ e < 512 / typeWidth (s.vType f), elemOf (typeWidth (s.vType f)) e r
    = if (s.slice.mask f.mask.toNat).getLsbD e then elemOf (typeWidth (s.vType f)) e (s.srcA f) else elemOf (typeWidth (s.vType f)) e (s.srcB f) := by
  refine .ofElems (g := fun e => pure (elemAt (typeWidth (s.vType f)) e (if (s.slice.mask f.mask.toNat).getLsbD e then s.srcA f else s.srcB f)))
    (typeWidth_pos (s.vType f)) (fun _ => steady_pure _) rfl (s.sliceStep_AB f) fun r hr e he => ?_
  rw [hr e he, value_pure, elemAt_eq_elemOf, Nat.mod_eq_of_lt (elemOf_lt _ _ _)]
  split <;> rfl

/-! ### Conversions (R40, R171) -/

theorem modeInForce_of_ne {rm : BitVec 3} (h : rm ≠ 0) (e : Nat) (m : BitVec 2) : modeInForce rm.toNat e m = rm.toNat :=
  if_pos (by simpa [BitVec.toNat_eq] using h)

/-- VCVT's resolution takes at most one side from the format slot (R43, R60, R171). -/
theorem State.resolves (s : State) (f : VF) : s.Resolves f (s.tab.cvt f) := by
  by_cases h15 : f.imm.toNat % 16 = 15
  · have hc : s.tab.cvt f = ⟨entryType (s.tab.entry 15 f.fs.toNat), f.ty.toNat, entryScale (s.tab.entry 15 f.fs.toNat),
        modeInForce f.rm.toNat (s.tab.entry 15 f.fs.toNat) s.tab.rmode⟩ := if_pos h15
    rw [hc]
    refine ⟨fun _ => ⟨rfl, rfl, rfl⟩, fun h => absurd h15 h, fun h => modeInForce_of_ne h _ _, fun h _ he => ?_, fun h hn => ?_⟩
    · rw [h]
      exact if_pos he
    · rw [h]
      exact if_neg fun he => hn ⟨.inl h15, he⟩
  · by_cases hty : f.ty = 15
    · have hc : s.tab.cvt f = ⟨f.imm.toNat % 16, entryType (s.tab.entry 15 f.fs.toNat), -entryScale (s.tab.entry 15 f.fs.toNat),
          modeInForce f.rm.toNat (s.tab.entry 15 f.fs.toNat) s.tab.rmode⟩ := (if_neg h15).trans (if_pos hty)
      rw [hc]
      refine ⟨fun h => absurd h h15, fun _ => ⟨rfl, (if_pos hty).symm, (if_pos hty).symm⟩, fun h => modeInForce_of_ne h _ _, fun h _ he => ?_, fun h hn => ?_⟩
      · rw [h]
        exact if_pos he
      · rw [h]
        exact if_neg fun he => hn ⟨.inr hty, he⟩
    · have hc : s.tab.cvt f = ⟨f.imm.toNat % 16, f.ty.toNat, 0, modeInForce f.rm.toNat 0 s.tab.rmode⟩ := (if_neg h15).trans (if_neg hty)
      rw [hc]
      refine ⟨fun h => absurd h h15, fun _ => ⟨rfl, (if_neg hty).symm, (if_neg hty).symm⟩, fun h => modeInForce_of_ne h _ _, fun _ h _ => absurd h (not_or.mpr ⟨h15, hty⟩),
        fun h _ => ?_⟩
      rw [h]
      rfl

theorem cast_satInt {ty : Nat} (h3 : 3 ≤ ty) (v : Int) : (satInt ty (typeWidth ty) v : Int) = satOf ty v % 2 ^ typeWidth ty := by
  unfold satInt satOf isI
  by_cases h6 : ty < 6
  · simp only [h3, h6, and_self, decide_true, if_true, cast_wrapInt]
  · simp only [h3, h6, and_false, decide_false, Bool.false_eq_true, if_false, cast_wrapInt]

/-- A value that one of two flags may accompany. -/
theorem value_raised {p q : Prop} [Decidable p] [Decidable q] (x y a : Nat) :
    Flagged.value (if p then raiseFlags x >>= fun _ => pure a else if q then raiseFlags y >>= fun _ => pure a else pure a) = a := by
  split
  · rfl
  · split <;> rfl

/-- A number as an integer of a type: the flags come with the value. -/
theorem floatToInt_eq {ty : Nat} (h3 : 3 ≤ ty) (rm : Nat) (x : Num) :
    Steady (floatToInt ty rm x) ∧ ((Flagged.value (floatToInt ty rm x) : Nat) : Int) = intFrom ty rm x % 2 ^ typeWidth ty := by
  cases x with
  | nan s => exact ⟨steady_raise_bind _ fun _ => steady_pure _, rfl⟩
  | inf n =>
    refine ⟨steady_raise_bind _ fun _ => steady_pure _, ?_⟩
    rw [intFrom, ← cast_satInt h3]
    cases n <;> rfl
  | fin n m e =>
    have hv : intFrom ty rm (.fin n m e) = satOf ty (roundInt rm n m e).1 := by rw [roundInt_fst]; rfl
    rw [hv, ← cast_satInt h3]
    exact ⟨steady_ite (steady_raise_bind _ fun _ => steady_pure _) (steady_ite (steady_raise_bind _ fun _ => steady_pure _) (steady_pure _)),
      congrArg Nat.cast (value_raised _ _ _)⟩

theorem flushIn_of_float {fl : BitVec 8} {ty : Nat} (h : ty < 3) : flushIn fl ty = fl.getLsbD (if ty = 0 then 0 else 2 + 0) := by
  rw [flushIn, if_pos h]

theorem flushOut_of_float {fl : BitVec 8} {ty : Nat} (h : ty < 3) : flushOut fl ty = fl.getLsbD (if ty = 0 then 1 else 2 + 1) := by
  rw [flushOut, if_pos h]

/-- An integer element, as a conversion reads it. -/
theorem intOf_signedOf {ty x : Nat} (h3 : 3 ≤ ty) (hx : x < 2 ^ typeWidth ty) : (if isI ty then signedOf (typeWidth ty) x else (x : Int)) = intOf ty x := by
  unfold isI intOf
  simp only [decide_eq_true_eq, h3, true_and, signedOf_eq, Nat.mod_eq_of_lt hx]
  by_cases h6 : ty < 6
  · simp only [h6, if_true, true_and]
  · simp only [h6, if_false, false_and]

/-- One converted element. -/
theorem Cvt.elem_eq (s : State) (c : Cvt) (sat : Bool) {x : Nat} (hx : x < 2 ^ typeWidth c.src) : Steady (c.elem s.tab.flush sat x)
    ∧ ((Flagged.value (c.elem s.tab.flush sat x) : Nat) : Int) % 2 ^ typeWidth c.dst = s.cvtOf c sat x % 2 ^ typeWidth c.dst := by
  unfold Cvt.elem State.cvtOf isF
  by_cases hs : c.src < 3
  · simp only [hs, decide_true, if_true, flushIn_of_float hs]
    by_cases hd : c.dst < 3
    · simp only [hd, decide_true, if_true, flushOut_of_float hd]
      exact ⟨steady_round _ _ _ _, rfl⟩
    · obtain ⟨h1, h2⟩ := floatToInt_eq (not_lt.mp hd) c.rm (((layoutOf c.src).decode (s.flushBit c.src 0) x).scale c.scale)
      simp only [hd, decide_false, Bool.false_eq_true, if_false]
      refine ⟨h1, ?_⟩
      have h3 := congrArg (· % (2 ^ typeWidth c.dst : Int)) h2
      exact h3.trans (Int.emod_emod_of_dvd _ dvd_rfl)
  · simp only [hs, decide_false, Bool.false_eq_true, if_false]
    rw [intOf_signedOf (not_lt.mp hs) hx]
    by_cases hd : c.dst < 3
    · simp only [hd, decide_true, if_true, flushOut_of_float hd]
      exact ⟨steady_round _ _ _ _, rfl⟩
    · simp only [hd, decide_false, Bool.false_eq_true, if_false, roundInt_fst, numRat_int]
      refine ⟨steady_pure _, ?_⟩
      rw [value_pure]
      split
      · rw [cast_satInt (not_lt.mp hd)]
        exact Int.emod_emod_of_dvd _ dvd_rfl
      · rw [cast_wrapInt]
        exact Int.emod_emod_of_dvd _ dvd_rfl

/-- Where an element of a VCVT comes from: with `narrow` (fewer source elements) A's in their place for the PART and B's beside them, else
A's from the PART on. -/
def cvtPick {α : Type} (ns nd p e : Nat) (inMask : Bool) (conv : Nat → α) (old zero : α) : α :=
  if ns < nd then (if p * ns ≤ e ∧ e < p * ns + ns ∧ inMask then conv (e - p * ns) else old)
  else if inMask then conv (if ns = nd then e else p * nd + e) else zero

theorem cvtPick_map {α β : Type} (h : α → β) (ns nd p e : Nat) (inMask : Bool) (conv : Nat → α) (old zero : α) :
    h (cvtPick ns nd p e inMask conv old zero) = cvtPick ns nd p e inMask (fun i => h (conv i)) (h old) (h zero) := by
  simp only [cvtPick, apply_ite h]

theorem steady_cvtPick {ns nd p e : Nat} {inMask : Bool} {conv : Nat → Flagged Nat} {old zero : Flagged Nat} (hc : ∀ i, Steady (conv i)) (ho : Steady old)
    (hz : Steady zero) : Steady (cvtPick ns nd p e inMask conv old zero) := steady_ite (steady_ite (hc _) ho) (steady_ite (hc _) hz)

/-- The elements of A that a VCVT converts. -/
def State.cvtConv (s : State) (f : VF) (i : Nat) : Flagged Nat :=
  (s.tab.cvt f).elem s.tab.flush (f.imm.getLsbD 6) (elemAt (typeWidth (s.tab.cvt f).src) i (s.srcA f))

theorem State.steady_cvtConv (s : State) (f : VF) (i : Nat) : Steady (s.cvtConv f i) := by
  rw [State.cvtConv, elemAt_eq_elemOf]
  exact (Cvt.elem_eq s _ _ (elemOf_lt _ _ _)).1

theorem State.value_cvtConv (s : State) (f : VF) (i : Nat) : ((Flagged.value (s.cvtConv f i) : Nat) : Int) % 2 ^ typeWidth (s.tab.cvt f).dst
    = s.cvtOf (s.tab.cvt f) (f.imm.getLsbD 6) (elemOf (typeWidth (s.tab.cvt f).src) i (s.srcA f)) % 2 ^ typeWidth (s.tab.cvt f).dst := by
  rw [State.cvtConv, elemAt_eq_elemOf]
  exact (Cvt.elem_eq s _ _ (elemOf_lt _ _ _)).2

/-- Source B of a VCVT, and the state after it. -/
def State.cvtB (s : State) (f : VF) : Nat × State := if s.tab.cvtUsesB f then ((s.view f).2.vA f).2.vB f else (0, ((s.view f).2.vA f).2)

theorem State.cvtB_eq {s : State} {f : VF} (h : typeCount (s.tab.cvt f).src < typeCount (s.tab.cvt f).dst) : (s.cvtB f).1 = s.srcB f := by
  have hu : s.tab.cvtUsesB f = true := by
    unfold Tables.cvtUsesB
    dsimp only
    rw [decide_eq_true h, Bool.or_true]
  rw [State.cvtB, if_pos hu]
  rfl

theorem State.vcvt_gives (s : State) (f : VF) : s.GivesRank (.vcvt f) f 3 fun r => ∀ e < 512 / typeWidth (s.tab.cvt f).dst,
    (elemOf (typeWidth (s.tab.cvt f).dst) e r : Int) = cvtPick (512 / typeWidth (s.tab.cvt f).src) (512 / typeWidth (s.tab.cvt f).dst) (f.imm.toNat / 16 % 4) e
      ((s.slice.mask f.mask.toNat).getLsbD e)
      (fun i => s.cvtOf (s.tab.cvt f) (f.imm.getLsbD 6) (elemOf (typeWidth (s.tab.cvt f).src) i (s.srcA f)) % 2 ^ typeWidth (s.tab.cvt f).dst)
      (elemOf (typeWidth (s.tab.cvt f).dst) e (s.srcB f) : Int) 0 := by
  let pick := fun e => cvtPick (typeCount (s.tab.cvt f).src) (typeCount (s.tab.cvt f).dst) (f.imm.extractLsb' 4 2).toNat e ((s.slice.mask f.mask.toNat).getLsbD e)
    (s.cvtConv f) (pure (elemAt (typeWidth (s.tab.cvt f).dst) e (s.cvtB f).1)) (pure 0)
  have hp : (f.imm.extractLsb' 4 2).toNat = f.imm.toNat / 16 % 4 := by
    rw [BitVec.extractLsb'_toNat, Nat.shiftRight_eq_div_pow]
  have ht : s.SliceStep (s.cvtB f).2 [s.cur.s] [] := (s.sliceStep_A f).vBWhen List.mem_cons_self (s.tab.cvtUsesB f = true) f
  refine State.GivesRank.ofElems (g := pick) (typeWidth_pos _) (fun e => steady_cvtPick (s.steady_cvtConv f) (steady_pure _) (steady_pure _)) rfl ht fun r hr e he => ?_
  have hcast : ((elemOf (typeWidth (s.tab.cvt f).dst) e r : Nat) : Int) = ((Flagged.value (pick e) : Nat) : Int) % 2 ^ typeWidth (s.tab.cvt f).dst := by
    rw [hr e he]
    push_cast
    rfl
  rw [hcast, cvtPick_map Flagged.value, cvtPick_map (fun x : Nat => (x : Int) % 2 ^ typeWidth (s.tab.cvt f).dst), hp]
  simp only [State.value_cvtConv, value_pure]
  have hold : typeCount (s.tab.cvt f).src < typeCount (s.tab.cvt f).dst → ((elemAt (typeWidth (s.tab.cvt f).dst) e (s.cvtB f).1 : Nat) : Int) % 2 ^ typeWidth (s.tab.cvt f).dst
      = elemOf (typeWidth (s.tab.cvt f).dst) e (s.srcB f) := fun h => by
    rw [State.cvtB_eq h, elemAt_eq_elemOf]
    exact_mod_cast Nat.mod_eq_of_lt (elemOf_lt _ _ _)
  unfold cvtPick
  by_cases hlt : typeCount (s.tab.cvt f).src < typeCount (s.tab.cvt f).dst
  · rw [if_pos hlt, hold hlt]
    exact (if_pos hlt).symm
  · rw [if_neg hlt]
    exact (if_neg hlt).symm

end

end Sys2Proof.Machine
end

section
/-!
PROOF of O35. Blocks of the BQ formats: their fields, their elements and how they are found.
-/
namespace Sys2Proof.Machine
open Flagged

/-! ### The fields of a block (R49, R50) -/

theorem bitAt_eq_testBit (x i : Nat) : bitAt x i = x.testBit i := by
  rw [bitAt, bitsOf_eq, Nat.testBit_eq_decide_div_mod_eq, beq_eq_decide, pow_one]

theorem testBit_top {m x : Nat} (h : x < 2 ^ (1 + m)) : x.testBit m = decide (2 ^ m ≤ x) := by
  rw [Nat.testBit_eq_decide_div_mod_eq]
  refine decide_eq_decide.mpr ?_
  have hpos := Nat.two_pow_pos m
  rw [Nat.add_comm, pow_succ] at h
  have hq : x / 2 ^ m < 2 := (Nat.div_lt_iff_lt_mul hpos).mpr (by omega)
  rw [Nat.mod_eq_of_lt hq]
  exact ⟨fun h1 => (Nat.le_div_iff_mul_le hpos).mp (by omega : 1 ≤ x / 2 ^ m) |>.trans' (by omega), fun h1 => by
    have := (Nat.le_div_iff_mul_le hpos).mpr (by omega : 1 * 2 ^ m ≤ x)
    omega⟩

/-- An element of a block by its fields (R50). -/
theorem bqElem_fields (m blk i : Nat) : bqElem m blk i = if blk % 256 = 255 then .nan false
    else .fin (decide (2 ^ m ≤ blk / 2 ^ (16 + (1 + m) * i) % 2 ^ (1 + m))) (blk / 2 ^ (16 + (1 + m) * i) % 2 ^ (1 + m) % 2 ^ m)
      ((blk % 256 : Nat) - 127 - (blk / 2 ^ (8 + i / 2) % 2 : Nat) - ((m : Int) - 1)) := by
  unfold bqElem
  simp only [bitsOf_eq, bitAt_eq_testBit, pow_zero, Nat.div_one, pow_one, testBit_top (Nat.mod_lt _ (Nat.two_pow_pos _))]
  rfl

theorem bqElem_spec (m blk i : Nat) : let field := blk / 2 ^ (16 + (1 + m) * i) % 2 ^ (1 + m)
    (blk % 256 = 255 → bqElem m blk i = .nan false)
    ∧ (blk % 256 ≠ 255 → numFinite (bqElem m blk i) ∧ (bqElem m blk i).sign = decide (2 ^ m ≤ field)
        ∧ |numRat (bqElem m blk i)| = (field % 2 ^ m : Nat) * (2 : ℚ) ^ ((blk % 256 : Nat) - 127 - (blk / 2 ^ (8 + i / 2) % 2 : Nat) - ((m : Int) - 1))) := by
  intro field
  rw [bqElem_fields]
  refine ⟨fun h => if_pos h, fun h => ?_⟩
  rw [if_neg h]
  exact ⟨⟨_, _, _, rfl⟩, rfl, abs_numRat _ _ _⟩

/-! ### A block from its fields -/

/-- The block of an exponent, micro-exponents and fields. -/
def bqBlock (m e : Nat) (mu field : Nat → Nat) : Nat := e + rankOf 1 8 mu * 256 + rankOf (1 + m) 16 field <<< 16

section
variable {m e : Nat} (he : e < 256) (mu field : Nat → Nat)
include he

theorem bqBlock_low : e + rankOf 1 8 mu * 256 < 2 ^ 16 := by
  have h := rankOf_lt (w := 1) (n := 8) one_ne_zero mu
  omega

theorem bqBlock_exponent : bqBlock m e mu field % 256 = e := by
  unfold bqBlock
  rw [Nat.shiftLeft_eq]
  omega

theorem bqBlock_mod : bqBlock m e mu field % 2 ^ 16 = e + rankOf 1 8 mu * 256 := by
  have h := bqBlock_low he mu
  unfold bqBlock
  rw [Nat.shiftLeft_eq, Nat.add_mul_mod_self_right, Nat.mod_eq_of_lt h]

theorem bqBlock_mu {j : Nat} (hj : j < 8) : bqBlock m e mu field / 2 ^ (8 + j) % 2 = mu j % 2 := by
  have h1 : bqBlock m e mu field / 2 ^ (8 + j) % 2 = bqBlock m e mu field % 2 ^ 16 / 2 ^ (8 + j) % 2 := by
    rw [← Nat.toNat_testBit, ← Nat.toNat_testBit, Nat.testBit_mod_two_pow, decide_eq_true (by omega : 8 + j < 16), Bool.true_and]
  rw [h1, bqBlock_mod he, pow_add, ← Nat.div_div_eq_div_mul, show (e + rankOf 1 8 mu * 256) / 2 ^ 8 = rankOf 1 8 mu by omega]
  have h := elemOf_rankOf 1 8 mu j
  rwa [elemOf, one_mul, pow_one, if_pos hj] at h

theorem bqBlock_field {i : Nat} (hi : i < 16) : bqBlock m e mu field / 2 ^ (16 + (1 + m) * i) % 2 ^ (1 + m) = field i % 2 ^ (1 + m) := by
  have h1 : bqBlock m e mu field / 2 ^ 16 = rankOf (1 + m) 16 field := by
    have h := bqBlock_low he mu
    unfold bqBlock
    rw [Nat.shiftLeft_eq, Nat.add_mul_div_right _ _ (Nat.two_pow_pos 16), Nat.div_eq_of_lt h, Nat.zero_add]
  rw [pow_add, ← Nat.div_div_eq_div_mul, h1]
  have h := elemOf_rankOf (1 + m) 16 field i
  rwa [elemOf, if_pos hi] at h

theorem bqBlock_lt : bqBlock m e mu field < 2 ^ (16 + 16 * (1 + m)) := by
  have h1 := bqBlock_low he mu
  have h2 := rankOf_lt (w := 1 + m) (n := 16) (by omega) field
  rw [pow_add, mul_comm 16, bqBlock, Nat.shiftLeft_eq]
  calc e + rankOf 1 8 mu * 256 + rankOf (1 + m) 16 field * 2 ^ 16 < 2 ^ 16 * (rankOf (1 + m) 16 field + 1) := by omega
    _ ≤ 2 ^ 16 * 2 ^ ((1 + m) * 16) := Nat.mul_le_mul_left _ h2

/-- An element of a block that is built from its fields. -/
theorem bqElem_block (h255 : e ≠ 255) {i : Nat} (hi : i < 16) (hf : field i < 2 ^ (1 + m)) (hmu : mu (i / 2) < 2) :
    bqElem m (bqBlock m e mu field) i = .fin (decide (2 ^ m ≤ field i)) (field i % 2 ^ m) ((e : Int) - 127 - mu (i / 2) - ((m : Int) - 1)) := by
  rw [bqElem_fields, bqBlock_exponent he, if_neg h255, bqBlock_field he mu field hi, bqBlock_mu he mu field (by omega), Nat.mod_eq_of_lt hf, Nat.mod_eq_of_lt hmu]

end

/-! ### The exponent of a block (R51) -/

theorem numRat_div_quantum (n : Bool) (m : Nat) (e q : Int) : numRat (.fin n m (e - q)) = numRat (.fin n m e) / (2 : ℚ) ^ q := by
  rw [numRat_fin, numRat_fin, zpow_sub₀ two_ne_zero, mul_div_assoc]

/-- Whether a number fits the magnitude bits at a quantum. -/
theorem bqFits_iff (rm m : Nat) (q : Int) {x : Num} (hx : numFinite x) : bqFits rm m q x = true ↔ |roundQ rm (numRat x / (2 : ℚ) ^ q)| ≤ 2 ^ m - 1 := by
  obtain ⟨n, mm, e, rfl⟩ := hx
  have hpos := Nat.two_pow_pos m
  unfold bqFits
  rw [decide_eq_true_eq, roundInt_fst, numRat_div_quantum, Int.abs_eq_natAbs]
  have hc : ((2 : Int) ^ m) = ((2 ^ m : Nat) : Int) := by push_cast; rfl
  rw [hc]
  omega

theorem bqSearch_spec (rm m : Nat) (xs : List Num) (k : Nat) (lo : Int) : ∃ j : Nat, bqSearch rm m xs k lo = lo + j ∧ j ≤ k + 1
    ∧ (∀ i < j, xs.all (bqFits rm m (lo + i - 127 - (m - 1))) = false) ∧ (j ≤ k → xs.all (bqFits rm m (lo + j - 127 - (m - 1))) = true) := by
  induction k generalizing lo with
  | zero =>
    unfold bqSearch
    cases h : xs.all (bqFits rm m (lo - 127 - (m - 1)))
    · refine ⟨1, rfl, le_rfl, fun i hi => ?_, fun hj => absurd hj (by decide)⟩
      obtain rfl : i = 0 := by omega
      simpa using h
    · exact ⟨0, by simp, by omega, fun i hi => absurd hi (by omega), fun _ => by simpa using h⟩
  | succ k ih =>
    unfold bqSearch
    cases h : xs.all (bqFits rm m (lo - 127 - (m - 1)))
    · obtain ⟨j, h1, h2, h3, h4⟩ := ih (lo + 1)
      refine ⟨j + 1, by rw [if_neg (by simp), h1]; push_cast; ring, by omega, fun i hi => ?_, fun hj => ?_⟩
      · rcases i with _ | i
        · simpa using h
        · have := h3 i (by omega)
          push_cast
          rwa [add_comm (i : Int) 1, ← add_assoc]
      · have := h4 (by omega)
        push_cast
        rwa [add_comm (j : Int) 1, ← add_assoc]
    · exact ⟨0, by simp, by omega, fun i hi => absurd hi (by omega), fun _ => by simpa using h⟩

/-! ### The encoding (R51) -/

section
variable (rm m : Nat) (xs : List Num)

/-- Whether all numbers fit at E = 0. -/
def bqBelow : Bool := xs.all (bqFits rm m (0 - 127 - (m - 1)))

/-- The exponent that the search finds, 255 where it finds none. -/
def bqIdeal : Int := if bqBelow rm m xs then 0 else bqSearch rm m xs 253 1

/-- The exponent of the block. -/
def bqExp : Int := if decide (bqIdeal rm m xs > 254) then 254 else bqIdeal rm m xs

/-- The exponent of its quantum. -/
def bqQuantum : Int := bqExp rm m xs - 127 - (m - 1)

/-- The micro-exponent of a pair. -/
def bqMuOf (j : Nat) : Nat :=
  b2n (bqFits rm m (bqQuantum rm m xs - 1) (xs.getD (2 * j) (.fin false 0 0)) && bqFits rm m (bqQuantum rm m xs - 1) (xs.getD (2 * j + 1) (.fin false 0 0)))

/-- The integer that stands for a number at a quantum. -/
def bqUnits (q : Int) (x : Num) : Int := roundQ rm (numRat x / (2 : ℚ) ^ q)

/-- The magnitude of an element, kept within its bits where the exponent is at its limit. -/
def bqMagnitude (sat : Bool) (v : Int) : Nat := if sat && decide (v.natAbs > 2 ^ m - 1) then 2 ^ m - 1 else v.natAbs

/-- The field of an element. -/
def bqFieldOf (i : Nat) : Nat :=
  b2n (xs.getD i (.fin false 0 0)).sign * 2 ^ m
    + bqMagnitude m (decide (bqIdeal rm m xs > 254)) (bqUnits rm (bqQuantum rm m xs - bqMuOf rm m xs (i / 2)) (xs.getD i (.fin false 0 0)))

variable {rm m xs}

/-- A number that is not finite makes E = 255. -/
theorem bqEncode_lost (fr : Bool) (h : ∃ x ∈ xs, ¬numFinite x) : ((bqEncode rm m fr xs).run 0).1 = 255 := by
  unfold bqEncode
  split
  · rfl
  · rename_i hc
    obtain ⟨x, hx, hn⟩ := h
    refine absurd (List.any_eq_true.mpr ⟨x, hx, ?_⟩) hc
    cases x with
    | nan s => rfl
    | inf n => rfl
    | fin n k e => exact absurd ⟨n, k, e, rfl⟩ hn

theorem numFinite_getD (h : ∀ x ∈ xs, numFinite x) (i : Nat) : numFinite (xs.getD i (.fin false 0 0)) := by
  rw [List.getD_eq_getElem?_getD]
  cases hx : xs[i]? with
  | none => exact ⟨_, _, _, rfl⟩
  | some y => exact h y (List.mem_of_getElem? hx)

theorem value_raise_ite {p : Prop} [Decidable p] (x y a : Nat) :
    Flagged.value (raiseFlags x >>= fun _ => if p then raiseFlags y >>= fun _ => pure a else pure a) = a := by
  split <;> rfl

/-- Finite numbers give a block, or their signs alone where all fit at E = 0 and are flushed. -/
theorem bqEncode_block (fr : Bool) (h : ∀ x ∈ xs, numFinite x) : ((bqEncode rm m fr xs).run 0).1 =
    if bqBelow rm m xs && fr then rankOf (1 + m) 16 (fun i => bqFieldOf rm m xs i / 2 ^ m * 2 ^ m) <<< 16
    else (bqExp rm m xs).toNat + rankOf 1 8 (bqMuOf rm m xs) * 256 + rankOf (1 + m) 16 (bqFieldOf rm m xs) <<< 16 := by
  unfold bqEncode
  split
  · rename_i hc
    obtain ⟨x, hx, hn⟩ := List.any_eq_true.mp hc
    obtain ⟨n, k, e, rfl⟩ := h x hx
    cases hn
  extract_lets below eid sat e qe mu elem es signs
  have helem : ∀ i, (elem i).1 = bqFieldOf rm m xs i := fun i => by
    obtain ⟨n, k, ex, hx⟩ := numFinite_getD h i
    have hv : (roundInt rm n k (ex - (qe - mu (i / 2)))).1 = bqUnits rm (qe - mu (i / 2)) (.fin n k ex) := by
      rw [roundInt_fst, numRat_div_quantum]
      rfl
    simp only [elem, bqFieldOf, hx, hv]
    change (if (sat && decide ((bqUnits rm (qe - mu (i / 2)) (.fin n k ex)).natAbs > 2 ^ m - 1)) = true then _ else _ : Nat × Nat × Bool).1
      = b2n n * 2 ^ m + bqMagnitude m sat (bqUnits rm (qe - mu (i / 2)) (.fin n k ex))
    unfold bqMagnitude
    split <;> rfl
  have hsigns : signs = rankOf (1 + m) 16 fun i => bqFieldOf rm m xs i / 2 ^ m * 2 ^ m := by
    rw [← packLe_eq_rankOf]
    simp only [signs, es, List.map_map, Function.comp_def, helem]
  have hfields : packLe (es.map fun x => (1 + m, x.1)) = rankOf (1 + m) 16 (bqFieldOf rm m xs) := by
    rw [← packLe_eq_rankOf]
    simp only [es, List.map_map, Function.comp_def, helem]
  have hmu : packLe ((List.range 8).map fun j => (1, mu j)) = rankOf 1 8 (bqMuOf rm m xs) := packLe_eq_rankOf 1 8 _
  rw [← hfields, ← hmu, ← hsigns]
  rw [show bqBelow rm m xs = below from rfl]
  split
  · split
    · exact (value_raise_bind _ fun _ => steady_raise_bind _ fun _ => steady_ite (p := (es.any fun x => x.2.2) = true)
        (steady_raise_bind _ fun _ => steady_pure _) (steady_pure _)).trans (value_raise_ite (p := (es.any fun x => x.2.2) = true) _ _ _)
    · exact value_raise_ite (p := (es.any fun x => x.2.2) = true) _ _ _
  · exact value_raise_ite (p := (below && es.any fun x => x.2.2) = true) _ _ _

end

end Sys2Proof.Machine
end

section
/-!
PROOF of O35. The block that VPACK makes is that of R51.
-/
namespace Sys2Proof.Machine
open Flagged

section
variable {rm m : Nat} {xs : List Num}

/-- Element `i` of the numbers of a block. -/
def bqInput (xs : List Num) (i : Nat) : Num := xs.getD i (.fin false 0 0)

theorem all_iff_getD (hlen : xs.length = 16) (p : Num → Bool) : xs.all p = true ↔ ∀ i < 16, p (bqInput xs i) = true := by
  rw [List.all_eq_true]
  constructor
  · intro h i hi
    refine h _ ?_
    rw [bqInput, List.getD_eq_getElem?_getD, List.getElem?_eq_getElem (by omega)]
    exact List.getElem_mem _
  · intro h x hx
    obtain ⟨i, hi, rfl⟩ := List.getElem_of_mem hx
    have := h i (by omega)
    rwa [bqInput, List.getD_eq_getElem?_getD, List.getElem?_eq_getElem hi] at this

/-- All numbers of a block fit at a quantum. -/
def BqAllFit (rm m : Nat) (xs : List Num) (q : Int) : Prop := ∀ i < 16, |bqUnits rm q (bqInput xs i)| ≤ 2 ^ m - 1

variable (hfin : ∀ x ∈ xs, numFinite x) (hlen : xs.length = 16)
include hfin hlen

theorem all_bqFits_iff (q : Int) : xs.all (bqFits rm m q) = true ↔ BqAllFit rm m xs q := by
  rw [all_iff_getD hlen]
  exact forall₂_congr fun i _ => bqFits_iff rm m q (numFinite_getD hfin i)

theorem bqBelow_iff : bqBelow rm m xs = true ↔ BqAllFit rm m xs (-127 - ((m : Int) - 1)) := by
  rw [← all_bqFits_iff hfin hlen, bqBelow, zero_sub]

/-- The exponent is the least at which all fit, or 254. -/
theorem bqExp_spec : ∃ e : Nat, bqExp rm m xs = e ∧ e ≤ 254 ∧ (∀ k < e, ¬BqAllFit rm m xs ((k : Int) - 127 - (m - 1)))
    ∧ (decide (bqIdeal rm m xs > 254) = false → BqAllFit rm m xs ((e : Int) - 127 - (m - 1))) ∧ (decide (bqIdeal rm m xs > 254) = true → e = 254)
    ∧ (bqBelow rm m xs = true → e = 0) := by
  have hnot : ∀ k : Int, xs.all (bqFits rm m (k - 127 - (m - 1))) = false → ¬BqAllFit rm m xs (k - 127 - (m - 1)) := fun k h hfit => by
    rw [(all_bqFits_iff hfin hlen _).mpr hfit] at h
    cases h
  unfold bqExp bqIdeal
  cases hb : bqBelow rm m xs
  · obtain ⟨j, hj, hle, hbefore, hat⟩ := bqSearch_spec rm m xs 253 1
    simp only [Bool.false_eq_true, if_false, hj]
    have hlow : ∀ k < j + 1, ¬BqAllFit rm m xs ((k : Int) - 127 - (m - 1)) := fun k hk => by
      rcases k with _ | k
      · exact hnot 0 hb
      · have := hnot (1 + k) (hbefore k (by omega))
        push_cast
        rwa [add_comm (k : Int)]
    by_cases hsat : j = 254
    · subst hsat
      refine ⟨254, by simp, le_rfl, fun k hk => hlow k (by omega), fun h => ?_, fun _ => rfl, fun h => ?_⟩
      · simp at h
      · exact absurd h (by simp)
    · have hns : ¬((1 : Int) + j > 254) := by omega
      rw [decide_eq_false hns]
      refine ⟨j + 1, by simp [add_comm], by omega, hlow, fun _ => ?_, fun h => ?_, fun h => ?_⟩
      · rw [← all_bqFits_iff hfin hlen]
        have := hat (by omega)
        push_cast
        rwa [add_comm (j : Int)]
      · simp at h
      · exact absurd h (by simp)
  · simp only [if_true]
    refine ⟨0, rfl, by decide, fun k hk => absurd hk (by omega), fun _ => ?_, fun h => ?_, fun _ => rfl⟩
    · have := (bqBelow_iff hfin hlen).mp hb
      simpa using this
    · simp at h

end

/-! ### The elements of the block -/

/-- The sign of a number as a factor. -/
def signFactor (n : Bool) : Int := if n then -1 else 1

theorem bqUnits_sign (rm : Nat) (q : Int) {x : Num} (hx : numFinite x) : bqUnits rm q x = signFactor x.sign * (bqUnits rm q x).natAbs := by
  obtain ⟨n, k, e, rfl⟩ := hx
  have hv : bqUnits rm q (.fin n k e) = (roundInt rm n k (e - q)).1 := by
    rw [roundInt_fst, numRat_div_quantum]
    rfl
  rw [hv]
  unfold roundInt signFactor Num.sign
  cases n <;> simp

/-- A magnitude kept within its bits, with its sign, is the integer kept within its limits. -/
theorem bqMagnitude_clamp {m : Nat} {sat n : Bool} {v : Int} (hv : v = signFactor n * v.natAbs) (h : sat = false → |v| ≤ 2 ^ m - 1) :
    signFactor n * (bqMagnitude m sat v : Int) = max (-(2 ^ m - 1)) (min (2 ^ m - 1) v) ∧ bqMagnitude m sat v < 2 ^ m := by
  have hpos := Nat.two_pow_pos m
  have hc : ((2 : Int) ^ m) = ((2 ^ m : Nat) : Int) := by push_cast; rfl
  rw [hc] at h ⊢
  rw [Int.abs_eq_natAbs] at h
  unfold bqMagnitude
  generalize 2 ^ m = t at *
  generalize v.natAbs = N at *
  subst hv
  unfold signFactor
  by_cases hbig : N > t - 1
  · have hs : sat = true := by
      cases sat
      · have := h rfl
        omega
      · rfl
    rw [hs, decide_eq_true hbig]
    cases n <;> simp only [Bool.and_self, if_true, Bool.false_eq_true, if_false] <;> omega
  · rw [decide_eq_false hbig, Bool.and_false]
    cases n <;> simp only [Bool.false_eq_true, if_false, if_true] <;> omega

section
variable {rm m : Nat} {xs : List Num} (hfin : ∀ x ∈ xs, numFinite x) (hlen : xs.length = 16)

theorem bqMuOf_lt (rm m : Nat) (xs : List Num) (j : Nat) : bqMuOf rm m xs j < 2 := by
  unfold bqMuOf
  generalize (_ && _) = c
  cases c <;> decide

include hfin

theorem bqMuOf_eq_one (j : Nat) : bqMuOf rm m xs j = 1 ↔ |bqUnits rm (bqQuantum rm m xs - 1) (bqInput xs (2 * j))| ≤ 2 ^ m - 1
    ∧ |bqUnits rm (bqQuantum rm m xs - 1) (bqInput xs (2 * j + 1))| ≤ 2 ^ m - 1 := by
  have h1 := bqFits_iff rm m (bqQuantum rm m xs - 1) (numFinite_getD hfin (2 * j))
  have h2 := bqFits_iff rm m (bqQuantum rm m xs - 1) (numFinite_getD hfin (2 * j + 1))
  unfold bqUnits bqInput
  rw [← h1, ← h2, ← Bool.and_eq_true]
  unfold bqMuOf
  generalize (_ && _) = c
  cases c <;> decide

include hlen

/-- Where the exponent is not at its limit every element fits at its quantum. -/
theorem bqUnits_fits (hsat : decide (bqIdeal rm m xs > 254) = false) {i : Nat} (hi : i < 16) :
    |bqUnits rm (bqQuantum rm m xs - bqMuOf rm m xs (i / 2)) (bqInput xs i)| ≤ 2 ^ m - 1 := by
  obtain ⟨e, he, -, -, hall, -, -⟩ := bqExp_spec (rm := rm) (m := m) hfin hlen
  rcases (by have := bqMuOf_lt rm m xs (i / 2); omega : bqMuOf rm m xs (i / 2) = 0 ∨ bqMuOf rm m xs (i / 2) = 1) with hmu | hmu
  · rw [hmu, bqQuantum, he, Nat.cast_zero, sub_zero]
    exact hall hsat i hi
  · obtain ⟨h1, h2⟩ := (bqMuOf_eq_one hfin _).mp hmu
    rw [hmu, Nat.cast_one]
    rcases Nat.mod_two_eq_zero_or_one i with h | h
    · rwa [show 2 * (i / 2) = i by omega] at h1
    · rwa [show 2 * (i / 2) + 1 = i by omega] at h2

/-- The magnitude of an element, kept within its bits. -/
theorem bqElem_clamp {i : Nat} (hi : i < 16) :
    signFactor (bqInput xs i).sign * (bqMagnitude m (decide (bqIdeal rm m xs > 254)) (bqUnits rm (bqQuantum rm m xs - bqMuOf rm m xs (i / 2)) (bqInput xs i)) : Int)
      = max (-(2 ^ m - 1)) (min (2 ^ m - 1) (bqUnits rm (bqQuantum rm m xs - bqMuOf rm m xs (i / 2)) (bqInput xs i)))
    ∧ bqMagnitude m (decide (bqIdeal rm m xs > 254)) (bqUnits rm (bqQuantum rm m xs - bqMuOf rm m xs (i / 2)) (bqInput xs i)) < 2 ^ m :=
  bqMagnitude_clamp (bqUnits_sign rm _ (numFinite_getD hfin i)) fun h => bqUnits_fits hfin hlen h hi

omit hfin hlen in
/-- A field of sign and magnitude. -/
theorem field_parts {m k : Nat} (hk : k < 2 ^ m) (n : Bool) : let field := b2n n * 2 ^ m + k
    field < 2 ^ (1 + m) ∧ decide (2 ^ m ≤ field) = n ∧ field % 2 ^ m = k ∧ field / 2 ^ m * 2 ^ m = b2n n * 2 ^ m := by
  intro field
  have hpow : 2 ^ (1 + m) = 2 * 2 ^ m := by rw [add_comm, pow_succ']
  have hdiv : field / 2 ^ m = b2n n := by
    rw [show field = k + 2 ^ m * b2n n by rw [mul_comm, add_comm], Nat.add_mul_div_left _ _ (Nat.two_pow_pos m), Nat.div_eq_of_lt hk, Nat.zero_add]
  have hmod : field % 2 ^ m = k := by
    rw [show field = k + 2 ^ m * b2n n by rw [mul_comm, add_comm], Nat.add_mul_mod_self_left, Nat.mod_eq_of_lt hk]
  refine ⟨?_, ?_, hmod, by rw [hdiv]⟩
  · rw [hpow]
    cases n <;> simp only [field, b2n, Bool.false_eq_true, if_false, if_true] <;> omega
  · cases n <;> simp only [field, b2n, Bool.false_eq_true, if_false, if_true, decide_eq_true_eq, decide_eq_false_iff_not] <;> omega

theorem bqFieldOf_parts {i : Nat} (hi : i < 16) : bqFieldOf rm m xs i < 2 ^ (1 + m) ∧ decide (2 ^ m ≤ bqFieldOf rm m xs i) = (bqInput xs i).sign
    ∧ bqFieldOf rm m xs i % 2 ^ m = bqMagnitude m (decide (bqIdeal rm m xs > 254)) (bqUnits rm (bqQuantum rm m xs - bqMuOf rm m xs (i / 2)) (bqInput xs i))
    ∧ bqFieldOf rm m xs i / 2 ^ m * 2 ^ m = b2n (bqInput xs i).sign * 2 ^ m := field_parts (bqElem_clamp hfin hlen hi).2 _

/-- The block of R51. -/
theorem isBlock_bqBlock : IsBlock rm m xs (bqBlock m (bqExp rm m xs).toNat (bqMuOf rm m xs) (bqFieldOf rm m xs)) := by
  obtain ⟨e, he, hle, hbefore, hall, hsat, -⟩ := bqExp_spec (rm := rm) (m := m) hfin hlen
  have hq : bqQuantum rm m xs = (e : Int) - 127 - (m - 1) := by rw [bqQuantum, he]
  have hsmall : e < 256 := by omega
  unfold IsBlock
  rw [he, Int.toNat_natCast, bqBlock_exponent hsmall]
  refine ⟨hle, hbefore, ?_, fun i hi => ?_⟩
  · cases h : decide (bqIdeal rm m xs > 254)
    · exact .inl (hall h)
    · exact .inr (hsat h)
  · have hmu2 := bqMuOf_lt rm m xs (i / 2)
    obtain ⟨hf, hsign, hmag, -⟩ := bqFieldOf_parts (rm := rm) (m := m) hfin hlen hi
    obtain ⟨hclamp, -⟩ := bqElem_clamp (rm := rm) (m := m) hfin hlen hi
    have hu : (2 : ℚ) ^ ((e : Int) - 127 - (m - 1)) / 2 ^ bqMuOf rm m xs (i / 2) = (2 : ℚ) ^ (bqQuantum rm m xs - bqMuOf rm m xs (i / 2)) := by
      rw [hq, ← zpow_natCast, ← zpow_sub₀ two_ne_zero]
    have hhalf : (2 : ℚ) ^ ((e : Int) - 127 - (m - 1)) / 2 = (2 : ℚ) ^ (bqQuantum rm m xs - 1) := by
      rw [hq, zpow_sub_one₀ two_ne_zero, div_eq_mul_inv]
    dsimp only
    rw [bqBlock_mu hsmall _ _ (by omega : i / 2 < 8), Nat.mod_eq_of_lt hmu2, bqElem_block hsmall _ _ (by omega) hi hf hmu2, hu, hhalf]
    refine ⟨?_, hsign, ?_⟩
    · rw [bqMuOf_eq_one hfin, mul_comm]
      rfl
    · have hexp : (e : Int) - 127 - bqMuOf rm m xs (i / 2) - ((m : Int) - 1) = bqQuantum rm m xs - bqMuOf rm m xs (i / 2) := by rw [hq]; ring
      rw [hsign, hmag, hexp, numRat_fin]
      congr 1
      have hc := congrArg (Int.cast : Int → ℚ) hclamp
      rw [← show ((signFactor (bqInput xs i).sign : Int) : ℚ) = if (bqInput xs i).sign then -1 else 1 by unfold signFactor; split <;> simp]
      push_cast at hc ⊢
      exact hc

/-- The elements of a flushed block keep their signs alone (R47). -/
theorem bqElem_flushed {i : Nat} (hi : i < 16) : bqElem m (rankOf (1 + m) 16 (fun i => bqFieldOf rm m xs i / 2 ^ m * 2 ^ m) <<< 16) i
    = .fin (bqInput xs i).sign 0 (-127 - ((m : Int) - 1)) := by
  obtain ⟨-, -, -, hsigns⟩ := bqFieldOf_parts (rm := rm) (m := m) hfin hlen hi
  have hblk : rankOf (1 + m) 16 (fun i => bqFieldOf rm m xs i / 2 ^ m * 2 ^ m) <<< 16
      = bqBlock m 0 (fun _ => 0) (fun i => bqFieldOf rm m xs i / 2 ^ m * 2 ^ m) := by
    unfold bqBlock
    rw [show rankOf 1 8 (fun _ => 0) = 0 from rfl]
    simp
  obtain ⟨hf, hsign, hmag, -⟩ := field_parts (Nat.two_pow_pos m) (bqInput xs i).sign
  rw [Nat.add_zero] at hf hsign hmag
  rw [hblk, bqElem_block (by decide) _ _ (by decide) hi (by rw [hsigns]; exact hf) (by decide), hsigns, hsign, hmag]
  simp

end

end Sys2Proof.Machine
end

section
/-!
PROOF of O35. VPACK, VUNPK and the whole statement.
-/
namespace Sys2Proof.Machine
open Flagged

section
variable {s : State} {f : VF}

/-- SCALE of a V syllable: 0 for a type that stands in the encoding (R60). -/
theorem State.view_scale (s : State) (f : VF) : (s.view f).1.scale = if f.ty = 15 then entryScale (s.tab.entry f.ty.toNat f.fs.toNat) else 0 := by
  change entryScale (if f.ty = 15 then s.tab.entry f.ty.toNat f.fs.toNat else 0) = _
  split <;> rfl

theorem State.packed_eq (s : State) (f : VF) : ((List.range 16).map fun i => if (s.view f).1.mask.getLsbD i
    then (f32.decode (s.tab.flush.getLsbD 4) (elemAt 32 i (s.srcA f))).scale (-(s.view f).1.scale) else .fin false 0 0) = s.packed f := by
  simp only [State.view_scale, elemAt_eq_elemOf]
  rfl

/-- The block that VPACK makes. -/
def State.packedBlock (s : State) (f : VF) (m : Nat) : Nat := ((bqEncode (s.vMode f) m (s.tab.flush.getLsbD 5) (s.packed f)).run 0).1

theorem State.packedBlock_lost {m : Nat} (h : ∃ x ∈ s.packed f, ¬numFinite x) : s.packedBlock f m = 255 := bqEncode_lost _ h

theorem State.packed_length (s : State) (f : VF) : (s.packed f).length = 16 := by
  unfold State.packed
  rw [List.length_map, List.length_range]

section
variable {m : Nat} (h : ∀ x ∈ s.packed f, numFinite x)
include h

theorem State.packedBlock_eq (hflush : ¬(s.tab.flush.getLsbD 5 = true ∧ BqAllFit (s.vMode f) m (s.packed f) (-127 - ((m : Int) - 1)))) :
    s.packedBlock f m = bqBlock m (bqExp (s.vMode f) m (s.packed f)).toNat (bqMuOf (s.vMode f) m (s.packed f)) (bqFieldOf (s.vMode f) m (s.packed f)) := by
  refine (bqEncode_block _ h).trans (if_neg fun hc => hflush ?_)
  obtain ⟨h1, h2⟩ := (Bool.and_eq_true _ _).mp hc
  exact ⟨h2, (bqBelow_iff h (s.packed_length f)).mp h1⟩

theorem State.packedBlock_flushed (hfr : s.tab.flush.getLsbD 5 = true) (hfit : BqAllFit (s.vMode f) m (s.packed f) (-127 - ((m : Int) - 1))) :
    s.packedBlock f m = rankOf (1 + m) 16 (fun i => bqFieldOf (s.vMode f) m (s.packed f) i / 2 ^ m * 2 ^ m) <<< 16 :=
  (bqEncode_block _ h).trans (if_pos (by rw [hfr, (bqBelow_iff h (s.packed_length f)).mpr hfit]; rfl))

end

theorem State.packedBlock_lt (s : State) (f : VF) (m : Nat) : s.packedBlock f m < 2 ^ (16 + 16 * (1 + m)) := by
  have h16 : 2 ^ 16 ≤ 2 ^ (16 + 16 * (1 + m)) := Nat.pow_le_pow_right two_pos (by omega)
  by_cases h : ∀ x ∈ s.packed f, numFinite x
  · by_cases hflush : s.tab.flush.getLsbD 5 = true ∧ BqAllFit (s.vMode f) m (s.packed f) (-127 - ((m : Int) - 1))
    · rw [State.packedBlock_flushed h hflush.1 hflush.2, Nat.shiftLeft_eq, add_comm 16, pow_add, mul_comm 16]
      exact Nat.mul_lt_mul_of_pos_right (rankOf_lt (by omega) _) (Nat.two_pow_pos 16)
    · obtain ⟨e, he, hle, -⟩ := bqExp_spec (rm := s.vMode f) (m := m) h (s.packed_length f)
      rw [State.packedBlock_eq h hflush]
      exact bqBlock_lt (by omega) _ _
  · push Not at h
    rw [State.packedBlock_lost h]
    omega

/-- A block in its place among those of a rank (R52). -/
theorem elemOf_putBlock {w p blocks : Nat} (x v k : Nat) (hk : k < blocks) (hv : v < 2 ^ w) :
    elemOf w k (putBits (x % 2 ^ (w * blocks)) (w * p) w v) = if k = p then v else elemOf w k x := by
  have h := elemOf_putBits w (x % 2 ^ (w * blocks)) p 1 v k
  rw [mul_one] at h
  rw [h, elemOf_mod_two_pow (Nat.mul_le_mul_left w hk)]
  by_cases hkp : k = p
  · rw [if_pos (by omega), if_pos hkp, hkp, Nat.sub_self, elemOf, mul_zero, pow_zero, Nat.div_one, Nat.mod_eq_of_lt hv]
  · rw [if_neg (by omega), if_neg hkp]

/-- VPACK and VUNPK of a type of `m` magnitude bits, `bytes` bytes a block and `blocks` blocks a rank. -/
structure BqType (ty m bytes blocks : Nat) : Prop where
  magnitude : bqM ty = m
  size : bqBytes ty = bytes
  count : bqBlocks ty = blocks
  width : 8 * bytes = 16 + 16 * (1 + m)
  fits : 8 * bytes * blocks ≤ 512

section
variable {m bytes blocks : Nat} (hty : BqType (s.vType f) m bytes blocks)
include hty

theorem State.vpack_gives (hp : f.imm.toNat % 8 < blocks) : s.GivesRank (.vpack f) f 5 fun r => r < 2 ^ (8 * bytes * blocks)
    ∧ ∀ k < blocks, elemOf (8 * bytes) k r = if k = f.imm.toNat % 8 then s.packedBlock f m else elemOf (8 * bytes) k (s.srcB f) := by
  have hblk : ((bqEncode (s.view f).1.rm (bqM (s.view f).1.ty) (s.tab.flush.getLsbD 5) ((List.range 16).map fun i => if (s.view f).1.mask.getLsbD i
      then (f32.decode (s.tab.flush.getLsbD 4) (elemAt 32 i (s.srcA f))).scale (-(s.view f).1.scale) else .fin false 0 0)).run 0).1 = s.packedBlock f m := by
    rw [State.packed_eq, State.view_rm, show bqM (s.view f).1.ty = m from hty.magnitude]
    rfl
  have hr : putBits (s.srcB f % 2 ^ (8 * bqBytes (s.view f).1.ty * bqBlocks (s.view f).1.ty)) (8 * bqBytes (s.view f).1.ty * (f.imm.toNat % 8)) (8 * bqBytes (s.view f).1.ty)
      ((bqEncode (s.view f).1.rm (bqM (s.view f).1.ty) (s.tab.flush.getLsbD 5) ((List.range 16).map fun i => if (s.view f).1.mask.getLsbD i
      then (f32.decode (s.tab.flush.getLsbD 4) (elemAt 32 i (s.srcA f))).scale (-(s.view f).1.scale) else .fin false 0 0)).run 0).1
      = putBits (s.srcB f % 2 ^ (8 * bytes * blocks)) (8 * bytes * (f.imm.toNat % 8)) (8 * bytes) (s.packedBlock f m) := by
    rw [hblk, show bqBytes (s.view f).1.ty = bytes from hty.size, show bqBlocks (s.view f).1.ty = blocks from hty.count]
  have hw := hty.width
  have hlt : putBits (s.srcB f % 2 ^ (8 * bytes * blocks)) (8 * bytes * (f.imm.toNat % 8)) (8 * bytes) (s.packedBlock f m) < 2 ^ (8 * bytes * blocks) :=
    putBits_lt _ (Nat.mod_lt _ (Nat.two_pow_pos _)) (Nat.mul_le_mul_left (8 * bytes) hp)
  refine .formAB rfl hr (hlt.trans_le (Nat.pow_le_pow_right two_pos hty.fits)) ⟨hlt, fun k hk => ?_⟩
  exact elemOf_putBlock _ _ _ hk (by rw [hw]; exact s.packedBlock_lt f m)

theorem State.vunpk_gives : s.GivesElemsOf (.vunpk f) f 32 5 fun i => (roundTo f32 (s.vMode f) (s.tab.flush.getLsbD 1)
    ((bqElem m (elemOf (8 * bytes) (f.imm.toNat % 8) (s.srcA f)) i).scale (if f.ty = 15 then entryScale (s.tab.entry f.ty.toNat f.fs.toNat) else 0)) : Int) := by
  let g := fun i => f32.round (s.view f).1.rm (s.tab.flush.getLsbD 1) ((bqElem (bqM (s.view f).1.ty)
    (bitsOf (s.srcA f) (8 * bqBytes (s.view f).1.ty * (f.imm.toNat % 8)) (8 * bqBytes (s.view f).1.ty)) i).scale (s.view f).1.scale)
  have hr := value_buildElems (w := 32) (f := fun i => if (s.view f).1.mask.getLsbD i then g i else pure 0) (fun i => steady_ite (steady_round _ _ _ _) (steady_pure _)) 16
  refine .of_vDone (g := fun i => Flagged.value (g i)) rfl (s.sliceStep_A f) (hr.trans (congrArg _ (funext fun i => ?_))) fun i _ => ?_
  · rw [apply_ite Flagged.value]
    rfl
  · have hb : bitsOf (s.srcA f) (8 * bytes * (f.imm.toNat % 8)) (8 * bytes) = elemOf (8 * bytes) (f.imm.toNat % 8) (s.srcA f) := bitsOf_eq _ _ _
    have hg : Flagged.value (g i) = roundTo f32 (s.vMode f) (s.tab.flush.getLsbD 1) ((bqElem m (elemOf (8 * bytes) (f.imm.toNat % 8) (s.srcA f)) i).scale
        (if f.ty = 15 then entryScale (s.tab.entry f.ty.toNat f.fs.toNat) else 0)) := by
      simp only [g]
      rw [State.view_rm, State.view_scale, show bqM (s.view f).1.ty = m from hty.magnitude, show bqBytes (s.view f).1.ty = bytes from hty.size, hb]
      rfl
    rw [hg]

end

end

theorem bqType_of_mem {s : State} {f : VF} {g : Nat × Nat × Nat × Nat} (hg : g ∈ ([(9, 7, 18, 3), (10, 4, 12, 5), (11, 2, 8, 8)] : List (Nat × Nat × Nat × Nat)))
    (h : s.vType f = g.1) : BqType (s.vType f) g.2.1 g.2.2.1 g.2.2.2 := by
  rw [h]
  simp only [List.mem_cons, List.not_mem_nil, or_false] at hg
  rcases hg with rfl | rfl | rfl <;> exact ⟨rfl, rfl, rfl, rfl, by decide⟩

/-- Settles O35. -/
theorem bitwiseAndMoves : Obligations.BitwiseAndMoves := by
  refine ⟨fun f s => ⟨State.opAnd_gives.givesElems rfl rfl, State.opOr_gives.givesElems rfl rfl, State.opXor_gives.givesElems rfl rfl, State.vnot_gives,
    State.vmov_gives, State.vsplat_gives, State.vrot_gives, State.vsel_gives, ⟨s.tab.cvt f, s.resolves f, s.vcvt_gives f⟩, fun g hg hty hp => ?_⟩,
    fun m _ blk i _ => bqElem_spec m blk i⟩
  have hbq := bqType_of_mem hg hty
  obtain ⟨ty, m, bytes, blocks⟩ := g
  refine ⟨(State.vpack_gives hbq hp).mono fun r ⟨hlt, hblocks⟩ => ⟨hlt, fun k hk hne => (hblocks k hk).trans (if_neg hne), ?_⟩, State.vunpk_gives hbq⟩
  have hblock : elemOf (8 * bytes) (f.imm.toNat % 8) r = s.packedBlock f m := (hblocks _ hp).trans (if_pos rfl)
  change (_ → elemOf (8 * bytes) (f.imm.toNat % 8) r = 255) ∧ (_ → _ → IsBlock _ m _ (elemOf (8 * bytes) (f.imm.toNat % 8) r))
    ∧ (_ → _ → _ → elemOf (8 * bytes) (f.imm.toNat % 8) r % 2 ^ 16 = 0 ∧ ∀ i < 16, bqElem m (elemOf (8 * bytes) (f.imm.toNat % 8) r) i = _)
  rw [hblock]
  refine ⟨State.packedBlock_lost, fun h hflush => ?_, fun h hfr hfit => ?_⟩
  · rw [State.packedBlock_eq h hflush]
    exact isBlock_bqBlock h (s.packed_length f)
  · rw [State.packedBlock_flushed h hfr hfit]
    exact ⟨by rw [Nat.shiftLeft_eq, Nat.mul_mod_left], fun i hi => bqElem_flushed h (s.packed_length f) hi⟩

end Sys2Proof.Machine
end

section
/-!
SUPPORT for O39 and O44. What a chain of steps gives, and the operations on moment pairs.
-/
namespace Sys2Proof

/-- A computation gives `a`, whatever flags stand. -/
def Flagged.Gives {α : Type} (c : Flagged α) (a : α) : Prop := ∀ fl, (c.run fl).1 = a

namespace Flagged
variable {α β : Type}

theorem Steady.gives {c : Flagged α} (h : Steady c) : c.Gives (value c) := h

theorem Gives.value {c : Flagged α} {a : α} (h : c.Gives a) : value c = a := h 0

theorem Gives.bind {c : Flagged α} {k : α → Flagged β} {a : α} {b : β} (h : c.Gives a) (hk : (k a).Gives b) : (c >>= k).Gives b := fun fl => by
  change ((k (c.run fl).1).run (c.run fl).2).1 = b
  rw [h fl, hk]

theorem gives_pure (a : α) : (pure a : Flagged α).Gives a := fun _ => rfl

theorem gives_raise (f : Nat) {k : Unit → Flagged α} {a : α} (h : (k ()).Gives a) : (raiseFlags f >>= k).Gives a := Gives.bind (fun _ => rfl) h

end Flagged

namespace Machine
open Flagged

theorem gives_round (l : Layout) (rm : Nat) (fr : Bool) (x : Num) : (l.round rm fr x).Gives (roundTo l rm fr x) := steady_round l rm fr x

theorem gives_add (rd : Bool) (a b : Num) : (numAdd rd a b).Gives (sumOf rd a b) := steady_numAdd rd a b
theorem gives_mul (a b : Num) : (numMul a b).Gives (prodOf a b) := steady_numMul a b
theorem gives_sqrt (a : Num) : (numSqrt a).Gives (rootOf a) := steady_numSqrt a
theorem gives_fma (rd : Bool) (a b c : Num) : (numFma rd a b c).Gives (sumOf rd (prodOf a b) c) := (gives_mul a b).bind (gives_add rd _ c)

/-! ### The steps of R57 -/

theorem gives_step {x : Flagged Num} {a : Num} (h : x.Gives a) : (step32 x).Gives (stepOf a) := h.bind ((gives_round f32 1 false a).bind (gives_pure _))

theorem gives_gAdd (a b : Num) : (gAdd a b).Gives (stepOf (sumOf false a b)) := gives_step (gives_add _ _ _)
theorem gives_gSub (a b : Num) : (gSub a b).Gives (stepOf (sumOf false a b.neg)) := gives_step (gives_add _ _ _)
theorem gives_gMul (a b : Num) : (gMul a b).Gives (stepOf (prodOf a b)) := gives_step (gives_mul _ _)
theorem gives_gFma (a b c : Num) : (gFma a b c).Gives (stepOf (sumOf false (prodOf a b) c)) := gives_step (gives_fma _ _ _ _)
theorem gives_gSqrt (a : Num) : (gSqrt a).Gives (stepOf (rootOf a)) := gives_step (gives_sqrt _)

theorem gives_gAlg {alg : Nat → Flagged Nat} (h : ∀ x, Steady (alg x)) (a : Num) : (gAlg alg a).Gives (algOf alg a) := Gives.bind (h _).gives (gives_pure _)

section
variable (g : GView)

/-- The last rounding of a half. -/
def GView.out (x : Num) : Nat := roundTo f32 g.rm g.fr x

theorem GView.gives_fin {x : Flagged Num} {a : Num} (h : x.Gives a) : (g.fin x).Gives (g.out a) := h.bind (gives_round _ _ _ _)
theorem GView.gives_add (a b : Num) : (g.add a b).Gives (g.out (sumOf (g.rm == 4) a b)) := g.gives_fin (Machine.gives_add _ _ _)
theorem GView.gives_mul (a b : Num) : (g.mul a b).Gives (g.out (prodOf a b)) := g.gives_fin (Machine.gives_mul _ _)
theorem GView.gives_fma (a b c : Num) : (g.fma a b c).Gives (g.out (sumOf (g.rm == 4) (prodOf a b) c)) := g.gives_fin (Machine.gives_fma _ _ _ _)

theorem GView.gives_cov (va vb : Num) : (g.cov va vb).Gives (covOf g.rho va vb) := by
  unfold GView.cov covOf
  split
  · exact gives_pure _
  · exact (gives_gMul _ _).bind ((gives_gSqrt _).bind (gives_pure _))

/-! ### The operations on a pair -/

variable (ua va ub vb k : Num)

theorem prodOf_one {x : Num} (hx : x.isNan = false) : prodOf gOne x = x := by
  cases x with
  | nan s => cases hx
  | inf n => cases n <;> rfl
  | fin n m e =>
    rw [gOne, prodOf_fin, Nat.one_mul, zero_add]
    cases n <;> rfl

theorem gives_gopAdd (h : ua.isNan = false) : (gopAdd g ua va ub vb k).Gives (g.out (sumOf (g.rm == 4) ua ub),
    g.out (sumOf (g.rm == 4) (stepOf (sumOf false va vb)) ((covOf g.rho va vb).scale 1))) := by
  have hm := g.gives_fma gOne ua ub
  rw [prodOf_one h] at hm
  exact (g.gives_cov va vb).bind (hm.bind ((gives_gAdd va vb).bind ((g.gives_add _ _).bind (gives_pure _))))

theorem gives_gopSub : (gopSub g ua va ub vb k).Gives (g.out (sumOf (g.rm == 4) ua ub.neg),
    g.out (sumOf (g.rm == 4) (stepOf (sumOf false va vb)) ((covOf g.rho va vb).scale 1).neg)) :=
  (g.gives_cov va vb).bind ((g.gives_add _ _).bind ((gives_gAdd va vb).bind ((g.gives_add _ _).bind (gives_pure _))))

theorem gives_gopScl : (gopScl g ua va ub vb k).Gives (g.out (prodOf k ua), g.out (prodOf (stepOf (prodOf k k)) va)) :=
  (g.gives_mul _ _).bind ((gives_gMul k k).bind ((g.gives_mul _ _).bind (gives_pure _)))

theorem gives_gopOfs : (gopOfs g ua va ub vb k).Gives (g.out (sumOf (g.rm == 4) ua k), roundTo f32 1 false va) := (g.gives_add _ _).bind (gives_pure _)

theorem gives_gopSqr : (gopSqr g ua va ub vb k).Gives (g.out (sumOf (g.rm == 4) (prodOf ua ua) va),
    g.out (sumOf (g.rm == 4) (prodOf (va.scale 1) va) ((stepOf (prodOf (stepOf (prodOf ua ua)) va)).scale 2))) :=
  (gives_gMul ua ua).bind ((gives_gMul _ va).bind ((g.gives_fma _ _ _).bind ((g.gives_fma _ _ _).bind (gives_pure _))))

theorem gives_gopExp : (gopExp g ua va ub vb k).Gives (g.out (algOf expAlg (stepOf (sumOf false ua (va.scale (-1))))),
    g.out (prodOf (stepOf (sumOf false (algOf expAlg va) gOne.neg)) (algOf expAlg (stepOf (sumOf false (ua.scale 1) va))))) :=
  (g.gives_fin ((gives_gAdd _ _).bind (gives_gAlg steady_expAlg _))).bind ((gives_gAlg steady_expAlg va).bind ((gives_gSub _ _).bind
    ((gives_gAdd _ _).bind ((gives_gAlg steady_expAlg _).bind ((g.gives_mul _ _).bind (gives_pure _))))))

theorem gives_gopSig : (gopSig g ua va ub vb k).Gives (
    let r := algOf rcpAlg (stepOf (rootOf (stepOf (sumOf false gOne (stepOf (prodOf va (rd32 0x3EC90FDB)))))))
    let sg := algOf sigAlg (stepOf (prodOf ua r))
    (g.out sg, g.out (prodOf (stepOf (prodOf sg (stepOf (sumOf false gOne sg.neg)))) (stepOf (sumOf false gOne r.neg))))) :=
  (gives_gMul _ _).bind ((gives_gAdd _ _).bind ((gives_gSqrt _).bind ((gives_gAlg steady_rcpAlg _).bind ((gives_gMul _ _).bind
    ((gives_gAlg steady_sigAlg _).bind ((gives_gSub _ _).bind ((gives_gMul _ _).bind ((gives_gSub _ _).bind
      ((g.gives_fin (gives_pure _)).bind ((g.gives_mul _ _).bind (gives_pure _)))))))))))

theorem gives_gopMul : (gopMul g ua va ub vb k).Gives (
    let add := fun a b => stepOf (sumOf false a b)
    let mul := fun a b => stepOf (prodOf a b)
    let c := covOf g.rho va vb
    (g.out (sumOf (g.rm == 4) (prodOf ua ub) c), g.out (sumOf (g.rm == 4)
      (add (add (mul (mul ua ua) vb) (mul (mul ub ub) va)) (mul (ua.scale 1) (mul ub c))) (add (mul va vb) (mul c c))))) :=
  (g.gives_cov va vb).bind ((g.gives_fma _ _ _).bind ((gives_gMul _ _).bind ((gives_gMul _ _).bind ((gives_gMul _ _).bind ((gives_gMul _ _).bind
    ((gives_gMul _ _).bind ((gives_gMul _ _).bind ((gives_gAdd _ _).bind ((gives_gAdd _ _).bind ((gives_gMul _ _).bind ((gives_gMul _ _).bind
      ((gives_gAdd _ _).bind ((g.gives_add _ _).bind (gives_pure _))))))))))))))

theorem gives_gopRelu : (gopRelu g ua va ub vb k).Gives (
    if va.isZero then (g.out (if ua.sign || ua.isZero then .fin false 0 0 else ua), 0)
    else
      let sg := stepOf (rootOf va)
      let a := stepOf (quotOf ua sg)
      let P := algOf capPhi a
      let D := algOf lowPhi a
      let mean := g.out (sumOf (g.rm == 4) (prodOf ua P) (stepOf (prodOf sg D)))
      let e := stepOf (sumOf false (prodOf (stepOf (sumOf false (prodOf ua ua) va)) P) (stepOf (prodOf (stepOf (prodOf ua sg)) D)))
      (mean, g.out (sumOf (g.rm == 4) e (stepOf (prodOf (rd32 mean) (rd32 mean))).neg))) := by
  unfold gopRelu
  split
  · exact (g.gives_fin (gives_pure _)).bind (gives_pure _)
  · refine (gives_gSqrt va).bind (Gives.bind (gives_step (a := quotOf ua (stepOf (rootOf va))) ?_) ?_)
    · cases ua with
      | nan s => exact gives_pure _
      | fin n m e => exact gives_pure _
      | inf n => 
        cases stepOf (rootOf va) with
        | nan s => exact gives_pure _
        | inf n => exact gives_raise _ (gives_pure _)
        | fin n m e => exact gives_pure _
    · exact (gives_gAlg steady_capPhi _).bind ((gives_gAlg steady_lowPhi _).bind ((gives_gMul _ _).bind ((g.gives_fma _ _ _).bind ((gives_gFma _ _ _).bind
        ((gives_gMul _ _).bind ((gives_gMul _ _).bind ((gives_gFma _ _ _).bind ((gives_gMul _ _).bind ((g.gives_add _ _).bind (gives_pure _))))))))))

end

end Machine
end Sys2Proof
end

section
/-!
PROOF of O39. Pairs as they are read and written, and the folds over the sixteen pairs of a register.
-/
namespace Sys2Proof.Machine
open Flagged

/-! ### Halves of a pair (R47, R53, R54) -/

theorem pairMean_eq (x j : Nat) : pairMean x j = elemOf 32 (2 * j) x := by
  rw [pairMean, bitsOf_eq, elemOf, show 32 * (2 * j) = 64 * j by ring]

theorem pairVar_eq (x j : Nat) : pairVar x j = elemOf 32 (2 * j + 1) x := by
  rw [pairVar, bitsOf_eq, elemOf, show 32 * (2 * j + 1) = 64 * j + 32 by ring]

theorem flushHalf_eq (b : Bool) (x : Nat) : flushHalf b x = flushed b x := by
  unfold flushHalf flushed
  rw [bitsOf_eq]
  refine if_congr ?_ rfl rfl
  rw [Bool.and_eq_true, beq_iff_eq]

theorem flushed_lt {b : Bool} {x : Nat} (h : x < 2 ^ 32) : flushed b x < 2 ^ 32 := by
  unfold flushed
  split <;> omega

/-- A variance below -0 is not -0. -/
theorem posZero_of_negVar {v : Nat} (h : negVar v = true) : posZero v = v := by
  unfold posZero
  refine if_neg fun hv => ?_
  subst hv
  revert h
  decide

theorem State.varOut_lt (s : State) {v : Nat} (h : v < 2 ^ 32) : s.varOut v < 2 ^ 32 := by
  unfold State.varOut
  split
  · decide
  · exact h

theorem State.varIn_lt (s : State) {v : Nat} (h : v < 2 ^ 32) : s.varIn v < 2 ^ 32 := by
  have := s.varOut_lt h
  unfold State.varIn posZero
  split
  · decide
  · exact this

section
variable {s u : State} (h : u.tab = s.tab)
include h

theorem State.variance_eq (v place cyc : Nat) : (u.variance v place cyc).1 = s.varIn v := by
  unfold State.variance State.varIn State.varOut State.clamp
  rw [h]
  cases hn : negVar v
  · rfl
  · cases s.tab.cov.getLsbD 2
    · exact (posZero_of_negVar hn).symm
    · rfl

theorem State.varianceOut_eq (v place cyc : Nat) : (u.varianceOut v place cyc).1 = s.varOut v := by
  unfold State.varianceOut State.varOut State.clamp
  rw [h]
  cases negVar v
  · rfl
  · cases s.tab.cov.getLsbD 2 <;> rfl

/-- A pair of a register's bits as a syllable computes from it. -/
def State.pairOf (s : State) (x j : Nat) : Num × Num :=
  (f32.decode (s.tab.flush.getLsbD 6) (elemOf 32 (2 * j) x), rd32 (s.varIn (flushed (s.tab.flush.getLsbD 6) (elemOf 32 (2 * j + 1) x))))

theorem State.readPair_eq (x j : Nat) : ((u.readPair x j).1, (u.readPair x j).2.1) = s.pairOf x j := by
  unfold State.readPair State.pairOf
  dsimp only
  rw [State.variance_eq h, h, pairMean_eq, flushHalf_eq, pairVar_eq]

end

/-! ### A fold over the pairs under a mask -/

/-- The value of a fold that puts together what each pair or lane gives. -/
theorem foldl_masked_parts {w : Nat} {mask : BitVec 128} {one : State → Nat → Nat × State} {part : Nat → Nat → Nat} {val : Nat → Nat} {Inv : State → Prop}
    (hone : ∀ u j, Inv u → part j (one u j).1 = val j ∧ Inv (one u j).2) (hval : ∀ j, val j < 2 ^ w) {t : State} (ht : Inv t) (n : Nat) :
    let r := (List.range n).foldl (fun (acc : Nat × State) j => if mask.getLsbD j then (acc.1 + part j (one acc.2 j).1 <<< (w * j), (one acc.2 j).2) else acc) (0, t)
    r.1 = rankOf w n (fun j => if mask.getLsbD j then val j else 0) ∧ Inv r.2 := by
  induction n with
  | zero => exact ⟨rfl, ht⟩
  | succ n ih =>
    obtain ⟨h1, h2⟩ := ih
    dsimp only
    rw [List.range_succ, List.foldl_append, List.foldl_cons, List.foldl_nil, rankOf_succ]
    split
    · obtain ⟨h3, h4⟩ := hone _ n h2
      exact ⟨by rw [h1, h3, Nat.mod_eq_of_lt (hval n)], h4⟩
    · refine ⟨?_, h2⟩
      rw [h1, Nat.zero_mod, Nat.zero_shiftLeft, Nat.add_zero]

theorem foldl_masked_value {w : Nat} {mask : BitVec 128} {one : State → Nat → Nat × State} {val : Nat → Nat} {Inv : State → Prop}
    (hone : ∀ u j, Inv u → (one u j).1 = val j ∧ Inv (one u j).2) (hval : ∀ j, val j < 2 ^ w) {t : State} (ht : Inv t) (n : Nat) :
    let r := (List.range n).foldl (fun (acc : Nat × State) j => if mask.getLsbD j then (acc.1 + (one acc.2 j).1 <<< (w * j), (one acc.2 j).2) else acc) (0, t)
    r.1 = rankOf w n (fun j => if mask.getLsbD j then val j else 0) ∧ Inv r.2 := foldl_masked_parts (part := fun _ p => p) hone hval ht n

/-! ### What a moment form gives -/

section
variable {s t : State} {i : Instr} {f : VF}

theorem State.GivesPairs.of_writeM {lat r : Nat} {val : Nat → Nat × Nat} (he : exec i s = .next (t.writeM f.dst.toNat (s.X + lat) r)) (h : s.SliceStep t [s.cur.s] [])
    (hr : r = rankOf 64 16 fun j => if (s.slice.mask f.mask.toNat).getLsbD j then (val j).1 + (val j).2 * 2 ^ 32 else 0)
    (hval : ∀ j, (val j).1 + (val j).2 * 2 ^ 32 < 2 ^ 64) : s.GivesPairs i f lat val := by
  refine ⟨BitVec.ofNat 1024 r, fun j hj => ?_, _, he, ?_⟩
  · rw [elemOf_toNat_ofNat (by omega : 64 * (j + 1) ≤ 1024), hr, elemOf_rankOf, if_pos hj, Nat.mod_eq_of_lt]
    split
    · exact hval j
    · decide
  · obtain ⟨os, hos, hall⟩ := (h.writeM f.dst.toNat (s.X + lat) r).owes
    obtain ⟨o, os', ho, hnil, rfl⟩ := List.forall₂_cons_left_iff.mp hall
    rw [List.forall₂_nil_left_iff] at hnil
    subst hnil
    exact ⟨o, hos, ho⟩

theorem pair_lt {a b : Nat} (ha : a < 2 ^ 32) (hb : b < 2 ^ 32) : a + b * 2 ^ 32 < 2 ^ 64 := by omega

/-- The two halves of a NaN pair (R53). -/
def canonPair : Nat × Nat := (0x7FC00000, 0x7FC00000)

/-- The result of a moment form on one pair. -/
def State.pairResult (s : State) (op : Num → Num → Num → Num → Num → Nat × Nat) (a b : Num × Num) (k : Num) : Nat × Nat :=
  if a.1.isNan || a.2.isNan || b.1.isNan || b.2.isNan then canonPair
  else ((op a.1 a.2 b.1 b.2 k).1, s.varOut (op a.1 a.2 b.1 b.2 k).2)

/-- What an operation of the model gives on pairs without a NaN. -/
structure State.PairOp (s : State) (f : VF) (op : GOp) (val : Num → Num → Num → Num → Num → Nat × Nat) : Prop where
  gives : ∀ ua va ub vb k, ua.isNan = false → (op (s.gview f) ua va ub vb k).Gives (val ua va ub vb k)
  mean_lt : ∀ ua va ub vb k, (val ua va ub vb k).1 < 2 ^ 32
  var_lt : ∀ ua va ub vb k, (val ua va ub vb k).2 < 2 ^ 32

theorem State.PairOp.pairResult_lt {op : GOp} {val : Num → Num → Num → Num → Num → Nat × Nat} (h : s.PairOp f op val) (a b : Num × Num) (k : Num) :
    (s.pairResult val a b k).1 + (s.pairResult val a b k).2 * 2 ^ 32 < 2 ^ 64 := by
  unfold State.pairResult
  split
  · decide
  · exact pair_lt (h.mean_lt _ _ _ _ _) (s.varOut_lt (h.var_lt _ _ _ _ _))

/-- What a moment form makes of the numbers of its pairs, with the state before it writes. -/
def State.gApply (s : State) (u : State) (f : VF) (lat : Nat) (op : GOp) (a b : Num × Num) (kn : Num) (j : Nat) (two : Bool) : Nat × State :=
  if [a.1, a.2, b.1, b.2].any Num.isNan then
    (nan32 + nan32 * 2 ^ 32, if [a.1, a.2, b.1, b.2].any Num.signals || (!two && kn.signals) then u.event flagIV 0 s.X else u)
  else
    let r := (op (s.gview f) a.1 a.2 b.1 b.2 kn).run 0
    let w := (u.event r.2 0 s.X).varianceOut r.1.2 j (s.X + lat)
    (r.1.1 + w.1 * 2 ^ 32, w.2)

theorem State.gApply_eq {u v : State} (hu : u.tab = s.tab) (hv : v.tab = s.tab) {op : GOp} {val : Num → Num → Num → Num → Num → Nat × Nat} (h : s.PairOp f op val)
    (lat : Nat) (a b : Num × Num) (kn : Num) (j : Nat) (two : Bool) :
    (v.gApply u f lat op a b kn j two).1 = (s.pairResult val a b kn).1 + (s.pairResult val a b kn).2 * 2 ^ 32 := by
  have hg : v.gview f = s.gview f := by unfold State.gview; rw [hv]
  have hany : [a.1, a.2, b.1, b.2].any Num.isNan = (a.1.isNan || a.2.isNan || b.1.isNan || b.2.isNan) := by
    simp [List.any, Bool.or_assoc]
  unfold State.gApply State.pairResult
  rw [hany, hg]
  cases hn : a.1.isNan || a.2.isNan || b.1.isNan || b.2.isNan
  · have ha : a.1.isNan = false := by
      simp only [Bool.or_eq_false_iff] at hn
      exact hn.1.1.1
    simp only [Bool.false_eq_true, if_false]
    rw [h.gives _ _ _ _ _ ha, State.varianceOut_eq]
    exact ((State.SliceStep.refl u []).event _ _ _).tab.trans hu
  · rfl

theorem State.gPair_one (u : State) (f : VF) (lat : Nat) (op : GOp) (a b k j : Nat) : u.gPair f lat op a b k j false
    = u.gApply (u.readPair a j).2.2 f lat op ((u.readPair a j).1, (u.readPair a j).2.1) (.fin false 0 0, .fin false 0 0) (f32.decode (u.tab.flush.getLsbD 0) k) j false := rfl

theorem State.gPair_two (u : State) (f : VF) (lat : Nat) (op : GOp) (a b k j : Nat) : u.gPair f lat op a b k j true
    = u.gApply ((u.readPair a j).2.2.readPair b j).2.2 f lat op ((u.readPair a j).1, (u.readPair a j).2.1)
      (((u.readPair a j).2.2.readPair b j).1, ((u.readPair a j).2.2.readPair b j).2.1) (f32.decode (u.tab.flush.getLsbD 0) k) j true := rfl

/-- One pair of a moment form. -/
theorem State.gPair_eq {u : State} (hu : u.tab = s.tab) {op : GOp} {val : Num → Num → Num → Num → Num → Nat × Nat} (h : s.PairOp f op val)
    (lat a b k j : Nat) (two : Bool) : (u.gPair f lat op a b k j two).1
      = (s.pairResult val (s.pairOf a j) (if two then s.pairOf b j else (.fin false 0 0, .fin false 0 0)) (f32.decode (s.tab.flush.getLsbD 0) k)).1
        + (s.pairResult val (s.pairOf a j) (if two then s.pairOf b j else (.fin false 0 0, .fin false 0 0)) (f32.decode (s.tab.flush.getLsbD 0) k)).2 * 2 ^ 32 := by
  have h1 : (u.readPair a j).2.2.tab = s.tab := ((State.SliceStep.refl u []).readPair a j).tab.trans hu
  have h2 : ((u.readPair a j).2.2.readPair b j).2.2.tab = s.tab := ((State.SliceStep.refl _ []).readPair b j).tab.trans h1
  rw [← State.readPair_eq hu a j, ← State.readPair_eq h1 b j, ← hu]
  cases two
  · rw [State.gPair_one, State.gApply_eq h1 hu h]
    rfl
  · rw [State.gPair_two, State.gApply_eq h2 hu h]
    rfl

end

end Sys2Proof.Machine
end

section
/-!
PROOF of O39. The moment forms, GCOL, GMAKE and VMOV of a moment register.
-/
namespace Sys2Proof.Machine
open Flagged

section
variable {s : State} {f : VF}

theorem State.useMask_readsAs (s : State) (f : VF) : s.ReadsAs (s.useMask f).2 := s.view_readsAs f

theorem State.ReadsAs.useM {s t : State} (h : s.ReadsAs t) (c : Nat) : s.ReadsAs (t.useM c).2 := h.trans (t.sample_readsAs _ _)

theorem State.ReadsAs.mreg {s t : State} (h : s.ReadsAs t) (n : Nat) : t.mreg n = s.mreg n := by
  have hm : t.slice.m = s.slice.m := congrArg (fun sl => sl.m) h.slice
  unfold State.mreg
  rw [hm]

/-- The second source of a moment form, with the state after it. -/
def State.gSource (s : State) (f : VF) (two scal : Bool) : Nat × State :=
  if two then ((s.useMask f).2.useM f.a.toNat).2.useM f.b.toNat
  else if scal then ((s.useMask f).2.useM f.a.toNat).2.vB f else (0, ((s.useMask f).2.useM f.a.toNat).2)

theorem State.gSource_step (s : State) (f : VF) (two scal : Bool) : s.SliceStep (s.gSource f two scal).2 [s.cur.s] [] := by
  have h1 := ((State.SliceStep.refl s [s.cur.s]).useMask f).useM f.a.toNat
  unfold State.gSource
  split
  · exact h1.useM _
  · exact h1.vBWhen List.mem_cons_self _ f

theorem State.gSource_pairs (scal : Bool) : (s.gSource f true scal).1 = s.mreg (f.b.toNat - 0x30) :=
  ((s.useMask_readsAs f).useM f.a.toNat).mreg _

theorem State.gSource_scalars : (s.gSource f false true).1 = ((s.view f).2.vB f).1 := by
  have h := ((s.view f).2.sample_readsAs (.reg (s.view f).2.cur.s f.a.toNat 0) (s.view f).2.X).vB f
  exact h.1

/-- The sixteen pairs of a moment form, with the state after them. -/
def State.gRun (s : State) (f : VF) (lat : Nat) (two scal : Bool) (op : GOp) : Nat × State :=
  gAll (s.useMask f).1 (fun st j => st.gPair f lat op ((s.useMask f).2.useM f.a.toNat).1 (s.gSource f two scal).1
    (elemAt 32 j (s.gSource f two scal).1) j two) (s.gSource f two scal).2

theorem State.gForm_eq (s : State) (f : VF) (lat : Nat) (two scal : Bool) (op : GOp) : s.gForm f lat two scal op
    = ((s.gRun f lat two scal op).2.event 0 (nfPairs 16 (s.gRun f lat two scal op).1 (s.useMask f).1) s.X).writeM f.dst.toNat (s.X + lat)
      (s.gRun f lat two scal op).1 := by
  unfold State.gForm State.gRun State.gSource
  dsimp only

/-- A moment form by its operation: one without a rank of scalars does not use them. -/
theorem State.gForm_gives {i : Instr} {lat : Nat} {two scal : Bool} {op : GOp} {val : Num → Num → Num → Num → Num → Nat × Nat}
    (he : exec i s = .next (s.gForm f lat two scal op)) (h : s.PairOp f op val)
    (hk : scal = true ∧ two = false ∨ ∀ ua va ub vb k k', val ua va ub vb k = val ua va ub vb k') :
    s.GivesPairs i f lat fun j => s.pairResult val (s.pairIn f.a.toNat j) (if two then s.pairIn f.b.toNat j else (.fin false 0 0, .fin false 0 0))
      (f32.decode (s.tab.flush.getLsbD 0) (elemOf 32 j ((s.view f).2.vB f).1)) := by
  let a := ((s.useMask f).2.useM f.a.toNat).1
  let b := (s.gSource f two scal).1
  let res := fun j => s.pairResult val (s.pairOf a j) (if two then s.pairOf b j else (.fin false 0 0, .fin false 0 0))
    (f32.decode (s.tab.flush.getLsbD 0) (elemAt 32 j b))
  have ha : a = s.mreg (f.a.toNat - 0x30) := (s.useMask_readsAs f).mreg _
  have hres : res = fun j => s.pairResult val (s.pairIn f.a.toNat j) (if two then s.pairIn f.b.toNat j else (.fin false 0 0, .fin false 0 0))
      (f32.decode (s.tab.flush.getLsbD 0) (elemOf 32 j ((s.view f).2.vB f).1)) := by
    funext j
    have hb : (if two then s.pairOf b j else (.fin false 0 0, .fin false 0 0)) = if two then s.pairIn f.b.toNat j else (.fin false 0 0, .fin false 0 0) := by
      cases two
      · rfl
      · rw [if_pos rfl, if_pos rfl, show b = s.mreg (f.b.toNat - 0x30) from State.gSource_pairs scal]
        rfl
    rcases hk with ⟨rfl, rfl⟩ | hk
    · simp only [res]
      rw [ha, show b = ((s.view f).2.vB f).1 from State.gSource_scalars, elemAt_eq_elemOf]
      rfl
    · simp only [res, hb, ha, State.pairResult, hk _ _ _ _ (f32.decode (s.tab.flush.getLsbD 0) (elemAt 32 j b)) (f32.decode (s.tab.flush.getLsbD 0) (elemOf 32 j ((s.view f).2.vB f).1))]
      rfl
  rw [← hres]
  obtain ⟨hval, hstep⟩ := foldl_masked_value (w := 64) (mask := s.slice.mask f.mask.toNat) (Inv := fun u => s.SliceStep u [s.cur.s] [])
    (one := fun st j => st.gPair f lat op a b (elemAt 32 j b) j two) (val := fun j => (res j).1 + (res j).2 * 2 ^ 32)
    (fun u j hu => ⟨State.gPair_eq hu.tab h _ _ _ _ _ _, hu.gPair _ _ _ _ _ _ _ _⟩) (fun j => h.pairResult_lt _ _ _) (s.gSource_step f two scal) 16
  rw [State.gForm_eq] at he
  exact .of_writeM he (State.SliceStep.event hstep _ _ _) hval fun j => h.pairResult_lt _ _ _

/-! ### The operations (R57) -/

theorem State.rho_eq (s : State) : (if s.tab.cov.toNat % 4 = 1 then (1 : Int) else if s.tab.cov.toNat % 4 = 2 then -1 else 0) = s.rho := by
  unfold State.rho
  rcases (by omega : s.tab.cov.toNat % 4 = 0 ∨ s.tab.cov.toNat % 4 = 1 ∨ s.tab.cov.toNat % 4 = 2 ∨ s.tab.cov.toNat % 4 = 3) with h | h | h | h <;> rw [h] <;> rfl

theorem State.gview_rho (s : State) (f : VF) : (s.gview f).rho = s.rho := s.rho_eq

theorem modeInForce_plain (rm : BitVec 3) (m : BitVec 2) : modeInForce rm.toNat 0 m = if rm ≠ 0 then rm.toNat else m.toNat + 1 := by
  by_cases h : rm = 0
  · rw [h]
    rfl
  · rw [modeInForce_of_ne h, if_pos h]

theorem State.gview_rm (s : State) (f : VF) : (s.gview f).rm = if f.rm ≠ 0 then f.rm.toNat else s.tab.rmode.toNat + 1 := modeInForce_plain _ _

/-- A moment form is its operation on the pairs of its sources. -/
def State.IsMomentForm (s : State) (f : VF) (g : Instr × Nat × Bool × (Num → Num → Num → Num → Num → Nat × Nat)) : Prop :=
  ∃ op scal, exec g.1 s = .next (s.gForm f g.2.1 g.2.2.1 scal op) ∧ s.PairOp f op g.2.2.2
    ∧ (scal = true ∧ g.2.2.1 = false ∨ ∀ ua va ub vb k k', g.2.2.2 ua va ub vb k = g.2.2.2 ua va ub vb k')

theorem State.PairOp.intro {op : GOp} {val : Num → Num → Num → Num → Num → Nat × Nat}
    (h : ∀ ua va ub vb k, ua.isNan = false → (op (s.gview f) ua va ub vb k).Gives (val ua va ub vb k))
    (hlt : ∀ ua va ub vb k, (val ua va ub vb k).1 < 2 ^ 32 ∧ (val ua va ub vb k).2 < 2 ^ 32) : s.PairOp f op val :=
  ⟨h, fun _ _ _ _ _ => (hlt _ _ _ _ _).1, fun _ _ _ _ _ => (hlt _ _ _ _ _).2⟩

theorem State.momentForms_ops (s : State) (f : VF) : ∀ g ∈ s.momentForms f, s.IsMomentForm f g := by
  have h1 := s.gview_rho f
  have h2 := s.gview_rm f
  have hlt : ∀ rm fr x y, roundTo f32 rm fr x < 2 ^ 32 ∧ roundTo f32 rm fr y < 2 ^ 32 := fun rm fr x y => ⟨roundTo_f32_lt _ _ _, roundTo_f32_lt _ _ _⟩
  simp only [State.momentForms, List.forall_mem_cons]
  rw [← h1, ← h2]
  refine ⟨⟨gopAdd, false, rfl, .intro (fun _ _ _ _ _ h => gives_gopAdd _ _ _ _ _ _ h) fun _ _ _ _ _ => hlt _ _ _ _, .inr fun _ _ _ _ _ _ => rfl⟩,
    ⟨gopSub, false, rfl, .intro (fun _ _ _ _ _ _ => gives_gopSub _ _ _ _ _ _) fun _ _ _ _ _ => hlt _ _ _ _, .inr fun _ _ _ _ _ _ => rfl⟩,
    ⟨gopMul, false, rfl, .intro (fun _ _ _ _ _ _ => gives_gopMul _ _ _ _ _ _) fun _ _ _ _ _ => hlt _ _ _ _, .inr fun _ _ _ _ _ _ => rfl⟩,
    ⟨gopScl, true, rfl, .intro (fun _ _ _ _ _ _ => gives_gopScl _ _ _ _ _ _) fun _ _ _ _ _ => hlt _ _ _ _, .inl ⟨rfl, rfl⟩⟩,
    ⟨gopOfs, true, rfl, .intro (fun _ _ _ _ _ _ => gives_gopOfs _ _ _ _ _ _) fun _ _ _ _ _ => ⟨roundTo_f32_lt _ _ _, roundTo_f32_lt _ _ _⟩, .inl ⟨rfl, rfl⟩⟩,
    ⟨gopSqr, false, rfl, .intro (fun _ _ _ _ _ _ => gives_gopSqr _ _ _ _ _ _) fun _ _ _ _ _ => hlt _ _ _ _, .inr fun _ _ _ _ _ _ => rfl⟩,
    ⟨gopExp, false, rfl, .intro (fun _ _ _ _ _ _ => gives_gopExp _ _ _ _ _ _) fun _ _ _ _ _ => hlt _ _ _ _, .inr fun _ _ _ _ _ _ => rfl⟩,
    ⟨gopSig, false, rfl, .intro (fun _ _ _ _ _ _ => gives_gopSig _ _ _ _ _ _) fun _ _ _ _ _ => hlt _ _ _ _, .inr fun _ _ _ _ _ _ => rfl⟩,
    ⟨gopRelu, false, rfl, .intro (fun _ _ _ _ _ _ => gives_gopRelu _ _ _ _ _ _) fun _ v _ _ _ => ?_, .inr fun _ _ _ _ _ _ => rfl⟩,
    fun _ h => (List.not_mem_nil h).elim⟩
  dsimp only
  split
  · exact ⟨roundTo_f32_lt _ _ _, Nat.two_pow_pos 32⟩
  · exact hlt _ _ _ _

/-! ### GCOL (R223) -/

/-- Lane `j` of GCOL, where the pair has no NaN. -/
def State.colOf (s : State) (f : VF) (p : Num × Num) (z : Num) : Nat :=
  let rm := if f.rm ≠ 0 then f.rm.toNat else s.tab.rmode.toNat + 1
  match f.imm.toNat with
  | 0 => roundTo f32 1 false p.1
  | 1 => roundTo f32 1 false p.2
  | 2 => roundTo f32 rm (s.tab.flush.getLsbD 1) (rootOf p.2)
  | _ => roundTo f32 rm (s.tab.flush.getLsbD 1) (sumOf (rm == 4) (prodOf z (stepOf (rootOf p.2))) p.1)

/-- Lane `j` of GCOL. -/
def State.colLane (s : State) (f : VF) (p : Num × Num) (z : Num) : Nat := if p.1.isNan || p.2.isNan then 0x7FC00000 else s.colOf f p z

theorem State.colLane_lt (s : State) (f : VF) (p : Num × Num) (z : Num) : s.colLane f p z < 2 ^ 32 := by
  unfold State.colLane State.colOf
  split
  · exact Nat.lt_of_lt_of_le (by decide : 0x7FC00000 < 0x80000000) (by norm_num)
  · dsimp only
    rcases f.imm.toNat with _ | _ | _ | n <;> exact roundTo_f32_lt _ _ _

/-- The computation of a lane. -/
def colStep (sel rm : Nat) (fr : Bool) (u v zn : Num) : Flagged Nat :=
  match sel with
  | 0 => rne32 u
  | 1 => rne32 v
  | 2 => numSqrt v >>= fun r => f32.round rm fr r
  | _ => gSqrt v >>= fun r => numFma (rm == 4) zn r u >>= fun x => f32.round rm fr x

theorem gives_colStep (s : State) (f : VF) (u v zn : Num) :
    (colStep f.imm.toNat (modeInForce f.rm.toNat 0 s.tab.rmode) (s.tab.flush.getLsbD 1) u v zn).Gives (s.colOf f (u, v) zn) := by
  unfold colStep State.colOf
  rw [modeInForce_plain]
  dsimp only
  rcases f.imm.toNat with _ | _ | _ | n
  · exact gives_round _ _ _ _
  · exact gives_round _ _ _ _
  · exact (gives_sqrt _).bind (gives_round _ _ _ _)
  · exact (gives_gSqrt _).bind ((gives_fma _ _ _ _).bind (gives_round _ _ _ _))

theorem State.gcolLane_eq {u : State} (hu : u.tab = s.tab) (a z j : Nat) :
    (u.gcolLane f a z j).1 = s.colLane f (s.pairOf a j) (f32.decode (s.tab.flush.getLsbD 0) (elemOf 32 j z)) := by
  have hlane : (u.gcolLane f a z j).1 = if (u.readPair a j).1.isNan || (u.readPair a j).2.1.isNan then nan32
      else ((colStep f.imm.toNat (modeInForce f.rm.toNat 0 u.tab.rmode) (u.tab.flush.getLsbD 1) (u.readPair a j).1 (u.readPair a j).2.1
        (f32.decode (u.tab.flush.getLsbD 0) (elemAt 32 j z))).run 0).1 := by
    unfold State.gcolLane colStep
    dsimp only
    split
    · rfl
    · rcases f.imm.toNat with _ | _ | _ | n <;> rfl
  rw [hlane, hu, gives_colStep s f, State.colLane, ← State.readPair_eq hu, elemAt_eq_elemOf]
  rfl

/-- The lanes of GCOL as they stand in its rank. -/
def State.colRank (s : State) (f : VF) : Nat := rankOf 32 16 fun j => if (s.slice.mask f.mask.toNat).getLsbD j
  then s.colLane f (s.pairIn f.a.toNat j) (f32.decode (s.tab.flush.getLsbD 0) (elemOf 32 j ((s.view f).2.vB f).1)) else 0

/-- Source B of GCOL where it has one, with the state after it. -/
def State.colSource (s : State) (f : VF) : Nat × State :=
  if f.imm = 3 then ((s.useMask f).2.useM f.a.toNat).2.vB f else (0, ((s.useMask f).2.useM f.a.toNat).2)

/-- The sixteen lanes of GCOL, with the state after them. -/
def State.colRun (s : State) (f : VF) : Nat × State :=
  (List.range 16).foldl (fun (acc : Nat × State) j => if (s.useMask f).1.getLsbD j
    then (acc.1 + (acc.2.gcolLane f ((s.useMask f).2.useM f.a.toNat).1 (s.colSource f).1 j).1 <<< (32 * j),
      (acc.2.gcolLane f ((s.useMask f).2.useM f.a.toNat).1 (s.colSource f).1 j).2) else acc) (0, (s.colSource f).2)

theorem exec_gcol (s : State) (f : VF) : ∃ nf, exec (.gcol f) s = .next ((s.colRun f).2.vDone f.dst 4 ((s.colRun f).1, 0) nf) := by
  have he : exec (.gcol f) s = execGcol f s := rfl
  unfold execGcol at he
  dsimp only at he
  exact ⟨_, he⟩

theorem State.gcol_gives (himm : f.imm.toNat ≤ 3) : Runs (.gcol f) s fun t => s.OwesRank t f.dst.toNat (s.cur.X + 3) (BitVec.ofNat 512 (s.colRank f)) := by
  let a := ((s.useMask f).2.useM f.a.toNat).1
  have ha : a = s.mreg (f.a.toNat - 0x30) := (s.useMask_readsAs f).mreg _
  have hsrc : s.SliceStep (s.colSource f).2 [s.cur.s] [] :=
    (((State.SliceStep.refl s [s.cur.s]).useMask f).useM f.a.toNat).vBWhen List.mem_cons_self (f.imm = 3) f
  obtain ⟨hval, hstep⟩ := foldl_masked_value (w := 32) (mask := (s.useMask f).1) (Inv := fun u => s.SliceStep u [s.cur.s] [])
    (one := fun st j => st.gcolLane f a (s.colSource f).1 j) (val := fun j => s.colLane f (s.pairOf a j) (f32.decode (s.tab.flush.getLsbD 0) (elemOf 32 j (s.colSource f).1)))
    (fun u j hu => ⟨State.gcolLane_eq hu.tab _ _ _, hu.gcolLane _ _ _ _⟩) (fun j => s.colLane_lt f _ _) hsrc 16
  have hrank : (s.colRun f).1 = s.colRank f := by
    refine Eq.trans hval ?_
    unfold State.colRank
    congr 1
    funext j
    by_cases h3 : f.imm = 3
    · have hz : (s.colSource f).1 = ((s.view f).2.vB f).1 := by
        rw [State.colSource, if_pos h3]
        exact State.gSource_scalars
      rw [ha, hz]
      rfl
    · have hlane : ∀ p z z', s.colLane f p z = s.colLane f p z' := fun p z z' => by
        have : f.imm.toNat ≠ 3 := fun h => h3 (BitVec.eq_of_toNat_eq h)
        unfold State.colLane State.colOf
        rcases (by omega : f.imm.toNat = 0 ∨ f.imm.toNat = 1 ∨ f.imm.toNat = 2) with h | h | h <;> rw [h] <;> rfl
      rw [ha, hlane _ _ (f32.decode (s.tab.flush.getLsbD 0) (elemOf 32 j ((s.view f).2.vB f).1))]
      rfl
  obtain ⟨nf, he⟩ := exec_gcol s f
  have h := State.runs_vDone he hstep
  rwa [hrank] at h

/-! ### GMAKE and VMOV of a moment register (R174, R224) -/

/-- What GMAKE makes of two lanes. -/
def State.makeOf (s : State) (a b : Nat) : Nat × Nat :=
  let u := flushed (s.tab.flush.getLsbD 0) a
  let v := flushed (s.tab.flush.getLsbD 0) b
  if isNan32 u || isNan32 v then canonPair else (u, s.varIn v)

theorem State.makeOf_lt (s : State) {a b : Nat} (ha : a < 2 ^ 32) (hb : b < 2 ^ 32) : (s.makeOf a b).1 + (s.makeOf a b).2 * 2 ^ 32 < 2 ^ 64 := by
  unfold State.makeOf
  dsimp only
  split
  · decide
  · exact pair_lt (flushed_lt ha) (s.varIn_lt (flushed_lt hb))

theorem State.gmakePair_eq {u : State} (hu : u.tab = s.tab) (a b j : Nat) : (u.gmakePair a b j).1
    = (s.makeOf (elemOf 32 j a) (elemOf 32 j b)).1 + (s.makeOf (elemOf 32 j a) (elemOf 32 j b)).2 * 2 ^ 32 := by
  unfold State.gmakePair State.makeOf isNan32
  dsimp only
  rw [State.varianceOut_eq hu, hu]
  simp only [flushHalf_eq, elemAt_eq_elemOf]
  split
  · rfl
  · rfl

theorem exec_gmake (s : State) (f : VF) : ∃ nf, exec (.gmake f) s = .next
    (((gAll (s.useMask f).1 (fun st j => st.gmakePair ((s.useMask f).2.vA f).1 (((s.useMask f).2.vA f).2.vB f).1 j) (((s.useMask f).2.vA f).2.vB f).2).2.event 0 nf s.X).writeM
      f.dst.toNat (s.X + 4)
      (gAll (s.useMask f).1 (fun st j => st.gmakePair ((s.useMask f).2.vA f).1 (((s.useMask f).2.vA f).2.vB f).1 j) (((s.useMask f).2.vA f).2.vB f).2).1) := by
  have he : exec (.gmake f) s = execGmake f s := rfl
  unfold execGmake at he
  dsimp only at he
  exact ⟨_, he⟩

theorem State.gmake_gives (s : State) (f : VF) : s.GivesPairs (.gmake f) f 4 fun j => s.makeOf (elemOf 32 j (s.srcA f)) (elemOf 32 j (s.srcB f)) := by
  obtain ⟨hval, hstep⟩ := foldl_masked_value (w := 64) (mask := (s.useMask f).1) (Inv := fun u => s.SliceStep u [s.cur.s] [])
    (one := fun st j => st.gmakePair ((s.useMask f).2.vA f).1 (((s.useMask f).2.vA f).2.vB f).1 j)
    (val := fun j => (s.makeOf (elemOf 32 j (s.srcA f)) (elemOf 32 j (s.srcB f))).1 + (s.makeOf (elemOf 32 j (s.srcA f)) (elemOf 32 j (s.srcB f))).2 * 2 ^ 32)
    (fun u j hu => ⟨State.gmakePair_eq hu.tab _ _ _, hu.gmakePair _ _ _⟩) (fun j => s.makeOf_lt (elemOf_lt _ _ _) (elemOf_lt _ _ _)) (s.sliceStep_AB f) 16
  obtain ⟨nf, he⟩ := exec_gmake s f
  exact .of_writeM he (State.SliceStep.event hstep _ _ _) hval fun j => s.makeOf_lt (elemOf_lt _ _ _) (elemOf_lt _ _ _)

/-- A pair as VMOV copies it. -/
def State.movedPair (s : State) (x j : Nat) : Nat × Nat := (elemOf 32 (2 * j) x, s.varOut (elemOf 32 (2 * j + 1) x))

theorem State.movedPair_lt (s : State) (x j : Nat) : (s.movedPair x j).1 + (s.movedPair x j).2 * 2 ^ 32 < 2 ^ 64 :=
  pair_lt (elemOf_lt _ _ _) (s.varOut_lt (elemOf_lt _ _ _))

theorem State.vmov_moment_gives (s : State) (f : VF) (hm : specM f.a.toNat = true) :
    s.GivesPairs (.vmov f) f 1 fun j => s.movedPair (s.mreg (f.a.toNat - 0x30)) j := by
  have he : exec (.vmov f) s = .next (s.movMoment f) := congrArg Host.Outcome.next (if_pos hm)
  unfold State.movMoment at he
  dsimp only at he
  let x := s.mreg (f.a.toNat - 0x30)
  obtain ⟨hval, hstep⟩ := foldl_masked_parts (w := 64) (mask := (s.view f).1.mask) (Inv := fun u => s.SliceStep u [s.cur.s] [])
    (one := fun u j => u.varianceOut (pairVar x j) j (s.X + 1)) (part := fun j p => pairMean x j + p * 2 ^ 32)
    (val := fun j => (s.movedPair x j).1 + (s.movedPair x j).2 * 2 ^ 32)
    (fun u j hu => ⟨by rw [State.varianceOut_eq hu.tab, pairMean_eq, pairVar_eq]; rfl, hu.varianceOut _ _ _⟩) (fun j => s.movedPair_lt _ j)
    (((State.SliceStep.refl s [s.cur.s]).view f).sample (.reg s.cur.s f.a.toNat 0) s.X) 16
  exact .of_writeM he hstep hval fun j => s.movedPair_lt _ j

end

/-- Settles O39. -/
theorem momentForms : Obligations.MomentForms := by
  refine ⟨quotOf_isQuotient, fun f s => ⟨fun g hg => ?_, ⟨BitVec.ofNat 512 (s.colRank f), fun j hj => ?_, State.gcol_gives⟩, s.gmake_gives f, s.vmov_moment_gives f⟩⟩
  · obtain ⟨op, scal, he, hop, hk⟩ := s.momentForms_ops f g hg
    exact State.gForm_gives he hop hk
  · change elemOf 32 j (BitVec.ofNat 512 (s.colRank f)).toNat = _
    rw [elemOf_toNat_ofNat (by omega : 32 * (j + 1) ≤ 512), State.colRank, elemOf_rankOf, if_pos hj]
    split
    · rw [Nat.mod_eq_of_lt (s.colLane_lt f _ _)]
      rfl
    · rfl

end Sys2Proof.Machine
end

section
/-!
SUPPORT for O43 and O44. The exact window sum (R58, R59).
-/
namespace Sys2Proof.Machine
open Flagged

/-! ### The largest product -/

/-- The power of two of a nonzero number. -/
def Num.top : Num → Option Int
  | .fin _ m e => if m = 0 then none else some ((Nat.log2 m : Int) + e)
  | _ => none

theorem Num.top_fin (n : Bool) (m : Nat) (e : Int) : Num.top (.fin n m e) = if m = 0 then none else some ((Nat.log2 m : Int) + e) := rfl

theorem Num.top_spec {p : Num} {t : Int} (h : Num.top p = some t) : (2 : ℚ) ^ t ≤ |numRat p| ∧ |numRat p| < (2 : ℚ) ^ (t + 1) := by
  cases p with
  | nan s => cases h
  | inf n => cases h
  | fin n m e =>
    rw [Num.top_fin] at h
    by_cases hm : m = 0
    · rw [if_pos hm] at h
      cases h
    · rw [if_neg hm] at h
      cases h
      exact binade_of_log2 hm n e

theorem Num.top_eq_none {p : Num} (h : Num.top p = none) : numRat p = 0 := by
  cases p with
  | nan s => rfl
  | inf n => rfl
  | fin n m e =>
    by_contra h0
    rw [Num.top_fin, if_neg fun hm => h0 (numRat_eq_zero.mpr hm)] at h
    cases h

theorem Num.top_of_zero {p : Num} (h : numRat p = 0) : Num.top p = none := by
  cases p with
  | nan s => rfl
  | inf n => rfl
  | fin n m e => exact if_pos (numRat_eq_zero.mp h)

theorem maxExponent_append (ps : List Num) (p : Num) :
    maxExponent (ps ++ [p]) = (Num.top p).elim (maxExponent ps) fun t => some ((maxExponent ps).elim t (max t)) := by
  unfold maxExponent
  rw [List.foldl_append, List.foldl_cons, List.foldl_nil]
  cases p with
  | nan s => rfl
  | inf n => rfl
  | fin n m e =>
    cases m with
    | zero => rfl
    | succ k => generalize List.foldl _ none ps = m; cases m <;> rfl

theorem maxExponent_spec (ps : List Num) : (maxExponent ps = none → ∀ p ∈ ps, Num.top p = none)
    ∧ ∀ t, maxExponent ps = some t → (∃ p ∈ ps, Num.top p = some t) ∧ ∀ p ∈ ps, ∀ u, Num.top p = some u → u ≤ t := by
  induction ps using List.reverseRecOn with
  | nil => exact ⟨fun _ _ hp => (List.not_mem_nil hp).elim, fun _ h => by cases h⟩
  | append_singleton ps p ih =>
    obtain ⟨ihn, ihs⟩ := ih
    rw [maxExponent_append]
    cases hp : Num.top p with
    | none =>
      refine ⟨fun h q hq => ?_, fun t h => ?_⟩
      · obtain hq | hq := List.mem_append.mp hq
        · exact ihn h q hq
        · rw [List.mem_singleton.mp hq, hp]
      · obtain ⟨⟨q, hq, hqt⟩, hle⟩ := ihs t h
        refine ⟨⟨q, List.mem_append_left _ hq, hqt⟩, fun r hr u hu => ?_⟩
        obtain hr | hr := List.mem_append.mp hr
        · exact hle r hr u hu
        · rw [List.mem_singleton.mp hr, hp] at hu
          cases hu
    | some k =>
      refine ⟨fun h => (Option.some_ne_none _ h).elim, fun t h => ?_⟩
      obtain rfl : (maxExponent ps).elim k (max k) = t := Option.some.inj h
      cases hm : maxExponent ps with
      | none =>
        refine ⟨⟨p, List.mem_append_right _ List.mem_cons_self, hp⟩, fun r hr u hu => ?_⟩
        obtain hr | hr := List.mem_append.mp hr
        · rw [ihn hm r hr] at hu
          cases hu
        · rw [List.mem_singleton.mp hr, hp] at hu
          cases hu
          exact le_refl _
      | some j =>
        obtain ⟨⟨q, hq, hqt⟩, hle⟩ := ihs j hm
        refine ⟨?_, fun r hr u hu => ?_⟩
        · rcases le_total k j with hkj | hkj
          · exact ⟨q, List.mem_append_left _ hq, by rw [hqt, Option.elim, max_eq_right hkj]⟩
          · exact ⟨p, List.mem_append_right _ List.mem_cons_self, by rw [hp, Option.elim, max_eq_left hkj]⟩
        · obtain hr | hr := List.mem_append.mp hr
          · exact (hle r hr u hu).trans (le_max_right k j)
          · rw [List.mem_singleton.mp hr, hp] at hu
            cases hu
            exact le_max_left _ _

theorem maxExponent_of_zeros {ps : List Num} (h : ∀ p ∈ ps, numRat p = 0) : maxExponent ps = none := by
  cases hm : maxExponent ps with
  | none => rfl
  | some t =>
    obtain ⟨⟨p, hp, hpt⟩, -⟩ := (maxExponent_spec ps).2 t hm
    rw [Num.top_of_zero (h p hp)] at hpt
    cases hpt

theorem lt_of_zpow_lt {a b : Int} {x : ℚ} (h1 : (2 : ℚ) ^ a ≤ x) (h2 : x < (2 : ℚ) ^ b) : a < b := (zpow_lt_zpow_iff_right₀ one_lt_two).mp (h1.trans_lt h2)

theorem maxExponent_eq {ps : List Num} {t : Int} (hlt : ∀ p ∈ ps, |numRat p| < (2 : ℚ) ^ (t + 1)) (hge : ∃ p ∈ ps, (2 : ℚ) ^ t ≤ |numRat p|) :
    maxExponent ps = some t := by
  obtain ⟨p, hp, hpt⟩ := hge
  have hp0 : 0 < |numRat p| := (zpow_pos two_pos t).trans_le hpt
  obtain ⟨u, hu⟩ : ∃ u, Num.top p = some u := Option.ne_none_iff_exists'.mp fun h => hp0.ne' (by rw [Num.top_eq_none h, abs_zero])
  cases hm : maxExponent ps with
  | none =>
    rw [(maxExponent_spec ps).1 hm p hp] at hu
    cases hu
  | some k =>
    obtain ⟨⟨q, hq, hqk⟩, hle⟩ := (maxExponent_spec ps).2 k hm
    have h1 : t < u + 1 := lt_of_zpow_lt hpt (Num.top_spec hu).2
    have h2 : u ≤ k := hle p hp u hu
    have h3 : k < t + 1 := lt_of_zpow_lt (Num.top_spec hqk).1 (hlt q hq)
    rw [show k = t by omega]

/-! ### The products in the window -/

theorem roundShift_toward_zero (n : Bool) (m : Nat) (sh : Int) : roundShift 2 n m sh = roundShift 2 false m sh := by
  unfold roundShift
  rfl

/-- A product truncated toward zero. -/
theorem truncateTo_eq {p : Num} (hp : numFinite p) (q : Int) : truncateTo q p = roundQ 2 (numRat p / (2 : ℚ) ^ q) := by
  obtain ⟨n, m, e, rfl⟩ := hp
  rw [← (roundShift_units 2 n m e q).1, roundShift_toward_zero n, truncateTo]
  cases n
  · simp
  · simp

theorem sum_truncated {ps : List Num} (h : ∀ p ∈ ps, numFinite p) (q : Int) :
    (ps.map (truncateTo q)).foldl (· + ·) 0 = (ps.map fun p => roundQ 2 (numRat p / (2 : ℚ) ^ q)).sum := by
  rw [← List.sum_eq_foldl]
  exact congrArg List.sum (List.map_congr_left fun p hp => truncateTo_eq (h p hp) q)

/-! ### The sum -/

/-- The sum of numbers of which none is an infinity. -/
def plainSum (rd : Bool) (ps : List Num) : ExactSum :=
  if ps.any Num.isNan then .nan
  else (maxExponent ps).elim (.fin 0 0 (!ps.isEmpty && ps.all Num.sign))
    fun t => .fin ((ps.map (truncateTo (t - 64))).foldl (· + ·) 0) (t - 64) (decide ((ps.map (truncateTo (t - 64))).foldl (· + ·) 0 = 0) && rd)

/-- The signs of the infinities. -/
def infSigns (ps : List Num) : List Bool := ps.filterMap fun p => match p with
  | .inf n => some n
  | _ => none

theorem mem_infSigns {ps : List Num} {n : Bool} : n ∈ infSigns ps ↔ .inf n ∈ ps := by
  unfold infSigns
  rw [List.mem_filterMap]
  refine ⟨fun ⟨p, hp, h⟩ => ?_, fun h => ⟨_, h, rfl⟩⟩
  cases p with
  | inf k => cases h; exact hp
  | nan s => cases h
  | fin n m e => cases h

/-- What `exactSum` gives. -/
def windowSum (rd : Bool) (ps : List Num) : ExactSum :=
  match infSigns ps with
  | [] => plainSum rd ps
  | n :: rest => if rest.any (· != n) || ps.any Num.isNan then .nan else .inf n

theorem gives_exactSum (rd : Bool) (ps : List Num) : (exactSum rd ps).Gives (windowSum rd ps) := by
  intro fl
  unfold exactSum windowSum
  change ((match infSigns ps with | n :: rest => _ | [] => _ : Flagged ExactSum).run fl).1 = _
  cases infSigns ps with
  | cons n rest =>
    dsimp only
    cases rest.any (· != n) <;> cases ps.any Num.isNan <;> rfl
  | nil =>
    unfold plainSum
    dsimp only
    cases ps.any Num.isNan
    · cases maxExponent ps <;> rfl
    · rfl

theorem numRat_num_fin (v e : Int) (z : Bool) : numFinite (ExactSum.fin v e z).num ∧ numRat (ExactSum.fin v e z).num = v * (2 : ℚ) ^ e := by
  unfold ExactSum.num
  dsimp only
  split
  · rename_i h
    exact ⟨⟨_, _, _, rfl⟩, by rw [numRat_zero, h]; simp⟩
  · exact ⟨⟨_, _, _, rfl⟩, numRat_int _ _⟩

theorem exactSum_num_fin (rd : Bool) (v e : Int) : let x := (ExactSum.fin v e (decide (v = 0) && rd)).num
    numFinite x ∧ numRat x = v * (2 : ℚ) ^ e ∧ (v = 0 → x = .fin rd 0 0) := by
  obtain ⟨h1, h2⟩ := numRat_num_fin v e (decide (v = 0) && rd)
  refine ⟨h1, h2, fun h => ?_⟩
  subst h
  rfl

theorem windowSum_spec (rd : Bool) (ps : List Num) : WindowSum rd ps (windowSum rd ps) := by
  have hnan : (∃ p ∈ ps, p.isNan = true) ↔ ps.any Num.isNan = true := List.any_eq_true.symm
  cases hi : infSigns ps with
  | cons n rest =>
    have hmem : ∀ k, .inf k ∈ ps ↔ k = n ∨ k ∈ rest := fun k => by rw [← mem_infSigns, hi, List.mem_cons]
    have hS : windowSum rd ps = if rest.any (· != n) || ps.any Num.isNan then .nan else .inf n := by rw [windowSum, hi]
    refine ⟨fun h => ?_, fun k hk h1 h2 => ?_, fun h => ?_⟩
    · rw [hS, if_pos]
      · rfl
      · rcases h with h | ⟨h1, h2⟩
        · rw [hnan.mp h, Bool.or_true]
        · have : (!n) ∈ rest := by
            have h := (hmem (!n)).mp (by cases n <;> assumption)
            exact h.resolve_left (by cases n <;> decide)
          rw [List.any_eq_true.mpr ⟨!n, this, by cases n <;> rfl⟩, Bool.true_or]
    · have hkn : k = n := by
        by_contra hne
        refine h2 ((hmem _).mpr (.inl ?_))
        cases k <;> cases n <;> simp_all
      rw [hS, if_neg, hkn]
      · rfl
      · rw [Bool.or_eq_true, ← hnan, List.any_eq_true]
        rintro (⟨j, hj, hjn⟩ | ⟨p, hp, hpn⟩)
        · refine h2 ((hmem _).mpr (.inr ?_))
          rw [hkn]
          cases j <;> cases n <;> simp_all
        · rw [hk p hp] at hpn
          cases hpn
    · obtain ⟨_, _, _, hfin⟩ := h _ ((hmem n).mpr (.inl rfl))
      cases hfin
  | nil =>
    have hmem : ∀ k, .inf k ∉ ps := fun k => by rw [← mem_infSigns, hi]; exact List.not_mem_nil
    have hS : windowSum rd ps = plainSum rd ps := by rw [windowSum, hi]
    rw [hS]
    refine ⟨fun h => ?_, fun k _ h => (hmem k h).elim, fun h => ?_⟩
    · rw [plainSum, if_pos (hnan.mp (h.resolve_right fun h => hmem _ h.1))]
      rfl
    · have hno : ¬ps.any Num.isNan = true := by
        rw [← hnan]
        rintro ⟨p, hp, hpn⟩
        obtain ⟨_, _, _, rfl⟩ := h p hp
        cases hpn
      rw [plainSum, if_neg hno]
      refine ⟨fun hz => by rw [maxExponent_of_zeros hz]; rfl, fun t hlt hge => ?_⟩
      rw [maxExponent_eq hlt hge, Option.elim, sum_truncated h]
      exact exactSum_num_fin rd _ _

end Sys2Proof.Machine
end

section
/-!
SUPPORT for O43 and O44. Operands, products and cells of the matrix unit (R50, R58, R61, R205, R212 to R217).
-/
namespace Sys2Proof.Machine
open Flagged

/-! ### Operands -/

theorem State.matElem_eq (s : State) (ty x k : Nat) : matElem ty (flushIn s.tab.flush ty) x k = s.mElem ty x k := by
  unfold matElem State.mElem isF isI
  by_cases h3 : ty < 3
  · rw [if_pos (decide_eq_true h3), if_pos h3, elemAt_eq_elemOf, flushIn_of_float h3]
    rfl
  · rw [if_neg (by simpa using h3), if_neg h3]
    refine if_congr Iff.rfl (by rw [bitsOf_eq]) ?_
    have hlt : elemOf (typeWidth ty) k x < 2 ^ typeWidth ty := elemOf_lt _ _ _
    have hv : (if decide (3 ≤ ty ∧ ty < 6) = true then signedOf (typeWidth ty) (elemOf (typeWidth ty) k x) else (elemOf (typeWidth ty) k x : Int))
        = intOf ty (elemOf (typeWidth ty) k x) := by
      unfold intOf
      simp only [decide_eq_true_eq, signedOf_eq, Nat.mod_eq_of_lt hlt]
      by_cases h6 : ty < 6
      · simp only [h6, show 3 ≤ ty by omega, and_self, if_true, true_and]
      · simp only [h6, and_false, false_and, if_false]
    rw [← hv, ← elemAt_eq_elemOf]
    rfl

/-! ### Products and cells -/

theorem gives_products (sc : Int) (l : List (Num × Num)) : (products sc l).Gives (l.map fun e => (prodOf e.1 e.2).scale sc) := by
  induction l with
  | nil => exact gives_pure _
  | cons e r ih => exact (gives_mul _ _).bind (ih.bind (gives_pure _))

theorem gives_cellsOf {α : Type} {f : Nat → Flagged α} {g : Nat → α} (h : ∀ j, (f j).Gives (g j)) (n : Nat) : (cellsOf f n).Gives ((List.range n).map g) := by
  induction n with
  | zero => exact gives_pure _
  | succ n ih =>
    rw [List.range_succ, List.map_append]
    exact ih.bind ((h n).bind (gives_pure _))

theorem gives_planeSums {rd : Bool} {cell : Nat → Flagged (List Num × List Num)} {g : Nat → List Num × List Num} (h : ∀ j, (cell j).Gives (g j)) :
    (planeSums rd cell).Gives ((List.range 32).map fun j => windowSum rd (g j).1, (List.range 32).map fun j => windowSum rd (g j).2) := by
  have hc : ∀ j, Flagged.Gives (do
      let (a, b) ← cell j
      return (← exactSum rd a, ← exactSum rd b)) (windowSum rd (g j).1, windowSum rd (g j).2) := fun j =>
    (h j).bind ((gives_exactSum _ _).bind ((gives_exactSum _ _).bind (gives_pure _)))
  refine (gives_cellsOf hc 32).bind ?_
  rw [List.map_map, List.map_map]
  exact gives_pure _

theorem gives_sumPairs {f : Nat → Flagged (List Num × List Num)} {g : Nat → List Num × List Num} {l : List Nat} (h : ∀ k ∈ l, (f k).Gives (g k)) :
    (sumPairs f l).Gives ((l.map fun k => (g k).1).flatten, (l.map fun k => (g k).2).flatten) := by
  induction l with
  | nil => exact gives_pure _
  | cons k ks ih => exact (h k List.mem_cons_self).bind ((ih fun k' hk => h k' (List.mem_cons_of_mem _ hk)).bind (gives_pure _))

theorem gives_mmgAddends (sc : Int) (a : Pair) (b : Num) : (mmgAddends sc a b).Gives
    ([if a.1.isNan || a.2.isNan then .nan false else (prodOf a.1 b).scale sc], [if a.1.isNan || a.2.isNan then .nan false else (prodOf a.2 (prodOf b b)).scale sc]) := by
  unfold mmgAddends
  cases hn : a.1.isNan || a.2.isNan
  · simp only [Bool.false_eq_true, if_false]
    exact (gives_mul _ _).bind ((gives_mul _ _).bind ((gives_mul _ _).bind (gives_pure _)))
  · simp only [if_true]
    split
    · exact gives_raise _ (gives_pure _)
    · exact gives_pure _

theorem gives_mmg2Addends (sc rho : Int) (a b : Pair) : (mmg2Addends sc rho a b).Gives (
    if a.1.isNan || a.2.isNan || b.1.isNan || b.2.isNan then ([.nan false], [.nan false])
    else
      let c := covOf rho a.2 b.2
      ([prodOf a.1 b.1, c].map (·.scale sc),
       [prodOf (prodOf a.1 a.1) b.2, prodOf (prodOf b.1 b.1) a.2, (prodOf (prodOf a.1 b.1) c).scale 1, prodOf a.2 b.2, prodOf c c].map (·.scale sc))) := by
  have hany : [a.1, a.2, b.1, b.2].any Num.isNan = (a.1.isNan || a.2.isNan || b.1.isNan || b.2.isNan) := by simp [List.any, Bool.or_assoc]
  unfold mmg2Addends
  dsimp only
  rw [← hany]
  split
  · split
    · exact gives_raise _ (gives_pure _)
    · exact gives_pure _
  · exact (GView.gives_cov _ _ _).bind ((gives_mul _ _).bind ((gives_mul _ _).bind ((gives_mul _ _).bind ((gives_mul _ _).bind ((gives_mul _ _).bind
      ((gives_mul _ _).bind ((gives_mul _ _).bind ((gives_mul _ _).bind ((gives_mul _ _).bind (gives_pure _))))))))))

theorem getD_map_range {α : Type} (f : Nat → α) {n j : Nat} (h : j < n) (d : α) : ((List.range n).map f).getD j d = f j := by
  rw [List.getD_eq_getElem _ _ (by simpa using h)]
  simp

end Sys2Proof.Machine
end

section
/-!
SUPPORT for O42 to O44. What the operations of the M forms leave as it was, and what they read.
-/
namespace Sys2Proof.Machine
open Flagged

/-! ### Steps after which a state reads as before -/

theorem State.ReadsAs.of_stay {s t : State} {near : List Nat} {l : List (Nat × Dest)} (h : s.SliceStep t near l) (k : s.SlicesStay t) : s.ReadsAs t :=
  ⟨k.cur, h.frame.hops, fun n => by rw [k.slice]⟩

theorem State.event_readsAs (s : State) (fl nf cyc : Nat) : s.ReadsAs (s.event fl nf cyc) :=
  .of_stay ((State.SliceStep.refl s []).event fl nf cyc) (s.event_slicesStay fl nf cyc)

theorem State.later_readsAs (s : State) (cyc row : Nat) (i : Instr) : s.ReadsAs (s.later cyc row i) := by
  refine ⟨rfl, ?_, fun n => ?_⟩ <;> rw [State.later, here_onCore]
  rfl

theorem State.ReadsAs.foldl {α : Type} {s t : State} {f : State → α → State} (h : s.ReadsAs t) (l : List α) (hf : ∀ u a, State.ReadsAs u (f u a)) :
    s.ReadsAs (l.foldl f t) := by
  induction l generalizing t with
  | nil => exact h
  | cons a l ih => exact ih (h.trans (hf t a))

theorem State.mMarks_readsAs (s : State) (i : Instr) (x : Nat) : s.ReadsAs (s.mMarks i x) := (State.ReadsAs.refl s).foldl _ fun u _ => (u.mark_quiet _ _).readsAs

theorem State.mrows_readsAs (s : State) (f : MF) (i : Instr) : s.ReadsAs (s.mrows f i) := by
  unfold State.mrows
  split
  · exact (s.mMarks_readsAs i s.X).foldl _ fun u _ => u.later_readsAs _ _ _
  · exact .refl s

theorem State.onSlice_readsAs (s : State) {g : Slice → Slice} (hg : ∀ e : Slice, { g e with int := 0, mmg2 := [] } = { e with int := 0, mmg2 := [] }) :
    s.ReadsAs (s.onSlice g) := by
  refine ⟨rfl, ?_, fun n => ?_⟩ <;> rw [State.onSlice, here_onCore]
  · rfl
  · rw [Core.slice_onSlice]
    split
    · rename_i h
      rw [h, hg]
    · rfl

theorem State.setTag_readsAs (s : State) (a : Nat) (b : Bool) : s.ReadsAs (s.setTag a b) := by
  unfold State.setTag
  split
  · exact .refl s
  · exact s.onSlice_readsAs fun _ => rfl

theorem State.trapWhen_readsAs (s : State) (b : Bool) (cyc code val : Nat) : s.ReadsAs (s.trapWhen b cyc code val) := by
  unfold State.trapWhen
  split
  · exact s.trapS_readsAs _ _ _
  · exact .refl s

theorem State.useB_readsAs (s : State) (ty : Nat) (sparse west : Bool) : s.ReadsAs (s.useB ty sparse west).2 := by
  unfold State.useB
  dsimp only
  split
  · exact s.sample_readsAs _ _
  · exact s.trapWhen_readsAs _ _ _ _

/-! ### What they read -/

section
variable {s t : State} (h : s.ReadsAs t)
include h

theorem State.ReadsAs.mcyc : t.mcyc = s.mcyc := congrArg (fun c : Ctx => c.X + c.row) h.cur

theorem State.ReadsAs.mrow (f : MF) : t.mrow f = s.mrow f := congrArg (fun c : Ctx => f.row0.toNat + c.row) h.cur

theorem State.ReadsAs.readTile (n row : Nat) : (t.readTile n row).1 = (s.readTile n row).1 ∧ (s.readTile n row).2.ReadsAs (t.readTile n row).2 := by
  have ht : t.slice.t = s.slice.t := congrArg (fun sl => sl.t) h.slice
  unfold State.readTile Slice.tileRow
  rw [ht, h.cur, h.mcyc]
  exact ⟨rfl, h.sample _ _⟩

theorem State.ReadsAs.arow (f : MF) (byp : Bool) : (t.arow f byp).1 = (s.arow f byp).1 ∧ (s.arow f byp).2.ReadsAs (t.arow f byp).2 := by
  have hb : t.slice.byp = s.slice.byp := congrArg (fun sl => sl.byp) h.slice
  obtain ⟨h1, h2⟩ := h.readTile (f.a.toNat - 0x40) (s.mrow f)
  obtain ⟨h3, h4⟩ := h.readRank f.a.toNat s.mcyc (f.pka == 1)
  unfold State.arow
  rw [hb, h.cur, h.mcyc, h.mrow]
  split
  · exact ⟨rfl, h.sample _ _⟩
  · split
    · exact ⟨congrArg (fun v : TileRow => v.toNat % 2 ^ 512) h1, h2⟩
    · exact ⟨congrArg BitVec.toNat h3, h4⟩

theorem State.ReadsAs.pairRow (f : MF) : (t.pairRow f).1 = (s.pairRow f).1 := by
  have h3 := (h.readRank f.a.toNat s.mcyc (f.pka == 1)).1
  unfold State.pairRow
  rw [h.mreg, h.cur, h.mcyc]
  split
  · rfl
  · exact congrArg BitVec.toNat h3

end

theorem State.readRank_pair (s : State) (c cyc : Nat) (peek : Bool) : (s.readRank c cyc peek).2.slice.pair = s.slice.pair := by
  have hs := fun loc => congrArg (fun sl => sl.pair) (s.sample_readsAs loc cyc).slice
  unfold State.readRank
  split
  · split
    · exact congrArg (fun sl => sl.pair) (s.trapS_readsAs _ _ _).slice
    · dsimp only
      split
      · exact hs _
      · rw [State.slice_onSlice]
        exact hs _
  · dsimp only
    split
    · exact hs _
    · rfl

theorem State.arow_pair (s : State) (f : MF) (byp : Bool) : (s.arow f byp).2.slice.pair = s.slice.pair := by
  unfold State.arow
  split
  · exact congrArg (fun sl => sl.pair) (s.sample_readsAs _ _).slice
  · split
    · exact congrArg (fun sl => sl.pair) (s.sample_readsAs _ _).slice
    · exact s.readRank_pair _ _ _

/-! ### Registers, format and mode -/

section
variable {s t : State} {near : List Nat} {l : List (Nat × Dest)} (h : s.SliceStep t near l)
include h

theorem State.SliceStep.slice_b : t.slice.b = s.slice.b := congrArg (fun sl => sl.b) h.slice_registers
theorem State.SliceStep.slice_t : t.slice.t = s.slice.t := congrArg (fun sl => sl.t) h.slice_registers
theorem State.SliceStep.slice_acc : t.slice.acc = s.slice.acc := congrArg (fun sl => sl.acc) h.slice_registers
theorem State.SliceStep.slice_d : t.slice.d = s.slice.d := congrArg (fun sl => sl.d) h.slice_registers

end

theorem State.mmode_eq (s : State) (f : MF) : s.mmode f = s.mRm f := by
  unfold State.mmode State.mRm State.mentry
  rw [modeInForce, if_neg (by decide)]
  by_cases h : f.ty = 15
  · rw [if_pos h]
    exact if_congr (by simp [h]) rfl rfl
  · rw [if_neg h, if_neg (by decide : ¬entryRm 0 ≠ 0), if_neg fun hc => h hc.1]

theorem isInt_eq (ty : Nat) : (isI ty || isN ty) = decide (3 ≤ ty ∧ ty ≤ 8) := by
  unfold isI isN
  rw [← Bool.decide_or]
  exact decide_eq_decide.mpr (by omega)

theorem State.foldl_variance {s u : State} (hu : u.tab = s.tab) (x base n : Nat) :
    let r := (List.range n).foldl (fun (acc : List Pair × State) k =>
      let fi := s.tab.flush.getLsbD 6
      let (v, s') := acc.2.variance (flushHalf fi (pairVar x k)) (base + k) u.mcyc
      (acc.1 ++ [(f32.decode fi (pairMean x k), rd32 v)], s')) ([], u)
    r.1 = (List.range n).map (fun k => s.pairOf x k) ∧ r.2.tab = s.tab := by
  induction n with
  | zero => exact ⟨rfl, hu⟩
  | succ n ih =>
    obtain ⟨h1, h2⟩ := ih
    dsimp only
    rw [List.range_succ, List.foldl_append, List.map_append]
    refine ⟨?_, ((State.SliceStep.refl _ []).variance _ _ _).tab.trans h2⟩
    rw [List.foldl_cons, List.foldl_nil, h1, State.variance_eq h2, flushHalf_eq, pairVar_eq, pairMean_eq]
    rfl

theorem State.readPairs_eq {s u : State} (hu : u.tab = s.tab) (x base : Nat) : (u.readPairs x base).1 = (List.range 8).map fun k => s.pairOf x k := by
  unfold State.readPairs
  rw [hu]
  exact (State.foldl_variance hu x base 8).1

/-! ### The update that a product row owes -/

/-- What `oweRow` owes. -/
def State.rowUpdate (t : State) (f : MF) (isInt fresh : Bool) (s0 s1 : List ExactSum) : RowUpdate where
  a := f.acc.toNat - 0x48
  row := t.mrow f
  isInt := isInt
  fresh := fresh
  rm := t.mmode f
  flush := t.tab.flush
  clamp := t.clamp
  s0 := s0
  s1 := s1

theorem State.oweRow_eq (t : State) (f : MF) (result : Nat) (isInt fresh : Bool) (s0 s1 : List ExactSum) :
    t.oweRow f result isInt fresh s0 s1 = t.owe (result - 1) (.row (t.rowUpdate f isInt fresh s0 s1)) := rfl

theorem State.owesUpdate {s t : State} {f : MF} {i : Instr} {lat : Nat} {isInt fresh two : Bool} {s0 s1 : List ExactSum} {sums : Nat → ExactSum → ExactSum → Prop}
    (he : exec i s = .next (t.oweRow f (s.mcyc + (lat + 1)) isInt fresh s0 s1)) (h : s.SliceStep t s.pairNear []) (h0 : s0.length = 32)
    (h1 : s1.length = if two then 32 else 0) (hs : ∀ j < 32, sums j (s0.getD j .nan) (s1.getD j .nan)) :
    Runs i s fun t => s.OwesUpdate t f (s.cur.X + s.cur.row + lat) isInt fresh sums two := by
  rw [State.oweRow_eq] at he
  obtain ⟨os, hos, hall⟩ := (h.owe (s.mcyc + lat) (.row (t.rowUpdate f isInt fresh s0 s1))).owes
  have hrm : t.mmode f = s.mRm f := by
    rw [← s.mmode_eq f]
    unfold State.mmode State.mentry
    rw [h.tab]
  refine ⟨_, he, _, os, hos, hall, rfl, h.mrow f, rfl, rfl, hrm, congrArg Tables.flush h.tab, ?_, h0, h1, hs⟩
  exact congrArg (fun tab : Tables => tab.cov.getLsbD 2) h.tab

end Sys2Proof.Machine
end

section
/-!
PROOF of O43. A row of MMA and MMAZ: the window sums of its dense products, and integer products.
-/
namespace Sys2Proof.Machine
open Flagged

section
variable (s : State) (f : MF)

theorem State.gives_denseCell (row j : Nat) :
    (denseCell (s.mType f) (flushIn s.tab.flush (s.mType f)) (s.mscale f) row (s.slice.b.col j)).Gives (s.mDense f row j) := by
  have h := gives_products (s.mscale f) ((List.range (depthOf (s.mType f))).map fun k =>
    (matElem (s.mType f) (flushIn s.tab.flush (s.mType f)) row k, matElem (s.mType f) (flushIn s.tab.flush (s.mType f)) (s.slice.b.col j) k))
  rw [List.map_map] at h
  unfold denseCell
  simp only [s.matElem_eq] at h ⊢
  exact h

/-- The window sums of a dense row. -/
def State.denseSums (row : Nat) : List ExactSum := (List.range 32).map fun j => windowSum (s.mRm f == 4) (s.mDense f row j)

theorem State.gives_denseSums (row : Nat) :
    (cellsOf (fun j => do exactSum (s.mmode f == 4) (← denseCell (s.mType f) (flushIn s.tab.flush (s.mType f)) (s.mscale f) row (s.slice.b.col j))) 32).Gives
      (s.denseSums f row) := by
  rw [s.mmode_eq f]
  exact gives_cellsOf (fun j => (s.gives_denseCell f row j).bind (gives_exactSum _ _)) 32

/-- A dense row owes the update of its window sums. -/
theorem State.product_eq (fresh : Bool) (i : Instr) : ∃ t, s.SliceStep t s.pairNear []
    ∧ s.product f fresh i = t.oweRow f (s.mcyc + 8) (decide (3 ≤ s.mType f ∧ s.mType f ≤ 8)) fresh (s.denseSums f (s.arow f (f.imm.getLsbD 3)).1) [] := by
  unfold State.product
  extract_lets ty fi isInt a st st1
  have hi : isInt = decide (3 ≤ s.mType f ∧ s.mType f ≤ 8) := isInt_eq _
  have h0 : s.SliceStep st s.pairNear [] := (State.SliceStep.refl s _).mrows f i
  have h1 : s.SliceStep st1 s.pairNear [] ∧ s.ReadsAs st1 := by
    unfold st1
    split
    · exact ⟨h0.setTag s.own_mem _ _, (s.mrows_readsAs f i).trans (State.setTag_readsAs _ _ _)⟩
    · exact ⟨h0, s.mrows_readsAs f i⟩
  obtain ⟨h2, hr⟩ := h1
  have h3 := h2.arow s.own_mem f (f.imm.getLsbD 3)
  have har := (hr.arow f (f.imm.getLsbD 3)).1
  split
  next ar st2 ha =>
  rw [ha] at h3 har
  obtain rfl : ar = (s.arow f (f.imm.getLsbD 3)).1 := har
  have h4 := h3.useB ty false false
  have hb : (st2.useB ty false false).1 = s.slice.b := h3.slice_b
  split
  next b st3 hb' =>
  rw [hb'] at h4 hb
  obtain rfl : b = s.slice.b := hb
  have hsums := s.gives_denseSums f (s.arow f (f.imm.getLsbD 3)).1 0
  split
  next sums fl hs =>
  obtain rfl : sums = s.denseSums f (s.arow f (f.imm.getLsbD 3)).1 := (congrArg Prod.fst hs).symm.trans hsums
  exact ⟨st3.event fl 0 s.mcyc, h4.event _ _ _, by rw [hi]⟩

/-- MMA and MMAZ owe the update of their window sums. -/
theorem State.dense_owes (e : Instr × Bool) (he : e ∈ [(Instr.mma f, false), (.mmaz f, true)]) : Runs e.1 s fun t =>
    s.OwesUpdate t f (s.cur.X + s.cur.row + 7) (decide (3 ≤ s.mType f ∧ s.mType f ≤ 8)) e.2
      (fun j S _ => S = windowSum (s.mRm f == 4) (s.mDense f (s.arow f (f.imm.getLsbD 3)).1 j)) false := by
  have hexec : exec e.1 s = .next (s.product f e.2 e.1) := by
    simp only [List.mem_cons, List.not_mem_nil, or_false] at he
    obtain rfl | rfl := he <;> rfl
  obtain ⟨t, hstep, hp⟩ := s.product_eq f e.2 e.1
  rw [hp] at hexec
  exact State.owesUpdate hexec hstep (by simp [State.denseSums]) rfl fun j hj => getD_map_range _ hj _

end

/-! ### Integer products (R58, R213) -/

/-- The window truncates nothing of integers below 2^64. -/
theorem windowSum_of_ints {rd : Bool} {ps : List Num} (h : ∀ p ∈ ps, numFinite p ∧ ∃ v : Int, numRat p = v ∧ |v| < 2 ^ 64) :
    numFinite (windowSum rd ps).num ∧ numRat (windowSum rd ps).num = (ps.map numRat).sum := by
  obtain ⟨hzero, hsum⟩ := (windowSum_spec rd ps).2.2 fun p hp => (h p hp).1
  by_cases hz : ∀ p ∈ ps, numRat p = 0
  · rw [hzero hz, numRat_zero, List.sum_eq_zero fun x hx => ?_]
    · exact ⟨⟨_, _, _, rfl⟩, rfl⟩
    · obtain ⟨p, hp, rfl⟩ := List.mem_map.mp hx
      exact hz p hp
  · cases hm : maxExponent ps with
    | none => exact absurd (fun p hp => Num.top_eq_none ((maxExponent_spec ps).1 hm p hp)) hz
    | some t =>
      obtain ⟨⟨q, hq, hqt⟩, hle⟩ := (maxExponent_spec ps).2 t hm
      have hlt : ∀ p ∈ ps, |numRat p| < (2 : ℚ) ^ (t + 1) := fun p hp => by
        cases hu : Num.top p with
        | none =>
          rw [Num.top_eq_none hu, abs_zero]
          positivity
        | some u => exact (Num.top_spec hu).2.trans_le (zpow_le_zpow_right₀ one_le_two (by have := hle p hp u hu; omega))
      have ht : t < 64 := by
        obtain ⟨-, v, hv, hv64⟩ := h q hq
        refine lt_of_zpow_lt (Num.top_spec hqt).1 ?_
        rw [hv]
        exact_mod_cast hv64
      have hterm : ∀ p ∈ ps, ((roundQ 2 (numRat p / (2 : ℚ) ^ (t - 64)) : Int) : ℚ) * (2 : ℚ) ^ (t - 64) = numRat p := fun p hp => by
        obtain ⟨-, v, hv, -⟩ := h p hp
        obtain ⟨k, hk⟩ : ∃ k : Nat, 64 - t = k := ⟨(64 - t).toNat, by omega⟩
        have hdiv : numRat p / (2 : ℚ) ^ (t - 64) = ((v * 2 ^ k : Int) : ℚ) := by
          rw [hv, div_eq_mul_inv, ← zpow_neg, neg_sub, hk, zpow_natCast]
          push_cast
          rfl
        rw [hdiv, roundQ_int, ← hdiv, div_mul_cancel₀ _ (zpow_ne_zero _ two_ne_zero)]
      obtain ⟨hfin, hval, -⟩ := hsum t hlt ⟨q, hq, (Num.top_spec hqt).1⟩
      refine ⟨hfin, hval.trans ?_⟩
      rw [Int.cast_list_sum, List.map_map, ← List.sum_map_mul_right]
      exact congrArg List.sum (List.map_congr_left hterm)

theorem cellI32_of_int {rm cell : Nat} {S : ExactSum} {v : Int} (hfin : numFinite S.num) (hv : numRat S.num = v) :
    (cellI32 rm cell S : Int) = (intOf 3 cell + v) % 2 ^ 32 := by
  obtain ⟨n, m, e, hS⟩ := hfin
  have hc : signedOf 32 cell = intOf 3 cell := by
    rw [signedOf_eq]
    simp [intOf, typeWidth]
  rw [← hc]
  unfold cellI32
  rw [hS] at hv ⊢
  dsimp only
  rw [cast_wrapInt, roundInt_fst, hv, roundQ_int]

section
variable {s : State} {f : MF} (hty : s.mType f = 5 ∨ s.mType f = 8)
include hty

theorem State.mElem_int (x k : Nat) : s.mElem (s.mType f) x k = intNum (intOf (s.mType f) (elemOf 8 k x)) 0 := by
  have hw : typeWidth (s.mType f) = 8 := by rcases hty with h | h <;> rw [h] <;> rfl
  unfold State.mElem
  rw [if_neg (by omega), if_neg (by omega), hw]

theorem State.abs_intOf_lt (x : Nat) : |intOf (s.mType f) x| < 2 ^ 8 := by
  obtain ⟨h1, h2⟩ := intOf_range (ty := s.mType f) (by omega) (by omega) x
  rw [abs_lt]
  rcases hty with h | h <;> rw [h] at h1 h2 ⊢
  · have := h1 (by decide)
    norm_num [typeWidth] at this ⊢
    omega
  · have := h2 (by decide)
    norm_num [typeWidth] at this ⊢
    omega

theorem State.mDense_int (hsc : s.mSc f = 0) (row j : Nat) : s.mDense f row j = (List.range 64).map fun k =>
    (prodOf (intNum (intOf (s.mType f) (elemOf 8 k row)) 0) (intNum (intOf (s.mType f) (elemOf 8 k (s.slice.b.col j))) 0)).scale 0 := by
  have hd : depthOf (s.mType f) = 64 := by rcases hty with h | h <;> rw [h] <;> rfl
  unfold State.mDense
  simp only [State.mElem_int hty, hd, hsc]
  rfl

theorem State.denseSum_int (hsc : s.mSc f = 0) (rd : Bool) (row j : Nat) : numFinite (windowSum rd (s.mDense f row j)).num
    ∧ numRat (windowSum rd (s.mDense f row j)).num = (((List.range 64).map fun k => intOf (s.mType f) (elemOf 8 k row) * intOf (s.mType f) (elemOf 8 k (s.slice.b.col j))).sum : Int) := by
  rw [State.mDense_int hty hsc]
  have hval : ∀ a b : Int, numRat ((prodOf (intNum a 0) (intNum b 0)).scale 0) = ((a * b : Int) : ℚ) := fun a b => by
    rw [numRat_scale, intNum, intNum, numRat_prodOf_fin, numRat_int, numRat_int]
    push_cast
    simp
  obtain ⟨h1, h2⟩ := windowSum_of_ints (rd := rd) (ps := (List.range 64).map fun k =>
    (prodOf (intNum (intOf (s.mType f) (elemOf 8 k row)) 0) (intNum (intOf (s.mType f) (elemOf 8 k (s.slice.b.col j))) 0)).scale 0) fun p hp => by
      obtain ⟨k, -, rfl⟩ := List.mem_map.mp hp
      refine ⟨⟨_, _, _, rfl⟩, _, hval _ _, ?_⟩
      rw [abs_mul]
      have ha := State.abs_intOf_lt hty (elemOf 8 k row)
      have hb := State.abs_intOf_lt hty (elemOf 8 k (s.slice.b.col j))
      have := mul_lt_mul'' ha hb (abs_nonneg _) (abs_nonneg _)
      exact this.trans (by norm_num)
  refine ⟨h1, h2.trans ?_⟩
  rw [Int.cast_list_sum, List.map_map, List.map_map]
  exact congrArg List.sum (List.map_congr_left fun k _ => hval _ _)

end

/-- Settles O43. -/
theorem integerProducts : Obligations.IntegerProducts := by
  intro f s e he ty row a b hty hsc
  obtain ⟨t, hexec, u, os, hos, hall, -, -, hint, hfresh, -, -, -, -, -, hsums⟩ := s.dense_owes f e he
  have hsc : s.mSc f = 0 := by
    by_cases h : f.ty = 15
    · exact hsc.resolve_left fun hn => hn h
    · exact if_neg h
  refine ⟨t, hexec, u, os, hos, hall, hfresh, hint.trans (decide_eq_true ?_), fun j hj cell _ => ?_⟩
  · change 3 ≤ ty ∧ ty ≤ 8
    omega
  · obtain ⟨hfin, hval⟩ := State.denseSum_int hty hsc (s.mRm f == 4) row j
    rw [hsums j hj]
    exact cellI32_of_int hfin hval

end Sys2Proof.Machine
end

section
/-!
PROOF of O44. The rows of the product forms.
-/
namespace Sys2Proof.Machine
open Flagged

section
variable (s : State) (f : MF)

/-! ### MMAS (R214) -/

/-- Element `k` of the 64 logical elements of a sparse row. -/
def State.sparseElem (row two k : Nat) : Num := if s.mType f < 3 ∧ 32 ≤ k then s.mElem (s.mType f) two (k - 32) else s.mElem (s.mType f) row k

/-- The bits of a logical element as MMAS reads them. -/
def State.sparseBits (row two k : Nat) : Nat :=
  if (isI (s.mType f) || isN (s.mType f)) = true then elemAt (typeWidth (s.mType f)) k row
  else if k < 32 then elemAt (typeWidth (s.mType f)) k row else elemAt (typeWidth (s.mType f)) (k - 32) two

theorem State.mElem_elem {ty : Nat} (hty : ty ≤ 8) (x k : Nat) : s.mElem ty (elemAt (typeWidth ty) k x) 0 = s.mElem ty x k := by
  have h0 : elemOf (typeWidth ty) 0 (elemAt (typeWidth ty) k x) = elemOf (typeWidth ty) k x := by
    rw [elemAt_eq_elemOf]
    unfold elemOf
    rw [Nat.mul_zero, pow_zero, Nat.div_one, Nat.mod_mod]
  unfold State.mElem
  rw [h0, if_neg (by omega : ¬(9 ≤ ty ∧ ty ≤ 11)), if_neg (by omega : ¬(9 ≤ ty ∧ ty ≤ 11))]

theorem State.matElem_sparseBits (hty : s.mType f ≤ 8) (row two k : Nat) :
    matElem (s.mType f) (flushIn s.tab.flush (s.mType f)) (s.sparseBits f row two k) 0 = s.sparseElem f row two k := by
  unfold State.sparseBits State.sparseElem
  rw [s.matElem_eq, isInt_eq]
  by_cases h3 : s.mType f < 3
  · rw [if_neg (by simp; omega)]
    by_cases hk : k < 32
    · rw [if_pos hk, if_neg (by omega), s.mElem_elem hty]
    · rw [if_neg hk, if_pos ⟨h3, by omega⟩, s.mElem_elem hty]
  · rw [if_pos (by simp; omega), if_neg (by omega), s.mElem_elem hty]

theorem flatten_pairs {α : Type} (g : Nat → α) (n : Nat) : ((List.range n).map fun i => [g (2 * i), g (2 * i + 1)]).flatten = (List.range (2 * n)).map g := by
  induction n with
  | zero => rfl
  | succ n ih => rw [List.range_succ, List.map_append, List.flatten_append, ih, show 2 * (n + 1) = 2 * n + 1 + 1 by ring, List.range_succ, List.range_succ]; simp

/-- The logical element that the metadata of column `j` name for stored value `n`. -/
def State.sparsePos (s : State) (j n : Nat) : Nat := 4 * (n / 2) + s.slice.b.md.toNat / 2 ^ (64 * j + 2 * n) % 4

theorem State.sparsePos_eq (j g h : Nat) (hh : h < 2) : 4 * g + bitsOf s.slice.b.md.toNat (64 * j + 4 * g + 2 * h) 2 = s.sparsePos j (2 * g + h) := by
  rw [State.sparsePos, bitsOf_eq, show (2 * g + h) / 2 = g by omega, show 64 * j + 4 * g + 2 * h = 64 * j + 2 * (2 * g + h) by ring]
  rfl

/-- The operands of product `n` of a sparse cell. -/
def State.sparsePair (row two j n : Nat) : Num × Num := (s.sparseElem f row two (s.sparsePos j n), s.mElem (s.mType f) (s.slice.b.col j) n)

theorem State.gives_sparseCell (hty : s.mType f ≤ 8) (row two j : Nat) :
    (sparseCell (s.mType f) (flushIn s.tab.flush (s.mType f)) (s.mscale f) (s.sparseBits f row two) s.slice.b.md j (s.slice.b.col j)).Gives
      (s.mSparse f row two j) := by
  have h := gives_products (s.mscale f) ((List.range (2 * 16)).map (s.sparsePair f row two j))
  rw [List.map_map, ← flatten_pairs (s.sparsePair f row two j) 16] at h
  unfold sparseCell
  refine Eq.mpr (congrArg (fun l => (products (s.mscale f) (List.flatten l)).Gives _) (List.map_congr_left fun g _ => ?_)) h
  dsimp only
  rw [s.sparsePos_eq j g 0 (by decide), s.sparsePos_eq j g 1 (by decide), s.matElem_sparseBits f hty, s.matElem_sparseBits f hty, s.matElem_eq, s.matElem_eq,
    s.mElem_elem hty, s.mElem_elem hty]
  rfl

/-- The window sums of a sparse row. -/
def State.sparseSums (row two : Nat) : List ExactSum := (List.range 32).map fun j => windowSum (s.mRm f == 4) (s.mSparse f row two j)

theorem State.gives_sparseSums (hty : s.mType f ≤ 8) (row two : Nat) : (cellsOf (fun j => sparseCell (s.mType f) (flushIn s.tab.flush (s.mType f)) (s.mscale f)
    (s.sparseBits f row two) s.slice.b.md j (s.slice.b.col j) >>= fun ps => exactSum (s.mmode f == 4) ps) 32).Gives (s.sparseSums f row two) := by
  rw [s.mmode_eq f]
  exact gives_cellsOf (fun j => (s.gives_sparseCell f hty row two j).bind (gives_exactSum _ _)) 32

theorem State.mSparse_two {two two' : Nat} (h : ¬s.mType f < 3 ∨ two = two') (row j : Nat) : s.mSparse f row two j = s.mSparse f row two' j := by
  rcases h with h | rfl
  · unfold State.mSparse
    simp only [h, false_and, if_false]
  · rfl

theorem State.mmas_runs (hty : s.mType f ≤ 8) : Runs (.mmas f) s fun t => s.OwesUpdate t f (s.cur.X + s.cur.row + 7) (decide (3 ≤ s.mType f ∧ s.mType f ≤ 8)) false
    (fun j S _ => WindowSum (s.mRm f == 4) (s.mSparse f (s.arow f false).1 (((s.arow f false).2.readRank f.b.toNat (s.cur.X + s.cur.row) false).1.toNat) j) S) false := by
  have he : exec (.mmas f) s = execMmas f s := rfl
  have h0 := ((State.SliceStep.refl s s.pairNear).mrows f (.mmas f)).arow s.own_mem f false
  obtain ⟨har, hr⟩ := (s.mrows_readsAs f (.mmas f)).arow f false
  unfold execMmas at he
  extract_lets ty fi isInt w st0 at he
  split at he
  next ar st1 hst1 =>
  rw [hst1] at h0 har hr
  obtain rfl : ar = (s.arow f false).1 := har
  split at he
  next br st2 hst2 =>
  have h1 : s.SliceStep (br, st2).2 s.pairNear [] := by
    rw [← hst2]
    split
    · exact h0
    · exact h0.readRank s.own_mem _ _ _
  have hbr : ¬s.mType f < 3 ∨ br = ((s.arow f false).2.readRank f.b.toNat (s.cur.X + s.cur.row) false).1.toNat := by
    by_cases hi : (isI (s.mType f) || isN (s.mType f)) = true
    · rw [isInt_eq, decide_eq_true_eq] at hi
      exact .inl (by omega)
    · refine .inr ((congrArg Prod.fst hst2).symm.trans ((congrArg Prod.fst (if_neg hi)).trans ?_))
      exact congrArg BitVec.toNat (hr.readRank f.b.toNat s.mcyc false).1
  split at he
  next b st3 hst3 =>
  have h2 := h1.useB (entryType (s.mentry f)) true false
  have hb : (st2.useB (entryType (s.mentry f)) true false).1 = s.slice.b := h1.slice_b
  rw [hst3] at h2 hb
  obtain rfl : b = s.slice.b := hb
  extract_lets ax at he
  have hsums := s.gives_sparseSums f hty (s.arow f false).1 br 0
  split at he
  next sums fl hs =>
  have hsums := (congrArg Prod.fst hs).symm.trans hsums
  dsimp only at hsums
  have hi : isInt = decide (3 ≤ s.mType f ∧ s.mType f ≤ 8) := isInt_eq _
  rw [hsums, hi] at he
  refine State.owesUpdate he (h2.event _ _ _) (by simp [State.sparseSums]) rfl fun j hj => ?_
  rw [← s.mSparse_two f hbr, State.sparseSums, getD_map_range _ hj]
  exact windowSum_spec _ _

/-! ### MMAP (R215) -/

theorem State.SliceStep.owed_nil {s t : State} {near : List Nat} (h : s.SliceStep t near []) : t.here.owed = s.here.owed := by
  obtain ⟨os, hos, hall⟩ := h.owes
  rw [List.forall₂_nil_left_iff] at hall
  rw [hos, hall, List.append_nil]

/-- The products of the half of a paired row that runs. -/
def State.pairOwn (row : Nat) : List (List Num) := (List.range 32).map (s.mDense f row)

/-- What the west half latched for this cycle. -/
def State.pairHeld : List (List Num) := (((s.here.slice (s.cur.s - 1)).pair.find? fun e => e.1 == s.mcyc).map Prod.snd).getD []

/-- The west half latches its products for a cycle. -/
def Slice.latchPair (c : Nat) (own : List (List Num)) (sl : Slice) : Slice := { sl with pair := sl.pair ++ [(c, own)] }

/-- The east half takes those of a cycle. -/
def Slice.takePair (c : Nat) (sl : Slice) : Slice := { sl with pair := sl.pair.filter fun e => e.1 != c }

/-- What MMAP does once it has its products. -/
theorem State.exec_mmap : ∃ t fl, s.SliceStep t s.pairNear [] ∧ t.slice.pair = s.slice.pair
    ∧ exec (.mmap f) s = .next (if (s.cur.s % 2 == 0) = true then t.onSlice (Slice.latchPair (s.mcyc + 1) (s.pairOwn f (s.arow f (f.imm.getLsbD 3)).1))
      else (((t.onCore fun c => c.onSlice (s.cur.s - 1) (Slice.takePair s.mcyc)).event fl 0 s.mcyc).oweRow f (s.mcyc + 8)
        (decide (3 ≤ s.mType f ∧ s.mType f ≤ 8)) false
        ((List.range 32).map fun j => windowSum (s.mRm f == 4) ((s.pairHeld).getD j [] ++ (s.pairOwn f (s.arow f (f.imm.getLsbD 3)).1).getD j [])) [])) := by
  have he : exec (.mmap f) s = execMmap f s := rfl
  have h0 := ((State.SliceStep.refl s s.pairNear).mrows f (.mmap f)).arow s.own_mem f (f.imm.getLsbD 3)
  have har := ((s.mrows_readsAs f (.mmap f)).arow f (f.imm.getLsbD 3)).1
  have hpair0 := ((s.mrows f (.mmap f)).arow_pair f (f.imm.getLsbD 3)).trans (congrArg (fun sl => sl.pair) (s.mrows_readsAs f (.mmap f)).slice)
  unfold execMmap at he
  extract_lets ty fi isInt west st0 latch held at he
  split at he
  next ar st1 h1 =>
  rw [h1] at h0 har hpair0
  obtain rfl : ar = (s.arow f (f.imm.getLsbD 3)).1 := har
  split at he
  next b st2 h2 =>
  have hb : (st1.useB ty false west).1 = s.slice.b := h0.slice_b
  have hstep := h0.useB ty false west
  have hpair := (congrArg (fun sl => sl.pair) (st1.useB_readsAs ty false west).slice).trans hpair0
  rw [h2] at hb hstep hpair
  obtain rfl : b = s.slice.b := hb
  split at he
  next own fl h3 =>
  have hown : own = s.pairOwn f (s.arow f (f.imm.getLsbD 3)).1 := (congrArg Prod.fst h3).symm.trans (gives_cellsOf (s.gives_denseCell f _) 32 0)
  subst hown
  have hi : isInt = decide (3 ≤ s.mType f ∧ s.mType f ≤ 8) := isInt_eq _
  rw [hi, s.mmode_eq f] at he
  have hsums := gives_cellsOf (fun j => gives_exactSum (s.mRm f == 4) (held.getD j [] ++ (s.pairOwn f (s.arow f (f.imm.getLsbD 3)).1).getD j [])) 32 0
  generalize StateT.run (cellsOf (α := ExactSum) _ 32) 0 = r at he hsums
  obtain ⟨sums, fl2⟩ := r
  obtain rfl := hsums
  exact ⟨st2.event fl 0 s.mcyc, fl2, hstep.event _ _ _, (congrArg (fun sl => sl.pair) (st2.event_readsAs fl 0 s.mcyc).slice).trans hpair, he⟩

theorem State.mmap_west (hw : s.cur.s % 2 = 0) : Runs (.mmap f) s fun t => ∃ own, t.slice.pair = s.slice.pair ++ [(s.cur.X + s.cur.row + 1, own)] ∧ own.length = 32
    ∧ (∀ j < 32, own.getD j [] = s.mDense f (s.arow f (f.imm.getLsbD 3)).1 j) ∧ t.here.owed = s.here.owed := by
  obtain ⟨t, fl, hstep, hpair, he⟩ := s.exec_mmap f
  rw [if_pos (beq_iff_eq.mpr hw)] at he
  refine ⟨_, he, s.pairOwn f (s.arow f (f.imm.getLsbD 3)).1, ?_, by simp [State.pairOwn], fun j hj => getD_map_range _ hj _, ?_⟩
  · rw [State.slice_onSlice]
    exact congrArg (· ++ _) hpair
  · exact (hstep.onSlice s.own_mem (g := Slice.latchPair _ _) (fun _ => rfl) fun _ => rfl).owed_nil

theorem State.mmap_east (hw : s.cur.s % 2 = 1) : Runs (.mmap f) s fun t => s.OwesUpdate t f (s.cur.X + s.cur.row + 7) (decide (3 ≤ s.mType f ∧ s.mType f ≤ 8)) false
    (fun j S _ => WindowSum (s.mRm f == 4) (s.pairHeld.getD j [] ++ s.mDense f (s.arow f (f.imm.getLsbD 3)).1 j) S) false := by
  obtain ⟨t, fl, hstep, -, he⟩ := s.exec_mmap f
  rw [if_neg (by rw [beq_iff_eq]; omega)] at he
  have h2 := hstep.andThen (.sliceOf _ (n := s.cur.s - 1) (g := Slice.takePair s.mcyc) s.west_mem rfl
    fun _ => ⟨0, rfl⟩)
  refine State.owesUpdate he (h2.event _ _ _) (by simp) rfl fun j hj => ?_
  rw [getD_map_range _ hj, State.pairOwn, getD_map_range _ hj]
  exact windowSum_spec _ _

/-! ### MMG (R216) -/

/-- A row of pairs as its eight pairs are read. -/
theorem State.pairOf_pairRow {k : Nat} (hk : k < 8) : s.pairOf (s.pairRow f).1 k = s.mPair f k := by
  unfold State.pairRow State.mPair
  split
  · have hm : ∀ i < 16, ∀ x, elemOf 32 i (bitsOf x (512 * s.cur.row) 512) = elemOf 32 i (x / 2 ^ (512 * s.cur.row)) := fun i hi x => by
      rw [bitsOf_eq]
      exact elemOf_mod_two_pow (by omega : 32 * (i + 1) ≤ 512) _
    unfold State.pairOf
    dsimp only
    rw [hm _ (by omega), hm _ (by omega)]
    rfl
  · rfl

theorem State.getD_pairs {k : Nat} (hk : k < 8) (d : Pair) : ((List.range 8).map fun k => s.pairOf (s.pairRow f).1 k).getD k d = s.mPair f k :=
  (getD_map_range _ hk d).trans (s.pairOf_pairRow f hk)

/-- The window sums of both planes of a row, from the addends of its cells. -/
def State.bothSums (cell : Nat → List Num × List Num) : List ExactSum × List ExactSum :=
  ((List.range 32).map fun j => windowSum (s.mRm f == 4) (cell j).1, (List.range 32).map fun j => windowSum (s.mRm f == 4) (cell j).2)

theorem State.bothSums_owes {i : Instr} {t : State} {cell : Nat → List Num × List Num}
    (he : exec i s = .next (t.oweRow f (s.mcyc + 12) false false (s.bothSums f cell).1 (s.bothSums f cell).2)) (h : s.SliceStep t s.pairNear []) :
    Runs i s fun t => s.OwesUpdate t f (s.cur.X + s.cur.row + 11) false false
      (fun j S V => WindowSum (s.mRm f == 4) (cell j).1 S ∧ WindowSum (s.mRm f == 4) (cell j).2 V) true := by
  refine State.owesUpdate he h (by simp [State.bothSums]) (by simp [State.bothSums]) fun j hj => ?_
  rw [State.bothSums, getD_map_range _ hj, getD_map_range _ hj]
  exact ⟨windowSum_spec _ _, windowSum_spec _ _⟩

theorem flatten_singletons {α : Type} (g : Nat → α) (l : List Nat) : (l.map fun k => [g k]).flatten = l.map g := by
  induction l with
  | nil => rfl
  | cons k ks ih => rw [List.map_cons, List.flatten_cons, ih]; rfl

/-- The addends of pair `k` of a cell of MMG. -/
def State.meanOf (j k : Nat) : List Num × List Num :=
  let a := s.mPair f k
  let b := s.mElem 0 (s.slice.b.col j) k
  ([if a.1.isNan || a.2.isNan then .nan false else (prodOf a.1 b).scale (s.mSc f)],
   [if a.1.isNan || a.2.isNan then .nan false else (prodOf a.2 (prodOf b b)).scale (s.mSc f)])

theorem State.mMean_eq (j : Nat) :
    (((List.range 8).map fun k => (s.meanOf f j k).1).flatten, ((List.range 8).map fun k => (s.meanOf f j k).2).flatten) = s.mMean f j :=
  Prod.ext (flatten_singletons _ _) (flatten_singletons _ _)

section
variable {s f} {ps : List Pair} (hps : ∀ k < 8, ps.getD k (.nan false, .nan false) = s.mPair f k)
include hps

theorem State.gives_meanCell (j : Nat) :
    (sumPairs (fun k => mmgAddends (s.mscale f) (ps.getD k (.nan false, .nan false)) (matElem 0 (s.tab.flush.getLsbD 0) (s.slice.b.col j) k)) (List.range 8)).Gives
      (s.mMean f j) := by
  rw [← s.mMean_eq f j]
  refine gives_sumPairs fun k hk => ?_
  rw [hps k (List.mem_range.mp hk), show matElem 0 (s.tab.flush.getLsbD 0) (s.slice.b.col j) k = s.mElem 0 (s.slice.b.col j) k from s.matElem_eq 0 _ k]
  exact gives_mmgAddends _ _ _

theorem State.gives_meanSums : (planeSums (s.mmode f == 4) fun j =>
    sumPairs (fun k => mmgAddends (s.mscale f) (ps.getD k (.nan false, .nan false)) (matElem 0 (s.tab.flush.getLsbD 0) (s.slice.b.col j) k)) (List.range 8)).Gives
      (s.bothSums f (s.mMean f)) := by
  rw [s.mmode_eq f]
  exact gives_planeSums (State.gives_meanCell hps)

end

theorem State.mmg_runs : Runs (.mmg f) s fun t => s.OwesUpdate t f (s.cur.X + s.cur.row + 11) false false
    (fun j S V => WindowSum (s.mRm f == 4) (s.mMean f j).1 S ∧ WindowSum (s.mRm f == 4) (s.mMean f j).2 V) true := by
  have he : exec (.mmg f) s = execMmg f s := rfl
  have h0 := ((State.SliceStep.refl s s.pairNear).mrows f (.mmg f)).pairRow s.own_mem f
  have hx := (s.mrows_readsAs f (.mmg f)).pairRow f
  unfold execMmg at he
  extract_lets fi st0 at he
  split at he
  next x base st1 h1 =>
  rw [h1] at h0 hx
  obtain rfl : x = (s.pairRow f).1 := hx
  split at he
  next ps st2 h2 =>
  have hps : ps = (List.range 8).map fun k => s.pairOf (s.pairRow f).1 k := (congrArg Prod.fst h2).symm.trans (State.readPairs_eq h0.tab _ _)
  have hstep := h0.readPairs (s.pairRow f).1 base
  rw [h2] at hstep
  split at he
  next b st3 h3 =>
  have hb : (st2.useB 0 false false).1 = s.slice.b := hstep.slice_b
  have hstep' := hstep.useB 0 false false
  rw [h3] at hb hstep'
  obtain rfl : b = s.slice.b := hb
  have hsums := State.gives_meanSums (s := s) (f := f) (ps := ps) (fun k hk => hps ▸ s.getD_pairs f hk _) 0
  split at he
  next s0 s1 fl h4 =>
  have hsums := (congrArg Prod.fst h4).symm.trans hsums
  obtain rfl : s0 = (s.bothSums f (s.mMean f)).1 := congrArg Prod.fst hsums
  obtain rfl : s1 = (s.bothSums f (s.mMean f)).2 := congrArg Prod.snd hsums
  exact s.bothSums_owes f he (hstep'.event _ _ _)

end

end Sys2Proof.Machine
end

section
/-!
PROOF of O44. MMG2, whose tiles are taken whole at X (R217), and the statement.
-/
namespace Sys2Proof.Machine
open Flagged

/-! ### The tiles -/

theorem State.foldl_slice {α : Type} {f : State → α → State} (l : List α) (hf : ∀ u a, (f u a).slice = u.slice) (s : State) : (l.foldl f s).slice = s.slice := by
  induction l generalizing s with
  | nil => rfl
  | cons a l ih => exact (ih _).trans (hf s a)

theorem State.later_slice (s : State) (cyc row : Nat) (i : Instr) : (s.later cyc row i).slice = s.slice := by
  rw [State.slice, State.later, here_onCore]
  rfl

theorem State.mrows_slice (s : State) (f : MF) (i : Instr) : (s.mrows f i).slice = s.slice := by
  unfold State.mrows
  split
  · exact (State.foldl_slice _ (fun u _ => u.later_slice _ _ _) _).trans (State.foldl_slice _ (fun u _ => (u.mark_quiet _ _).slicesStay.own) s)
  · rfl

section
variable (s : State) (f : MF)

/-- The tiles of an MMG2, as they stand: the rows of means, then those of variances. -/
def State.tilePair : List TileRow := (List.range 64).map fun j => SMap.get (0 : TileRow) s.slice.t (32 * (f.b.toNat - 0x40) + j)

theorem State.tilePair_eq : ((List.range 32).map fun j => s.slice.tileRow (f.b.toNat - 0x40) j) ++ ((List.range 32).map fun j => s.slice.tileRow (f.b.toNat - 0x40 + 1) j)
    = s.tilePair f := by
  unfold State.tilePair Slice.tileRow
  rw [show 64 = 32 + 32 from rfl, List.range_add, List.map_append, List.map_map]
  refine congrArg _ (List.map_congr_left fun j _ => congrArg (SMap.get 0 s.slice.t) ?_)
  dsimp only
  omega

/-- The latch of an MMG2 takes tiles. -/
def Slice.takeTiles (X : Nat) (rows : List TileRow) (sl : Slice) : Slice := { sl with mmg2 := sl.mmg2 ++ [(X, rows)] }

theorem State.takeMmg2_spec : s.ReadsAs (s.takeMmg2 f) ∧ (s.takeMmg2 f).slice.mmg2 = s.slice.mmg2 ++ [(s.X, s.tilePair f)] := by
  unfold State.takeMmg2
  extract_lets n rows st st'
  have hrows : rows = s.tilePair f := s.tilePair_eq f
  have h1 : s.ReadsAs st := (State.ReadsAs.refl s).foldl _ fun u _ => (u.sample_readsAs _ _).trans (State.sample_readsAs _ _ _)
  have h1s : st.slice = s.slice := State.foldl_slice _ (fun u _ => ((State.sample_quiet _ _ _).slicesStay.own).trans (u.sample_quiet _ _).slicesStay.own) s
  have h2 : s.ReadsAs st' := h1.trans (State.onSlice_readsAs st (g := Slice.takeTiles s.X rows) fun _ => rfl)
  have h2s : st'.slice.mmg2 = s.slice.mmg2 ++ [(s.X, s.tilePair f)] := by
    have h : st'.slice = Slice.takeTiles s.X rows st.slice := State.slice_onSlice st _
    rw [h, h1s, hrows]
    rfl
  refine ⟨h2.foldl _ fun u k => ?_, (congrArg (fun sl => sl.mmg2) (State.foldl_slice _ (fun u k => ?_) st')).trans h2s⟩
  · split
    · split
      · exact u.event_readsAs _ _ _
      · exact u.trapS_readsAs _ _ _
    · exact .refl u
  · split
    · split
      · exact (u.event_slicesStay _ _ _).own
      · exact (u.trapS_slicesStay _ _ _).own
    · rfl

/-- The tiles that an MMG2 multiplies by. -/
def State.tilesTaken : List TileRow :=
  (((s.slice.mmg2 ++ if s.cur.row = 0 then [(s.cur.X, s.tilePair f)] else []).find? fun e => e.1 == s.cur.X).map fun e => e.2).getD []

theorem State.mmg2B_eq (rows : List TileRow) (j k : Nat) : mmg2B (s.tab.flush.getLsbD 0) s.clamp rows j k
    = (rd32 (flushed (s.tab.flush.getLsbD 0) (elemOf 32 k (rows.getD j 0).toNat)),
       rd32 (s.varIn (flushed (s.tab.flush.getLsbD 0) (elemOf 32 k (rows.getD (32 + j) 0).toNat)))) := by
  have hv : ∀ v, (if (negVar v && s.clamp) = true then 0 else posZero v) = s.varIn v := fun v => by
    unfold State.varIn State.varOut State.clamp
    split <;> rfl
  unfold mmg2B
  dsimp only
  rw [hv, flushHalf_eq, flushHalf_eq, elemAt_eq_elemOf, elemAt_eq_elemOf]

/-- The addends of pair `k` of a cell of MMG2. -/
def State.bothOf (rows : List TileRow) (j k : Nat) : List Num × List Num :=
  let a := s.mPair f k
  let b := mmg2B (s.tab.flush.getLsbD 0) s.clamp rows j k
  if a.1.isNan || a.2.isNan || b.1.isNan || b.2.isNan then ([.nan false], [.nan false])
  else
    let c := covOf s.rho a.2 b.2
    ([prodOf a.1 b.1, c].map (·.scale (s.mSc f)),
     [prodOf (prodOf a.1 a.1) b.2, prodOf (prodOf b.1 b.1) a.2, (prodOf (prodOf a.1 b.1) c).scale 1, prodOf a.2 b.2, prodOf c c].map (·.scale (s.mSc f)))

theorem State.mBoth_eq (rows : List TileRow) (j : Nat) :
    (((List.range 8).map fun k => (s.bothOf f rows j k).1).flatten, ((List.range 8).map fun k => (s.bothOf f rows j k).2).flatten) = s.mBoth f rows j := by
  unfold State.bothOf
  simp only [s.mmg2B_eq]
  rfl

section
variable {s f} {ps : List Pair} (hps : ∀ k < 8, ps.getD k (.nan false, .nan false) = s.mPair f k)
include hps

theorem State.gives_bothSums (rows : List TileRow) : (planeSums (s.mmode f == 4) fun j => sumPairs (fun k =>
    mmg2Addends (s.mscale f) (if s.tab.cov.toNat % 4 = 1 then 1 else if s.tab.cov.toNat % 4 = 2 then -1 else 0) (ps.getD k (.nan false, .nan false))
      (mmg2B (s.tab.flush.getLsbD 0) s.clamp rows j k)) (List.range 8)).Gives (s.bothSums f (s.mBoth f rows)) := by
  rw [s.mmode_eq f, s.rho_eq]
  refine gives_planeSums fun j => ?_
  rw [← s.mBoth_eq f rows j]
  refine gives_sumPairs fun k hk => ?_
  rw [hps k (List.mem_range.mp hk)]
  exact gives_mmg2Addends _ _ _ _

end

/-- The last row gives the tiles back. -/
def Slice.dropTiles (X : Nat) (sl : Slice) : Slice := { sl with mmg2 := sl.mmg2.filter fun e => e.1 != X }

theorem State.mmg2_runs : Runs (.mmg2 f) s fun t => s.OwesUpdate t f (s.cur.X + s.cur.row + 11) false false
    (fun j S V => WindowSum (s.mRm f == 4) (s.mBoth f (s.tilesTaken f) j).1 S ∧ WindowSum (s.mRm f == 4) (s.mBoth f (s.tilesTaken f) j).2 V) true := by
  have he : exec (.mmg2 f) s = execMmg2 f s := rfl
  unfold execMmg2 at he
  extract_lets st st' rows m rho at he
  have h0 : s.SliceStep st s.pairNear [] := (State.SliceStep.refl s s.pairNear).mrows f (.mmg2 f)
  have hr0 : s.ReadsAs st := s.mrows_readsAs f (.mmg2 f)
  have h1 : s.SliceStep st' s.pairNear [] ∧ s.ReadsAs st' ∧ rows = s.tilesTaken f := by
    have hst : st.slice = s.slice := s.mrows_slice f (.mmg2 f)
    have hrows : rows = ((st'.slice.mmg2.find? fun e => e.1 == s.X).map Prod.snd).getD [] := rfl
    rw [hrows]
    unfold st' State.tilesTaken
    split
    · obtain ⟨hr, hm⟩ := st.takeMmg2_spec f
      refine ⟨h0.takeMmg2 s.own_mem f, hr0.trans hr, ?_⟩
      rw [hm, hst, hr0.X, State.tilePair, hst]
      rfl
    · refine ⟨h0, hr0, ?_⟩
      rw [hst, List.append_nil]
      rfl
  obtain ⟨h1, hr1, hrows⟩ := h1
  have h2 := h1.pairRow s.own_mem f
  have hx := hr1.pairRow f
  split at he
  next x base st1 e1 =>
  rw [e1] at h2 hx
  obtain rfl : x = (s.pairRow f).1 := hx
  split at he
  next ps st2 e2 =>
  have hps : ps = (List.range 8).map fun k => s.pairOf (s.pairRow f).1 k := (congrArg Prod.fst e2).symm.trans (State.readPairs_eq h2.tab _ _)
  have hstep := h2.readPairs (s.pairRow f).1 base
  rw [e2] at hstep
  extract_lets last at he
  have hsums := State.gives_bothSums (s := s) (f := f) (ps := ps) (fun k hk => hps ▸ s.getD_pairs f hk _) (s.tilesTaken f) 0
  rw [← hrows] at hsums
  split at he
  next s0 s1 fl e3 =>
  have hsums := (congrArg Prod.fst e3).symm.trans hsums
  rw [← hrows]
  obtain rfl : s0 = (s.bothSums f (s.mBoth f rows)).1 := congrArg Prod.fst hsums
  obtain rfl : s1 = (s.bothSums f (s.mBoth f rows)).2 := congrArg Prod.snd hsums
  refine s.bothSums_owes f he (State.SliceStep.event ?_ _ _ _)
  unfold last
  split
  · exact hstep.onSlice s.own_mem (g := Slice.dropTiles s.X) (fun _ => rfl) fun _ => rfl
  · exact hstep

end

/-- Settles O44. -/
theorem floatingProducts : Obligations.FloatingProducts := by
  intro f s c rd whole byp row two held tiles taken
  refine ⟨fun e he => ?_, s.mmas_runs f, s.mmap_west f, s.mmap_east f, s.mmg_runs f, s.mmg2_runs f⟩
  obtain ⟨t, hexec, u, os, hos, hall, h1, h2, h3, h4, h5, h6, h7, h8, h9, hsums⟩ := s.dense_owes f e he
  refine ⟨t, hexec, u, os, hos, hall, h1, h2, h3, h4, h5, h6, h7, h8, h9, fun j hj => ?_⟩
  rw [hsums j hj]
  exact windowSum_spec _ _

end Sys2Proof.Machine
end

section
/-!
PROOF of O42. The M forms that move bytes: MFILL, MDRN, MLDB, MLDMD and MZERO (R210 to R212, R220).
-/
namespace Sys2Proof.Machine
open Flagged

theorem State.SliceStep.owes_one {s t : State} {near : List Nat} {e : Nat × Dest} (h : s.SliceStep t near [e]) :
    ∃ o, t.here.owed = s.here.owed ++ [o] ∧ s.cur.owes e o := by
  obtain ⟨os, hos, hall⟩ := h.owes
  obtain ⟨o, os', ho, hnil, rfl⟩ := List.forall₂_cons_left_iff.mp hall
  rw [List.forall₂_nil_left_iff] at hnil
  subst hnil
  exact ⟨o, hos, ho⟩

theorem b2n_getLsbD_three {w : Nat} (x : BitVec w) : b2n (x.getLsbD 3) = x.toNat / 8 % 2 := by
  rw [BitVec.getLsbD, Nat.testBit_eq_decide_div_mod_eq]
  rcases Nat.mod_two_eq_zero_or_one (x.toNat / 8) with h | h <;> simp [h, b2n]

section
variable (s : State) (f : MF)

theorem State.mfill_runs : ∃ v : TileRow, v.toNat = (s.readRank f.a.toNat (s.cur.X + s.cur.row) (f.pka == 1)).1.toNat
    ∧ Runs (.mfill f) s fun t => ∃ o, t.here.owed = s.here.owed ++ [o]
      ∧ s.cur.owes (s.cur.X + s.cur.row, .tile (f.dst.toNat - 0x40) (s.rowOf f) (64 * (f.imm.toNat / 8 % 2)) (s.tileBytes f) v) o := by
  have hread := ((s.mrows_readsAs f (.mfill f)).readRank f.a.toNat s.mcyc (f.pka == 1)).1
  have h1 := ((State.SliceStep.refl s s.pairNear).mrows f (.mfill f)).readRank s.own_mem f.a.toNat s.mcyc (f.pka == 1)
  have h2 := (h1.writeTile (f.dst.toNat - 0x40) (s.mrow f) (64 * b2n (f.imm.getLsbD 3)) (s.tileBytes f) (s.mcyc + 1)
    ((s.mrows f (.mfill f)).readRank f.a.toNat s.mcyc (f.pka == 1)).1.toNat).owes_one
  have he : exec (.mfill f) s = .next (((s.mrows f (.mfill f)).readRank f.a.toNat s.mcyc (f.pka == 1)).2.writeTile (f.dst.toNat - 0x40) (s.mrow f)
    (64 * b2n (f.imm.getLsbD 3)) (s.tileBytes f) (s.mcyc + 1) ((s.mrows f (.mfill f)).readRank f.a.toNat s.mcyc (f.pka == 1)).1.toNat) := rfl
  rw [b2n_getLsbD_three] at h2 he
  refine ⟨_, ?_, _, he, h2⟩
  rw [hread]
  exact (BitVec.toNat_ofNat _ _).trans (Nat.mod_eq_of_lt ((BitVec.isLt _).trans (Nat.pow_lt_pow_right (by decide) (by decide))))

theorem State.mdrn_runs : ∃ v : Rank, (s.tileBytes f ≤ 64 → v.toNat = (SMap.get (0 : TileRow) s.slice.t (32 * (f.a.toNat - 0x40) + s.rowOf f)).toNat
      / 2 ^ (8 * (64 * (f.imm.toNat / 8 % 2))) % 2 ^ (8 * s.tileBytes f))
    ∧ Runs (.mdrn f) s fun t => s.OwesRank t f.dst.toNat (s.cur.X + s.cur.row + 1) v := by
  have h0 := (State.SliceStep.refl s s.pairNear).mrows f (.mdrn f)
  have hrow : ((s.mrows f (.mdrn f)).readTile (f.a.toNat - 0x40) (s.mrow f)).1 = SMap.get (0 : TileRow) s.slice.t (32 * (f.a.toNat - 0x40) + s.rowOf f) :=
    congrArg (fun m => SMap.get (0 : TileRow) m (32 * (f.a.toNat - 0x40) + s.rowOf f)) h0.slice_t
  have he : exec (.mdrn f) s = .next (((s.mrows f (.mdrn f)).readTile (f.a.toNat - 0x40) (s.mrow f)).2.writeRank f.dst.toNat (s.mcyc + 2) (BitVec.ofNat 512
    (bitsOf ((s.mrows f (.mdrn f)).readTile (f.a.toNat - 0x40) (s.mrow f)).1.toNat (512 * b2n (f.imm.getLsbD 3)) (8 * s.tileBytes f)))) := rfl
  refine ⟨_, fun hb => ?_, _, he, ((h0.readTile (f.a.toNat - 0x40) (s.mrow f)).writeRank f.dst.toNat (s.mcyc + 2) (BitVec.ofNat 512
    (bitsOf ((s.mrows f (.mdrn f)).readTile (f.a.toNat - 0x40) (s.mrow f)).1.toNat (512 * b2n (f.imm.getLsbD 3)) (8 * s.tileBytes f)))).owes⟩
  rw [hrow, BitVec.toNat_ofNat, bitsOf_eq, b2n_getLsbD_three, show 512 * (f.imm.toNat / 8 % 2) = 8 * (64 * (f.imm.toNat / 8 % 2)) by ring]
  exact Nat.mod_eq_of_lt ((Nat.mod_lt _ (Nat.two_pow_pos _)).trans_le (Nat.pow_le_pow_right (by decide) (by omega)))

/-! ### MLDB (R211) -/

/-- The B with which an MLDB starts. -/
def State.startB (sl : Slice) : StatB where
  ty := some (BitVec.ofNat 4 (entryType (s.mentry f)))
  sparse := f.imm.getLsbD 0
  md := if f.imm.getLsbD 0 then SMap.get 0 sl.d (f.b.toNat - 0x50) else 0
  cols := []

/-- The B that an MLDB has loaded before the column of its running row. -/
def State.loadedB : StatB := if s.cur.row = 0 then s.startB f s.slice else s.slice.bl

/-- A column of the B that an MLDB loads. -/
def StatB.withCol (b : StatB) (j : Nat) (v : TileRow) : StatB := { b with cols := SMap.set 0 b.cols j v }

/-- The slice as an MLDB starts a B, and as it adds a column. -/
def Slice.load (g : Slice → StatB) (sl : Slice) : Slice := { sl with bl := g sl }

/-- The B with the column of the running row. -/
def State.nextB : StatB := (s.loadedB f).withCol s.cur.row (SMap.get 0 s.slice.t (32 * (f.a.toNat - 0x40) + s.cur.row))

theorem State.nextB_first (h : s.cur.row = 0) : (s.nextB f).ty = some (BitVec.ofNat 4 (s.mType f)) ∧ (s.nextB f).sparse = f.imm.getLsbD 0
    ∧ (s.nextB f).md = if f.imm.getLsbD 0 then SMap.get 0 s.slice.d (f.b.toNat - 0x50) else 0 := by
  rw [State.nextB, State.loadedB, if_pos h]
  exact ⟨rfl, rfl, rfl⟩

theorem State.nextB_later (h : ¬s.cur.row = 0) :
    (s.nextB f).ty = s.slice.bl.ty ∧ (s.nextB f).sparse = s.slice.bl.sparse ∧ (s.nextB f).md = s.slice.bl.md := by
  rw [State.nextB, State.loadedB, if_neg h]
  exact ⟨rfl, rfl, rfl⟩

theorem State.nextB_col (k : Nat) : SMap.get 0 (s.nextB f).cols k = if k = s.cur.row then SMap.get 0 s.slice.t (32 * (f.a.toNat - 0x40) + k)
    else if s.cur.row = 0 then 0 else SMap.get 0 s.slice.bl.cols k := by
  refine (SMap.get_set _ _ _ _ _).trans ?_
  by_cases hk : k = s.cur.row
  · rw [if_pos hk, if_pos hk, hk]
  · rw [if_neg hk, if_neg hk, State.loadedB]
    split <;> rfl

theorem State.exec_mldb : ∃ t, s.SliceStep t s.pairNear [] ∧ t.slice.bl = s.nextB f
    ∧ exec (.mldb f) s = .next (if s.cur.row = 31 then t.owe (s.X + 33) (.statB t.slice.bl) else t) := by
  have he : exec (.mldb f) s = execMldb f s := rfl
  unfold execMldb at he
  extract_lets sparse j d st st' s0 at he
  have h1 : s.SliceStep st s.pairNear [] := (State.SliceStep.refl s _).foldl _ fun _ _ hu => hu.later _ _ _
  have h2 : s.SliceStep st' s.pairNear [] := by
    unfold st'
    split
    · exact h1.foldl _ fun _ _ hu => hu.sample _ _
    · exact h1
  have h0 : s.SliceStep s0 s.pairNear [] ∧ s0.slice.bl = s.loadedB f := by
    unfold s0 State.loadedB
    split
    · have h3 := h2.onSlice s.own_mem (g := Slice.load (s.startB f)) (fun _ => rfl) fun _ => rfl
      refine ⟨h3.mMarks (.mldb f) s.X, ?_⟩
      have hd : st'.slice.d = s.slice.d := h2.slice_d
      refine (congrArg (fun sl => sl.bl) (State.foldl_slice _ (fun u _ => (u.mark_quiet _ _).slicesStay.own) _)).trans ?_
      have hload : (st'.onSlice (Slice.load (s.startB f))).slice.bl = s.startB f st'.slice := congrArg (fun sl => sl.bl) (State.slice_onSlice _ _)
      refine hload.trans ?_
      unfold State.startB
      rw [hd]
    · exact ⟨.refl s _, rfl⟩
  obtain ⟨h0, hbl⟩ := h0
  split at he
  next v s1 e1 =>
  have hv : v = SMap.get 0 s.slice.t (32 * (f.a.toNat - 0x40) + s.cur.row) :=
    (congrArg Prod.fst e1).symm.trans (congrArg (fun m => SMap.get (0 : TileRow) m (32 * (f.a.toNat - 0x40) + s.cur.row)) h0.slice_t)
  have h1 := h0.readTile (f.a.toNat - 0x40) j
  have hbl1 : (s0.readTile (f.a.toNat - 0x40) j).2.slice.bl = s.loadedB f := (congrArg (fun sl => sl.bl) (s0.sample_quiet _ _).slicesStay.own).trans hbl
  rw [e1] at h1 hbl1
  have h4 := h1.onSlice s.own_mem (g := Slice.load fun sl => sl.bl.withCol j v) (fun _ => rfl) fun _ => rfl
  refine ⟨_, h4, ?_, he⟩
  refine (congrArg (fun sl => sl.bl) (State.slice_onSlice s1 _)).trans ?_
  change s1.slice.bl.withCol j v = _
  rw [hv]
  exact congrArg (fun b : StatB => b.withCol s.cur.row _) hbl1

theorem State.mldb_runs : Runs (.mldb f) s fun t => t.slice.bl = s.nextB f
    ∧ ∃ os, t.here.owed = s.here.owed ++ os ∧ List.Forall₂ s.cur.owes (if s.cur.row = 31 then [(s.cur.X + 33, .statB t.slice.bl)] else []) os := by
  obtain ⟨t, hstep, hbl, he⟩ := s.exec_mldb f
  by_cases h31 : s.cur.row = 31
  · simp only [h31, if_true] at he ⊢
    have hs : (t.owe (s.X + 33) (.statB t.slice.bl)).slice.bl = t.slice.bl := congrArg (fun sl => sl.bl) (t.owe_quiet _ _).slicesStay.own
    refine ⟨_, he, hs.trans hbl, ?_⟩
    rw [hs]
    exact (hstep.owe _ _).owes
  · simp only [h31, if_false] at he ⊢
    exact ⟨_, he, hbl, hstep.owes⟩

theorem State.mldmd_runs : Runs (.mldmd f) s fun t => ∃ o, t.here.owed = s.here.owed ++ [o]
    ∧ s.cur.owes (s.cur.X + 3, .md (f.dst.toNat - 0x50) (f.row0.toNat % 4) (s.readRank f.a.toNat s.cur.X (f.pka == 1)).1) o := by
  have h1 := (State.SliceStep.refl s s.pairNear).readRank s.own_mem f.a.toNat s.X (f.pka == 1)
  exact ⟨_, rfl, ((h1.mMarks (.mldmd f) s.X).owe (s.X + 3) (.md (f.dst.toNat - 0x50) (f.row0.toNat % 4) (s.readRank f.a.toNat s.X (f.pka == 1)).1)).owes_one⟩

theorem State.mzero_runs : Runs (.mzero f) s fun t => ∃ os, t.here.owed = s.here.owed ++ os ∧ List.Forall₂ s.cur.owes
    ((List.range (f.rows.toNat + 1)).map fun k => (s.cur.X, .zeroRow (f.acc.toNat - 0x48) (f.row0.toNat + k))) os := by
  let ty := entryType (s.mentry f)
  have h1 := ((State.SliceStep.refl s s.pairNear).setTag s.own_mem (f.acc.toNat - 0x48) (isI ty || isN ty)).mMarks (.mzero f) s.X
  have h2 := h1.foldlOwes (f := fun u k => u.owe s.X (.zeroRow (f.acc.toNat - 0x48) (f.row0.toNat + k)))
    (g := fun k => (s.cur.X, .zeroRow (f.acc.toNat - 0x48) (f.row0.toNat + k))) (List.range (f.rows.toNat + 1)) fun u m k hu => hu.owe _ _
  exact ⟨_, rfl, h2.owes⟩

end

end Sys2Proof.Machine
end

section
/-!
PROOF of O42. The drains (R218, R219), and the statement.
-/
namespace Sys2Proof.Machine
open Flagged

/-! ### One cell -/

/-- The relu of an integer cell. -/
theorem relu_int (relu : Bool) (v : Int) : (if (relu && decide (v ≤ 0)) = true then 0 else v) = if relu = true then max 0 v else v := by
  cases relu
  · rfl
  · by_cases h : v ≤ 0
    · simp [h]
    · simp [h, le_of_not_ge h]

section
variable (s : State) (f : MF)

theorem State.round_drained (hf : s.mType f < 3) (x : Num) :
    ((layoutOf (s.mType f)).round (s.mRm f) (flushOut s.tab.flush (s.mType f)) x).Gives (roundTo (layoutOf (s.mType f)) (s.mRm f) (s.flushBit (s.mType f) 1) x) := by
  rw [flushOut_of_float hf]
  exact gives_round _ _ _ _

/-- A computation gives the bits of an integer of a width. -/
def GivesBits (w : Nat) (c : Flagged Nat) (v : Int) : Prop := Steady c ∧ ((value c : Nat) : Int) % 2 ^ w = v % 2 ^ w

theorem GivesBits.of_gives {w : Nat} {c : Flagged Nat} {n : Nat} {v : Int} (h : c.Gives n) (hv : (n : Int) % 2 ^ w = v % 2 ^ w) : GivesBits w c v :=
  ⟨fun fl => (h fl).trans h.value.symm, by rw [h.value, hv]⟩

theorem State.drain_int (relu : Bool) (cell : Nat) (hrelu : relu = f.imm.getLsbD 2) :
    GivesBits (typeWidth (s.mType f)) (drainCell true relu (s.mType f) (s.mRm f) (s.mSc f) s.tab.flush cell) (s.outOf f true cell) := by
  have hcell : signedOf 32 cell = intOf 3 cell := by
    rw [signedOf_eq]
    simp [intOf, typeWidth]
  unfold drainCell State.outOf
  subst hrelu
  simp only [if_true, hcell, relu_int]
  generalize (if f.imm.getLsbD 2 = true then max 0 (intOf 3 cell) else intOf 3 cell) = v
  by_cases h3 : s.mType f = 3
  · simp only [h3, if_true]
    refine .of_gives (gives_pure _) ?_
    rw [cast_wrapInt]
    exact Int.emod_emod_of_dvd _ dvd_rfl
  · rw [if_neg h3, if_neg h3]
    by_cases hf : s.mType f < 3
    · rw [if_pos (show isF (s.mType f) = true from decide_eq_true hf), if_pos hf]
      exact .of_gives (s.round_drained f hf _) rfl
    · rw [if_neg (by simpa [isF] using hf), if_neg hf]
      refine .of_gives (gives_pure _) ?_
      rw [cast_satInt (by omega), roundInt_fst, numRat_int]
      exact Int.emod_emod_of_dvd _ dvd_rfl

theorem State.drain_float (cell : Nat) :
    GivesBits (typeWidth (s.mType f)) (drainCell false (f.imm.getLsbD 2) (s.mType f) (s.mRm f) (s.mSc f) s.tab.flush cell) (s.outOf f false cell) := by
  unfold drainCell State.outOf
  simp only [Bool.false_eq_true, if_false]
  generalize hx : f32.decode (s.tab.flush.getLsbD 0) cell = x
  have hdead : (f.imm.getLsbD 2 && !(x.isNan || !(x.isZero || x.sign))) = (f.imm.getLsbD 2 && !x.isNan && (x.sign || x.isZero)) := by
    cases f.imm.getLsbD 2 <;> cases x.isNan <;> cases x.isZero <;> cases x.sign <;> rfl
  rw [hdead]
  by_cases h0 : s.mType f = 0
  · simp only [h0, if_true]
    refine .of_gives (gives_pure (if (f.imm.getLsbD 2 && x.isNan) = true then nan32
      else if (f.imm.getLsbD 2 && !x.isNan && (x.sign || x.isZero)) = true then 0 else cell)) ?_
    cases f.imm.getLsbD 2
    · rfl
    · cases x.isNan
      · cases x.sign || x.isZero <;> rfl
      · rfl
  · rw [if_neg h0, if_neg h0]
    generalize (if (f.imm.getLsbD 2 && !x.isNan && (x.sign || x.isZero)) = true then Num.fin false 0 0 else x.scale (-s.mSc f)) = y
    by_cases hf : s.mType f < 3
    · rw [if_pos (show isF (s.mType f) = true from decide_eq_true hf), if_pos hf]
      exact .of_gives (s.round_drained f hf _) rfl
    · rw [if_neg (by simpa [isF] using hf), if_neg hf]
      obtain ⟨hst, hv⟩ := floatToInt_eq (ty := s.mType f) (by omega) (s.mRm f) y
      refine ⟨hst, ?_⟩
      rw [hv]
      exact Int.emod_emod_of_dvd _ dvd_rfl

theorem State.gives_drainCell (whole : Bool) (cell : Nat) :
    GivesBits (typeWidth (s.mType f)) (drainCell whole (f.imm.getLsbD 2) (s.mType f) (s.mmode f) (s.mscale f) s.tab.flush cell) (s.outOf f whole cell) := by
  rw [s.mmode_eq f]
  cases whole
  · exact s.drain_float f cell
  · exact s.drain_int f _ cell rfl

/-! ### A row -/

/-- The rank that a drain makes of the row of cells that runs now. -/
def State.drained (whole : Bool) : Nat :=
  rankOf (typeWidth (s.mType f)) (min 32 (512 / typeWidth (s.mType f))) fun e =>
    value (drainCell whole (f.imm.getLsbD 2) (s.mType f) (s.mmode f) (s.mscale f) s.tab.flush
      (elemAt 32 (if typeWidth (s.mType f) = 32 then 16 * (f.imm.toNat % 4) + e else e)
        (s.slice.accRow ((f.a.toNat - 0x48) % 4) ((f.a.toNat - 0x48) / 4) (s.mrow f)).toNat))

theorem State.drained_lt (whole : Bool) : s.drained f whole < 2 ^ 512 :=
  (rankOf_lt (typeWidth_pos _).ne' _).trans_le (Nat.pow_le_pow_right (by decide)
    ((Nat.mul_le_mul_left _ (min_le_right _ _)).trans (Nat.mul_div_le 512 _)))

theorem State.drained_drains (whole : Bool) : s.drains f whole (s.drained f whole) := by
  intro e he
  rw [State.drained, elemOf_rankOf]
  by_cases h32 : e < 32
  · rw [if_pos (lt_min h32 he), if_pos h32, elemAt_eq_elemOf, Int.natCast_mod]
    push_cast
    exact (s.gives_drainCell f whole _).2
  · rw [if_neg (by omega), if_neg h32]
    rfl

theorem State.drain_eq {t : State} {near : List Nat} {l : List (Nat × Dest)} (h : s.SliceStep t near l) : (t.drain f).1 = s.drained f (bitAt t.cur.aux 0) := by
  have hacc : t.slice.accRow ((f.a.toNat - 0x48) % 4) ((f.a.toNat - 0x48) / 4) (t.mrow f) = s.slice.accRow ((f.a.toNat - 0x48) % 4) ((f.a.toNat - 0x48) / 4) (s.mrow f) := by
    unfold Slice.accRow
    rw [h.slice_acc, h.mrow]
  have htype : t.mType f = s.mType f := congrArg (fun tab : Tables => entryType (tab.entry f.ty.toNat f.fs.toNat)) h.tab
  have hmode : t.mmode f = s.mmode f := congrArg (fun tab : Tables => modeInForce 0 (if f.ty = 15 then tab.entry f.ty.toNat f.fs.toNat else 0) tab.rmode) h.tab
  have hscale : t.mscale f = s.mscale f := congrArg (fun tab : Tables => if f.ty = 15 then entryScale (tab.entry f.ty.toNat f.fs.toNat) else 0) h.tab
  have hdrain : (t.drain f).1 = value (drainRank (bitAt t.cur.aux 0) (f.imm.getLsbD 2) (t.mType f) (f.imm.toNat % 4) (t.mmode f) (t.mscale f) t.tab.flush
      (t.slice.accRow ((f.a.toNat - 0x48) % 4) ((f.a.toNat - 0x48) / 4) (t.mrow f)).toNat) := rfl
  rw [hdrain, hacc, htype, hmode, hscale, h.tab]
  exact value_buildElems (fun e => (s.gives_drainCell f _ _).1) _

/-! ### Rows of pairs (R53, R54, R218) -/

/-- The value of a fold that puts together what each element gives. -/
theorem foldl_value {w : Nat} {F : Nat × State → Nat → Nat × State} {val : Nat → Nat} {Inv : State → Prop}
    (hF : ∀ acc j, Inv acc.2 → (F acc j).1 = acc.1 + val j <<< (w * j) ∧ Inv (F acc j).2) (hval : ∀ j, val j < 2 ^ w) {t : State} (ht : Inv t) (n : Nat) :
    ((List.range n).foldl F (0, t)).1 = rankOf w n val ∧ Inv ((List.range n).foldl F (0, t)).2 := by
  induction n with
  | zero => exact ⟨rfl, ht⟩
  | succ n ih =>
    obtain ⟨h1, h2⟩ := ih
    obtain ⟨h3, h4⟩ := hF _ n h2
    rw [List.range_succ, List.foldl_append, List.foldl_cons, List.foldl_nil, rankOf_succ, Nat.mod_eq_of_lt (hval n), ← h1]
    exact ⟨h3, h4⟩

/-- The cell of a plane that stands in pair `l` of the row that runs now. -/
def State.pairCell (plane l : Nat) : Nat :=
  elemOf 32 (8 * (f.imm.toNat % 4) + l) (SMap.get (0 : TileRow) s.slice.acc (64 * ((f.a.toNat - 0x48) % 4) + 32 * plane + s.rowOf f)).toNat

/-- A pair as a drain writes it. -/
def State.drainedPair (l : Nat) : Nat :=
  if isNan32 (s.pairCell f 0 l) || isNan32 (s.pairCell f 1 l) then 0x7FC000007FC00000 else s.pairCell f 0 l + s.varIn (s.pairCell f 1 l) * 2 ^ 32

theorem State.drainedPair_lt (l : Nat) : s.drainedPair f l < 2 ^ 64 := by
  unfold State.drainedPair
  split
  · decide
  · exact pair_lt (elemOf_lt _ _ _) (s.varIn_lt (elemOf_lt _ _ _))

theorem State.drainPairs_eq {t : State} {near : List Nat} {l : List (Nat × Dest)} (h : s.SliceStep t near l) :
    (t.drainPairs f).1 = rankOf 64 8 (s.drainedPair f) := by
  have hcell : ∀ plane k, elemAt 32 (8 * (f.imm.toNat % 4) + k) (t.slice.accRow ((f.a.toNat - 0x48) % 4) plane (t.mrow f)).toNat = s.pairCell f plane k := fun plane k => by
    unfold Slice.accRow
    rw [h.slice_acc, h.mrow, elemAt_eq_elemOf]
    rfl
  unfold State.drainPairs
  dsimp only
  refine (foldl_value (w := 64) (val := s.drainedPair f) (Inv := fun u => u.tab = s.tab) (fun acc k hacc => ?_) (s.drainedPair_lt f) ?_ 8).1
  · rw [hcell, hcell, State.variance_eq hacc]
    have hv := ((State.SliceStep.refl acc.2 []).variance (s.pairCell f 1 k) (32 * t.mrow f + 8 * (f.imm.toNat % 4) + k) t.mcyc).tab.trans hacc
    unfold State.drainedPair
    split
    · refine ⟨rfl, ?_⟩
      dsimp only
      split
      · exact ((State.SliceStep.refl _ []).event _ _ _).tab.trans hv
      · exact hv
    · exact ⟨rfl, hv⟩
  · exact (((State.SliceStep.refl t []).sample _ _).sample _ _).tab.trans h.tab

/-! ### MOUT and MBYP -/

/-- Whether the cells of the drained row are integers. -/
def State.drainTag : Bool := if s.cur.row = 0 then s.tagOf ((f.a.toNat - 0x48) % 4) else bitAt s.cur.aux 0

theorem State.takeTag_aux : bitAt (s.takeTag f).cur.aux 0 = s.drainTag f := by
  unfold State.takeTag State.drainTag
  split
  · dsimp only
    cases s.tagOf ((f.a.toNat - 0x48) % 4) <;> rfl
  · rfl

theorem State.mrows_takeTag_aux (i : Instr) : bitAt ((s.takeTag f).mrows f i).cur.aux 0 = s.drainTag f := by
  rw [((s.takeTag f).mrows_readsAs f i).cur]
  exact s.takeTag_aux f

theorem State.drain_row (i : Instr) : (((s.takeTag f).mrows f i).drain f).1 = s.drained f (s.drainTag f) := by
  rw [s.drain_eq f (((State.SliceStep.refl s s.pairNear).takeTag f).mrows f i), s.mrows_takeTag_aux]

/-- The rank of an MOUT. -/
def State.outRank : Nat := if s.mType f = 12 then rankOf 64 8 (s.drainedPair f) else s.drained f (s.drainTag f)

theorem State.mout_runs : Runs (.mout f) s fun t => s.OwesRank t f.dst.toNat (s.cur.X + s.cur.row + 3) (BitVec.ofNat 512 (s.outRank f)) := by
  have h1 := ((State.SliceStep.refl s s.pairNear).takeTag f).mrows f (.mout f)
  let r := if entryType (s.mentry f) = 12 then ((s.takeTag f).mrows f (.mout f)).drainPairs f else ((s.takeTag f).mrows f (.mout f)).drain f
  have he : exec (.mout f) s = .next (r.2.writeRank f.dst.toNat (s.mcyc + 4) (BitVec.ofNat 512 r.1)) := rfl
  have h2 : s.SliceStep r.2 s.pairNear [] ∧ r.1 = s.outRank f := by
    unfold r State.outRank
    by_cases h12 : s.mType f = 12
    · rw [if_pos (show entryType (s.mentry f) = 12 from h12), if_pos h12]
      exact ⟨h1.drainPairs f, s.drainPairs_eq f h1⟩
    · rw [if_neg (show ¬entryType (s.mentry f) = 12 from h12), if_neg h12]
      exact ⟨h1.drain f, s.drain_row f _⟩
  obtain ⟨hstep, hr⟩ := h2
  rw [hr] at he
  exact ⟨_, he, (hstep.writeRank f.dst.toNat (s.mcyc + 4) _).owes⟩

theorem State.mbyp_runs : Runs (.mbyp f) s fun t => ∃ o, t.here.owed = s.here.owed ++ [o]
    ∧ s.cur.owes (s.cur.X + s.cur.row + 1, if f.imm.getLsbD 3 then .byp (s.rowOf f) (BitVec.ofNat 512 (s.drained f (s.drainTag f)))
      else .tile (f.dst.toNat - 0x40) (s.rowOf f) 0 64 (BitVec.ofNat 1024 (s.drained f (s.drainTag f)))) o := by
  have h1 := (((State.SliceStep.refl s s.pairNear).takeTag f).mrows f (.mbyp f)).drain f
  have he : exec (.mbyp f) s = .next (if f.imm.getLsbD 3 then
        (((s.takeTag f).mrows f (.mbyp f)).drain f).2.owe (s.mcyc + 1) (.byp (s.mrow f) (BitVec.ofNat 512 (((s.takeTag f).mrows f (.mbyp f)).drain f).1))
      else (((s.takeTag f).mrows f (.mbyp f)).drain f).2.writeTile (f.dst.toNat - 0x40) (s.mrow f) 0 64 (s.mcyc + 2) (((s.takeTag f).mrows f (.mbyp f)).drain f).1) := rfl
  rw [s.drain_row f] at he
  by_cases hb : f.imm.getLsbD 3 = true
  · rw [if_pos hb] at he
    simp only [hb, if_true]
    exact ⟨_, he, (h1.owe _ _).owes_one⟩
  · rw [if_neg hb] at he
    simp only [hb]
    exact ⟨_, he, (h1.writeTile _ _ _ _ _ _).owes_one⟩

end

/-- Settles O42. -/
theorem tileMoves : Obligations.TileMoves := by
  intro f s c r half src row n whole sparse old
  have hlt := s.drained_lt f (s.drainTag f)
  have hv : (BitVec.ofNat 512 (s.drained f (s.drainTag f))).toNat = s.drained f (s.drainTag f) := (BitVec.toNat_ofNat _ _).trans (Nat.mod_eq_of_lt hlt)
  have hw : (BitVec.ofNat 1024 (s.drained f (s.drainTag f))).toNat = s.drained f (s.drainTag f) :=
    (BitVec.toNat_ofNat _ _).trans (Nat.mod_eq_of_lt (hlt.trans (Nat.pow_lt_pow_right (by decide) (by decide))))
  have hdrains := s.drained_drains f (s.drainTag f)
  refine ⟨s.mfill_runs f, s.mdrn_runs f, ?_, s.mldmd_runs f, s.mzero_runs f, ⟨BitVec.ofNat 512 (s.outRank f), fun h8 => ?_, fun h12 l hl => ?_, s.mout_runs f⟩,
    ⟨_, _, fun _ => by rw [hv]; exact hdrains, hw.trans hv.symm, s.mbyp_runs f⟩⟩
  · obtain ⟨t, he, hbl, hos⟩ := s.mldb_runs f
    exact ⟨t, he, hbl ▸ s.nextB_first f, hbl ▸ s.nextB_later f, fun k => hbl ▸ s.nextB_col f k, hos⟩
  · rw [State.outRank, if_neg (by omega), hv]
    exact hdrains
  · rw [State.outRank, if_pos h12]
    exact (elemOf_toNat_ofNat (by omega : 64 * (l + 1) ≤ 512) _).trans ((elemOf_rankOf _ _ _ _).trans ((if_pos hl).trans (Nat.mod_eq_of_lt (s.drainedPair_lt f l))))

end Sys2Proof.Machine
end
